-- ==== Sys2Proof/Word.lean ====
section
/-!
DEFINITION. The word types of the machine and the sparse map by number that memory and every numbered collection use.
-/
namespace Sys2Proof

/-- One byte. -/
abbrev Byte := BitVec 8

/-- A 64-bit register, address or CSR value (R113). -/
abbrev Word := BitVec 64

/-- The 256 bits of a v register (R113). -/
abbrev VWord := BitVec 256

/-- A sparse map: keys strictly rising, no entry equal to what an unlisted key reads as. -/
abbrev SMap (α : Type) := List (Nat × α)

end Sys2Proof
end

