-- ==== Sys2Proof/Syntax.lean ====
section
/-!
DEFINITION. The instruction set as data: one constructor of `Instr` per row of the opcode table, with typed operands
(02 R25, R26, R30, R31 and the tables of the family chapters).
-/
namespace Sys2Proof

/-- A regspec (R26): a class and an index, `none` (0xE0) or the immediate (0xE1). -/
inductive Reg where
  | x (n : Fin 32)
  | v (n : Fin 32)
  | m (n : Fin 8)
  | p (n : Fin 8)
  | c (n : Fin 8)
  | q (n : Fin 4)
  | i (n : Fin 32)
  | none
  | imm
deriving DecidableEq, Repr

/-- The predicate field of R25 and R28: execute when p[idx] XOR neg is true. -/
structure Pred where
  neg : Bool
  idx : Fin 8
deriving DecidableEq, Repr

/-- The element types of R30, in code order 0-12. -/
inductive ElType where
  | int8 | int16 | int32 | int64 | uint8 | uint16 | uint32 | uint64 | mk8 | fp16 | bf16 | fp32 | fp64
deriving DecidableEq, Repr

/-- The rounding modes of R30 and R59. -/
inductive Rnd where
  | rne | rz | rp | rm
deriving DecidableEq, Repr

/-- The conditions of R31. -/
inductive Cond where
  | eq | ne | lt | ge | ltu | geu
deriving DecidableEq, Repr

/-- The access widths of R31. -/
inductive Width where
  | w8 | w16 | w32 | w64
deriving DecidableEq, Repr

/-- The scopes of R31 and R238. -/
inductive Scope where
  | thread | core | rect | device | domain | bank
deriving DecidableEq, Repr

/-- The overflow rules of R133. -/
inductive Ov where
  | wrap | sats | satu
deriving DecidableEq, Repr

/-- The operations of SAMO and SAMON (R109). -/
inductive SamoOp where
  | add | and | or | xor | min | max | minu | maxu | swap | cas | fadd
deriving DecidableEq, Repr

/-- The operations of the STACK family (R276). -/
inductive StackOp where
  | add | fadd | min | max | and | or | xor
deriving DecidableEq, Repr

/-- The float modifier FC of R232. -/
inductive Fc where
  | none | f32 | f64
deriving DecidableEq, Repr

/-- The operations of BARR (R250). -/
inductive BarrOp where
  | add | fsum | min | max | fmin | fmax
deriving DecidableEq, Repr

/-- MOD of the INT family (R133). -/
structure IntMod where
  h : Bool
  ov : Ov
deriving DecidableEq, Repr

/-- MOD of LEA (R135). -/
structure LeaMod where
  x32 : Bool
  s : Fin 8
deriving DecidableEq, Repr

/-- MOD of CMP and of the compare branches (R138, R143). -/
structure CondMod where
  h : Bool
  cond : Cond
deriving DecidableEq, Repr

/-- MOD of the SPAD family (R105). -/
structure SpadMod where
  w : Width
  sx : Bool
  mask : Fin 8
  zm : Bool
deriving DecidableEq, Repr

/-- MOD of SAMO and SAMON (R109). -/
structure SamoMod where
  w : Width
  op : SamoOp
deriving DecidableEq, Repr

/-- MOD of the GLOBAL family and of MRESOLVE (R232). -/
structure GlobMod where
  w64 : Bool
  fc : Fc
  sx : Bool
  mask : Fin 8
  zm : Bool
deriving DecidableEq, Repr

/-- MOD of BIND, FENCE and MDRAIN (R247, R267). -/
structure ScopeMod where
  scope : Scope
deriving DecidableEq, Repr

/-- MOD of BARR (R250): the operation and the LSB exponent, a signed byte. -/
structure BarrMod where
  op : BarrOp
  l : BitVec 8
deriving DecidableEq, Repr

/-- MOD of SEND (R128): the inbox. -/
structure SendMod where
  inbox : Fin 32
deriving DecidableEq, Repr

/-- MOD of the vector families (R30). -/
structure VecMod where
  type : ElType
  mask : Fin 8
  zm : Bool
  rnd : Rnd
  sat : Bool
deriving DecidableEq, Repr

/-- MOD of MMA, MMV, ACZ, ACLD and ACST (R182, R188). -/
structure MatMod where
  slot : Fin 4
  accf : Bool
deriving DecidableEq, Repr

/-- MOD of MXSTAT (R189). -/
structure ClrMod where
  clr : Bool
deriving DecidableEq, Repr

/-- MOD of TOPKC (R192). -/
structure TopkMod where
  dir : Bool
  mark : Bool
deriving DecidableEq, Repr

/-- MOD of the STACK family (R276). -/
structure StackMod where
  op : StackOp
  w64 : Bool
  mask : Fin 8
deriving DecidableEq, Repr

/-- MOD of BKMAC and BKRD (R287): n1 holds the count minus one. -/
structure BankMod where
  n1 : BitVec 6
  a0 : BitVec 6
deriving DecidableEq, Repr

/-- MOD of CPY2 (R90); the direction is the constructor. -/
structure SwzMod where
  swz : Bool
deriving DecidableEq, Repr

/-- Format G (R25): the predicate, the four regspec fields, MOD in the family's own type and the immediate. -/
structure Fmt (M : Type) where
  pred : Pred
  d : Reg
  a : Reg
  b : Reg
  c : Reg
  mod : M
  imm : BitVec 32
deriving DecidableEq, Repr

/-- A hardware thread of one context of one core (R8, R9, R76). -/
structure ThreadId where
  core : Nat
  ctx : Bool
  thr : Nat
deriving DecidableEq, Repr

/-- What R359 counts error events for. -/
inductive ErrSource where
  | frame (n : Nat)
  | bank (core bank : Nat)
  | port (p : Nat)
  | array (n : Nat)
deriving DecidableEq, Repr

/-- R94: the part of a copy's transfer that falls into one destination block: its place, its bytes, its sources' tags, and
whether it makes the whole block come from one block of the other side, at the same offsets. -/
structure Piece where
  lo : Nat
  bytes : List Byte
  tags : List (BitVec 16)
  whole : Bool
deriving DecidableEq, Repr

/-- What a Kamelm flit carries to this device (R375, R376): a keyed update, the SET of an MRESOLVE, a plain store, a copy
transfer block by block with its tags, or a load of another device, each with the sender's sequence tag; the answer to one
element of a load of this device, or the refusal of an update or a store of it: a fault's cause, or 0 with the element's
bytes and B; or a switch's report whether it reaches a device. -/
inductive Packet where
  | update (src tag pa : Nat) (set : Bool) (value : Int) (region : Nat)
  | resolve (src tag pa : Nat) (value : Int) (region : Nat)
  | store (src tag pa : Nat) (bytes : List Byte)
  | copy (src tag : Nat) (pieces : List Piece)
  | load (src tag pa bytes : Nat)
  | reply (op lane cause : Nat) (bounded : Bool) (value : List Byte)
  | reach (rdev : Nat) (ok : Bool)
deriving DecidableEq, Repr

/-- R368: what an atomic memory operation of a steward core stores of the old value and its operand. -/
inductive HartAmo where
  | swap | add | xor | and | or | min | max | minu | maxu
deriving DecidableEq, Repr

/-- R368: a load of a steward core: its bytes, its register (`x` under its number, `f` under 32 and `v` under 64 + its number) and the
byte of a `v` register that an element goes to, whether it extends the sign, the bytes that it moves pc on by (a vector access moves it
with its last element), and what it stores in the same access, where it is an atomic memory operation. -/
structure HartLoad where
  size : Nat
  rd : Nat
  at_ : Nat
  signed : Bool
  length : Nat
  amo : Option (HartAmo × BitVec 64)
deriving DecidableEq, Repr

/-- What a steward core does at the device (R81, R368-R370): it loads or stores some bytes, runs a `fence ow, ow`, claims an
interrupt, has the controllers write every block of a 2 MiB frame with tag ZERO, programs the NOR flash or the UFS device, or makes an
attestation report over a caller's nonce (R373). The address, the source or the frame stands beside it. And what it does in itself, as
the RISC-V architecture has it (R368): its own instructions leave their results, a CSR is read and perhaps written, an instruction
raises an exception (a page fault and a fault of physical memory protection among them), MRET or SRET returns, the complex's timer or
another core sets or clears a pending bit, and an interrupt is taken. -/
inductive StewardOp where
  | load (l : HartLoad)
  | store (size : Nat) (value : BitVec 64) (length : Nat)
  | fence
  | claim
  | clear
  | program (ufs : Bool) (bytes : List (BitVec 8))
  | attest (nonce : BitVec 384)
  | own (pc : BitVec 64) (x f : List (Nat × BitVec 64)) (v : List (Nat × List (BitVec 8))) (csr : List (Nat × BitVec 64))
  | csr (rd : Nat) (value : Option (BitVec 64))
  | raise (cause : Nat) (tval : BitVec 64)
  | ret (supervisor : Bool)
  | pend (cause : Nat) (on : Bool)
  | interrupt (cause : Nat)
deriving DecidableEq, Repr

/-- One constructor per row of the opcode table: the encoded instructions first (format G of R25, with their
operands already typed), then the events of the device (an agent other than an instruction decoder moves), those that only the outside begins last. -/
inductive Instr where
  /-- NOP (R33). Issues as a group that changes no state. -/
  | nop
  /-- ADD (R134). Scalar add, wrapping or saturating as OV selects. -/
  | add (o : Fmt IntMod)
  /-- SUB (R134). Scalar subtract, wrapping or saturating as OV selects. -/
  | sub (o : Fmt IntMod)
  /-- MUL (R134). Scalar multiply giving the low N bits or a saturated product, latency 3. -/
  | mul (o : Fmt IntMod)
  /-- MULH (R134). High half of the signed 2N-bit product. -/
  | mulh (o : Fmt IntMod)
  /-- MULHU (R134). High half of the unsigned 2N-bit product. -/
  | mulhu (o : Fmt IntMod)
  /-- DIV (R134). Signed division truncated toward zero, with defined results for a zero divisor and for overflow. -/
  | div (o : Fmt IntMod)
  /-- DIVU (R134). Unsigned division, giving all ones for a zero divisor. -/
  | divu (o : Fmt IntMod)
  /-- REM (R134). Signed remainder, taking the sign of the dividend. -/
  | rem (o : Fmt IntMod)
  /-- REMU (R134). Unsigned remainder. -/
  | remu (o : Fmt IntMod)
  /-- AND (R134). Bitwise AND of two scalars. -/
  | and (o : Fmt IntMod)
  /-- OR (R134). Bitwise OR of two scalars. -/
  | or (o : Fmt IntMod)
  /-- XOR (R134). Bitwise XOR of two scalars. -/
  | xor (o : Fmt IntMod)
  /-- SHL (R134). Left shift by the low bits of b. -/
  | shl (o : Fmt IntMod)
  /-- SHR (R134). Logical right shift. -/
  | shr (o : Fmt IntMod)
  /-- SRA (R134). Arithmetic right shift. -/
  | sra (o : Fmt IntMod)
  /-- MIN (R134). Signed minimum. -/
  | min (o : Fmt IntMod)
  /-- MAX (R134). Signed maximum. -/
  | max (o : Fmt IntMod)
  /-- MINU (R134). Unsigned minimum. -/
  | minu (o : Fmt IntMod)
  /-- MAXU (R134). Unsigned maximum. -/
  | maxu (o : Fmt IntMod)
  /-- CLZ (R136). Counts the leading zero bits. -/
  | clz (o : Fmt Bool)
  /-- CTZ (R136). Counts the trailing zero bits. -/
  | ctz (o : Fmt Bool)
  /-- POPC (R136). Counts the one bits. -/
  | popc (o : Fmt Bool)
  /-- BFX (R136). Extracts a bit field, zero- or sign-extended. -/
  | bfx (o : Fmt Bool)
  /-- BFI (R136). Inserts a bit field into a base value. -/
  | bfi (o : Fmt Unit)
  /-- LEA (R136). Forms base plus a scaled index plus a displacement, with no access. -/
  | lea (o : Fmt LeaMod)
  /-- SEL (R136). Selects one of two values by a predicate. -/
  | sel (o : Fmt Unit)
  /-- MOVI (R137). Writes a 64-bit immediate to an x register. -/
  | movi (pred : Pred) (d : Fin 32) (imm : BitVec 64)
  /-- CMP (R139). Compares two scalars under COND into a predicate. -/
  | cmp (o : Fmt CondMod)
  /-- PAND (R138). Predicate AND. -/
  | pand (o : Fmt Unit)
  /-- POR (R138). Predicate OR. -/
  | por (o : Fmt Unit)
  /-- PXOR (R138). Predicate XOR. -/
  | pxor (o : Fmt Unit)
  /-- PNOT (R138). Predicate NOT. -/
  | pnot (o : Fmt Unit)
  /-- PMOV (R138). Copies one predicate into another (FORM 0). -/
  | pmov (o : Fmt Unit)
  /-- PMOV_TOX (R138). Packs p0-p7 into a scalar register (FORM 1). -/
  | pmovTox (o : Fmt Unit)
  /-- PMOV_FROMX (R138). Sets p1-p7 from bits 1-7 of a scalar (FORM 2). -/
  | pmovFromx (o : Fmt Unit)
  /-- BR (R144). Unconditional branch by displacement, with two delay slots. -/
  | br (o : Fmt Unit)
  /-- BRC (R144). Conditional branch whose delay slots always execute. -/
  | brc (o : Fmt CondMod)
  /-- BRCA (R144). Conditional branch that annuls its delay slots when not taken. -/
  | brca (o : Fmt CondMod)
  /-- BRCT (R144). Conditional branch that annuls its delay slots when taken. -/
  | brct (o : Fmt CondMod)
  /-- JMP (R144). Jumps to the PC held in a register. -/
  | jmp (o : Fmt Unit)
  /-- CALL (R144). Calls by displacement and writes the link to x31 (IND 0). -/
  | call (o : Fmt Unit)
  /-- CALL_INDIRECT (R144). Calls through a register target and writes the link to x31 (IND 1). -/
  | callIndirect (o : Fmt Unit)
  /-- ERET (R145). Returns from handler mode, restoring the fetch queue and the saved landing-buffer entries. -/
  | eret (o : Fmt Unit)
  /-- YIELD (R146). Makes the thread not ready for 8 clk. -/
  | yield (o : Fmt Unit)
  /-- WAITT (R146). Parks before issue until CYCLE reaches a value. -/
  | waitt (o : Fmt Unit)
  /-- WFI (R146). Makes the thread not ready until an enabled interrupt is pending. -/
  | wfi (o : Fmt Unit)
  /-- LDS (R106). Scalar scratchpad load. -/
  | lds (o : Fmt SpadMod)
  /-- STS (R106). Scalar scratchpad store. -/
  | sts (o : Fmt SpadMod)
  /-- LDSV (R106). Masked 32-byte vector scratchpad load. -/
  | ldsv (o : Fmt SpadMod)
  /-- STSV (R106). Masked 32-byte vector scratchpad store. -/
  | stsv (o : Fmt SpadMod)
  /-- VGATHS (R106). Gathers scratchpad elements by per-lane indices. -/
  | vgaths (o : Fmt SpadMod)
  /-- VSCATS (R106). Scatters lanes to scratchpad by per-lane indices. -/
  | vscats (o : Fmt SpadMod)
  /-- LDT (R106). Loads a scratchpad block tag. -/
  | ldt (o : Fmt Unit)
  /-- STT (R106). Stores a scratchpad block tag, counting in ACCEPTS a clearing of B. -/
  | stt (o : Fmt Unit)
  /-- SAMO (R109). Scratchpad bank atomic that returns the old value. -/
  | samo (o : Fmt SamoMod)
  /-- SAMON (R109). Scratchpad bank atomic with no result. -/
  | samon (o : Fmt SamoMod)
  /-- LDG (R233). Scalar global load composing the merge levels of its view. -/
  | ldg (o : Fmt GlobMod)
  /-- LDGV (R233). Contiguous vector global load. -/
  | ldgv (o : Fmt GlobMod)
  /-- LDGX (R233). Indexed vector global load. -/
  | ldgx (o : Fmt GlobMod)
  /-- STG (R233). Inserts a SET keyed update, or makes a plain BANK store. -/
  | stg (o : Fmt GlobMod)
  /-- STGV (R233). Inserts SET entries for the contiguous lanes. -/
  | stgv (o : Fmt GlobMod)
  /-- STGX (R233). Inserts SET entries for the indexed lanes. -/
  | stgx (o : Fmt GlobMod)
  /-- CMB (R233). Inserts a COMBINE keyed update. -/
  | cmb (o : Fmt GlobMod)
  /-- CMBV (R233). Inserts COMBINE entries for the contiguous lanes. -/
  | cmbv (o : Fmt GlobMod)
  /-- CMBX (R233). Inserts COMBINE entries for the indexed lanes, in lane order. -/
  | cmbx (o : Fmt GlobMod)
  /-- MDRAIN (R268). Drains L0, and at L2 also L1, to the common level of a scope. -/
  | mdrain (o : Fmt ScopeMod)
  /-- MDRAIN_REGION (R268). Asks every L2 slice to write back the entries of one region. -/
  | mdrainRegion (o : Fmt Unit)
  /-- MRESOLVE (R269). Sends a SET straight to the owning slice, replacing its entry. -/
  | mresolve (o : Fmt GlobMod)
  /-- RGSET (R270). Locks a region, takes a census, and installs its configuration. -/
  | rgset (o : Fmt Unit)
  /-- RGGET (R271). Reads a region configuration into a future. -/
  | rgget (o : Fmt Unit)
  /-- BIND (R242). Binds ranges and a scope to a sync object and sets SEQ to 0. -/
  | bind (o : Fmt ScopeMod)
  /-- ACQ (R244). Parks until the object's SEQ reaches a target. -/
  | acq (o : Fmt Unit)
  /-- REL (R243). Moves the bound entries to the common level and then counts SEQ. -/
  | rel (o : Fmt Unit)
  /-- FENCE (R245). Parks until loads are served, stores are acknowledged and L0 is drained for the scope. -/
  | fence (o : Fmt ScopeMod)
  /-- BFENCE (R246). Parks until the earlier bank commands in the bank word have completed. -/
  | bfence (o : Fmt Unit)
  /-- BAR (R249). Arrives at a barrier and waits for the phase to complete. -/
  | bar (o : Fmt Unit)
  /-- BARA (R249). Arrives at a barrier and returns the phase. -/
  | bara (o : Fmt Unit)
  /-- BARW (R249). Parks until the barrier phase passes a value. -/
  | barw (o : Fmt Unit)
  /-- BARR (R250). Arrives with a payload and resolves to the exact combination of the phase. -/
  | barr (o : Fmt BarrMod)
  /-- FTEST (R123). Tests whether a register is not pending, or is faulted. -/
  | ftest (o : Fmt Bool)
  /-- FCANCEL (R123). Requests cancellation of the operation bound to a register. -/
  | fcancel (o : Fmt Unit)
  /-- FWAIT (R123). Parks until none of up to three registers is pending. -/
  | fwait (o : Fmt Unit)
  /-- FMOVC (R123). Moves a future binding into a core-shared c register. -/
  | fmovc (o : Fmt Unit)
  /-- SEND (R128). Posts a value to an inbox of a core. -/
  | send (o : Fmt SendMod)
  /-- RECV (R128). Parks until an inbox is present and takes its value. -/
  | recv (o : Fmt Unit)
  /-- DQPUSH (R326). Pushes a range word onto the bottom of the core's deque. -/
  | dqpush (o : Fmt Unit)
  /-- DQPOP (R326). Pops the bottom range of the deque. -/
  | dqpop (o : Fmt Unit)
  /-- DQSPLIT (R326). Takes the lower half of the bottom range. -/
  | dqsplit (o : Fmt Unit)
  /-- DQSTEAL (R326). Reserves an entry and starts stealing the upper half of a victim's top range. -/
  | dqsteal (o : Fmt Unit)
  /-- WIDF (R303). Returns one field of the work identifier. -/
  | widf (o : Fmt Unit)
  /-- LVLRECT (R303). Returns the rectangle word of the caller's group at a level. -/
  | lvlrect (o : Fmt Unit)
  /-- LAUNCH (R310). Reads a launch header, fences, and sends the launch to the launch unit. -/
  | launch (o : Fmt Unit)
  /-- TRIG (R310). Fences and counts the thread toward the task's trigger. -/
  | trig (o : Fmt Unit)
  /-- END (R310). Stops fetch, drains the landing buffer, waits for pending work, and retires the thread. -/
  | end_ (o : Fmt Unit)
  /-- TRAP (R348). Issues and then takes trap cause 8, resuming after itself. -/
  | trap (o : Fmt Unit)
  /-- BRK (R348). Issues and then takes breakpoint cause 3. -/
  | brk (o : Fmt Unit)
  /-- CSRR (R129). Reads a CSR. -/
  | csrr (o : Fmt Unit)
  /-- CSRW (R129). Writes a CSR under its field map. -/
  | csrw (o : Fmt Unit)
  /-- CSRX (R129). Reads and writes a CSR in one step. -/
  | csrx (o : Fmt Unit)
  /-- FENCEI (R349). Fences, invalidates the instruction caches, and refetches the queue. -/
  | fencei (o : Fmt Unit)
  /-- VADD (R161). Lane-wise add. -/
  | vadd (o : Fmt VecMod)
  /-- VSUB (R161). Lane-wise subtract. -/
  | vsub (o : Fmt VecMod)
  /-- VMUL (R161). Lane-wise multiply. -/
  | vmul (o : Fmt VecMod)
  /-- VFMA (R161). Lane-wise fused multiply-add. -/
  | vfma (o : Fmt VecMod)
  /-- VFMS (R161). Lane-wise fused multiply-subtract. -/
  | vfms (o : Fmt VecMod)
  /-- VMIN (R161). Lane-wise minimum. -/
  | vmin (o : Fmt VecMod)
  /-- VMAX (R161). Lane-wise maximum. -/
  | vmax (o : Fmt VecMod)
  /-- VABS (R161). Lane-wise absolute value. -/
  | vabs (o : Fmt VecMod)
  /-- VNEG (R161). Lane-wise negation. -/
  | vneg (o : Fmt VecMod)
  /-- VDIV (R158). Lane-wise floating division, latency 16. -/
  | vdiv (o : Fmt VecMod)
  /-- VSQRT (R158). Lane-wise floating square root, latency 16. -/
  | vsqrt (o : Fmt VecMod)
  /-- VAND (R162). Lane-wise bitwise AND. -/
  | vand (o : Fmt VecMod)
  /-- VOR (R162). Lane-wise bitwise OR. -/
  | vor (o : Fmt VecMod)
  /-- VXOR (R162). Lane-wise bitwise XOR. -/
  | vxor (o : Fmt VecMod)
  /-- VSHL (R162). Lane-wise left shift. -/
  | vshl (o : Fmt VecMod)
  /-- VSHR (R162). Lane-wise logical right shift. -/
  | vshr (o : Fmt VecMod)
  /-- VSRA (R162). Lane-wise arithmetic right shift. -/
  | vsra (o : Fmt VecMod)
  /-- VCVT (R164). Converts lanes between formats under a power-of-two scale. -/
  | vcvt (o : Fmt VecMod)
  /-- VCMP (R165). Compares lanes into a mask register. -/
  | vcmp (o : Fmt VecMod)
  /-- VSEL (R166). Chooses each lane from one of two sources by mask. -/
  | vsel (o : Fmt VecMod)
  /-- VBCAST (R168). Broadcasts a scalar to the active lanes. -/
  | vbcast (o : Fmt VecMod)
  /-- VEXT (R168). Extracts one lane into a scalar. -/
  | vext (o : Fmt VecMod)
  /-- VINS (R168). Inserts a scalar into one lane. -/
  | vins (o : Fmt VecMod)
  /-- VPERM (R168). Permutes lanes by per-lane indices. -/
  | vperm (o : Fmt VecMod)
  /-- VSLIDE (R168). Slides lanes by s, filling from a second register or zero. -/
  | vslide (o : Fmt VecMod)
  /-- VIOTA (R168). Writes the rank of each active lane. -/
  | viota (o : Fmt VecMod)
  /-- VSORTKV (R169). Stably sorts the active key lanes and carries the values along. -/
  | vsortkv (o : Fmt VecMod)
  /-- VREDADD (R171). Sums the lanes by a fixed tree. -/
  | vredadd (o : Fmt VecMod)
  /-- VREDMIN (R171). Minimum of the lanes by a fixed tree. -/
  | vredmin (o : Fmt VecMod)
  /-- VREDMAX (R171). Maximum of the lanes by a fixed tree. -/
  | vredmax (o : Fmt VecMod)
  /-- VPOPM (R170). Counts the lanes set in a mask. -/
  | vpopm (o : Fmt VecMod)
  /-- MAND (R172). Mask AND. -/
  | mand (o : Fmt VecMod)
  /-- MOR (R172). Mask OR. -/
  | mor (o : Fmt VecMod)
  /-- MXOR (R172). Mask XOR. -/
  | mxor (o : Fmt VecMod)
  /-- MNOT (R172). Mask NOT. -/
  | mnot (o : Fmt VecMod)
  /-- MFIRST (R172). Finds the first lane set in a mask, or -1. -/
  | mfirst (o : Fmt VecMod)
  /-- MMA (R183). Queues a synchronous scratchpad-tile matrix multiply-accumulate into an accumulator slot. -/
  | mma (o : Fmt MatMod)
  /-- MMV (R187). Queues an asynchronous batch multiply by weights streamed through a handle. -/
  | mmv (o : Fmt MatMod)
  /-- ACZ (R188). Zeros an accumulator slot. -/
  | acz (o : Fmt MatMod)
  /-- ACLD (R188). Loads a tile into an accumulator slot. -/
  | acld (o : Fmt MatMod)
  /-- ACST (R188). Stores an accumulator slot to a scratchpad tile. -/
  | acst (o : Fmt MatMod)
  /-- MXSEED (R189). Seeds the 128 column generators. -/
  | mxseed (o : Fmt Unit)
  /-- MXSTAT (R189). Reads a counter set, and optionally clears it. -/
  | mxstat (o : Fmt ClrMod)
  /-- MXTHR (R189). Sets the matrix counter thresholds. -/
  | mxthr (o : Fmt Unit)
  /-- TOPKC (R196). Queues a per-column top-K selection of a scratchpad tile. -/
  | topkc (o : Fmt TopkMod)
  /-- XBMV (R210). Queues a Pewter product whose FP32 outputs are bounded. -/
  | xbmv (o : Fmt Unit)
  /-- XBPROG (R211). Queues the programming of Pewter weight rows by write-verify. -/
  | xbprog (o : Fmt Unit)
  /-- XBVER (R212). Queues a read-back of Pewter weights. -/
  | xbver (o : Fmt Unit)
  /-- XBCAL (R213). Queues a calibration of an array. -/
  | xbcal (o : Fmt Unit)
  /-- XBRD (R214). Queues a read of the calibration state block. -/
  | xbrd (o : Fmt Unit)
  /-- XBWR (R214). Queues a write of the column scales, and with ALL of gains, offsets and TCAL. -/
  | xbwr (o : Fmt Bool)
  /-- ACPT (R219). Clears the B bit of a value and counts it in ACCEPTS. -/
  | acpt (o : Fmt Unit)
  /-- BTEST (R219). Copies the B bit of a register into a predicate. -/
  | btest (o : Fmt Unit)
  /-- NAMO (R277). Sends a scalar stack atomic to the pseudo-channel's SAU. -/
  | namo (o : Fmt StackMod)
  /-- NAMOV (R277). Sends a masked 32-byte vector stack atomic. -/
  | namov (o : Fmt StackMod)
  /-- NAMOR (R277). Sends a stack atomic that returns the old value. -/
  | namor (o : Fmt StackMod)
  /-- BKMODE_ON (R289). Requests all-bank mode for a SID and clears the bank registers. -/
  | bkmodeOn (o : Fmt Unit)
  /-- BKMODE_OFF (R289). Releases all-bank mode. -/
  | bkmodeOff (o : Fmt Unit)
  /-- BKLDR (R290). Loads 512 bytes of scratchpad into the 16 bank XREGs. -/
  | bkldr (o : Fmt Unit)
  /-- BKMAC (R291). Walks n columns of a row, multiply-accumulating in every bank. -/
  | bkmac (o : Fmt BankMod)
  /-- BKRD (R292). Reads bank accumulators into scratchpad. -/
  | bkrd (o : Fmt BankMod)
  /-- CPY_IN (R92). Starts a linear copy from handle memory to scratchpad (DIR 0). -/
  | cpyIn (o : Fmt Unit)
  /-- CPY_OUT (R92). Starts a linear copy from scratchpad to handle memory (DIR 1). -/
  | cpyOut (o : Fmt Unit)
  /-- CPY2_IN (R92). Starts a 2-D copy into scratchpad, optionally swizzled. -/
  | cpy2In (o : Fmt SwzMod)
  /-- CPY2_OUT (R92). Starts a 2-D copy out of scratchpad. -/
  | cpy2Out (o : Fmt SwzMod)
  /-- CPYG (R92). Starts a row gather into scratchpad by an index list. -/
  | cpyg (o : Fmt Unit)
  /-- CPYS (R92). Starts a row scatter from scratchpad by an index list. -/
  | cpys (o : Fmt Unit)
  /-- CPYR (R92). Starts a multicast copy between scratchpads of the cluster. -/
  | cpyr (o : Fmt Unit)
  /-- GQW (R334). Sends a gradient tile to a cox core's queue. -/
  | gqw (o : Fmt Bool)
  /-- GQR (R335). Takes a tile from a gradient queue into scratchpad. -/
  | gqr (o : Fmt Bool)
  /-- OUPD (R339). Applies a clipped Adam-style update to one weight block and its moments. -/
  | oupd (o : Fmt Bool)
  /-- LANDING (R116). A fixed-latency result lands from the landing buffer when its group count runs out. -/
  | landing
  /-- EMPTY_GROUP (R117). The thread issues an empty group while the landing buffer is full or being drained. -/
  | emptyGroup
  /-- ANNULLED_GROUP (R141). An annulled queue entry issues as an empty group. -/
  | annulledGroup
  /-- LINE_FETCH (R140). A fetched line arrives and provisional queue entries are recomputed. -/
  | lineFetch (t : ThreadId) (va : Nat)
  /-- PAGE_WALK_END (R80). A page walk ends and the parked access issues again. -/
  | pageWalkEnd (t : ThreadId)
  /-- INTERRUPT_ENTRY (R150). A pending interrupt is taken at an honoured stop. -/
  | interruptEntry (code : Nat)
  /-- STOP_SPACING_FAULT (R148). The stop count reaches STOPMAX and cause 25 is taken. -/
  | stopSpacingFault
  /-- MATRIX_THRESHOLD_TRAP (R185). A due counter-crossing trap, cause 31, is taken before the next group. -/
  | matrixThresholdTrap
  /-- YIELD_EXPIRE (R146). The 8 clk of a YIELD end and the thread becomes ready. -/
  | yieldExpire (t : ThreadId)
  /-- BREAKPOINT_MATCH (R381). A group in Q[0] matches a debug breakpoint, halting the core or requesting interrupt 11. -/
  | breakpointMatch (bp : Nat)
  /-- COPY_TRANSFER (R87). The copy engine performs one transfer of up to 256 bytes after checking the handle's V. -/
  | copyTransfer (op : Nat)
  /-- COPY_RESOLVE (R96). A copy's future resolves with its status once every byte has been written. -/
  | copyResolve (op : Nat)
  /-- LOAD_SERVE (R229). The owning slice, or a run level, decides a global load and resolves its register. -/
  | loadServe (op : Nat)
  /-- L0_MERGE_COMMIT (R261). An L0 merge folds its 16 entries into L1 at one commit point. -/
  | l0MergeCommit (core : Nat) (ctx : Bool)
  /-- L1_MOVE (R261). The cluster puts an L1 entry on its path toward the owning L2 slice. -/
  | l1Move (cluster : Nat) (key : Nat) (ctx : Bool)
  /-- L2_FOLD (R260). A slice takes a moved entry off the path and folds it into L2. -/
  | l2Fold (path : Nat) (slice : Nat)
  /-- WRITE_BACK (R259). An L2 slice writes an entry back to DRAM. -/
  | writeBack (key : Nat)
  /-- WRITE_BACK_COMMIT (R261). A write-back's DRAM write completes at its commit point. -/
  | writeBackCommit (key : Nat)
  /-- REL_COUNT (R243). A release's moves have committed and SEQ is counted. -/
  | relCount (op : Nat)
  /-- MDRAIN_COMPLETE (R268). A drain's moves, or a region drain's write-backs, have committed and xd resolves. -/
  | mdrainComplete (op : Nat)
  /-- REGION_CENSUS (R270). The census of a locked region ends and RGSET installs or faults. -/
  | regionCensus (t : ThreadId)
  /-- RGGET_RESOLVE (R271). RGGET's register resolves to the region record. -/
  | rggetResolve (op : Nat)
  /-- BARRIER_ARRIVE (R249). After its fence, an arrival counts at the barrier object. -/
  | barrierArrive (t : ThreadId)
  /-- BARRIER_AGE_RECORD (R251). An open phase reaches AGE and one record goes to the replayable lane. -/
  | barrierAgeRecord (obj : Nat)
  /-- DOMAIN_BARRIER_REPORT (R377). A device's arrivals combine up the domain tree to its parent. -/
  | domainBarrierReport (id : Nat) (arrivals : Nat) (reduce : Option (BarrOp × BitVec 8)) (payloads : List Word)
  /-- DOMAIN_BARRIER_COMPLETE (R377). A completed domain phase is sent back down the tree. -/
  | domainBarrierComplete (id : Nat) (payloads : List Word)
  /-- MATRIX_DISPATCH (R175). The matrix unit starts the next head operation round-robin and performs it whole. -/
  | matrixDispatch (quad : Nat)
  /-- MATRIX_OP_DONE (R174). A matrix operation ends, returning its thread or resolving its future. -/
  | matrixOpDone (quad : Nat)
  /-- STREAM_BUFFER_FILL (R187). An MMV's weights finish filling the stream buffer. -/
  | streamBufferFill (op : Nat)
  /-- ARRAY_COMMAND_START (R200). A Pewter array starts the next queued command, reading source tags and temperature. -/
  | arrayCommandStart (arr : Nat)
  /-- ARRAY_COMMAND_DONE (R210). A Pewter command completes and its future resolves. -/
  | arrayCommandDone (arr : Nat)
  /-- ROW_PROGRAM (R211). One weight row finishes write-verify and its counts advance. -/
  | rowProgram (arr : Nat)
  /-- STACK_COMMAND_PERFORM (R277). An SAU performs a queued stack atomic indivisibly. -/
  | stackCommandPerform (op : Nat)
  /-- NAMOR_RESOLVE (R277). NAMOR's old value resolves into its register. -/
  | namorResolve (op : Nat)
  /-- BANK_COMMAND_PERFORM (R286). The SAU performs a queued BANK command across the 16 banks. -/
  | bankCommandPerform (op : Nat)
  /-- BANK_ACCESS_PERFORM (R235). The controller performs a plain access to a BANK page. -/
  | bankAccessPerform (op : Nat)
  /-- REFRESH (R294). The controller refreshes a bank when its refresh interval expires, or postpones it in all-bank mode. -/
  | refresh (pch : Nat) (bank : Nat)
  /-- TLBINV_DONE (R84). The invalidation ends and BUSY clears. -/
  | tlbinvDone
  /-- HREVOKE_DONE (R86). Every engine has seen the cleared V and BUSY clears. -/
  | hrevokeDone
  /-- LAUNCH_READ (R307). The launch unit reads and checks a header and queues the task or ends the launch. -/
  | launchRead (task : Nat)
  /-- PLACEMENT_EVALUATE (R318). The launch unit evaluates the queue heads and places ready tasks. -/
  | placementEvaluate (part : Nat)
  /-- TASK_RETIRE (R311). After drains, a task retires, releases dependants and frees its cores. -/
  | taskRetire (task : Nat)
  /-- CHECKSUM (R385). At retirement the engine computes CRC-64 over the declared outputs and writes checksum records. -/
  | checksum (task : Nat)
  /-- MESSAGE_ARRIVE (R127). A message reaches a core's interface and is written, waits, spills or is dropped. -/
  | messageArrive (op : Nat)
  /-- SEND_ACK (R128). The destination acknowledges a SEND to its sender. -/
  | sendAck (op : Nat)
  /-- STEAL_PROBE (R326). A steal is performed at a victim's deque unit. -/
  | stealProbe (op : Nat)
  /-- TILE_ARRIVE (R334). A gradient tile reaches its queue and the GQW future resolves. -/
  | tileArrive (op : Nat)
  /-- TILE_MATCH (R335). A queued tile is matched to a GQR and written to scratchpad. -/
  | tileMatch (op : Nat)
  /-- SWAP_EXCHANGE (R362). Once the halt ends, the contexts are exchanged through shadow storage. -/
  | swapExchange (part : Nat)
  /-- BKCTX_COMPLETE (R295). A save, restore or discard ends and BUSY clears. -/
  | bkctxComplete (pch : Nat)
  /-- LANE_RECORD (R355). A lane accepts or drops a 64-byte record and advances TAIL. -/
  | laneRecord (part : Nat) (ctx : Bool) (fatal : Bool) (record : BitVec 512)
  /-- TRACE_FUNNEL_WRITE (R383). The funnel writes one trace message to the ring. -/
  | traceFunnelWrite (cluster : Nat)
  /-- TRACE_TIMESTAMP (R383). The timestamp interval expires and a kind-5 message is emitted. -/
  | traceTimestamp (core : Nat)
  /-- TRACE_LOSS (R383). Space returns to an encoder and it emits a loss message. -/
  | traceLoss (core : Nat)
  /-- REMOTE_ACK (R375). The owning device acknowledges a committed remote update. -/
  | remoteAck (op : Nat)
  /-- FLAG_RESEND (R376). A flag unacknowledged for 20 µs is re-sent on another port. -/
  | flagResend (op : Nat) (dev : Nat)
  /-- CYCLE_COMPARE_MATCH (R147). CYCLE reaches CYCCMP, so interrupt 5 becomes pending and a thread waiting in WFI becomes ready. -/
  | cycleCompareMatch (t : ThreadId)
  /-- MEXT_COMPLETE (R373). A measurement extension finishes, MEAS[K] holds the new digest and MEXTSTAT.BUSY clears. -/
  | mextComplete
  /-- UNASSIGNED_ENCODING (R35). A group whose word has an unassigned OPC or FN, or a malformed field, reaches Q[0] and faults with cause 2. -/
  | unassignedEncoding (pc : Word)
  /-- INSTRUCTION_FETCH_FAULT (R79). A group of a line whose fetch failed (access fault, page fault or POISON) reaches Q[0], and the trap with cause 1, 12 or 29 is taken. -/
  | instructionFetchFault (cause : Nat) (va : Word)
  /-- PATROL_SCRUB (R82). The patrol scrub reads and corrects ECC across a stack. -/
  | patrolScrub (block : Nat) (uncorrectable : Bool) (syndrome : Word)
  /-- ERROR_EVENT_LOG (R359). Firmware counts an error event and judges whether a fault is lasting. -/
  | errorEventLog (source : ErrSource) (time : Nat)
  /-- ERROR_EVENT_EXPIRE (R359). An error event leaves its counting window. -/
  | errorEventExpire (source : ErrSource) (time : Nat)
  /-- FRAME_RETIRE (R83). Firmware copies a frame with a lasting fault and remaps it. -/
  | frameRetire (frame : Nat) (pages : List Nat)
  /-- MEMCFG_WRITE (R72). A write to MEMCFG sets LINFRAMES and LOCK. -/
  | memcfgWrite (value : Word)
  /-- TLBINV (R84). A write to TLBINV starts an invalidation. -/
  | tlbinv (value : Word)
  /-- HREVOKE (R86). A write to HREVOKE starts a handle revocation. -/
  | hrevoke (value : Word)
  /-- REGCFG_WRITE (R266). The steward writes a region configuration under the census. -/
  | regcfgWrite (id : Nat) (record : BitVec 128)
  /-- BARAGE_WRITE (R251). A write to BARAGE changes the age limit of every open phase. -/
  | barageWrite (value : Word)
  /-- PARTCFG_WRITE (R315). A write to PARTCFG defines or changes a partition, or is refused. -/
  | partcfgWrite (part : Nat) (value : Word)
  /-- LPORT_WRITE (R317). A steward write to LPORT starts one launch. -/
  | lportWrite (part : Nat) (ctx : Bool) (value : Word)
  /-- SWAP_GO (R360). GO to SWAPCTL starts a swap by halting the resident context. -/
  | swapGo (part : Nat)
  /-- PREEMPT (R366). A write to PREEMPT sets PRQ in the named threads. -/
  | preempt (value : Word)
  /-- DOORBELL (R344). A steward doorbell write sets DBVAL and DB or DBO. -/
  | doorbell (core : Nat) (thr : Nat) (value : Word)
  /-- BKCTX_SAVE (R295). Base-die firmware saves a pseudo-channel's bank state and queue. -/
  | bkctxSave (pch : Nat) (area : Word)
  /-- BKCTX_RESTORE (R295). Base-die firmware checks and restores a saved bank state. -/
  | bkctxRestore (pch : Nat) (area : Word)
  /-- BKCTX_DISCARD (R295). The mode turns off and the saved commands are dropped. -/
  | bkctxDiscard (pch : Nat)
  /-- DBGCTL_HALT (R380). HALT requests a hard halt of the core. -/
  | dbgctlHalt (core : Nat)
  /-- DBGCTL_SOFT (R379). SOFT sets IPEND.DBG of the named threads. -/
  | dbgctlSoft (core : Nat) (threads : BitVec 8)
  /-- DBGCTL_RESUME (R380). RESUME ends a hard halt and clears IPEND.DBG. -/
  | dbgctlResume (core : Nat)
  /-- DBGVAL_WRITE (R380). A write to DBGVAL sets a halted thread's register. -/
  | dbgvalWrite (core : Nat) (value : Word)
  /-- MEXT_EXTEND (R373). A write to MEXTGO extends a measurement register. -/
  | mextExtend (k : Word)
  /-- DOMID_WRITE (R374). A write to DOMID sets the device number, size and LOCK. -/
  | domidWrite (value : Word)
  /-- KLSTAT_WRITE (R374). A write of EN takes a Kamelm port down or up. -/
  | klstatWrite (port : Nat) (value : Word)
  /-- FLIT_RECEIVE (R374). A port receives a flit, retrying it on a CRC failure. -/
  | flitReceive (port : Nat) (crcOk : Bool) (packet : Packet)
  /-- FLAG_RECEIVE (R376). A release flag arrives and counts SEQ if its number is new. -/
  | flagReceive (dev : Nat) (core : Nat) (thr : Nat) (seq : BitVec 32) (obj : Nat)
  /-- TIME_BEAT (R378). A time beat arrives and CYCLE is corrected toward device 0. -/
  | timeBeat (time : Word)
  /-- TLOCK_LOSS (R378). No beat for 10 ms clears TLOCK. -/
  | tlockLoss
  /-- THERMAL_HOT (R390). A die reaches 100 °C, setting HOT and writing a record. -/
  | thermalHot (die : Nat) (code : BitVec 16)
  /-- THERMAL_TRIP (R390). A die reaches 110 °C and the module drops its rails. -/
  | thermalTrip
  /-- POWER_UP (R388). The rails rise in order and module reset releases into boot. -/
  | powerUp
  /-- RAIL_FAIL (R388). A rail leaves regulation and every rail drops in reverse order. -/
  | railFail
  /-- REGISTER_WRITE (R368). A steward write to an MMIO register that has no row of its own. -/
  | registerWrite (pa : Nat) (value : Word)
  /-- STEWARD_ACCESS (R368). A steward core loads from or stores to HBM, bypassing L0 and L1: a MERGE store commits at the owning slice, and a load can return an error response. -/
  | stewardAccess (hart : Nat) (place : Nat) (op : StewardOp)
  /-- PORT_DOWN (R375). A Kamelm port loses its link and stops being UP, and its unacknowledged packets are re-sent on the other ports. -/
  | portDown (port : Nat)
  /-- TASK_REMOVE (R357). The steward ends or removes a task, for example one stopped by a double trap, and its LAUNCH future resolves CANCELLED. -/
  | taskRemove (task : Nat)
deriving DecidableEq, Repr

end Sys2Proof
end

