-- ==== Sys2Proof/WellFormed.lean ====
section
/-!
DEFINITION. The encoding checks that an instruction passes before it may execute (02 R26-R31, R35 and the field tables of
the family chapters). What fails one of them faults with cause 2.
-/
namespace Sys2Proof

/-- The integer types 0-7 of R30. -/
def ElType.isInteger : ElType → Bool
  | .int8 | .int16 | .int32 | .int64 | .uint8 | .uint16 | .uint32 | .uint64 => true
  | _ => false

/-- The floating types 8-12 of R157. -/
def ElType.isFloat (t : ElType) : Bool := !t.isInteger

/-- The types VSORTKV accepts (R167). -/
def ElType.sortable : ElType → Bool
  | .int16 | .int32 | .uint16 | .uint32 | .fp16 | .bf16 | .fp32 => true
  | _ => false

/-- Element width in bytes (R155). -/
def ElType.bytes : ElType → Nat
  | .int8 | .uint8 | .mk8 => 1
  | .int16 | .uint16 | .fp16 | .bf16 => 2
  | .int32 | .uint32 | .fp32 => 4
  | .int64 | .uint64 | .fp64 => 8

/-- Codes of R30. -/
def ElType.code : ElType → Nat
  | .int8 => 0 | .int16 => 1 | .int32 => 2 | .int64 => 3 | .uint8 => 4 | .uint16 => 5 | .uint32 => 6 | .uint64 => 7
  | .mk8 => 8 | .fp16 => 9 | .bf16 => 10 | .fp32 => 11 | .fp64 => 12

/-- The type of a code; 13-15 have none (R30). -/
def ElType.ofCode : Nat → Option ElType
  | 0 => some .int8 | 1 => some .int16 | 2 => some .int32 | 3 => some .int64 | 4 => some .uint8 | 5 => some .uint16
  | 6 => some .uint32 | 7 => some .uint64 | 8 => some .mk8 | 9 => some .fp16 | 10 => some .bf16 | 11 => some .fp32
  | 12 => some .fp64 | _ => none

/-- An unused field: 0x00, which reads as x0 (R26). -/
def isZero (r : Reg) : Bool := r == .x 0
def isX : Reg → Bool | .x _ => true | _ => false
/-- x1-x31: the future register of an engine instruction. -/
def isX1 : Reg → Bool | .x n => n != 0 | _ => false
def isV : Reg → Bool | .v _ => true | _ => false
def isVEven : Reg → Bool | .v n => n.val % 2 == 0 | _ => false
def isM : Reg → Bool | .m _ => true | _ => false
def isP : Reg → Bool | .p _ => true | _ => false
def isC : Reg → Bool | .c _ => true | _ => false
def isI : Reg → Bool | .i _ => true | _ => false
def isXC : Reg → Bool | .x _ => true | .c _ => true | _ => false
def isXV : Reg → Bool | .x _ => true | .v _ => true | _ => false
def isXVC : Reg → Bool | .x _ => true | .v _ => true | .c _ => true | _ => false
def isXImm : Reg → Bool | .x _ => true | .imm => true | _ => false
def isXCImm : Reg → Bool | .x _ => true | .c _ => true | .imm => true | _ => false
def isXCImmNone : Reg → Bool | .x _ => true | .c _ => true | .imm => true | .none => true | _ => false
/-- x, c or q: an INT, BIT or PRED register field that takes no immediate (R114, R131). -/
def isInt4 : Reg → Bool | .x _ => true | .c _ => true | .q _ => true | _ => false
/-- A source field of R131: x, c, q or IMM. -/
def isSrc : Reg → Bool | .x _ => true | .c _ => true | .q _ => true | .imm => true | _ => false
def isPImm : Reg → Bool | .p _ => true | .imm => true | _ => false
def isVImm : Reg → Bool | .v _ => true | .imm => true | _ => false
def isVNone : Reg → Bool | .v _ => true | .none => true | _ => false
def isMImm : Reg → Bool | .m _ => true | .imm => true | _ => false

/-- ACPT's A is of the same class as its D (R219). -/
def sameClass : Reg → Reg → Bool
  | .x _, .x _ => true
  | .v _, .v _ => true
  | _, _ => false

/-- The class checks of the four regspec fields (R26). -/
def regsOk {M : Type} (d a b c : Reg → Bool) (o : Fmt M) : Bool := d o.d && a o.a && b o.b && c o.c

/-- IMM is zero unless a source names it (R131, R35). -/
def immNamed {M : Type} (o : Fmt M) : Bool := o.imm == 0 || o.a == .imm || o.b == .imm || o.c == .imm

/-- W = 2 or 3 (R105, R109). -/
def wideWidth : Width → Bool
  | .w32 => true
  | .w64 => true
  | _ => false

/-- The ratio of the two widths of a VCVT (R163). -/
def cvtRatio (a b : ElType) : Nat := max a.bytes b.bytes / min a.bytes b.bytes

/-- VCVT's control in IMM (R163). -/
def cvtImmOk (dt : ElType) (imm : BitVec 32) : Bool :=
  let n := imm.toNat
  match ElType.ofCode (n % 16) with
  | none => false
  | some st => n / 16 % 16 == 0 && n / 524288 == 0 && decide (n / 65536 % 8 < cvtRatio dt st)

/-- VSLIDE's amount: -n to n for n lanes (R167). -/
def slideImmOk (t : ElType) (imm : BitVec 32) : Bool :=
  let n : Int := (32 / t.bytes : Nat)
  decide (-n ≤ imm.toInt) && decide (imm.toInt ≤ n)

/-- ACLD and ACST use no K (R188). -/
def accImmOk (imm : BitVec 32) : Bool := decide (imm.toNat / 32768 % 1024 = 0)
/-- TOPKC uses no bit above K (R192). -/
def topkImmOk (imm : BitVec 32) : Bool := decide (imm.toNat / 2 ^ 26 = 0)

/-- The XBAR family uses no bit above ROW0 (R207); its ROW0 and N are judged behind cause 26 (R208). -/
def xbImmOk (imm : BitVec 32) : Bool := decide (imm.toNat / 2 ^ 19 = 0)

/-- The encoding checks of R26, R27, R30, R31, R35 and of each instruction's own table, on typed operands. Where the tables of R167
and R170 list only v for a source, IMM is refused there (log 105, DEDUCED). SLOT 2 or 3 with ACCF 0 is an unassigned MOD value
(R35), judged here, and the IMM fields of R182 are judged behind cause 26 (log 52, DEDUCED). An event has no encoding, so nothing
in it can be ill-formed. -/
def WellFormed : Instr → Bool
  | .nop => true
  | .movi _ _ _ => true
  | .add o => regsOk isInt4 isSrc isSrc isZero o && immNamed o
  | .sub o => regsOk isInt4 isSrc isSrc isZero o && immNamed o
  | .mul o => regsOk isInt4 isSrc isSrc isZero o && immNamed o
  | .mulh o => regsOk isInt4 isSrc isSrc isZero o && immNamed o && o.mod.ov == .wrap
  | .mulhu o => regsOk isInt4 isSrc isSrc isZero o && immNamed o && o.mod.ov == .wrap
  | .div o => regsOk isInt4 isSrc isSrc isZero o && immNamed o && o.mod.ov == .wrap
  | .divu o => regsOk isInt4 isSrc isSrc isZero o && immNamed o && o.mod.ov == .wrap
  | .rem o => regsOk isInt4 isSrc isSrc isZero o && immNamed o && o.mod.ov == .wrap
  | .remu o => regsOk isInt4 isSrc isSrc isZero o && immNamed o && o.mod.ov == .wrap
  | .and o => regsOk isInt4 isSrc isSrc isZero o && immNamed o && o.mod.ov == .wrap
  | .or o => regsOk isInt4 isSrc isSrc isZero o && immNamed o && o.mod.ov == .wrap
  | .xor o => regsOk isInt4 isSrc isSrc isZero o && immNamed o && o.mod.ov == .wrap
  | .shl o => regsOk isInt4 isSrc isSrc isZero o && immNamed o && o.mod.ov == .wrap
  | .shr o => regsOk isInt4 isSrc isSrc isZero o && immNamed o && o.mod.ov == .wrap
  | .sra o => regsOk isInt4 isSrc isSrc isZero o && immNamed o && o.mod.ov == .wrap
  | .min o => regsOk isInt4 isSrc isSrc isZero o && immNamed o && o.mod.ov == .wrap
  | .max o => regsOk isInt4 isSrc isSrc isZero o && immNamed o && o.mod.ov == .wrap
  | .minu o => regsOk isInt4 isSrc isSrc isZero o && immNamed o && o.mod.ov == .wrap
  | .maxu o => regsOk isInt4 isSrc isSrc isZero o && immNamed o && o.mod.ov == .wrap
  | .clz o => regsOk isInt4 isSrc isZero isZero o && immNamed o
  | .ctz o => regsOk isInt4 isSrc isZero isZero o && immNamed o
  | .popc o => regsOk isInt4 isSrc isZero isZero o && immNamed o
  | .bfx o => regsOk isInt4 isSrc isSrc isZero o && immNamed o
  | .bfi o => regsOk isInt4 isSrc isSrc isSrc o && immNamed o
  | .lea o => regsOk isInt4 isInt4 isInt4 isZero o
  | .sel o => regsOk isInt4 isP isSrc isSrc o && immNamed o
  | .cmp o => regsOk isP isSrc isSrc isZero o && immNamed o
  | .pand o => regsOk isP isPImm isPImm isZero o && immNamed o
  | .por o => regsOk isP isPImm isPImm isZero o && immNamed o
  | .pxor o => regsOk isP isPImm isPImm isZero o && immNamed o
  | .pnot o => regsOk isP isPImm isZero isZero o && immNamed o
  | .pmov o => regsOk isP isPImm isZero isZero o && immNamed o
  | .pmovTox o => regsOk isXC isZero isZero isZero o && o.imm == 0
  | .pmovFromx o => regsOk isZero isInt4 isZero isZero o && o.imm == 0
  | .br o => regsOk isZero isZero isZero isZero o
  | .brc o => regsOk isZero isXC isXC isZero o
  | .brca o => regsOk isZero isXC isXC isZero o
  | .brct o => regsOk isZero isXC isXC isZero o
  | .jmp o => regsOk isZero isXC isZero isZero o && o.imm == 0
  | .call o => regsOk isZero isZero isZero isZero o
  | .callIndirect o => regsOk isZero isXC isZero isZero o && o.imm == 0
  | .eret o => regsOk isZero isZero isZero isZero o && o.imm == 0
  | .yield o => regsOk isZero isZero isZero isZero o && o.imm == 0
  | .waitt o => regsOk isZero isXCImm isZero isZero o && immNamed o
  | .wfi o => regsOk isZero isZero isZero isZero o && o.imm == 0
  | .lds o => regsOk isX isX isX isZero o && o.mod.mask == 0 && !o.mod.zm
  | .sts o => regsOk isZero isX isX isX o && o.mod.mask == 0 && !o.mod.zm && !o.mod.sx
  | .ldsv o => regsOk isV isX isX isZero o && o.mod.w == .w8 && !o.mod.sx
  | .stsv o => regsOk isZero isX isX isV o && o.mod.w == .w8 && !o.mod.sx && !o.mod.zm
  | .vgaths o => regsOk isV isX isV isZero o && wideWidth o.mod.w && !o.mod.sx
  | .vscats o => regsOk isZero isX isV isV o && wideWidth o.mod.w && !o.mod.sx && !o.mod.zm
  | .ldt o => regsOk isX isX isX isZero o
  | .stt o => regsOk isZero isX isX isX o
  | .samo o => regsOk isX isX isX isX o && (wideWidth o.mod.w && (o.mod.op != .fadd || o.mod.w == .w32) && (o.mod.op == .cas || isZero o.b))
  | .samon o => regsOk isZero isX isX isX o && (wideWidth o.mod.w && (o.mod.op != .fadd || o.mod.w == .w32) && (o.mod.op == .cas || isZero o.b))
  | .ldg o => regsOk isX isX isX isZero o && (o.mod.fc == .none || o.mod.w64) && o.mod.mask == 0 && !o.mod.zm && (!o.mod.sx || (!o.mod.w64 && o.mod.fc == .none))
  | .ldgv o => regsOk isV isX isX isZero o && (o.mod.fc == .none || o.mod.w64) && !o.mod.sx
  | .ldgx o => regsOk isV isX isV isZero o && (o.mod.fc == .none || o.mod.w64) && !o.mod.sx
  | .stg o => regsOk isZero isX isX isX o && (o.mod.fc == .none || o.mod.w64) && !o.mod.sx && !o.mod.zm && o.mod.mask == 0
  | .stgv o => regsOk isZero isX isX isV o && (o.mod.fc == .none || o.mod.w64) && !o.mod.sx && !o.mod.zm
  | .stgx o => regsOk isZero isX isV isV o && (o.mod.fc == .none || o.mod.w64) && !o.mod.sx && !o.mod.zm
  | .cmb o => regsOk isZero isX isX isX o && (o.mod.fc == .none || o.mod.w64) && !o.mod.sx && !o.mod.zm && o.mod.mask == 0
  | .cmbv o => regsOk isZero isX isX isV o && (o.mod.fc == .none || o.mod.w64) && !o.mod.sx && !o.mod.zm
  | .cmbx o => regsOk isZero isX isV isV o && (o.mod.fc == .none || o.mod.w64) && !o.mod.sx && !o.mod.zm
  | .mdrain o => regsOk isX1 isX isZero isZero o && o.imm == 0 && (o.mod.scope != .thread && o.mod.scope != .bank && (o.mod.scope == .rect || isZero o.a))
  | .mdrainRegion o => regsOk isX1 isXCImm isZero isZero o && immNamed o
  | .mresolve o => regsOk isX1 isX isX isX o && (o.mod.fc == .none || o.mod.w64) && !o.mod.sx && !o.mod.zm && o.mod.mask == 0
  | .rgset o => regsOk isZero isXCImm isX isZero o && immNamed o
  | .rgget o => regsOk isX1 isXCImm isZero isZero o && immNamed o
  | .bind o => regsOk isZero isX isX isX o && (1 ≤ o.imm.toNat && o.imm.toNat ≤ 8) && (o.mod.scope != .thread && o.mod.scope != .bank && (o.mod.scope == .rect || isZero o.c))
  | .acq o => regsOk isZero isX isXCImm isZero o && immNamed o
  | .rel o => regsOk isX1 isX isZero isZero o && o.imm == 0
  | .fence o => regsOk isZero isX isZero isZero o && o.imm == 0 && (o.mod.scope != .bank && (o.mod.scope == .rect || isZero o.a))
  | .bfence o => regsOk isZero isX isZero isZero o && o.imm == 0
  | .bar o => regsOk isZero isXCImm isZero isZero o && immNamed o
  | .bara o => regsOk isX isXCImm isZero isZero o && immNamed o
  | .barw o => regsOk isZero isXCImm isXCImm isZero o && immNamed o
  | .barr o => regsOk isX1 isXCImm isX isZero o && immNamed o && (o.mod.op == .fsum || o.mod.l == 0)
  | .ftest o => regsOk isP isXVC isZero isZero o && o.imm == 0
  | .fcancel o => regsOk isZero isXC isZero isZero o && o.imm == 0
  | .fwait o => regsOk isZero isXVC isXVC isXVC o && o.imm == 0
  | .fmovc o => regsOk isC isX isZero isZero o && o.imm == 0
  | .send o => regsOk isZero isXCImm isXC isZero o && immNamed o
  | .recv o => regsOk isX isI isZero isZero o && o.imm == 0
  | .dqpush o => regsOk isP isXC isZero isZero o && o.imm == 0
  | .dqpop o => regsOk isXC isZero isZero isZero o && o.imm == 0
  | .dqsplit o => regsOk isXC isZero isZero isZero o && o.imm == 0
  | .dqsteal o => regsOk isX1 isXCImm isZero isZero o && immNamed o
  | .widf o => regsOk isXC isZero isZero isZero o && (o.imm.toNat ≤ 5)
  | .lvlrect o => regsOk isXC isZero isZero isZero o && (o.imm.toNat ≤ 6)
  | .launch o => regsOk isX1 isX isZero isZero o && o.imm == 0
  | .trig o => regsOk isZero isZero isZero isZero o && o.imm == 0
  | .end_ o => regsOk isZero isZero isZero isZero o && o.imm == 0
  | .trap o => regsOk isZero isZero isZero isZero o
  | .brk o => regsOk isZero isZero isZero isZero o && o.imm == 0
  | .csrr o => regsOk isX isZero isZero isZero o && (o.imm.toNat < 4096)
  | .csrw o => regsOk isZero isX isZero isZero o && (o.imm.toNat < 4096)
  | .csrx o => regsOk isX isX isZero isZero o && (o.imm.toNat < 4096)
  | .fencei o => regsOk isZero isZero isZero isZero o && o.imm == 0
  | .vadd o => regsOk isV isVImm isVImm isZero o && immNamed o && (!o.mod.sat || o.mod.type.isInteger) && (o.mod.rnd == .rne || o.mod.type.isFloat)
  | .vsub o => regsOk isV isVImm isVImm isZero o && immNamed o && (!o.mod.sat || o.mod.type.isInteger) && (o.mod.rnd == .rne || o.mod.type.isFloat)
  | .vmul o => regsOk isV isVImm isVImm isZero o && immNamed o && (!o.mod.sat || o.mod.type.isInteger) && (o.mod.rnd == .rne || o.mod.type.isFloat)
  | .vfma o => regsOk isV isVImm isVImm isVImm o && immNamed o && (!o.mod.sat || o.mod.type.isInteger) && (o.mod.rnd == .rne || o.mod.type.isFloat)
  | .vfms o => regsOk isV isVImm isVImm isVImm o && immNamed o && (!o.mod.sat || o.mod.type.isInteger) && (o.mod.rnd == .rne || o.mod.type.isFloat)
  | .vmin o => regsOk isV isVImm isVImm isZero o && immNamed o && !o.mod.sat && o.mod.rnd == .rne
  | .vmax o => regsOk isV isVImm isVImm isZero o && immNamed o && !o.mod.sat && o.mod.rnd == .rne
  | .vabs o => regsOk isV isVImm isZero isZero o && immNamed o && (!o.mod.sat || o.mod.type.isInteger) && o.mod.rnd == .rne
  | .vneg o => regsOk isV isVImm isZero isZero o && immNamed o && (!o.mod.sat || o.mod.type.isInteger) && o.mod.rnd == .rne
  | .vdiv o => regsOk isV isVImm isVImm isZero o && immNamed o && !o.mod.sat && o.mod.type.isFloat
  | .vsqrt o => regsOk isV isVImm isZero isZero o && immNamed o && !o.mod.sat && o.mod.type.isFloat
  | .vand o => regsOk isV isVImm isVImm isZero o && immNamed o && !o.mod.sat && o.mod.rnd == .rne
  | .vor o => regsOk isV isVImm isVImm isZero o && immNamed o && !o.mod.sat && o.mod.rnd == .rne
  | .vxor o => regsOk isV isVImm isVImm isZero o && immNamed o && !o.mod.sat && o.mod.rnd == .rne
  | .vshl o => regsOk isV isVImm isVImm isZero o && immNamed o && !o.mod.sat && o.mod.rnd == .rne && o.mod.type.isInteger
  | .vshr o => regsOk isV isVImm isVImm isZero o && immNamed o && !o.mod.sat && o.mod.rnd == .rne && o.mod.type.isInteger
  | .vsra o => regsOk isV isVImm isVImm isZero o && immNamed o && !o.mod.sat && o.mod.rnd == .rne && o.mod.type.isInteger
  | .vcvt o => regsOk isV isV isZero isZero o && (cvtImmOk o.mod.type o.imm) && !o.mod.sat
  | .vcmp o => regsOk isM isV isV isZero o && (o.imm.toNat ≤ 5) && (!o.mod.sat && o.mod.rnd == .rne && (o.imm.toNat ≤ 3 || o.mod.type.isInteger))
  | .vsel o => regsOk isV isVImm isVImm isZero o && immNamed o && !o.mod.sat && o.mod.rnd == .rne && !o.mod.zm
  | .vbcast o => regsOk isV isXCImm isZero isZero o && immNamed o && !o.mod.sat && o.mod.rnd == .rne
  | .vext o => regsOk isXC isV isXCImm isZero o && immNamed o && !o.mod.sat && o.mod.rnd == .rne && !o.mod.zm && o.mod.mask == 0
  | .vins o => regsOk isV isXCImm isXCImm isZero o && immNamed o && !o.mod.sat && o.mod.rnd == .rne && !o.mod.zm && o.mod.mask == 0
  | .vperm o => regsOk isV isV isV isZero o && o.imm == 0 && !o.mod.sat && o.mod.rnd == .rne
  | .vslide o => regsOk isV isV isVNone isZero o && (slideImmOk o.mod.type o.imm) && !o.mod.sat && o.mod.rnd == .rne
  | .viota o => regsOk isV isZero isZero isZero o && o.imm == 0 && !o.mod.sat && o.mod.rnd == .rne && o.mod.type.isInteger
  | .vsortkv o => regsOk isVEven isV isV isZero o && o.imm == 0 && !o.mod.sat && o.mod.rnd == .rne && o.mod.type.sortable
  | .vredadd o => regsOk isXC isV isXCImmNone isZero o && immNamed o && (!o.mod.zm && (!o.mod.sat || o.mod.type.isInteger) && (o.mod.rnd == .rne || o.mod.type.isFloat))
  | .vredmin o => regsOk isXC isV isXCImmNone isZero o && immNamed o && !o.mod.zm && !o.mod.sat && o.mod.rnd == .rne
  | .vredmax o => regsOk isXC isV isXCImmNone isZero o && immNamed o && !o.mod.zm && !o.mod.sat && o.mod.rnd == .rne
  | .vpopm o => regsOk isXC isMImm isZero isZero o && immNamed o && !o.mod.zm && !o.mod.sat && o.mod.rnd == .rne && o.mod.mask == 0
  | .mand o => regsOk isM isMImm isMImm isZero o && immNamed o && !o.mod.zm && !o.mod.sat && o.mod.rnd == .rne && o.mod.mask == 0 && o.mod.type == .int8
  | .mor o => regsOk isM isMImm isMImm isZero o && immNamed o && !o.mod.zm && !o.mod.sat && o.mod.rnd == .rne && o.mod.mask == 0 && o.mod.type == .int8
  | .mxor o => regsOk isM isMImm isMImm isZero o && immNamed o && !o.mod.zm && !o.mod.sat && o.mod.rnd == .rne && o.mod.mask == 0 && o.mod.type == .int8
  | .mnot o => regsOk isM isMImm isZero isZero o && immNamed o && !o.mod.zm && !o.mod.sat && o.mod.rnd == .rne && o.mod.mask == 0 && o.mod.type == .int8
  | .mfirst o => regsOk isXC isMImm isZero isZero o && immNamed o && !o.mod.zm && !o.mod.sat && o.mod.rnd == .rne && o.mod.mask == 0
  | .mma o => regsOk isZero isX isX isZero o && (o.mod.accf || o.mod.slot.val < 2)
  | .mmv o => regsOk isX1 isX isX isX o && (o.imm.toNat % 33554432 == 0) && (o.mod.accf || o.mod.slot.val < 2)
  | .acz o => regsOk isZero isZero isZero isZero o && o.imm == 0 && (o.mod.accf || o.mod.slot.val < 2)
  | .acld o => regsOk isZero isX isZero isZero o && (accImmOk o.imm) && (o.mod.accf || o.mod.slot.val < 2)
  | .acst o => regsOk isZero isX isZero isZero o && (accImmOk o.imm) && (o.mod.accf || o.mod.slot.val < 2)
  | .mxseed o => regsOk isZero isX isZero isZero o && o.imm == 0
  | .mxstat o => regsOk isX isZero isZero isZero o && (o.imm.toNat < 4)
  | .mxthr o => regsOk isZero isX isZero isZero o && o.imm == 0
  | .topkc o => regsOk isX1 isX isX isX o && (topkImmOk o.imm) && (o.mod.mark || isZero o.c)
  | .xbmv o => regsOk isX1 isX isX isX o && xbImmOk o.imm
  | .xbprog o => regsOk isX1 isX isZero isX o && xbImmOk o.imm
  | .xbver o => regsOk isX1 isX isZero isX o && xbImmOk o.imm
  | .xbcal o => regsOk isX1 isZero isZero isX o && xbImmOk o.imm
  | .xbrd o => regsOk isX1 isX isZero isX o && xbImmOk o.imm
  | .xbwr o => regsOk isX1 isX isZero isX o && xbImmOk o.imm
  | .acpt o => regsOk isXV isXV isZero isZero o && o.imm == 0 && sameClass o.d o.a
  | .btest o => regsOk isP isXVC isZero isZero o && o.imm == 0
  | .namo o => regsOk isZero isX isX isX o && (o.mod.op != .fadd || !o.mod.w64) && o.mod.mask == 0
  | .namov o => regsOk isZero isX isX isV o && (o.mod.op != .fadd || !o.mod.w64)
  | .namor o => regsOk isX1 isX isX isX o && (o.mod.op != .fadd || !o.mod.w64) && o.mod.mask == 0
  | .bkmodeOn o => regsOk isX1 isX isX isZero o
  | .bkmodeOff o => regsOk isX1 isX isX isZero o
  | .bkldr o => regsOk isX1 isX isX isX o
  | .bkmac o => regsOk isX1 isX isX isZero o && (o.mod.a0.toNat + o.mod.n1.toNat + 1 ≤ 64)
  | .bkrd o => regsOk isX1 isX isX isX o && (o.mod.a0.toNat + o.mod.n1.toNat + 1 ≤ 64)
  | .cpyIn o => regsOk isX1 isX isXImm isXImm o && immNamed o
  | .cpyOut o => regsOk isX1 isX isXImm isXImm o && immNamed o
  | .cpy2In o => regsOk isX1 isX isX isX o && (o.imm.toNat < 262144)
  | .cpy2Out o => regsOk isX1 isX isX isX o && (o.imm.toNat < 262144)
  | .cpyg o => regsOk isX1 isX isX isX o && (o.imm.toNat < 1048576)
  | .cpys o => regsOk isX1 isX isX isX o && (o.imm.toNat < 1048576)
  | .cpyr o => regsOk isX1 isX isX isX o && (o.imm.toNat < 256)
  | .gqw o => regsOk isX1 isX isX isZero o && (1 ≤ o.imm.toNat && o.imm.toNat ≤ 64)
  | .gqr o => regsOk isX1 isXCImm isXC isX o && immNamed o && (!o.mod || isZero o.b)
  | .oupd o => regsOk isZero isX isX isX o
  | .landing => true
  | .emptyGroup => true
  | .annulledGroup => true
  | .lineFetch _ _ => true
  | .pageWalkEnd _ => true
  | .interruptEntry _ => true
  | .stopSpacingFault => true
  | .matrixThresholdTrap => true
  | .yieldExpire _ => true
  | .breakpointMatch _ => true
  | .copyTransfer _ => true
  | .copyResolve _ => true
  | .loadServe _ => true
  | .l0MergeCommit _ _ => true
  | .l1Move _ _ _ => true
  | .l2Fold _ _ => true
  | .writeBack _ => true
  | .writeBackCommit _ => true
  | .relCount _ => true
  | .mdrainComplete _ => true
  | .regionCensus _ => true
  | .rggetResolve _ => true
  | .barrierArrive _ => true
  | .barrierAgeRecord _ => true
  | .domainBarrierReport _ _ _ _ => true
  | .domainBarrierComplete _ _ => true
  | .matrixDispatch _ => true
  | .matrixOpDone _ => true
  | .streamBufferFill _ => true
  | .arrayCommandStart _ => true
  | .arrayCommandDone _ => true
  | .rowProgram _ => true
  | .stackCommandPerform _ => true
  | .namorResolve _ => true
  | .bankCommandPerform _ => true
  | .bankAccessPerform _ => true
  | .refresh _ _ => true
  | .tlbinvDone => true
  | .hrevokeDone => true
  | .launchRead _ => true
  | .placementEvaluate _ => true
  | .taskRetire _ => true
  | .checksum _ => true
  | .messageArrive _ => true
  | .sendAck _ => true
  | .stealProbe _ => true
  | .tileArrive _ => true
  | .tileMatch _ => true
  | .swapExchange _ => true
  | .bkctxComplete _ => true
  | .laneRecord _ _ _ _ => true
  | .traceFunnelWrite _ => true
  | .traceTimestamp _ => true
  | .traceLoss _ => true
  | .remoteAck _ => true
  | .flagResend _ _ => true
  | .cycleCompareMatch _ => true
  | .mextComplete => true
  | .unassignedEncoding _ => true
  | .instructionFetchFault _ _ => true
  | .patrolScrub _ _ _ => true
  | .errorEventLog _ _ => true
  | .errorEventExpire _ _ => true
  | .frameRetire _ _ => true
  | .memcfgWrite _ => true
  | .tlbinv _ => true
  | .hrevoke _ => true
  | .regcfgWrite _ _ => true
  | .barageWrite _ => true
  | .partcfgWrite _ _ => true
  | .lportWrite _ _ _ => true
  | .swapGo _ => true
  | .preempt _ => true
  | .doorbell _ _ _ => true
  | .bkctxSave _ _ => true
  | .bkctxRestore _ _ => true
  | .bkctxDiscard _ => true
  | .dbgctlHalt _ => true
  | .dbgctlSoft _ _ => true
  | .dbgctlResume _ => true
  | .dbgvalWrite _ _ => true
  | .mextExtend _ => true
  | .domidWrite _ => true
  | .klstatWrite _ _ => true
  | .flitReceive _ _ _ => true
  | .flagReceive _ _ _ _ _ => true
  | .timeBeat _ => true
  | .tlockLoss => true
  | .thermalHot _ _ => true
  | .thermalTrip => true
  | .powerUp => true
  | .railFail => true
  | .registerWrite _ _ => true
  | .stewardAccess _ _ _ => true
  | .portDown _ => true
  | .taskRemove _ => true

end Sys2Proof
end

