-- ==== Sys2Proof/Decode.lean ====
section
/-!
DEFINITION. The decoder, total on any bytes (02 R25-R27, R32-R35), and after it the encoder written from the same tables.
A word is read as one number of 96 bits, bit 0 the least significant bit of the first byte (R15).
-/
namespace Sys2Proof

/-- n bits of w from bit lo upward. -/
def bits (w lo n : Nat) : Nat := w / 2 ^ lo % 2 ^ n

/-- R26: the regspec of a byte; an index outside the class's range, or class 111 with index 2-31, has none. -/
def Reg.ofCode (b : Nat) : Option Reg :=
  let k := b % 32
  match b / 32 with
  | 0 => some (.x (Fin.ofNat 32 k))
  | 1 => some (.v (Fin.ofNat 32 k))
  | 2 => if k < 8 then some (.m (Fin.ofNat 8 k)) else Option.none
  | 3 => if k < 8 then some (.p (Fin.ofNat 8 k)) else Option.none
  | 4 => if k < 8 then some (.c (Fin.ofNat 8 k)) else Option.none
  | 5 => if k < 4 then some (.q (Fin.ofNat 4 k)) else Option.none
  | 6 => some (.i (Fin.ofNat 32 k))
  | 7 => if k = 0 then some .none else if k = 1 then some .imm else Option.none
  | _ => Option.none

/-- R26: the byte of a regspec. -/
def Reg.code : Reg → Nat
  | .x n => n.val
  | .v n => 32 + n.val
  | .m n => 64 + n.val
  | .p n => 96 + n.val
  | .c n => 128 + n.val
  | .q n => 160 + n.val
  | .i n => 192 + n.val
  | .none => 224
  | .imm => 225

/-- R25: PRED [87] negate, [86:84] index. -/
def Pred.ofCode (k : Nat) : Pred := ⟨k / 8 % 2 == 1, Fin.ofNat 8 k⟩
def Pred.code (p : Pred) : Nat := p.idx.val + 8 * p.neg.toNat

def Rnd.code : Rnd → Nat | .rne => 0 | .rz => 1 | .rp => 2 | .rm => 3
def Rnd.ofCode : Nat → Option Rnd | 0 => some .rne | 1 => some .rz | 2 => some .rp | 3 => some .rm | _ => none
def Cond.code : Cond → Nat | .eq => 0 | .ne => 1 | .lt => 2 | .ge => 3 | .ltu => 4 | .geu => 5
def Cond.ofCode : Nat → Option Cond
  | 0 => some .eq | 1 => some .ne | 2 => some .lt | 3 => some .ge | 4 => some .ltu | 5 => some .geu | _ => none
def Width.code : Width → Nat | .w8 => 0 | .w16 => 1 | .w32 => 2 | .w64 => 3
def Width.ofCode : Nat → Option Width | 0 => some .w8 | 1 => some .w16 | 2 => some .w32 | 3 => some .w64 | _ => none
def Scope.code : Scope → Nat | .thread => 0 | .core => 1 | .rect => 2 | .device => 3 | .domain => 4 | .bank => 5
def Scope.ofCode : Nat → Option Scope
  | 0 => some .thread | 1 => some .core | 2 => some .rect | 3 => some .device | 4 => some .domain | 5 => some .bank
  | _ => none
def Ov.code : Ov → Nat | .wrap => 0 | .sats => 1 | .satu => 2
def Ov.ofCode : Nat → Option Ov | 0 => some .wrap | 1 => some .sats | 2 => some .satu | _ => none
def SamoOp.code : SamoOp → Nat
  | .add => 0 | .and => 1 | .or => 2 | .xor => 3 | .min => 4 | .max => 5 | .minu => 6 | .maxu => 7 | .swap => 8
  | .cas => 9 | .fadd => 10
def SamoOp.ofCode : Nat → Option SamoOp
  | 0 => some .add | 1 => some .and | 2 => some .or | 3 => some .xor | 4 => some .min | 5 => some .max | 6 => some .minu
  | 7 => some .maxu | 8 => some .swap | 9 => some .cas | 10 => some .fadd | _ => none
def StackOp.code : StackOp → Nat
  | .add => 0 | .fadd => 1 | .min => 2 | .max => 3 | .and => 4 | .or => 5 | .xor => 6
def StackOp.ofCode : Nat → Option StackOp
  | 0 => some .add | 1 => some .fadd | 2 => some .min | 3 => some .max | 4 => some .and | 5 => some .or | 6 => some .xor
  | _ => none
def Fc.code : Fc → Nat | .none => 0 | .f32 => 1 | .f64 => 2
def Fc.ofCode : Nat → Option Fc | 0 => some .none | 1 => some .f32 | 2 => some .f64 | _ => Option.none
def BarrOp.code : BarrOp → Nat | .add => 0 | .fsum => 1 | .min => 2 | .max => 3 | .fmin => 4 | .fmax => 5
def BarrOp.ofCode : Nat → Option BarrOp
  | 0 => some .add | 1 => some .fsum | 2 => some .min | 3 => some .max | 4 => some .fmin | 5 => some .fmax | _ => none

/-! MOD, read as a number of 12 bits whose bit 0 is instruction bit 32: one reader and one writer per layout. -/

/-- A MOD that one value only is assigned to. -/
def decUnit (fixed k : Nat) : Option Unit := if k = fixed then some () else none
/-- One flag in bit [32]. -/
def decBool (k : Nat) : Option Bool := if k < 2 then some (k == 1) else none
def encBool (b : Bool) : Nat := b.toNat
def decIntMod (k : Nat) : Option IntMod :=
  if k < 8 then (Ov.ofCode (bits k 1 2)).map fun ov => ⟨bits k 0 1 == 1, ov⟩ else none
def encIntMod (m : IntMod) : Nat := m.h.toNat + 2 * m.ov.code
def decLeaMod (k : Nat) : Option LeaMod :=
  if k < 16 then some ⟨bits k 0 1 == 1, Fin.ofNat 8 (bits k 1 3)⟩ else none
def encLeaMod (m : LeaMod) : Nat := m.x32.toNat + 2 * m.s.val
def decCondMod (k : Nat) : Option CondMod :=
  if k < 16 then (Cond.ofCode (bits k 1 3)).map fun c => ⟨bits k 0 1 == 1, c⟩ else none
def encCondMod (m : CondMod) : Nat := m.h.toNat + 2 * m.cond.code
def decSpadMod (k : Nat) : Option SpadMod :=
  if k < 256 ∧ bits k 3 1 = 0 then
    (Width.ofCode (bits k 0 2)).map fun w => ⟨w, bits k 2 1 == 1, Fin.ofNat 8 (bits k 4 3), bits k 7 1 == 1⟩
  else none
def encSpadMod (m : SpadMod) : Nat := m.w.code + 4 * m.sx.toNat + 16 * m.mask.val + 128 * m.zm.toNat
def decSamoMod (k : Nat) : Option SamoMod :=
  if k < 64 then
    (Width.ofCode (bits k 0 2)).bind fun w => (SamoOp.ofCode (bits k 2 4)).map fun op => ⟨w, op⟩
  else none
def encSamoMod (m : SamoMod) : Nat := m.w.code + 4 * m.op.code
def decGlobMod (k : Nat) : Option GlobMod :=
  if k < 256 then
    (Fc.ofCode (bits k 1 2)).map fun fc =>
      ⟨bits k 0 1 == 1, fc, bits k 3 1 == 1, Fin.ofNat 8 (bits k 4 3), bits k 7 1 == 1⟩
  else none
def encGlobMod (m : GlobMod) : Nat :=
  m.w64.toNat + 2 * m.fc.code + 8 * m.sx.toNat + 16 * m.mask.val + 128 * m.zm.toNat
def decScopeMod (k : Nat) : Option ScopeMod := if k < 8 then (Scope.ofCode k).map fun s => ⟨s⟩ else none
def encScopeMod (m : ScopeMod) : Nat := m.scope.code
def decBarrMod (k : Nat) : Option BarrMod :=
  if k < 2048 then (BarrOp.ofCode (bits k 0 3)).map fun op => ⟨op, BitVec.ofNat 8 (bits k 3 8)⟩ else none
def encBarrMod (m : BarrMod) : Nat := m.op.code + 8 * m.l.toNat
def decSendMod (k : Nat) : Option SendMod := if k < 32 then some ⟨Fin.ofNat 32 k⟩ else none
def encSendMod (m : SendMod) : Nat := m.inbox.val
def decVecMod (k : Nat) : Option VecMod :=
  (ElType.ofCode (bits k 0 4)).bind fun t => (Rnd.ofCode (bits k 8 3)).map fun r =>
    ⟨t, Fin.ofNat 8 (bits k 4 3), bits k 7 1 == 1, r, bits k 11 1 == 1⟩
def encVecMod (m : VecMod) : Nat :=
  m.type.code + 16 * m.mask.val + 128 * m.zm.toNat + 256 * m.rnd.code + 2048 * m.sat.toNat
def decMatMod (k : Nat) : Option MatMod := if k < 8 then some ⟨Fin.ofNat 4 (bits k 0 2), bits k 2 1 == 1⟩ else none
def encMatMod (m : MatMod) : Nat := m.slot.val + 4 * m.accf.toNat
def decClrMod (k : Nat) : Option ClrMod := if k = 0 then some ⟨false⟩ else if k = 8 then some ⟨true⟩ else none
def encClrMod (m : ClrMod) : Nat := 8 * m.clr.toNat
def decTopkMod (k : Nat) : Option TopkMod := if k < 4 then some ⟨bits k 0 1 == 1, bits k 1 1 == 1⟩ else none
def encTopkMod (m : TopkMod) : Nat := m.dir.toNat + 2 * m.mark.toNat
def decStackMod (k : Nat) : Option StackMod :=
  if k < 128 then (StackOp.ofCode (bits k 0 3)).map fun op => ⟨op, bits k 3 1 == 1, Fin.ofNat 8 (bits k 4 3)⟩ else none
def encStackMod (m : StackMod) : Nat := m.op.code + 8 * m.w64.toNat + 16 * m.mask.val
def decBankMod (k : Nat) : Option BankMod :=
  if k < 4096 then some ⟨BitVec.ofNat 6 (bits k 0 6), BitVec.ofNat 6 (bits k 6 6)⟩ else none
def encBankMod (m : BankMod) : Nat := m.n1.toNat + 64 * m.a0.toNat
/-- CPY2: bit [32] is the direction, which the constructor fixes. -/
def decSwzMod (fixed k : Nat) : Option SwzMod :=
  if k = fixed then some ⟨false⟩ else if k = fixed + 2 then some ⟨true⟩ else none
def encSwzMod (fixed : Nat) (m : SwzMod) : Nat := fixed + 2 * m.swz.toNat

/-- The same operands with another MOD. -/
def Fmt.withMod {M N : Type} (f : Fmt M) (m : N) : Fmt N := ⟨f.pred, f.d, f.a, f.b, f.c, m, f.imm⟩

/-- The fields of a format-G word (R25), MOD still a number. -/
def readG (w : Nat) : Option (Fmt Nat) :=
  (Reg.ofCode (bits w 68 8)).bind fun d => (Reg.ofCode (bits w 60 8)).bind fun a =>
  (Reg.ofCode (bits w 52 8)).bind fun b => (Reg.ofCode (bits w 44 8)).map fun c =>
    ⟨Pred.ofCode (bits w 84 4), d, a, b, c, bits w 32 12, BitVec.ofNat 32 (bits w 0 32)⟩

/-- The rows of OPC 0x01 in the map of R32. -/
def decode01 (fn : Nat) (f : Fmt Nat) : Option Instr :=
  match fn with
  | 0 => (decIntMod f.mod).map fun m => .add (f.withMod m)
  | 1 => (decIntMod f.mod).map fun m => .sub (f.withMod m)
  | 2 => (decIntMod f.mod).map fun m => .mul (f.withMod m)
  | 3 => (decIntMod f.mod).map fun m => .mulh (f.withMod m)
  | 4 => (decIntMod f.mod).map fun m => .mulhu (f.withMod m)
  | 5 => (decIntMod f.mod).map fun m => .div (f.withMod m)
  | 6 => (decIntMod f.mod).map fun m => .divu (f.withMod m)
  | 7 => (decIntMod f.mod).map fun m => .rem (f.withMod m)
  | 8 => (decIntMod f.mod).map fun m => .remu (f.withMod m)
  | 9 => (decIntMod f.mod).map fun m => .and (f.withMod m)
  | 10 => (decIntMod f.mod).map fun m => .or (f.withMod m)
  | 11 => (decIntMod f.mod).map fun m => .xor (f.withMod m)
  | 12 => (decIntMod f.mod).map fun m => .shl (f.withMod m)
  | 13 => (decIntMod f.mod).map fun m => .shr (f.withMod m)
  | 14 => (decIntMod f.mod).map fun m => .sra (f.withMod m)
  | 15 => (decIntMod f.mod).map fun m => .min (f.withMod m)
  | 16 => (decIntMod f.mod).map fun m => .max (f.withMod m)
  | 17 => (decIntMod f.mod).map fun m => .minu (f.withMod m)
  | 18 => (decIntMod f.mod).map fun m => .maxu (f.withMod m)
  | _ => none

/-- The rows of OPC 0x02 in the map of R32. -/
def decode02 (fn : Nat) (f : Fmt Nat) : Option Instr :=
  match fn with
  | 0 => (decBool f.mod).map fun m => .clz (f.withMod m)
  | 1 => (decBool f.mod).map fun m => .ctz (f.withMod m)
  | 2 => (decBool f.mod).map fun m => .popc (f.withMod m)
  | 3 => (decBool f.mod).map fun m => .bfx (f.withMod m)
  | 4 => (decUnit 0 f.mod).map fun m => .bfi (f.withMod m)
  | 5 => (decLeaMod f.mod).map fun m => .lea (f.withMod m)
  | 6 => (decUnit 0 f.mod).map fun m => .sel (f.withMod m)
  | _ => none

/-- The rows of OPC 0x04 in the map of R32. -/
def decode04 (fn : Nat) (f : Fmt Nat) : Option Instr :=
  match fn with
  | 0 => (decCondMod f.mod).map fun m => .cmp (f.withMod m)
  | 1 => (decUnit 0 f.mod).map fun m => .pand (f.withMod m)
  | 2 => (decUnit 0 f.mod).map fun m => .por (f.withMod m)
  | 3 => (decUnit 0 f.mod).map fun m => .pxor (f.withMod m)
  | 4 => (decUnit 0 f.mod).map fun m => .pnot (f.withMod m)
  | 5 => ((decUnit 0 f.mod).map fun m => .pmov (f.withMod m)) <|> ((decUnit 1 f.mod).map fun m => .pmovTox (f.withMod m)) <|> ((decUnit 2 f.mod).map fun m => .pmovFromx (f.withMod m))
  | _ => none

/-- The rows of OPC 0x05 in the map of R32. -/
def decode05 (fn : Nat) (f : Fmt Nat) : Option Instr :=
  match fn with
  | 0 => (decUnit 0 f.mod).map fun m => .br (f.withMod m)
  | 1 => (decCondMod f.mod).map fun m => .brc (f.withMod m)
  | 2 => (decCondMod f.mod).map fun m => .brca (f.withMod m)
  | 3 => (decCondMod f.mod).map fun m => .brct (f.withMod m)
  | 4 => (decUnit 0 f.mod).map fun m => .jmp (f.withMod m)
  | 5 => ((decUnit 0 f.mod).map fun m => .call (f.withMod m)) <|> ((decUnit 1 f.mod).map fun m => .callIndirect (f.withMod m))
  | 6 => (decUnit 0 f.mod).map fun m => .eret (f.withMod m)
  | _ => none

/-- The rows of OPC 0x06 in the map of R32. -/
def decode06 (fn : Nat) (f : Fmt Nat) : Option Instr :=
  match fn with
  | 0 => (decUnit 0 f.mod).map fun m => .yield (f.withMod m)
  | 1 => (decUnit 0 f.mod).map fun m => .waitt (f.withMod m)
  | 2 => (decUnit 0 f.mod).map fun m => .wfi (f.withMod m)
  | _ => none

/-- The rows of OPC 0x10 in the map of R32. -/
def decode10 (fn : Nat) (f : Fmt Nat) : Option Instr :=
  match fn with
  | 0 => (decSpadMod f.mod).map fun m => .lds (f.withMod m)
  | 1 => (decSpadMod f.mod).map fun m => .sts (f.withMod m)
  | 2 => (decSpadMod f.mod).map fun m => .ldsv (f.withMod m)
  | 3 => (decSpadMod f.mod).map fun m => .stsv (f.withMod m)
  | 4 => (decSpadMod f.mod).map fun m => .vgaths (f.withMod m)
  | 5 => (decSpadMod f.mod).map fun m => .vscats (f.withMod m)
  | 6 => (decUnit 0 f.mod).map fun m => .ldt (f.withMod m)
  | 7 => (decUnit 0 f.mod).map fun m => .stt (f.withMod m)
  | _ => none

/-- The rows of OPC 0x11 in the map of R32. -/
def decode11 (fn : Nat) (f : Fmt Nat) : Option Instr :=
  match fn with
  | 0 => (decSamoMod f.mod).map fun m => .samo (f.withMod m)
  | 1 => (decSamoMod f.mod).map fun m => .samon (f.withMod m)
  | _ => none

/-- The rows of OPC 0x14 in the map of R32. -/
def decode14 (fn : Nat) (f : Fmt Nat) : Option Instr :=
  match fn with
  | 0 => (decGlobMod f.mod).map fun m => .ldg (f.withMod m)
  | 1 => (decGlobMod f.mod).map fun m => .ldgv (f.withMod m)
  | 2 => (decGlobMod f.mod).map fun m => .ldgx (f.withMod m)
  | 3 => (decGlobMod f.mod).map fun m => .stg (f.withMod m)
  | 4 => (decGlobMod f.mod).map fun m => .stgv (f.withMod m)
  | 5 => (decGlobMod f.mod).map fun m => .stgx (f.withMod m)
  | 6 => (decGlobMod f.mod).map fun m => .cmb (f.withMod m)
  | 7 => (decGlobMod f.mod).map fun m => .cmbv (f.withMod m)
  | 8 => (decGlobMod f.mod).map fun m => .cmbx (f.withMod m)
  | _ => none

/-- The rows of OPC 0x15 in the map of R32. -/
def decode15 (fn : Nat) (f : Fmt Nat) : Option Instr :=
  match fn with
  | 0 => ((decScopeMod f.mod).map fun m => .mdrain (f.withMod m)) <|> ((decUnit 8 f.mod).map fun m => .mdrainRegion (f.withMod m))
  | 1 => (decGlobMod f.mod).map fun m => .mresolve (f.withMod m)
  | 2 => (decUnit 0 f.mod).map fun m => .rgset (f.withMod m)
  | 3 => (decUnit 0 f.mod).map fun m => .rgget (f.withMod m)
  | _ => none

/-- The rows of OPC 0x18 in the map of R32. -/
def decode18 (fn : Nat) (f : Fmt Nat) : Option Instr :=
  match fn with
  | 0 => (decScopeMod f.mod).map fun m => .bind (f.withMod m)
  | 1 => (decUnit 0 f.mod).map fun m => .acq (f.withMod m)
  | 2 => (decUnit 0 f.mod).map fun m => .rel (f.withMod m)
  | 3 => (decScopeMod f.mod).map fun m => .fence (f.withMod m)
  | 4 => (decUnit 0 f.mod).map fun m => .bfence (f.withMod m)
  | _ => none

/-- The rows of OPC 0x19 in the map of R32. -/
def decode19 (fn : Nat) (f : Fmt Nat) : Option Instr :=
  match fn with
  | 0 => (decUnit 0 f.mod).map fun m => .bar (f.withMod m)
  | 1 => (decUnit 0 f.mod).map fun m => .bara (f.withMod m)
  | 2 => (decUnit 0 f.mod).map fun m => .barw (f.withMod m)
  | 3 => (decBarrMod f.mod).map fun m => .barr (f.withMod m)
  | _ => none

/-- The rows of OPC 0x1A in the map of R32. -/
def decode1A (fn : Nat) (f : Fmt Nat) : Option Instr :=
  match fn with
  | 0 => (decBool f.mod).map fun m => .ftest (f.withMod m)
  | 1 => (decUnit 0 f.mod).map fun m => .fcancel (f.withMod m)
  | 2 => (decUnit 0 f.mod).map fun m => .fwait (f.withMod m)
  | 3 => (decUnit 0 f.mod).map fun m => .fmovc (f.withMod m)
  | _ => none

/-- The rows of OPC 0x1B in the map of R32. -/
def decode1B (fn : Nat) (f : Fmt Nat) : Option Instr :=
  match fn with
  | 0 => (decSendMod f.mod).map fun m => .send (f.withMod m)
  | 1 => (decUnit 0 f.mod).map fun m => .recv (f.withMod m)
  | _ => none

/-- The rows of OPC 0x1C in the map of R32. -/
def decode1C (fn : Nat) (f : Fmt Nat) : Option Instr :=
  match fn with
  | 0 => (decUnit 0 f.mod).map fun m => .dqpush (f.withMod m)
  | 1 => (decUnit 0 f.mod).map fun m => .dqpop (f.withMod m)
  | 2 => (decUnit 0 f.mod).map fun m => .dqsplit (f.withMod m)
  | 3 => (decUnit 0 f.mod).map fun m => .dqsteal (f.withMod m)
  | _ => none

/-- The rows of OPC 0x1D in the map of R32. -/
def decode1D (fn : Nat) (f : Fmt Nat) : Option Instr :=
  match fn with
  | 0 => (decUnit 0 f.mod).map fun m => .widf (f.withMod m)
  | 1 => (decUnit 0 f.mod).map fun m => .lvlrect (f.withMod m)
  | 2 => (decUnit 0 f.mod).map fun m => .launch (f.withMod m)
  | 3 => (decUnit 0 f.mod).map fun m => .trig (f.withMod m)
  | 4 => (decUnit 0 f.mod).map fun m => .end_ (f.withMod m)
  | _ => none

/-- The rows of OPC 0x1E in the map of R32. -/
def decode1E (fn : Nat) (f : Fmt Nat) : Option Instr :=
  match fn with
  | 0 => (decUnit 0 f.mod).map fun m => .trap (f.withMod m)
  | 1 => (decUnit 0 f.mod).map fun m => .brk (f.withMod m)
  | 2 => (decUnit 0 f.mod).map fun m => .csrr (f.withMod m)
  | 3 => (decUnit 0 f.mod).map fun m => .csrw (f.withMod m)
  | 4 => (decUnit 0 f.mod).map fun m => .csrx (f.withMod m)
  | 5 => (decUnit 0 f.mod).map fun m => .fencei (f.withMod m)
  | _ => none

/-- The rows of OPC 0x20 in the map of R32. -/
def decode20 (fn : Nat) (f : Fmt Nat) : Option Instr :=
  match fn with
  | 0 => (decVecMod f.mod).map fun m => .vadd (f.withMod m)
  | 1 => (decVecMod f.mod).map fun m => .vsub (f.withMod m)
  | 2 => (decVecMod f.mod).map fun m => .vmul (f.withMod m)
  | 3 => (decVecMod f.mod).map fun m => .vfma (f.withMod m)
  | 4 => (decVecMod f.mod).map fun m => .vfms (f.withMod m)
  | 5 => (decVecMod f.mod).map fun m => .vmin (f.withMod m)
  | 6 => (decVecMod f.mod).map fun m => .vmax (f.withMod m)
  | 7 => (decVecMod f.mod).map fun m => .vabs (f.withMod m)
  | 8 => (decVecMod f.mod).map fun m => .vneg (f.withMod m)
  | 9 => (decVecMod f.mod).map fun m => .vdiv (f.withMod m)
  | 10 => (decVecMod f.mod).map fun m => .vsqrt (f.withMod m)
  | _ => none

/-- The rows of OPC 0x21 in the map of R32. -/
def decode21 (fn : Nat) (f : Fmt Nat) : Option Instr :=
  match fn with
  | 0 => (decVecMod f.mod).map fun m => .vand (f.withMod m)
  | 1 => (decVecMod f.mod).map fun m => .vor (f.withMod m)
  | 2 => (decVecMod f.mod).map fun m => .vxor (f.withMod m)
  | 3 => (decVecMod f.mod).map fun m => .vshl (f.withMod m)
  | 4 => (decVecMod f.mod).map fun m => .vshr (f.withMod m)
  | 5 => (decVecMod f.mod).map fun m => .vsra (f.withMod m)
  | _ => none

/-- The rows of OPC 0x22 in the map of R32. -/
def decode22 (fn : Nat) (f : Fmt Nat) : Option Instr :=
  match fn with
  | 0 => (decVecMod f.mod).map fun m => .vcvt (f.withMod m)
  | _ => none

/-- The rows of OPC 0x23 in the map of R32. -/
def decode23 (fn : Nat) (f : Fmt Nat) : Option Instr :=
  match fn with
  | 0 => (decVecMod f.mod).map fun m => .vcmp (f.withMod m)
  | 1 => (decVecMod f.mod).map fun m => .vsel (f.withMod m)
  | _ => none

/-- The rows of OPC 0x24 in the map of R32. -/
def decode24 (fn : Nat) (f : Fmt Nat) : Option Instr :=
  match fn with
  | 0 => (decVecMod f.mod).map fun m => .vbcast (f.withMod m)
  | 1 => (decVecMod f.mod).map fun m => .vext (f.withMod m)
  | 2 => (decVecMod f.mod).map fun m => .vins (f.withMod m)
  | 3 => (decVecMod f.mod).map fun m => .vperm (f.withMod m)
  | 4 => (decVecMod f.mod).map fun m => .vslide (f.withMod m)
  | 5 => (decVecMod f.mod).map fun m => .viota (f.withMod m)
  | 6 => (decVecMod f.mod).map fun m => .vsortkv (f.withMod m)
  | _ => none

/-- The rows of OPC 0x25 in the map of R32. -/
def decode25 (fn : Nat) (f : Fmt Nat) : Option Instr :=
  match fn with
  | 0 => (decVecMod f.mod).map fun m => .vredadd (f.withMod m)
  | 1 => (decVecMod f.mod).map fun m => .vredmin (f.withMod m)
  | 2 => (decVecMod f.mod).map fun m => .vredmax (f.withMod m)
  | 3 => (decVecMod f.mod).map fun m => .vpopm (f.withMod m)
  | _ => none

/-- The rows of OPC 0x26 in the map of R32. -/
def decode26 (fn : Nat) (f : Fmt Nat) : Option Instr :=
  match fn with
  | 0 => (decVecMod f.mod).map fun m => .mand (f.withMod m)
  | 1 => (decVecMod f.mod).map fun m => .mor (f.withMod m)
  | 2 => (decVecMod f.mod).map fun m => .mxor (f.withMod m)
  | 3 => (decVecMod f.mod).map fun m => .mnot (f.withMod m)
  | 4 => (decVecMod f.mod).map fun m => .mfirst (f.withMod m)
  | _ => none

/-- The rows of OPC 0x30 in the map of R32. -/
def decode30 (fn : Nat) (f : Fmt Nat) : Option Instr :=
  match fn with
  | 0 => (decMatMod f.mod).map fun m => .mma (f.withMod m)
  | 1 => (decMatMod f.mod).map fun m => .mmv (f.withMod m)
  | 2 => (decMatMod f.mod).map fun m => .acz (f.withMod m)
  | 3 => (decMatMod f.mod).map fun m => .acld (f.withMod m)
  | 4 => (decMatMod f.mod).map fun m => .acst (f.withMod m)
  | 5 => (decUnit 0 f.mod).map fun m => .mxseed (f.withMod m)
  | 6 => (decClrMod f.mod).map fun m => .mxstat (f.withMod m)
  | 7 => (decUnit 0 f.mod).map fun m => .mxthr (f.withMod m)
  | 8 => (decTopkMod f.mod).map fun m => .topkc (f.withMod m)
  | _ => none

/-- The rows of OPC 0x34 in the map of R32. -/
def decode34 (fn : Nat) (f : Fmt Nat) : Option Instr :=
  match fn with
  | 0 => (decUnit 0 f.mod).map fun m => .xbmv (f.withMod m)
  | 1 => (decUnit 0 f.mod).map fun m => .xbprog (f.withMod m)
  | 2 => (decUnit 0 f.mod).map fun m => .xbver (f.withMod m)
  | 3 => (decUnit 0 f.mod).map fun m => .xbcal (f.withMod m)
  | 4 => (decUnit 0 f.mod).map fun m => .xbrd (f.withMod m)
  | 5 => (decBool f.mod).map fun m => .xbwr (f.withMod m)
  | _ => none

/-- The rows of OPC 0x35 in the map of R32. -/
def decode35 (fn : Nat) (f : Fmt Nat) : Option Instr :=
  match fn with
  | 0 => (decUnit 0 f.mod).map fun m => .acpt (f.withMod m)
  | 1 => (decUnit 0 f.mod).map fun m => .btest (f.withMod m)
  | _ => none

/-- The rows of OPC 0x38 in the map of R32. -/
def decode38 (fn : Nat) (f : Fmt Nat) : Option Instr :=
  match fn with
  | 0 => (decStackMod f.mod).map fun m => .namo (f.withMod m)
  | 1 => (decStackMod f.mod).map fun m => .namov (f.withMod m)
  | 2 => (decStackMod f.mod).map fun m => .namor (f.withMod m)
  | _ => none

/-- The rows of OPC 0x39 in the map of R32. -/
def decode39 (fn : Nat) (f : Fmt Nat) : Option Instr :=
  match fn with
  | 0 => ((decUnit 1 f.mod).map fun m => .bkmodeOn (f.withMod m)) <|> ((decUnit 0 f.mod).map fun m => .bkmodeOff (f.withMod m))
  | 1 => (decUnit 0 f.mod).map fun m => .bkldr (f.withMod m)
  | 2 => (decBankMod f.mod).map fun m => .bkmac (f.withMod m)
  | 3 => (decBankMod f.mod).map fun m => .bkrd (f.withMod m)
  | _ => none

/-- The rows of OPC 0x3C in the map of R32. -/
def decode3C (fn : Nat) (f : Fmt Nat) : Option Instr :=
  match fn with
  | 0 => ((decUnit 0 f.mod).map fun m => .cpyIn (f.withMod m)) <|> ((decUnit 1 f.mod).map fun m => .cpyOut (f.withMod m))
  | 1 => ((decSwzMod 0 f.mod).map fun m => .cpy2In (f.withMod m)) <|> ((decSwzMod 1 f.mod).map fun m => .cpy2Out (f.withMod m))
  | 2 => (decUnit 0 f.mod).map fun m => .cpyg (f.withMod m)
  | 3 => (decUnit 0 f.mod).map fun m => .cpys (f.withMod m)
  | 4 => (decUnit 0 f.mod).map fun m => .cpyr (f.withMod m)
  | _ => none

/-- The rows of OPC 0x3E in the map of R32. -/
def decode3E (fn : Nat) (f : Fmt Nat) : Option Instr :=
  match fn with
  | 0 => (decBool f.mod).map fun m => .gqw (f.withMod m)
  | 1 => (decBool f.mod).map fun m => .gqr (f.withMod m)
  | 2 => (decBool f.mod).map fun m => .oupd (f.withMod m)
  | _ => none

/-- The opcode map of R32: every OPC it does not list is unassigned (R35). -/
def decodeRow (opc fn : Nat) (f : Fmt Nat) : Option Instr :=
  match opc with
  | 1 => decode01 fn f
  | 2 => decode02 fn f
  | 4 => decode04 fn f
  | 5 => decode05 fn f
  | 6 => decode06 fn f
  | 16 => decode10 fn f
  | 17 => decode11 fn f
  | 20 => decode14 fn f
  | 21 => decode15 fn f
  | 24 => decode18 fn f
  | 25 => decode19 fn f
  | 26 => decode1A fn f
  | 27 => decode1B fn f
  | 28 => decode1C fn f
  | 29 => decode1D fn f
  | 30 => decode1E fn f
  | 32 => decode20 fn f
  | 33 => decode21 fn f
  | 34 => decode22 fn f
  | 35 => decode23 fn f
  | 36 => decode24 fn f
  | 37 => decode25 fn f
  | 38 => decode26 fn f
  | 48 => decode30 fn f
  | 52 => decode34 fn f
  | 53 => decode35 fn f
  | 56 => decode38 fn f
  | 57 => decode39 fn f
  | 60 => decode3C fn f
  | 62 => decode3E fn f
  | _ => none

/-- Format K (R25): MOVI, whose D is of class x and whose bits [67:64] and FN are zero. -/
def decodeMovi (w : Nat) : Option Instr :=
  if bits w 76 8 = 0 ∧ bits w 64 4 = 0 ∧ bits w 73 3 = 0 then
    some (.movi (Pred.ofCode (bits w 84 4)) (Fin.ofNat 32 (bits w 68 5)) (BitVec.ofNat 64 (bits w 0 64)))
  else none

/-- A format-G word: its fields, its row, then every encoding check (R35). -/
def decodeG (w : Nat) : Option Instr :=
  (readG w).bind fun f => (decodeRow (bits w 88 8) (bits w 76 8) f).filter fun i => WellFormed i

/-- The instruction of a 96-bit word, read as a number; none where the word is unassigned or malformed. OPC 0x00 has
the one word 0 (R33). -/
def decodeWord (w : Nat) : Option Instr :=
  if w = 0 then some .nop else if bits w 88 8 = 3 then decodeMovi w else decodeG w

/-- Bytes as a number, the first the least significant (R2). -/
def bytesToNat : List Byte → Nat
  | [] => 0
  | b :: bs => b.toNat + 256 * bytesToNat bs

/-- A number as k bytes, the least significant first (R2). -/
def natToBytes : Nat → Nat → List Byte
  | 0, _ => []
  | k + 1, n => BitVec.ofNat 8 n :: natToBytes k (n / 256)

/-- The instruction that twelve bytes of a line hold (R15). -/
def decodeBytes (bs : List Byte) : Option Instr := if bs.length = 12 then decodeWord (bytesToNat bs) else none

/-- A format-G word (R25). -/
def packG {M : Type} (opc fn mod : Nat) (o : Fmt M) : Nat :=
  o.imm.toNat + 2 ^ 32 * mod + 2 ^ 44 * o.c.code + 2 ^ 52 * o.b.code + 2 ^ 60 * o.a.code + 2 ^ 68 * o.d.code
    + 2 ^ 76 * fn + 2 ^ 84 * o.pred.code + 2 ^ 88 * opc

/-- The 96-bit word of an encoded instruction, as a number; an event has none (R25, R32). -/
def encodeWord : Instr → Option Nat
  | .nop => some 0
  | .movi p d imm => some (imm.toNat + 2 ^ 68 * d.val + 2 ^ 84 * p.code + 2 ^ 88 * 3)
  | .add o => some (packG 1 0 (encIntMod o.mod) o)
  | .sub o => some (packG 1 1 (encIntMod o.mod) o)
  | .mul o => some (packG 1 2 (encIntMod o.mod) o)
  | .mulh o => some (packG 1 3 (encIntMod o.mod) o)
  | .mulhu o => some (packG 1 4 (encIntMod o.mod) o)
  | .div o => some (packG 1 5 (encIntMod o.mod) o)
  | .divu o => some (packG 1 6 (encIntMod o.mod) o)
  | .rem o => some (packG 1 7 (encIntMod o.mod) o)
  | .remu o => some (packG 1 8 (encIntMod o.mod) o)
  | .and o => some (packG 1 9 (encIntMod o.mod) o)
  | .or o => some (packG 1 10 (encIntMod o.mod) o)
  | .xor o => some (packG 1 11 (encIntMod o.mod) o)
  | .shl o => some (packG 1 12 (encIntMod o.mod) o)
  | .shr o => some (packG 1 13 (encIntMod o.mod) o)
  | .sra o => some (packG 1 14 (encIntMod o.mod) o)
  | .min o => some (packG 1 15 (encIntMod o.mod) o)
  | .max o => some (packG 1 16 (encIntMod o.mod) o)
  | .minu o => some (packG 1 17 (encIntMod o.mod) o)
  | .maxu o => some (packG 1 18 (encIntMod o.mod) o)
  | .clz o => some (packG 2 0 (encBool o.mod) o)
  | .ctz o => some (packG 2 1 (encBool o.mod) o)
  | .popc o => some (packG 2 2 (encBool o.mod) o)
  | .bfx o => some (packG 2 3 (encBool o.mod) o)
  | .bfi o => some (packG 2 4 0 o)
  | .lea o => some (packG 2 5 (encLeaMod o.mod) o)
  | .sel o => some (packG 2 6 0 o)
  | .cmp o => some (packG 4 0 (encCondMod o.mod) o)
  | .pand o => some (packG 4 1 0 o)
  | .por o => some (packG 4 2 0 o)
  | .pxor o => some (packG 4 3 0 o)
  | .pnot o => some (packG 4 4 0 o)
  | .pmov o => some (packG 4 5 0 o)
  | .pmovTox o => some (packG 4 5 1 o)
  | .pmovFromx o => some (packG 4 5 2 o)
  | .br o => some (packG 5 0 0 o)
  | .brc o => some (packG 5 1 (encCondMod o.mod) o)
  | .brca o => some (packG 5 2 (encCondMod o.mod) o)
  | .brct o => some (packG 5 3 (encCondMod o.mod) o)
  | .jmp o => some (packG 5 4 0 o)
  | .call o => some (packG 5 5 0 o)
  | .callIndirect o => some (packG 5 5 1 o)
  | .eret o => some (packG 5 6 0 o)
  | .yield o => some (packG 6 0 0 o)
  | .waitt o => some (packG 6 1 0 o)
  | .wfi o => some (packG 6 2 0 o)
  | .lds o => some (packG 16 0 (encSpadMod o.mod) o)
  | .sts o => some (packG 16 1 (encSpadMod o.mod) o)
  | .ldsv o => some (packG 16 2 (encSpadMod o.mod) o)
  | .stsv o => some (packG 16 3 (encSpadMod o.mod) o)
  | .vgaths o => some (packG 16 4 (encSpadMod o.mod) o)
  | .vscats o => some (packG 16 5 (encSpadMod o.mod) o)
  | .ldt o => some (packG 16 6 0 o)
  | .stt o => some (packG 16 7 0 o)
  | .samo o => some (packG 17 0 (encSamoMod o.mod) o)
  | .samon o => some (packG 17 1 (encSamoMod o.mod) o)
  | .ldg o => some (packG 20 0 (encGlobMod o.mod) o)
  | .ldgv o => some (packG 20 1 (encGlobMod o.mod) o)
  | .ldgx o => some (packG 20 2 (encGlobMod o.mod) o)
  | .stg o => some (packG 20 3 (encGlobMod o.mod) o)
  | .stgv o => some (packG 20 4 (encGlobMod o.mod) o)
  | .stgx o => some (packG 20 5 (encGlobMod o.mod) o)
  | .cmb o => some (packG 20 6 (encGlobMod o.mod) o)
  | .cmbv o => some (packG 20 7 (encGlobMod o.mod) o)
  | .cmbx o => some (packG 20 8 (encGlobMod o.mod) o)
  | .mdrain o => some (packG 21 0 (encScopeMod o.mod) o)
  | .mdrainRegion o => some (packG 21 0 8 o)
  | .mresolve o => some (packG 21 1 (encGlobMod o.mod) o)
  | .rgset o => some (packG 21 2 0 o)
  | .rgget o => some (packG 21 3 0 o)
  | .bind o => some (packG 24 0 (encScopeMod o.mod) o)
  | .acq o => some (packG 24 1 0 o)
  | .rel o => some (packG 24 2 0 o)
  | .fence o => some (packG 24 3 (encScopeMod o.mod) o)
  | .bfence o => some (packG 24 4 0 o)
  | .bar o => some (packG 25 0 0 o)
  | .bara o => some (packG 25 1 0 o)
  | .barw o => some (packG 25 2 0 o)
  | .barr o => some (packG 25 3 (encBarrMod o.mod) o)
  | .ftest o => some (packG 26 0 (encBool o.mod) o)
  | .fcancel o => some (packG 26 1 0 o)
  | .fwait o => some (packG 26 2 0 o)
  | .fmovc o => some (packG 26 3 0 o)
  | .send o => some (packG 27 0 (encSendMod o.mod) o)
  | .recv o => some (packG 27 1 0 o)
  | .dqpush o => some (packG 28 0 0 o)
  | .dqpop o => some (packG 28 1 0 o)
  | .dqsplit o => some (packG 28 2 0 o)
  | .dqsteal o => some (packG 28 3 0 o)
  | .widf o => some (packG 29 0 0 o)
  | .lvlrect o => some (packG 29 1 0 o)
  | .launch o => some (packG 29 2 0 o)
  | .trig o => some (packG 29 3 0 o)
  | .end_ o => some (packG 29 4 0 o)
  | .trap o => some (packG 30 0 0 o)
  | .brk o => some (packG 30 1 0 o)
  | .csrr o => some (packG 30 2 0 o)
  | .csrw o => some (packG 30 3 0 o)
  | .csrx o => some (packG 30 4 0 o)
  | .fencei o => some (packG 30 5 0 o)
  | .vadd o => some (packG 32 0 (encVecMod o.mod) o)
  | .vsub o => some (packG 32 1 (encVecMod o.mod) o)
  | .vmul o => some (packG 32 2 (encVecMod o.mod) o)
  | .vfma o => some (packG 32 3 (encVecMod o.mod) o)
  | .vfms o => some (packG 32 4 (encVecMod o.mod) o)
  | .vmin o => some (packG 32 5 (encVecMod o.mod) o)
  | .vmax o => some (packG 32 6 (encVecMod o.mod) o)
  | .vabs o => some (packG 32 7 (encVecMod o.mod) o)
  | .vneg o => some (packG 32 8 (encVecMod o.mod) o)
  | .vdiv o => some (packG 32 9 (encVecMod o.mod) o)
  | .vsqrt o => some (packG 32 10 (encVecMod o.mod) o)
  | .vand o => some (packG 33 0 (encVecMod o.mod) o)
  | .vor o => some (packG 33 1 (encVecMod o.mod) o)
  | .vxor o => some (packG 33 2 (encVecMod o.mod) o)
  | .vshl o => some (packG 33 3 (encVecMod o.mod) o)
  | .vshr o => some (packG 33 4 (encVecMod o.mod) o)
  | .vsra o => some (packG 33 5 (encVecMod o.mod) o)
  | .vcvt o => some (packG 34 0 (encVecMod o.mod) o)
  | .vcmp o => some (packG 35 0 (encVecMod o.mod) o)
  | .vsel o => some (packG 35 1 (encVecMod o.mod) o)
  | .vbcast o => some (packG 36 0 (encVecMod o.mod) o)
  | .vext o => some (packG 36 1 (encVecMod o.mod) o)
  | .vins o => some (packG 36 2 (encVecMod o.mod) o)
  | .vperm o => some (packG 36 3 (encVecMod o.mod) o)
  | .vslide o => some (packG 36 4 (encVecMod o.mod) o)
  | .viota o => some (packG 36 5 (encVecMod o.mod) o)
  | .vsortkv o => some (packG 36 6 (encVecMod o.mod) o)
  | .vredadd o => some (packG 37 0 (encVecMod o.mod) o)
  | .vredmin o => some (packG 37 1 (encVecMod o.mod) o)
  | .vredmax o => some (packG 37 2 (encVecMod o.mod) o)
  | .vpopm o => some (packG 37 3 (encVecMod o.mod) o)
  | .mand o => some (packG 38 0 (encVecMod o.mod) o)
  | .mor o => some (packG 38 1 (encVecMod o.mod) o)
  | .mxor o => some (packG 38 2 (encVecMod o.mod) o)
  | .mnot o => some (packG 38 3 (encVecMod o.mod) o)
  | .mfirst o => some (packG 38 4 (encVecMod o.mod) o)
  | .mma o => some (packG 48 0 (encMatMod o.mod) o)
  | .mmv o => some (packG 48 1 (encMatMod o.mod) o)
  | .acz o => some (packG 48 2 (encMatMod o.mod) o)
  | .acld o => some (packG 48 3 (encMatMod o.mod) o)
  | .acst o => some (packG 48 4 (encMatMod o.mod) o)
  | .mxseed o => some (packG 48 5 0 o)
  | .mxstat o => some (packG 48 6 (encClrMod o.mod) o)
  | .mxthr o => some (packG 48 7 0 o)
  | .topkc o => some (packG 48 8 (encTopkMod o.mod) o)
  | .xbmv o => some (packG 52 0 0 o)
  | .xbprog o => some (packG 52 1 0 o)
  | .xbver o => some (packG 52 2 0 o)
  | .xbcal o => some (packG 52 3 0 o)
  | .xbrd o => some (packG 52 4 0 o)
  | .xbwr o => some (packG 52 5 (encBool o.mod) o)
  | .acpt o => some (packG 53 0 0 o)
  | .btest o => some (packG 53 1 0 o)
  | .namo o => some (packG 56 0 (encStackMod o.mod) o)
  | .namov o => some (packG 56 1 (encStackMod o.mod) o)
  | .namor o => some (packG 56 2 (encStackMod o.mod) o)
  | .bkmodeOn o => some (packG 57 0 1 o)
  | .bkmodeOff o => some (packG 57 0 0 o)
  | .bkldr o => some (packG 57 1 0 o)
  | .bkmac o => some (packG 57 2 (encBankMod o.mod) o)
  | .bkrd o => some (packG 57 3 (encBankMod o.mod) o)
  | .cpyIn o => some (packG 60 0 0 o)
  | .cpyOut o => some (packG 60 0 1 o)
  | .cpy2In o => some (packG 60 1 (encSwzMod 0 o.mod) o)
  | .cpy2Out o => some (packG 60 1 (encSwzMod 1 o.mod) o)
  | .cpyg o => some (packG 60 2 0 o)
  | .cpys o => some (packG 60 3 0 o)
  | .cpyr o => some (packG 60 4 0 o)
  | .gqw o => some (packG 62 0 (encBool o.mod) o)
  | .gqr o => some (packG 62 1 (encBool o.mod) o)
  | .oupd o => some (packG 62 2 (encBool o.mod) o)
  | .landing => none
  | .emptyGroup => none
  | .annulledGroup => none
  | .lineFetch _ _ => none
  | .pageWalkEnd _ => none
  | .interruptEntry _ => none
  | .stopSpacingFault => none
  | .matrixThresholdTrap => none
  | .yieldExpire _ => none
  | .breakpointMatch _ => none
  | .copyTransfer _ => none
  | .copyResolve _ => none
  | .loadServe _ => none
  | .l0MergeCommit _ _ => none
  | .l1Move _ _ _ => none
  | .l2Fold _ _ => none
  | .writeBack _ => none
  | .writeBackCommit _ => none
  | .relCount _ => none
  | .mdrainComplete _ => none
  | .regionCensus _ => none
  | .rggetResolve _ => none
  | .barrierArrive _ => none
  | .barrierAgeRecord _ => none
  | .domainBarrierReport _ _ _ _ => none
  | .domainBarrierComplete _ _ => none
  | .matrixDispatch _ => none
  | .matrixOpDone _ => none
  | .streamBufferFill _ => none
  | .arrayCommandStart _ => none
  | .arrayCommandDone _ => none
  | .rowProgram _ => none
  | .stackCommandPerform _ => none
  | .namorResolve _ => none
  | .bankCommandPerform _ => none
  | .bankAccessPerform _ => none
  | .refresh _ _ => none
  | .tlbinvDone => none
  | .hrevokeDone => none
  | .launchRead _ => none
  | .placementEvaluate _ => none
  | .taskRetire _ => none
  | .checksum _ => none
  | .messageArrive _ => none
  | .sendAck _ => none
  | .stealProbe _ => none
  | .tileArrive _ => none
  | .tileMatch _ => none
  | .swapExchange _ => none
  | .bkctxComplete _ => none
  | .laneRecord _ _ _ _ => none
  | .traceFunnelWrite _ => none
  | .traceTimestamp _ => none
  | .traceLoss _ => none
  | .remoteAck _ => none
  | .flagResend _ _ => none
  | .cycleCompareMatch _ => none
  | .mextComplete => none
  | .unassignedEncoding _ => none
  | .instructionFetchFault _ _ => none
  | .patrolScrub _ _ _ => none
  | .errorEventLog _ _ => none
  | .errorEventExpire _ _ => none
  | .frameRetire _ _ => none
  | .memcfgWrite _ => none
  | .tlbinv _ => none
  | .hrevoke _ => none
  | .regcfgWrite _ _ => none
  | .barageWrite _ => none
  | .partcfgWrite _ _ => none
  | .lportWrite _ _ _ => none
  | .swapGo _ => none
  | .preempt _ => none
  | .doorbell _ _ _ => none
  | .bkctxSave _ _ => none
  | .bkctxRestore _ _ => none
  | .bkctxDiscard _ => none
  | .dbgctlHalt _ => none
  | .dbgctlSoft _ _ => none
  | .dbgctlResume _ => none
  | .dbgvalWrite _ _ => none
  | .mextExtend _ => none
  | .domidWrite _ => none
  | .klstatWrite _ _ => none
  | .flitReceive _ _ _ => none
  | .flagReceive _ _ _ _ _ => none
  | .timeBeat _ => none
  | .tlockLoss => none
  | .thermalHot _ _ => none
  | .thermalTrip => none
  | .powerUp => none
  | .railFail => none
  | .registerWrite _ _ => none
  | .stewardAccess _ _ _ => none
  | .portDown _ => none
  | .taskRemove _ => none

/-- The twelve bytes of an encoded instruction. -/
def encode (i : Instr) : Option (List Byte) := (encodeWord i).map (natToBytes 12)

/-- The host's reading of one word: its low nbits bits, the rest of the 96 zero, laid out as bytes and decoded. -/
def decodeTableWord (nbits w : Nat) : Option Instr := decodeBytes (natToBytes 12 (w % 2 ^ nbits))

end Sys2Proof
end

