-- ==== Sys2Proof/Machine/Map.lean ====
section
/-!
DEFINITION. The operations on a sparse map: what an unlisted key reads as is the argument `d`, and every write keeps the
keys strictly rising and lists no entry equal to `d`, so that equal maps are equal data.
-/
namespace Sys2Proof

/-- The value of key n; `d` where the map lists none. -/
def SMap.get {α : Type} (d : α) : SMap α → Nat → α
  | [], _ => d
  | (k, v) :: r, n => if n = k then v else SMap.get d r n

/-- The listed value of key n, if any. -/
def SMap.find {α : Type} : SMap α → Nat → Option α
  | [], _ => none
  | (k, v) :: r, n => if n = k then some v else SMap.find r n

/-- The map with (n, v) listed. -/
def SMap.put {α : Type} : SMap α → Nat → α → SMap α
  | [], n, v => [(n, v)]
  | (k, w) :: r, n, v => if n < k then (n, v) :: (k, w) :: r else if n = k then (n, v) :: r else (k, w) :: SMap.put r n v

/-- The map without key n. -/
def SMap.del {α : Type} : SMap α → Nat → SMap α
  | [], _ => []
  | (k, w) :: r, n => if n = k then SMap.del r n else (k, w) :: SMap.del r n

/-- Write v at key n: a value equal to what an unlisted key reads as removes the entry. -/
def SMap.set {α : Type} [DecidableEq α] (d : α) (m : SMap α) (n : Nat) (v : α) : SMap α :=
  if v = d then SMap.del m n else SMap.put m n v

/-- Every listed key lies above k, in rising order, and no listed value is `d`. -/
def SMap.wfFrom {α : Type} [DecidableEq α] (d : α) : Option Nat → SMap α → Bool
  | _, [] => true
  | lo, (k, v) :: r => (match lo with | none => true | some l => decide (l < k)) && decide (v ≠ d) && SMap.wfFrom d (some k) r

/-- The canonical form. -/
def SMap.wf {α : Type} [DecidableEq α] (d : α) (m : SMap α) : Bool := SMap.wfFrom d none m

end Sys2Proof
end

