-- ==== Sys2Proof/Config.lean ====
section
/-!
DEFINITION. The free values: what the spec leaves open and the model leaves open too. Each is an opaque constant without a
body, so that nothing can evaluate it and a statement about it holds for every value. The argument `tick` is a counter of
the state that every step advances (log 1, DESIGN CHOICE).
-/
namespace Sys2Proof.Config

/-- Which of the things that can happen next does happen (log 1, DESIGN CHOICE). -/
opaque choice : Nat → Nat

/-- What the event that happens leaves open beside that: which of several elements comes first, a count or a number of bytes, whether
a link trains (logs 1, 36, 41 and 42, DESIGN CHOICE). -/
opaque outcome : Nat → Nat

/-- How many clk a step takes (log 2, DESIGN CHOICE). -/
opaque elapsed : Nat → Nat

/-- A byte of a memory block whose payload is undefined (R68; log 10, DESIGN CHOICE): by PA and tick. -/
opaque undefinedByte : Nat → Nat → Byte

/-- A byte of a POISON block of a scratchpad, as an engine reads it (R68; log 10, DESIGN CHOICE): by address and tick. -/
opaque freeByte : Nat → Nat → Byte

/-- What a copy, or a stream of weights, reads on another device: bytes and block tags, by tick and place (log 11, DESIGN CHOICE). -/
opaque remoteByte : Nat → Nat → Byte
opaque remoteTag : Nat → Nat → BitVec 16

/-- What a bank command has that its record in a save area does not hold (R298; log 31, DESIGN CHOICE): by tick and place. -/
opaque unrecorded : Nat → Nat → Nat

/-- A scratchpad word that becomes uncorrectable, by core, context and number (R103; log 14, DESIGN CHOICE). -/
opaque upset : Nat → Option (Nat × Bool × Nat)

/-- An ECC error that arises in HBM (R82; log 87, DESIGN CHOICE): the block, whether it is uncorrectable, the syndrome. -/
opaque flaw : Nat → Option (Nat × Bool × Nat)

/-- The ECC syndrome of a scratchpad word (R356; log 87, DESIGN CHOICE). -/
opaque syndrome : Nat → Nat

/-- The width of a field of the work identifier that the steward gave a cox core's threads (R303; log 29, DESIGN CHOICE). -/
opaque coxWidth : Nat → Nat → Nat

/-- Which TLB entry makes room for a new one (log 15, DESIGN CHOICE). -/
opaque victim : Nat → Nat

/-- The temperature that a Pewter array reads when it starts a command, in quarters of a degree (log 12, DESIGN CHOICE). -/
opaque arrayTemperature : Nat → Nat → Int

/-- The analogue output of a Pewter product: by tick and column (log 9, DESIGN CHOICE). -/
opaque arrayOutput : Nat → Nat → Int

/-- Whether a row that was programmed verifies (log 13, DESIGN CHOICE). -/
opaque rowVerifies : Nat → Nat → Bool

/-- The code that the failed row keeps at a column (log 13, DESIGN CHOICE). -/
opaque rowCode : Nat → Nat → Int

/-- Whether a calibration converges, and the GAIN and OFFSET it finds (log 13, DESIGN CHOICE). -/
opaque calibrates : Nat → Bool
opaque calibratedGain : Nat → Nat → BitVec 16
opaque calibratedOffset : Nat → Nat → BitVec 16

/-- The die temperature that the thermal monitor shows (log 12, DESIGN CHOICE). -/
opaque dieTemperature : Nat → Nat → BitVec 16

/-- A duration that DLYn measures (R384; log 2, DESIGN CHOICE). -/
opaque delay : Nat → Nat

/-- What NOR flash and UFS hold where nothing has programmed them, and where the images of a boot stage lie (R371; log 19, DESIGN CHOICE). -/
opaque flashByte : Nat → Byte
opaque storageByte : Nat → Byte
opaque imagePlace : Nat → Nat → Nat

/-- The fuses: the key hash and the minimum version of a boot stage (R372; log 19, DESIGN CHOICE). -/
opaque fusedKey : Nat → BitVec 384
opaque fusedVersion : Nat → Nat

/-- Whether training or bring-up fails, and the error code of a boot stage that fails (R371; log 19, DESIGN CHOICE). -/
opaque bootFails : Nat → Bool
opaque bootError : Nat → Nat → Nat

/-- What a boot stage measures beside an image that was accepted: the training configuration of stage 3, the compute-mesh images of
stage 5 (R373; log 19, DESIGN CHOICE). -/
opaque measured : Nat → Nat → List Byte

/-- The device identity key, derived from a fused secret, and the number that a signature draws (R373; log 19, DESIGN CHOICE). -/
opaque identityKey : Nat
opaque signatureNonce : Nat → Nat

/-- The module power that PWRSTAT shows (R390; log 12, DESIGN CHOICE). -/
opaque modulePower : Nat → Nat

end Sys2Proof.Config
end

