-- ==== Sys2Proof/Machine/State.lean ====
section
/-!
DEFINITION. The machine's state as plain data: everything spec/ gives the module, agent by agent, and after it
`State.reset`. A numbered collection is a sparse map; what an unlisted number reads as is the `initial` value of its type.
-/
namespace Sys2Proof.Machine

/-! ## Registers and threads -/

/-- R115: the three states of an x, v, c or inbox register; a faulted one holds the recorded cause and TVAL. -/
inductive RState where
  | present
  | pending
  | faulted (cause : Nat) (tval : Word)
deriving DecidableEq, Repr

/-- A register with presence and B bit (R113, R115). -/
structure RCell (w : Nat) where
  val : BitVec w
  b : Bool
  st : RState
deriving DecidableEq, Repr

/-- R113: 0, present, B 0. -/
def RCell.initial (w : Nat) : RCell w := ⟨0, false, .present⟩

/-- R140: an entry of the fetch queue. `tgt`: a transfer of control
placed it, so the TGT check of R24 applies. -/
structure QEntry where
  pc : Word
  an : Bool
  sq : Bool
  tgt : Bool
deriving DecidableEq, Repr

/-- R116, R153: a write in flight; it lands before the rem-th group that issues from now on. -/
structure Landing where
  dest : Reg
  value : VWord
  b : Bool
  rem : Nat
deriving DecidableEq, Repr

/-- The line a thread issues from (R15, R18): its address, its 64 bytes, and whether the line word was checked. -/
structure LineBuf where
  va : Nat
  bytes : List Byte
  checked : Bool
deriving DecidableEq, Repr

/-- The access kinds of R79. -/
inductive Access where
  | fetch | load | store | bank
deriving DecidableEq, Repr

/-- A page walk that ended in a fault, for the access that waits for it (R79, R80). -/
structure WalkFault where
  va : Nat
  kind : Access
  cause : Nat
deriving DecidableEq, Repr

/-- What a fence waits for: operations of the thread, and the entries that one path held up to a serial (R245, R261). -/
structure FenceWait where
  ops : List Nat
  src : Nat
  upto : Nat
deriving DecidableEq, Repr

/-- What a thread does once its fence is complete. -/
inductive After where
  | nothing
  | invalidate
  | launch (task : Nat)
  | trigger
deriving DecidableEq, Repr

/-- R249, R250: an arrival whose fence is under way: the barrier id, the object that counts it, and what a BARR brings. -/
structure Arrival where
  id : Nat
  obj : Nat
  reduce : Option (BarrOp × BitVec 8)
  payload : Word
  dest : Reg
deriving DecidableEq, Repr

/-- R112: what a thread waits for. A group that parks before issue is tried again at each turn; `fence`, `barrier` and
`service` stand after a group that issued (`service` also while its matrix operation has not started); `judged` is the hold
before issue of R234 and R270. -/
inductive Wait where
  | none
  | line
  | walk (va : Nat) (kind : Access)
  | held
  | fence (f : FenceWait) (after : After)
  | arrive (f : FenceWait) (a : Arrival)
  | barrier (obj : Nat) (phase : BitVec 32)
  | service
  | judged
deriving DecidableEq, Repr

/-- R146: a thread rests after a YIELD or a WFI, beside what else it waits for. -/
inductive Pause where
  | none
  | yield
  | wfi
deriving DecidableEq, Repr

/-- R299, R154, R310: what a thread is doing. -/
inductive Run where
  | idle | running | stopped | ended
deriving DecidableEq, Repr

/-- The outcome of a check that another unit makes for a group that stands before issue: matrix service start (R186),
region census (R270), the controller's tag check (R234). -/
inductive Verdict where
  | waiting
  | pass (value : Word)
  | trap (cause : Nat) (tval : Word)
deriving DecidableEq, Repr

/-- A register as a source: value, B bit, and its state (R115). -/
structure Src where
  val : VWord
  b : Bool
  st : RState
deriving DecidableEq, Repr

/-- R36, R112: a group that passed steps 1 to 7 and stands before its end: its instructions, the c and q registers that its
words name, and the x registers (with the predicate, and whether as the destination), and, once another unit judges it (R22),
what it read of them, the q registers whose room it keeps, the link that a CALL in it saves (R144), and what its ERET read in
TSAVE. `doomed`: its other slot traps, and the unit only judges (R22). `light`: it holds no instruction of class E, B or Y and names no q register (R10). -/
structure Held where
  lo : Instr
  hi : Option Instr
  named : List (Pred × Bool × Reg)
  light : Bool
  taken : List (Reg × Src)
  rooms : List Nat
  link : Option Word
  reload : Option (List Landing)
  doomed : Bool
deriving DecidableEq, Repr

/-- R87-R97: a copy: its function, direction and swizzle, the handle reference and its entry, the scratchpad side, the rows
and their pitches, the index list (for CPYR the source), the targets, the index of the row in progress, how far it has come,
what the transfer in progress has read, the tags of the blocks of its line (R94) and how much of it is written, and the destination blocks that it has filled in part:
the one source block they are fed from, where there is only one, and the bytes (a bit each). -/
structure CopyOp where
  fn : Nat
  out : Bool
  swz : Bool
  handle : Word
  entry : BitVec 128
  spad : Nat
  length : Nat
  rows : Nat
  hpitch : Nat
  pitch : Nat
  list : Nat
  mask : Nat
  index : Nat
  next : Nat
  buf : List (Byte × BitVec 16)
  lineTags : List (BitVec 16)
  done : Nat
  fills : List (Nat × Option Nat × Nat)
  poison : Option Nat
  status : Option Nat
deriving DecidableEq, Repr

/-- A copy that has not begun. -/
def CopyOp.initial : CopyOp := ⟨0, false, false, 0, 0, 0, 0, 1, 0, 0, 0, 0, 0, 0, [], [], 0, [], none, none⟩

/-- A hardware thread of one context (R113, R140-R154, R343, R346). -/
structure Thread where
  x : SMap (RCell 64)
  v : SMap (RCell 256)
  m : SMap (BitVec 32)
  p : SMap Bool
  landing : List Landing
  q0 : QEntry
  q1 : QEntry
  q2 : QEntry
  line : Option LineBuf
  stop : Nat
  ien : BitVec 16
  lbn : BitVec 3
  pie : Bool
  ie : Bool
  phm : Bool
  hm : Bool
  tvec : Word
  tcause : Word
  tval : Word
  tepc0 : Word
  tepc1 : Word
  tepc2 : Word
  stopmax : BitVec 12
  icount : Word
  icmp : Word
  cyccmp : Word
  ipDb : Bool
  ipDbo : Bool
  ipPrq : Bool
  ipDbg : Bool
  dbval : Word
  fpflags : BitVec 5
  rank : Word
  taskid : BitVec 32
  accepts : Word
  xbinj : Word
  dly : SMap Word
  ndly : Word
  run : Run
  wait : Wait
  pause : Pause
  walkFaults : List WalkFault
  group : Option Held
  verdict : Option Verdict
  copyHeld : Option CopyOp
  thresholds : List (Nat × Nat)
  triggered : Bool
  relSeq : SMap (BitVec 32)
  resumed : Bool
deriving DecidableEq, Repr

/-- R140: an empty queue entry. -/
def QEntry.initial : QEntry := ⟨0, false, false, false⟩

/-- The launch values of R113 and the reset column of the CSR tables; a thread that no launch has started is idle (log 5, DESIGN CHOICE). -/
def Thread.initial : Thread where
  x := []
  v := []
  m := []
  p := []
  landing := []
  q0 := .initial
  q1 := .initial
  q2 := .initial
  line := none
  stop := 0
  ien := 0x0A00
  lbn := 0
  pie := false
  ie := false
  phm := false
  hm := false
  tvec := 0
  tcause := 0
  tval := 0
  tepc0 := 0
  tepc1 := 0
  tepc2 := 0
  stopmax := 24
  icount := 0
  icmp := 0
  cyccmp := 0
  ipDb := false
  ipDbo := false
  ipPrq := false
  ipDbg := false
  dbval := 0
  fpflags := 0
  rank := 0
  taskid := 0
  accepts := 0
  xbinj := 0
  dly := []
  ndly := 0
  run := .idle
  wait := .none
  pause := .none
  walkFaults := []
  group := none
  verdict := none
  copyHeld := none
  thresholds := []
  triggered := false
  relSeq := []
  resumed := false

/-! ## Runs and merge space -/

/-- R224: the kinds of a run entry. -/
inductive EntryKind where
  | set | combine | poison
deriving DecidableEq, Repr

/-- R221, R224, R260: a run entry with its region id and the partition, context and core that inserted it. -/
structure RunEntry where
  key : Nat
  kind : EntryKind
  value : Int
  region : Nat
  part : Nat
  ctx : Bool
  core : Nat
deriving DecidableEq, Repr

/-- An L2 entry, with the time of its last fold: the slice writes back the least recently folded ones first (R259). -/
structure L2Entry where
  entry : RunEntry
  folded : Nat
deriving DecidableEq, Repr

/-- What travels on a path to a slice (R261): the moved entries of one key, which commit together (R260), the SETs of MRESOLVE with its operation (R269), or a lane of a
load with what it found in L0 and L1 (R222). -/
inductive PathItem where
  | entries (es : List RunEntry)
  | resolve (op : Nat) (es : List RunEntry)
  | load (op : Nat) (lane : Nat)
deriving DecidableEq, Repr

/-- R261: an item on the path from a cluster (0-255) or a cox core (256 + number - 2048) to a slice. -/
structure PathEntry where
  src : Nat
  slice : Nat
  serial : Nat
  item : PathItem
deriving DecidableEq, Repr

/-! ## Cores -/

/-- R127, R322, R323: a message that waits, with its sender, the task that sent it and its TASKID. -/
structure Message where
  inbox : Nat
  value : Word
  b : Bool
  core : Nat
  thr : Nat
  task : Option Nat
  taskid : BitVec 32
deriving DecidableEq, Repr

/-- R76-R80: a cached leaf: partition, context, first VA and size, and the leaf's fields. -/
structure TlbEntry where
  part : Nat
  ctx : Bool
  va : Nat
  size : Nat
  pa : Nat
  rdev : Nat
  region : Nat
  ex : Bool
  wr : Bool
  rd : Bool
  cls : Nat
deriving DecidableEq, Repr

/-- R175-R177: the operation of one core that waits in a dispatch queue or is in service: its instruction, the operand words
that its group read, its future, and from the start of its service the word it will answer with and the counters of a set
that crossed (R185). -/
structure MatrixCmd where
  core : Nat
  ctx : Bool
  thr : Nat
  instr : Instr
  pc : Word
  a : Word
  b : Word
  c : Word
  op : Option Nat
  status : Word
  cross : Option (Nat × Nat)
deriving DecidableEq, Repr

/-- R176, R185: the counter set of one slot. -/
structure Counters where
  sat : BitVec 16
  nan : BitVec 16
  bso : BitVec 16
  b : Bool
deriving DecidableEq, Repr

/-- No count, B 0. -/
def Counters.initial : Counters := ⟨0, 0, 0, false⟩

/-- R332-R335: a tile that stands in a cox core's queue buffer: core and queue, its sender, its bytes. -/
structure Tile where
  queue : Nat
  sender : Nat
  op : Nat
  bytes : List Byte
deriving DecidableEq, Repr

/-- R124: a write to a c register that its own thread sees and the others do not see yet. -/
structure CWrite where
  thr : Nat
  reg : Fin 8
  value : Word
  b : Bool
deriving DecidableEq, Repr

/-- What the threads of one core share, per context (R113, R125, R127, R176, R221, R324); a column generator is kept as its
difference from LfsrLoad of its number. -/
structure CoreCtx where
  c : SMap (RCell 64)
  cnew : List CWrite
  q : SMap (List (Word × Bool))
  inbox : SMap (RCell 64)
  waiting : List Message
  spad : SMap Byte
  tags : SMap (BitVec 16)
  badWords : List Nat
  acc : SMap (BitVec 16)
  counters : SMap Counters
  gens : SMap (BitVec 32)
  mxthr : Word
  dispatch : List MatrixCmd
  l0 : List RunEntry
  port : List RunEntry
  merging : Bool
  deque : List Word
  reserved : Nat
deriving DecidableEq, Repr

/-- R113, R127, R176, R221, R324 at launch (log 6, DESIGN CHOICE; log 7, DESIGN CHOICE). -/
def CoreCtx.initial : CoreCtx where
  c := []
  cnew := []
  q := []
  inbox := []
  waiting := []
  spad := []
  tags := []
  badWords := []
  acc := []
  counters := []
  gens := []
  mxthr := 0
  dispatch := []
  l0 := []
  port := []
  merging := false
  deque := []
  reserved := 0

/-- R379: the debug block of a core. -/
structure Debug where
  halted : Bool
  dbp : SMap Word
  dwp : SMap Word
  dbgsel : Word
deriving DecidableEq, Repr

/-- R379: all zero. -/
def Debug.initial : Debug := ⟨false, [], [], 0⟩

/-- What a core has beside its contexts: the round robin, the threads that issued in its last turn and the clk of that (R111), the caches (R11, R80), the debug block (R379), whether a
swap holds it (R361), and its gradient queues (R332). -/
structure Core where
  last : Nat
  issued : List Nat
  issuedAt : Word
  tlb : List TlbEntry
  icache : List (Nat × List Byte)
  dbg : Debug
  out : Bool
  trace : List (BitVec 128)
  traceLost : Nat
  stamped : Word
deriving DecidableEq, Repr

/-- Empty caches; the round robin starts at thread 0 (log 5, DESIGN CHOICE). -/
def Core.initial : Core := ⟨7, [], 0, [], [], .initial, false, [], 0, 0⟩

/-- A cluster: L1 by key and context, the cluster TLB and instruction cache, the core whose copy its engine served last
(R87), and the trace funnel with the core it took last (R221, R80, R383). The engine and the instruction cache that the cox
cores of a stack share (R10) stand under number 256 + stack. -/
structure Cluster where
  l1 : List RunEntry
  tlb : List TlbEntry
  icache : List (Nat × List Byte)
  copyLast : Nat
  trcbase : Word
  trcctl : Word
  trcLast : Nat
deriving DecidableEq, Repr

/-- Empty; TRCBASE and TRCCTL zero (R383); the round robins start at core 0 (log 5, DESIGN CHOICE). -/
def Cluster.initial : Cluster := ⟨[], [], [], 7, 0, 0, 7⟩

/-- R80: a page walk that waits for a walker of its die or has one: the partition, the thread that missed first, and the VA. -/
structure Walk where
  part : Nat
  owner : ThreadId
  va : Nat
deriving DecidableEq, Repr

/-! ## Operations in flight -/

/-- R233: how the lanes of a global load make its register. -/
structure LoadFmt where
  vec : Bool
  w64 : Bool
  fc : Fc
  sx : Bool
  lw : Nat
  base : VWord
  baseB : Bool
deriving DecidableEq, Repr

/-- What a lane of a load came to. -/
inductive LaneResult where
  | waiting
  | value (n : Int) (b : Bool)
  | fault (cause : Nat) (tval : Word)
deriving DecidableEq, Repr

/-- One element of a load: the lane (and the half, for a 64-bit access of a BITS32 region), its width in bytes, its place,
class, device and region, and what the load found in L0 and L1 at issue, oldest first (R222, R229, R235); `fixL`: the L of the
region with which the lane was composed and fitted (R230). -/
structure LaneReq where
  lane : Nat
  half : Nat
  width : Nat
  pa : Nat
  va : Nat
  cls : Nat
  rdev : Nat
  region : Nat
  view : List RunEntry
  result : LaneResult
  fixL : Int
deriving DecidableEq, Repr

/-- R233, R235: an element of a plain store to a BANK page. -/
structure ElemReq where
  lane : Nat
  pa : Nat
  va : Nat
  data : Word
deriving DecidableEq, Repr

/-- R277, R298: a STACK command as it stands at its SAU; `dreg` is the index of its D. -/
structure StackCmd where
  fn : Nat
  op : StackOp
  w64 : Bool
  mod : Nat
  imm : BitVec 32
  ea : Word
  pa : Nat
  value : VWord
  active : Nat
  pc : Word
  dreg : Nat
deriving DecidableEq, Repr

/-- R289-R292, R298: a BANK command as it stands at its SAU; `step` counts the column steps of a walk in progress, and the bytes
that a BKRD has written; `dreg` is the index of its D. -/
structure BankCmd where
  fn : Nat
  on : Bool
  ea : Word
  pa : Nat
  data : List Byte
  xs : Nat
  n : Nat
  a0 : Nat
  imm : BitVec 32
  started : Bool
  step : Nat
  dreg : Nat
deriving DecidableEq, Repr

/-- A word that the matrix unit or an array stores: the core, the address, the bytes, and the tag that it gives its block (R188,
R210). -/
structure UnitStore where
  core : Nat
  addr : Nat
  bytes : List Byte
  tag : Option (BitVec 16)
deriving DecidableEq, Repr

/-- R207-R214: a command of a Pewter array; once it is performed, what it has still to write and the word it answers with. `clk`: CYCLE when it issued (R200). -/
structure ArrayCmd where
  arr : Nat
  fn : Nat
  a : Nat
  b : Nat
  row0 : Nat
  n : Nat
  all : Bool
  marked : Bool
  started : Bool
  data : List Byte
  rows : Nat
  outs : List UnitStore
  answer : Option Word
  clk : Word
deriving DecidableEq, Repr

/-- R243, R376: how far a REL has come: it waits for acknowledgements, then for its moves, then (DOMAIN) for its flags. -/
inductive RelStage where
  | acks | moves | flags
deriving DecidableEq, Repr

/-- R243, R376: a REL: its object, what its stage waits for, the entries it moved out of L0, the devices whose flags are
not acknowledged, with the number each flag carries, and when its moves were complete. -/
structure RelOp where
  obj : Nat
  stage : RelStage
  wait : FenceWait
  count : Nat
  flags : List (Nat × BitVec 32)
  moved : Nat
deriving DecidableEq, Repr

/-- What an operation in flight is (R119). -/
inductive OpKind where
  | load (fmt : LoadFmt) (lanes : List LaneReq)
  | bankStore (width : Nat) (elems : List ElemReq) (b : Bool) (checked : Bool)
  | remoteUpdate (rdev : Nat) (pa : Nat) (kind : EntryKind) (value : Int) (region : Nat)
  | resolve (rdev : Option Nat) (va : Word)
  | copy (c : CopyOp)
  | matrix (mmv : Bool)
  | array (c : ArrayCmd)
  | stack (c : StackCmd) (done : Option Word)
  | bank (c : BankCmd)
  | rel (r : RelOp)
  | mdrain (toL2 toL1 moved : Bool) (w : FenceWait) (count : Nat)
  | mdrainRegion (region : Nat) (slices : Nat) (count : Nat)
  | rgget (region : Nat)
  | barr (obj : Nat) (phase : BitVec 32)
  | launch (task : Nat)
  | gqw (core queue : Nat) (fp32 : Bool) (word : Word) (bytes : List Byte)
  | gqr (queue : Nat) (sender : Option Nat) (dst : Nat)
  | delivery (queue : Nat) (dst : Nat) (sender : Nat) (rest : List Byte)
  | steal (walk : Bool) (victims : List Nat) (probed : Bool) (task : Option Nat)
  | send (dst : Nat) (m : Message) (arrived : Bool)
  | stewardLoad (hart : Nat) (l : HartLoad) (pa : Nat)
deriving DecidableEq, Repr

/-- R119, R123: an operation in flight, the thread that issued it, the register bound to it (an x or v register of the
thread, or a c register of its core), and the PC of its instruction, 0 where an event began it (R356). -/
structure Op where
  id : Nat
  core : Nat
  ctx : Bool
  thr : Nat
  dest : Option Reg
  cancelled : Bool
  pc : Word
  kind : OpKind
deriving DecidableEq, Repr

/-! ## Engines, stacks and objects -/

/-- R181, R197: an operation in service reads its operands, word by word, and then writes its outputs. -/
inductive Serving where
  | reading | writing
deriving DecidableEq, Repr

/-- R175, R181, R187: the matrix unit of a quad: the operation in service, the core it served last, the operation whose weights
the stream buffer holds, and what the operation in service still has to read (core and address), the bytes it has read, the tags
that it read at its start, and what it still has to write. -/
structure Quad where
  service : Option MatrixCmd
  last : Nat
  filled : Option Nat
  fill : List (List Byte × BitVec 16)
  stage : Serving
  todo : List (Nat × Nat)
  got : SMap Byte
  seen : SMap (BitVec 16)
  outs : List UnitStore
deriving DecidableEq, Repr

/-- Nothing in service; the round robin starts at core 0 of the quad (log 5, DESIGN CHOICE). -/
def Quad.initial : Quad := ⟨none, 3, none, [], .reading, [], [], [], []⟩

/-- R198-R205: a Pewter array. -/
structure PewterArray where
  w : SMap Int
  scale : SMap (BitVec 16)
  gain : SMap (BitVec 16)
  offset : SMap (BitVec 16)
  tcal : BitVec 16
  calibrated : Bool
  drift : BitVec 16
  driftcol : BitVec 16
  endur : BitVec 32
  maxrow : BitVec 32
  rowCount : SMap Nat
deriving DecidableEq, Repr

/-- R198, R204: STATE 2; what the spec says is kept through power loss is the model's at first power-up (log 8, DESIGN CHOICE). -/
def PewterArray.initial : PewterArray := ⟨[], [], [], [], 0, false, 0, 0, 0, 0, []⟩

/-- R273, R285, R294, R295: a pseudo-channel: all-bank mode (SID, owner's core and context), BMU registers by SID, bank and lane or
index, the SAU's queue and the commands that stand in a save area, as operations, the accesses that came while it was closed,
the reservation and BKCTX, and the postponed refreshes by SID and bank. -/
structure PseudoChannel where
  mode : Option (Nat × Nat × Bool)
  xreg : SMap (BitVec 16)
  acc : SMap (BitVec 32)
  queue : List Nat
  saved : List Nat
  waiting : List Nat
  rsv : Bool
  err : Bool
  busy : Bool
  op : Nat
  area : Nat
  debt : SMap Nat
  early : List (Nat × List Nat)
deriving DecidableEq, Repr

/-- Mode off, registers zero, nothing queued (R289, R295). -/
def PseudoChannel.initial : PseudoChannel := ⟨none, [], [], [], [], [], false, false, false, 0, 0, [], []⟩

/-- R241: a sync object. A range is a PA, a length and, for another device, its number. -/
structure SyncObject where
  bound : Bool
  scope : Scope
  rect : Word
  ranges : List (Nat × Nat × Option Nat)
  seq : BitVec 32
deriving DecidableEq, Repr

/-- R241 at launch: unbound, SEQ 0. -/
def SyncObject.initial : SyncObject := ⟨false, .thread, 0, [], 0⟩

/-- What the open phase of a barrier holds so far (R250): only plain arrivals, or BARR arrivals of one operation. -/
inductive PhaseKind where
  | empty
  | plain
  | reduce (op : BarrOp) (l : BitVec 8)
deriving DecidableEq, Repr

/-- R248-R251, R377: a barrier object, with the payloads that its own device's arrivals brought and those that were reported
to it. -/
structure Barrier where
  id : Nat
  count : Nat
  phase : BitVec 32
  arrived : Nat
  kind : PhaseKind
  payloads : List Word
  reported : List Word
  opened : Word
  recorded : Bool
  part : Nat
  ctx : Bool
deriving DecidableEq, Repr

/-- R248: PH 0, A 0. -/
def Barrier.initial : Barrier := ⟨0, 0, 0, 0, .empty, [], [], 0, false, 0, false⟩

/-- R307, R310, R311, R316, R299: where a task stands: its LAUNCH fences, it waits at the intake, its data is read, it is
queued, it is placed, it has been drained and its outputs are to be summed, they are summed. -/
inductive TaskStage where
  | fencing | intake | reading | queued | placed | retiring | summed
deriving DecidableEq, Repr

/-- R299-R319: a task: its header and images as read, its place, its objects, and the state of its trigger. -/
structure Task where
  id : Nat
  part : Nat
  ctx : Bool
  op : Option Nat
  stage : TaskStage
  header : BitVec 1024
  ref : Option Word
  shape : List Byte
  spad : List (List Byte × BitVec 16)
  regions : List (Nat × BitVec 128)
  x : Nat
  y : Nat
  sync0 : Nat
  sync1 : Nat
  barriers : List (Nat × Nat)
  triggered : Nat
  removed : Bool
deriving DecidableEq, Repr

/-- R315, R360: a partition. -/
structure Partition where
  v : Bool
  err : Bool
  res : Bool
  split : Bool
  x0 : BitVec 4
  y0 : BitVec 4
  x1 : BitVec 4
  y1 : BitVec 4
  swapErr : Bool
  swapping : Bool
  haltclk : BitVec 16
  moveclk : BitVec 16
deriving DecidableEq, Repr

/-- R315, R360: all zero. -/
def Partition.initial : Partition := ⟨false, false, false, false, 0, 0, 0, 0, false, false, 0, 0⟩

/-- R76, R85, R266, R317, R354, R385: the registers of a partition context, and of each spilled message the task that sent it, with
its TASKID (log 49, DEDUCED). -/
structure PartCtx where
  ptroot : Word
  htbase : Word
  htcount : Word
  own : BitVec 256
  ovf : Bool
  msgsave : Word
  spilled : Nat
  spillers : List (Option Nat × BitVec 32)
  dead : BitVec 32
  flane : Word
  fidx : Word
  rlane : Word
  ridx : Word
  cklist : Word
  ckcnt : Word
deriving DecidableEq, Repr

/-- All zero (log 5, DESIGN CHOICE). -/
def PartCtx.initial : PartCtx := ⟨0, 0, 0, 0, false, 0, 0, [], 0, 0, 0, 0, 0, 0, 0⟩

/-- R353, R355: a record on its way to a lane: the unit that made it, the partition context and the lane. -/
structure Record where
  unit : Nat
  part : Nat
  ctx : Bool
  fatal : Bool
  bits : BitVec 512
deriving DecidableEq, Repr

/-- R374, R376: a Kamelm port, and the devices that its switch reports as unreachable. -/
structure Port where
  up : Bool
  lasting : Bool
  en : Bool
  lost : List Nat
deriving DecidableEq, Repr

/-- R374: EN 1, the rest 0. -/
def Port.initial : Port := ⟨false, false, true, []⟩

/-- R368: what a steward core's latest load came to: nothing yet, its data, or an error response, with which the hart takes a
RISC-V access-fault exception. -/
inductive Answer where
  | nothing
  | data (value : Word)
  | fault
deriving DecidableEq, Repr

/-- R368: a hart of the steward complex, as the RISC-V standard has it: its pc, its integer, floating-point and vector registers,
its privilege and its CSRs by number, with what its latest load came to. Which instructions it executes, and what those that stay
within it compute, is an input (log 110, PRESUMED). -/
structure Hart where
  answer : Answer
  pc : Word
  x : SMap Word
  f : SMap Word
  v : SMap (List Byte)
  priv : Nat
  csr : SMap Word
deriving DecidableEq, Repr

/-- Machine mode, nothing loaded; `mstatus` says that both lower modes are 64 bits wide and `misa` names RV64GCV with S and U, and
everything else is zero (log 110, PRESUMED). -/
def Hart.initial : Hart := ⟨.nothing, 0, [], [], [], 3, [(0x300, 0xA00000000), (0x301, 0x800000000034112D)]⟩

/-- What became of the group that issues now, slot by slot. -/
inductive Status where
  | running
  | trapped
  | parked
  | queued
deriving DecidableEq, Repr

/-- What a slot leaves to be done when its group commits (R22): a register becomes pending on an operation, or FMOVC
clears its source and fills its c register. -/
inductive Post where
  | pend (r : Reg)
  | clear (n : Fin 32)
  | store (n : Fin 8) (c : RCell 64)
deriving DecidableEq, Repr

/-- The group that a thread issues: the PC of the slot in progress, how many writes its landing buffer
held, and what its slots asked for. This is the model's own record, empty between steps. -/
structure Issue where
  pc : Word
  status : Status
  redirect : Option Word
  annul : Bool
  noAdvance : Bool
  keepCount : Bool
  post : List Post
  held : Nat
  doomed : Bool
deriving DecidableEq, Repr

/-- No group in progress. -/
def Issue.initial : Issue := ⟨0, .running, none, false, false, false, [], 0, false⟩

/-- The whole module. Keys: a thread is (core x 2 + context) x 8 + thread, a core context is core x 2 + context, a partition
context is partition x 2 + context. -/
structure State where
  cur : ThreadId
  iss : Issue
  threads : SMap Thread
  walks : List Walk
  ctxs : SMap CoreCtx
  cores : SMap Core
  clusters : SMap Cluster
  quads : SMap Quad
  arrays : SMap PewterArray
  hbm : SMap Byte
  blockTags : SMap (BitVec 16)
  weak : List (Nat × Bool × Nat)
  l2 : SMap L2Entry
  wbuf : SMap RunEntry
  paths : List PathEntry
  serial : Nat
  regions : SMap (BitVec 128)
  regionLock : Option (Nat × Word × ThreadId)
  ops : List Op
  nextOp : Nat
  pchs : SMap PseudoChannel
  syncs : SMap SyncObject
  barriers : SMap Barrier
  domReports : SMap Nat
  tiles : List Tile
  gqcfg : SMap Word
  tasks : List Task
  nextTask : Nat
  parts : SMap Partition
  pctxs : SMap PartCtx
  records : List Record
  stewardLog : List (BitVec 512)
  errors : List (ErrSource × Nat)
  lasting : List ErrSource
  retired : List Nat
  outCores : List Nat
  cycle : Word
  timeOff : Int
  sinceFix : Nat
  sinceBeat : Nat
  memcfg : Word
  tlbinv : Word
  tlbinva : Word
  hrevoke : Word
  barage : Word
  dbarcnt : SMap (BitVec 32)
  ports : SMap Port
  domid : Word
  flagsSeen : SMap (BitVec 32)
  packetsSeen : List (Nat × Nat)
  interrupts : List Nat
  nor : SMap Byte
  ufs : SMap Byte
  bootStage : Nat
  bootErr : Nat
  bootFailed : Bool
  rootPort : Bool
  meas : SMap (BitVec 384)
  digest : SMap Word
  mext : Option Nat
  hot : Bool
  pwr : BitVec 16
  tdie0 : BitVec 16
  tdie1 : BitVec 16
  powered : Bool
  harts : SMap Hart
  svns : SMap Nat
  etherUp : List Nat
  attested : Option (List Byte × Nat × Nat)
  fenced : List Nat
  inputs : List Instr
  tick : Nat
deriving DecidableEq, Repr

/-- The machine right after module reset: every field at the value the spec states, or at the value a log entry names (log 4, DESIGN CHOICE; log 5, DESIGN CHOICE; log 6, DESIGN CHOICE; log 7, DESIGN CHOICE). -/
def State.reset : State where
  cur := ⟨0, false, 0⟩
  iss := .initial
  threads := []
  walks := []
  ctxs := []
  cores := []
  clusters := []
  quads := []
  arrays := []
  hbm := []
  blockTags := []
  weak := []
  l2 := []
  wbuf := []
  paths := []
  serial := 0
  regions := []
  regionLock := none
  ops := []
  nextOp := 1
  pchs := []
  syncs := []
  barriers := []
  domReports := []
  tiles := []
  gqcfg := []
  tasks := []
  nextTask := 1
  parts := []
  pctxs := []
  records := []
  stewardLog := []
  errors := []
  lasting := []
  retired := []
  outCores := []
  cycle := 0
  timeOff := 0
  sinceFix := 0
  sinceBeat := 0
  memcfg := 0
  tlbinv := 0
  tlbinva := 0
  hrevoke := 0
  barage := 0
  dbarcnt := []
  ports := []
  domid := 0x200
  flagsSeen := []
  packetsSeen := []
  interrupts := []
  nor := []
  ufs := []
  bootStage := 1
  bootErr := 0
  bootFailed := false
  rootPort := false
  meas := []
  digest := []
  mext := none
  hot := false
  pwr := 0
  tdie0 := 0
  tdie1 := 0
  powered := true
  harts := []
  svns := []
  etherUp := []
  attested := none
  fenced := []
  inputs := []
  tick := 0

/-- What stops the machine: nothing. Every access that finds nothing is answered, by a trap of its thread (R79) or by an error
response to the steward (R70, R368). -/
inductive Fault where
deriving DecidableEq, Repr

/-- What has no meaning in the model. -/
inductive Refusal where
  /-- Raised by an arm of `exec` whose instruction is not modelled yet. Safe: the model stops. -/
  | notModelled (mnemonic : String)
deriving DecidableEq, Repr

end Sys2Proof.Machine
end

