-- ==== Sys2Proof/Machine/Ops.lean ====
section
/-!
DEFINITION. The named operations over the state: the grid, the accessors, registers and their three states, the landing
buffer, queues, records, taking a trap and returning from one.
-/
namespace Sys2Proof.Machine

/-! ## The grid (R8, R9) -/

def coreX (core : Nat) : Nat := core % 64
def coreY (core : Nat) : Nat := core / 64
def isCox (core : Nat) : Bool := decide (2048 ≤ core)
/-- The stack of a cox core, and its number in the cox group (R9, R10). -/
def coxStack (core : Nat) : Nat := (core - 2048) / 8
def coxMember (core : Nat) : Nat := (core - 2048) % 8
def quadOf (core : Nat) : Nat := coreY core / 2 * 32 + coreX core / 2
def clusterOf (core : Nat) : Nat := coreY core / 2 * 16 + coreX core / 4
def coreInQuad (core : Nat) : Nat := 2 * (coreY core % 2) + coreX core % 2
def coreInCluster (core : Nat) : Nat := 4 * (coreX core % 4 / 2) + 2 * (coreY core % 2) + coreX core % 2
/-- The core of a cluster with core-within-cluster number w. -/
def clusterCore (cluster w : Nat) : Nat :=
  (2 * (cluster / 16) + w / 2 % 2) * 64 + 4 * (cluster % 16) + 2 * (w / 4) + w % 2
/-- The core of a quad with core-within-quad number w. -/
def quadCore (quad w : Nat) : Nat := (2 * (quad / 32) + w / 2 % 2) * 64 + 2 * (quad % 32) + w % 2
/-- The cluster of a quad. -/
def quadCluster (quad : Nat) : Nat := quad / 32 * 16 + quad % 32 / 2
def dieOf (core : Nat) : Nat := if isCox core then coxStack core / 6 else coreX core / 32
/-- The path of R261 that a core's entries travel on: its cluster's, or a cox core's own. -/
def pathOf (core : Nat) : Nat := if isCox core then 256 + (core - 2048) else clusterOf core

/-! ## Accessors -/

def ctxKey (core : Nat) (ctx : Bool) : Nat := core * 2 + ctx.toNat
def threadKey (t : ThreadId) : Nat := ctxKey t.core t.ctx * 8 + t.thr

def State.thread (s : State) (t : ThreadId) : Thread := SMap.get Thread.initial s.threads (threadKey t)
def State.setThread (s : State) (t : ThreadId) (th : Thread) : State :=
  { s with threads := SMap.set Thread.initial s.threads (threadKey t) th }
def State.coreCtx (s : State) (core : Nat) (ctx : Bool) : CoreCtx := SMap.get CoreCtx.initial s.ctxs (ctxKey core ctx)
def State.setCoreCtx (s : State) (core : Nat) (ctx : Bool) (c : CoreCtx) : State :=
  { s with ctxs := SMap.set CoreCtx.initial s.ctxs (ctxKey core ctx) c }
def State.core (s : State) (n : Nat) : Core := SMap.get Core.initial s.cores n
def State.setCore (s : State) (n : Nat) (c : Core) : State := { s with cores := SMap.set Core.initial s.cores n c }
def State.cluster (s : State) (n : Nat) : Cluster := SMap.get Cluster.initial s.clusters n
def State.setCluster (s : State) (n : Nat) (c : Cluster) : State :=
  { s with clusters := SMap.set Cluster.initial s.clusters n c }
def State.quad (s : State) (n : Nat) : Quad := SMap.get Quad.initial s.quads n
def State.setQuad (s : State) (n : Nat) (q : Quad) : State := { s with quads := SMap.set Quad.initial s.quads n q }
def State.array (s : State) (n : Nat) : PewterArray := SMap.get PewterArray.initial s.arrays n
def State.setArray (s : State) (n : Nat) (a : PewterArray) : State :=
  { s with arrays := SMap.set PewterArray.initial s.arrays n a }
def State.pch (s : State) (n : Nat) : PseudoChannel := SMap.get PseudoChannel.initial s.pchs n
def State.setPch (s : State) (n : Nat) (p : PseudoChannel) : State :=
  { s with pchs := SMap.set PseudoChannel.initial s.pchs n p }
def State.part (s : State) (n : Nat) : Partition := SMap.get Partition.initial s.parts n
def State.setPart (s : State) (n : Nat) (p : Partition) : State :=
  { s with parts := SMap.set Partition.initial s.parts n p }
def State.pctx (s : State) (part : Nat) (ctx : Bool) : PartCtx := SMap.get PartCtx.initial s.pctxs (part * 2 + ctx.toNat)
def State.setPctx (s : State) (part : Nat) (ctx : Bool) (p : PartCtx) : State :=
  { s with pctxs := SMap.set PartCtx.initial s.pctxs (part * 2 + ctx.toNat) p }
def State.sync (s : State) (n : Nat) : SyncObject := SMap.get SyncObject.initial s.syncs n
def State.setSync (s : State) (n : Nat) (o : SyncObject) : State :=
  { s with syncs := SMap.set SyncObject.initial s.syncs n o }
def State.barrier (s : State) (n : Nat) : Barrier := SMap.get Barrier.initial s.barriers n
def State.setBarrier (s : State) (n : Nat) (b : Barrier) : State :=
  { s with barriers := SMap.set Barrier.initial s.barriers n b }

def State.hart (s : State) (n : Nat) : Hart := SMap.get Hart.initial s.harts n
def State.setHart (s : State) (n : Nat) (h : Hart) : State := { s with harts := SMap.set Hart.initial s.harts n h }

/-- The thread of a key of `threads`. -/
def threadOfKey (k : Nat) : ThreadId := ⟨k / 16, k / 8 % 2 == 1, k % 8⟩

/-- The thread in whose name an instruction acts, and the core context it shares. -/
def State.th (s : State) : Thread := s.thread s.cur
def State.setTh (s : State) (th : Thread) : State := s.setThread s.cur th
def State.cc (s : State) : CoreCtx := s.coreCtx s.cur.core s.cur.ctx
def State.setCc (s : State) (c : CoreCtx) : State := s.setCoreCtx s.cur.core s.cur.ctx c

/-- Whether a cluster lies in a partition's rectangle (R315). -/
def Partition.holds (p : Partition) (cluster : Nat) : Bool :=
  p.v && decide (p.x0.toNat ≤ cluster % 16 ∧ cluster % 16 ≤ p.x1.toNat ∧ p.y0.toNat ≤ cluster / 16
    ∧ cluster / 16 ≤ p.y1.toNat)

/-- The first of n partitions that holds a cluster. -/
def findPart (s : State) (cluster : Nat) : Nat → Option Nat
  | 0 => none
  | n + 1 => (findPart s cluster n).orElse fun _ => if (s.part n).holds cluster then some n else none

/-- The partition of a core (R315, R320); a cox core serves the partition that its first configured gradient queue names
(R332; log 21, DESIGN CHOICE). A core outside every partition counts as of partition 0. -/
def State.partOf (s : State) (core : Nat) : Nat :=
  if isCox core then
    match (List.range 8).find? fun q => ((SMap.get (0 : Word) s.gqcfg (8 * (core - 2048) + q)).getLsbD 23) with
    | some q => ((SMap.get (0 : Word) s.gqcfg (8 * (core - 2048) + q)) >>> 13).toNat % 16
    | none => 0
  else (findPart s (clusterOf core) 16).getD 0

/-- Split 2 (R315): each context has half of the core's storage. -/
def State.split2 (s : State) (core : Nat) : Bool := (s.part (s.partOf core)).split

/-- A hardware thread of a core in the context that is resident on it. -/
def State.residentThread (s : State) (core thr : Nat) : ThreadId := ⟨core, (s.part (s.partOf core)).res, thr % 8⟩

/-- R14: a cox core that has left service runs nothing; the launch unit keeps away from a compute core that has (R319). -/
def State.coxOut (s : State) (core : Nat) : Bool := isCox core && s.outCores.contains core

/-! ## Placed tasks (R299, R306) -/

/-- A field of a launch header. -/
def Task.field (t : Task) (lo w : Nat) : Nat := t.header.toNat / 2 ^ lo % 2 ^ w
def Task.width (t : Task) : Nat := t.field 64 5
def Task.height (t : Task) : Nat := t.field 69 5
def Task.threads (t : Task) : Nat := t.field 83 3 + 1
def Task.tag (t : Task) : Nat := t.field 224 32
/-- The rectangle of a placed task in cores: left, bottom, right, top, inclusive. -/
def Task.x0 (t : Task) : Nat := 4 * t.x
def Task.y0 (t : Task) : Nat := 2 * t.y
def Task.x1 (t : Task) : Nat := 4 * (t.x + t.width) - 1
def Task.y1 (t : Task) : Nat := 2 * (t.y + t.height) - 1
def Task.hasCore (t : Task) (core : Nat) : Bool :=
  !isCox core && decide (t.x0 ≤ coreX core ∧ coreX core ≤ t.x1 ∧ t.y0 ≤ coreY core ∧ coreY core ≤ t.y1)
/-- The cores of its rectangle, row by row from the bottom left (R300). -/
def Task.cores (t : Task) : List Nat :=
  ((List.range (2 * t.height)).map fun j => (List.range (4 * t.width)).map fun i => (t.y0 + j) * 64 + t.x0 + i).flatten
/-- The clusters of its rectangle. -/
def Task.clusters (t : Task) : List Nat :=
  ((List.range t.height).map fun j => (List.range t.width).map fun i => (t.y + j) * 16 + t.x + i).flatten

/-- How many threads run. -/
def Task.total (t : Task) : Nat := t.threads * t.cores.length
/-- R310: the trigger has fired early, by TRIG and END. -/
def Task.fired (t : Task) : Bool := t.field 89 1 == 1 && decide (t.total ≤ t.triggered)
def State.task (s : State) (n : Nat) : Option Task := s.tasks.find? fun t => t.id == n
def State.setTask (s : State) (t : Task) : State := { s with tasks := s.tasks.map fun u => if u.id == t.id then t else u }
/-- The task that is placed on a core in a context. -/
def State.taskOf (s : State) (core : Nat) (ctx : Bool) : Option Task :=
  s.tasks.find? fun t => t.stage == .placed && t.ctx == ctx && t.hasCore core

/-- R361: a thread that is halted abandons a walk that it waits for; the access issues again after it resumes. -/
def Thread.abandonWalk (t : Thread) : Thread :=
  { t with
    walkFaults := []
    wait := match t.wait with
      | .walk _ _ => .none
      | w => w }

/-- R79: the cause that a walk has found for an access of the group in Q[0]. -/
def Thread.faultOf (t : Thread) (va : Nat) (k : Access) : Option Nat :=
  (t.walkFaults.find? fun f => f.va == va && f.kind == k).map (·.cause)
/-- What a walk found of a page, in place of what one found before. -/
def Thread.found (t : Thread) (va : Nat) (k : Access) (cause : Option Nat) : Thread :=
  { t with walkFaults := cause.toList.map (fun c => ⟨va, k, c⟩) ++ t.walkFaults.filter fun f => f.va != va || f.kind != k }

/-! ## Stops -/

/-- Why a slot does not complete: a trap, a trap whose detection changed something outside the thread, a park with nothing
changed, or a park after work was handed to another unit. -/
inductive Stop where
  | trap (cause : Nat) (tval : Word)
  | trapIn (s : State) (cause : Nat) (tval : Word)
  | park (w : Wait)
  | hand (s : State)

/-! ## Registers -/

def Src.present (v : VWord) : Src := ⟨v, false, .present⟩
def Src.word (a : Src) : Word := a.val.setWidth 64
def RCell.src {w : Nat} (c : RCell w) : Src := ⟨c.val.setWidth 256, c.b, c.st⟩

def Thread.readX (t : Thread) (n : Fin 32) : RCell 64 :=
  if n = 0 then RCell.initial 64 else SMap.get (RCell.initial 64) t.x n.val
def Thread.writeX (t : Thread) (n : Fin 32) (c : RCell 64) : Thread :=
  if n = 0 then t else { t with x := SMap.set (RCell.initial 64) t.x n.val c }
def Thread.readV (t : Thread) (n : Fin 32) : RCell 256 := SMap.get (RCell.initial 256) t.v n.val
def Thread.writeV (t : Thread) (n : Fin 32) (c : RCell 256) : Thread :=
  { t with v := SMap.set (RCell.initial 256) t.v n.val c }
def Thread.readM (t : Thread) (n : Fin 8) : BitVec 32 := if n = 0 then BitVec.allOnes 32 else SMap.get 0 t.m n.val
def Thread.writeM (t : Thread) (n : Fin 8) (v : BitVec 32) : Thread :=
  if n = 0 then t else { t with m := SMap.set 0 t.m n.val v }
def Thread.readP (t : Thread) (n : Fin 8) : Bool := if n = 0 then true else SMap.get false t.p n.val
def Thread.writeP (t : Thread) (n : Fin 8) (v : Bool) : Thread :=
  if n = 0 then t else { t with p := SMap.set false t.p n.val v }
def CoreCtx.readC (c : CoreCtx) (n : Fin 8) : RCell 64 := SMap.get (RCell.initial 64) c.c n.val
def CoreCtx.writeC (c : CoreCtx) (n : Fin 8) (v : RCell 64) : CoreCtx :=
  { c with c := SMap.set (RCell.initial 64) c.c n.val v }
/-- R124: a thread reads its own latest write, another thread's only once it is seen. -/
def CoreCtx.readCOf (c : CoreCtx) (thr : Nat) (n : Fin 8) : RCell 64 :=
  match c.cnew.reverse.find? fun w => w.thr == thr && w.reg == n with
  | some w => ⟨w.value, w.b, .present⟩
  | none => c.readC n
/-- R124: the earliest unseen write of a thread becomes seen, by all other threads of the core at once (log 117, DESIGN CHOICE); one
whose register has become pending is discarded (log 77, DEDUCED). -/
def CoreCtx.publishC (c : CoreCtx) (thr : Nat) : CoreCtx :=
  match c.cnew.find? fun w => w.thr == thr with
  | some w =>
    let c' := if (c.readC w.reg).st = .pending then c else c.writeC w.reg ⟨w.value, w.b, .present⟩
    { c' with cnew := c.cnew.erase w }
  | none => c
/-- R123, R124: the register becomes bound, or takes a moved value: no write that was still unseen comes over it. -/
def CoreCtx.dropUnseen (c : CoreCtx) (n : Fin 8) : CoreCtx := { c with cnew := c.cnew.filter fun w => w.reg != n }
/-- Every unseen write of a thread becomes seen. -/
def CoreCtx.publishAll (c : CoreCtx) (thr : Nat) : CoreCtx :=
  (c.cnew.filter fun w => w.thr == thr).foldl (fun c _ => c.publishC thr) c
def CoreCtx.readQ (c : CoreCtx) (n : Fin 4) : List (Word × Bool) := SMap.get [] c.q n.val
def CoreCtx.writeQ (c : CoreCtx) (n : Fin 4) (l : List (Word × Bool)) : CoreCtx := { c with q := SMap.set [] c.q n.val l }
/-- An inbox that is not present reads as pending: RECV parks on it (R128). -/
def inboxEmpty : RCell 64 := ⟨0, false, .pending⟩
def CoreCtx.readI (c : CoreCtx) (n : Nat) : RCell 64 := SMap.get inboxEmpty c.inbox n
def CoreCtx.writeI (c : CoreCtx) (n : Nat) (v : RCell 64) : CoreCtx := { c with inbox := SMap.set inboxEmpty c.inbox n v }

/-- R27: an immediate as a source of class x or c. -/
def immWord (imm : BitVec 32) : Word := imm.signExtend 64

/-- Another unit judges the thread's group, or has judged it (R22): it reads no x, c or q register anew. -/
def Thread.handed (t : Thread) : Bool := t.verdict.isSome
/-- What a judged group read of a register. -/
def Thread.taken (t : Thread) (r : Reg) : Option Src :=
  match t.group with
  | some h => (h.taken.find? fun p => p.1 == r).map (·.2)
  | none => none

/-- R22: what the ERET of a judged group read in TSAVE. -/
def Thread.doomed (t : Thread) : Bool := match t.group with | some h => h.doomed | none => false
def Thread.reload (t : Thread) : Option (List Landing) := t.group.bind (·.reload)

/-- A source field as the group reads it at issue (R22, R26, R27, R114). -/
def State.read (s : State) (imm : BitVec 32) : Reg → Src
  | .x n => (s.th.taken (.x n)).getD (s.th.readX n).src
  | .v n => (s.th.readV n).src
  | .m n => .present ((s.th.readM n).setWidth 256)
  | .p n => .present (BitVec.ofNat 256 (s.th.readP n).toNat)
  | .c n => (s.th.taken (.c n)).getD (s.cc.readCOf s.cur.thr n).src
  | .q n => (s.th.taken (.q n)).getD (match s.cc.readQ n with
    | [] => ⟨0, false, .pending⟩
    | (v, b) :: _ => ⟨v.setWidth 256, b, .present⟩)
  | .i n => (s.cc.readI n.val).src
  | .none => .present 0
  | .imm => .present ((immWord imm).setWidth 256)

/-- R28: the predicate of a slot. -/
def State.predOn (s : State) (p : Pred) : Bool := s.th.readP p.idx != p.neg

/-- How many rooms of a queue the judged groups of the core's other threads keep: for the entry they popped or will push
(R22, R125; log 86, DEDUCED). -/
def State.keptRooms (s : State) (n : Nat) : Nat :=
  ((List.range 8).filter fun i => i != s.cur.thr && (match (s.thread ⟨s.cur.core, s.cur.ctx, i⟩).group with
    | some h => h.rooms.contains n
    | none => false)).length

/-- A destination that parks the group (R112, R125): pending, or a full queue that the same instruction does not pop. -/
def State.destBusy (s : State) (d : Reg) (srcs : List Reg) : Bool :=
  match d with
  | .x n => decide ((s.th.readX n).st = .pending)
  | .v n => decide ((s.th.readV n).st = .pending)
  | .c n => !s.th.handed && decide ((s.cc.readC n).st = .pending)
  | .q n => !s.th.handed && (decide (4 ≤ (s.cc.readQ n).length + s.keptRooms n.val) && !srcs.contains d)
  | _ => false

/-- The recorded fault of the first faulted source, in field order (R115). -/
def firstFault : List Src → Option (Nat × Word)
  | [] => none
  | a :: r => match a.st with
    | .faulted c v => some (c, v)
    | _ => firstFault r

/-- Step 8 of R36: a pending source or destination parks the group, then a faulted source traps, in order A, B, C. -/
def State.sources {M : Type} (s : State) (o : Fmt M) : Except Stop (Src × Src × Src) :=
  let a := s.read o.imm o.a
  let b := s.read o.imm o.b
  let c := s.read o.imm o.c
  if a.st = .pending ∨ b.st = .pending ∨ c.st = .pending ∨ s.destBusy o.d [o.a, o.b, o.c] then .error (.park .none)
  else match firstFault [a, b, c] with
    | some (k, v) => .error (.trap k v)
    | none => .ok (a, b, c)

/-- R26: x0, m0 and p0 discard what is written to them. -/
def discards : Reg → Bool
  | .x n => n == 0
  | .m n => n == 0
  | .p n => n == 0
  | _ => false

/-- A result of latency l (R116): it waits in the landing list, one group longer than l because the group that produces it
ages the list once when it ends. A queue takes its entry at issue (R125); x0, m0, p0 and none discard (R26). -/
def State.land (s : State) (d : Reg) (v : VWord) (b : Bool) (l : Nat) : State :=
  match d with
  | .none => s
  | .imm => s
  | .i _ => s
  | .q n => s.setCc (s.cc.writeQ n (s.cc.readQ n ++ [(v.setWidth 64, b)]))
  | _ => if discards d then s else s.setTh { s.th with landing := s.th.landing ++ [⟨d, v, b, l + 1⟩] }

/-- R125: the pops of the q registers that the source fields name; a judged group popped them when it was handed over. -/
def State.popOne (s : State) (r : Reg) : State :=
  match r with
  | .q n => if s.th.handed then s else s.setCc (s.cc.writeQ n (s.cc.readQ n).tail)
  | _ => s
def State.pops {M : Type} (s : State) (o : Fmt M) : State := ((s.popOne o.a).popOne o.b).popOne o.c

/-- Write a register of a thread now, as a landing or an asynchronous result does; writes to x0, m0, p0 are discarded. -/
def State.writeReg (s : State) (t : ThreadId) (d : Reg) (v : VWord) (b : Bool) (st : RState) : State :=
  match d with
  | .x n => s.setThread t ((s.thread t).writeX n ⟨v.setWidth 64, b, st⟩)
  | .v n => s.setThread t ((s.thread t).writeV n ⟨v, b, st⟩)
  | .m n => s.setThread t ((s.thread t).writeM n (v.setWidth 32))
  | .p n => s.setThread t ((s.thread t).writeP n (v.getLsbD 0))
  | .c n => s.setCoreCtx t.core t.ctx ((s.coreCtx t.core t.ctx).writeC n ⟨v.setWidth 64, b, st⟩)
  | _ => s

/-- Is the register pending? -/
def State.isPending (s : State) (t : ThreadId) (d : Reg) : Bool :=
  match d with
  | .x n => decide (((s.thread t).readX n).st = .pending)
  | .v n => decide (((s.thread t).readV n).st = .pending)
  | .c n => decide (((s.coreCtx t.core t.ctx).readC n).st = .pending)
  | _ => false

/-! ## Landing (R116-R118) -/

/-- R118: a write lands unless its destination has become pending; one to a c register is seen by its own thread first
(R124). -/
def landOne (t : ThreadId) (s : State) (l : Landing) : State :=
  if s.isPending t l.dest then s
  else match l.dest with
    | .c n =>
      let c := s.coreCtx t.core t.ctx
      s.setCoreCtx t.core t.ctx { c with cnew := c.cnew ++ [⟨t.thr, n, l.value.setWidth 64, l.b⟩] }
    | _ => s.writeReg t l.dest l.value l.b .present

/-- Every write that lands before the thread's next group lands, in producer order. -/
def landDue (s : State) (t : ThreadId) : State :=
  let th := s.thread t
  let due := th.landing.filter fun l => decide (l.rem ≤ 1)
  let s := s.setThread t { th with landing := th.landing.filter fun l => decide (1 < l.rem) }
  due.foldl (landOne t) s

/-- One group passes: every entry comes one group nearer, and what is due lands. -/
def ageLanding (s : State) (t : ThreadId) : State :=
  let th := s.thread t
  landDue (s.setThread t { th with landing := th.landing.map fun l => { l with rem := l.rem - 1 } }) t

/-! ## Operations in flight (R119, R120) -/

/-- R120: a status word. -/
def statusWord (code count : Nat) : Word := BitVec.ofNat 64 (count % 2 ^ 32 * 2 ^ 16 + code)

def stOk : Nat := 0
def stCancelled : Nat := 1
def stBounds : Nat := 2
def stRevoked : Nat := 3
def stPoison : Nat := 4
def stDrift : Nat := 5
def stElided : Nat := 6
def stLinkDown : Nat := 7

def Op.owner (o : Op) : ThreadId := ⟨o.core, o.ctx, o.thr⟩
def State.op (s : State) (id : Nat) : Option Op := s.ops.find? fun o => o.id == id
def State.removeOp (s : State) (id : Nat) : State := { s with ops := s.ops.filter fun o => o.id != id }
def State.setOp (s : State) (o : Op) : State := { s with ops := s.ops.map fun p => if p.id == o.id then o else p }
/-- A new operation of a thread, last in arrival order, with the register it will write. -/
def State.addOpOf (s : State) (t : ThreadId) (d : Option Reg) (k : OpKind) : State :=
  { s with
    ops := s.ops ++ [⟨s.nextOp, t.core, t.ctx, t.thr, d, false, s.iss.pc, k⟩]
    nextOp := s.nextOp + 1 }
def State.addOp (s : State) (d : Option Reg) (k : OpKind) : State := s.addOpOf s.cur d k
/-- The same, and its register becomes pending when the group commits (R119). -/
def State.start (s : State) (d : Reg) (k : OpKind) : State :=
  let s := s.addOp (some d) k
  { s with iss := { s.iss with post := s.iss.post ++ [.pend d] } }

/-- An operation resolves: its register receives the result and the operation is gone. -/
def State.resolve (s : State) (o : Op) (v : VWord) (b : Bool) (st : RState) : State :=
  let s := s.removeOp o.id
  match o.dest with
  | some d => s.writeReg o.owner d v b st
  | none => s
def State.resolveStatus (s : State) (o : Op) (code count : Nat) : State :=
  s.resolve o ((statusWord code count).setWidth 256) false .present
def State.resolveFault (s : State) (o : Op) (cause : Nat) (tval : Word) : State :=
  s.resolve o 0 false (.faulted cause tval)

/-- The operation bound to a register of the current thread, if one is pending on it (R123). -/
def State.boundOp (s : State) (r : Reg) : Option Op :=
  s.ops.find? fun o => decide (o.dest = some r) && o.core == s.cur.core && o.ctx == s.cur.ctx
    && ((match r with | .c _ => true | _ => false) || o.thr == s.cur.thr)

/-! ## Records (R353) -/

/-- A word of fields, each given by its lowest bit and its value. -/
def packFields (l : List (Nat × Nat)) : Nat := l.foldl (fun a f => a + f.2 * 2 ^ f.1) 0

/-- A 64-byte record with what every record carries (R353), on its way to a lane. -/
def State.record (s : State) (unit part : Nat) (ctx fatal : Bool) (type : Nat) (l : List (Nat × Nat)) : State :=
  let bits := BitVec.ofNat 512 (packFields ([(0, type), (40, part % 16), (44, ctx.toNat), (320, s.cycle.toNat)] ++ l))
  { s with records := s.records ++ [⟨unit, part, ctx, fatal, bits⟩] }

/-- The unit of R355 that makes a hardware-error record of UNIT and SRC: a slice's records of both lanes have one unit, and so have
a cox core's, with its double traps. -/
def hwUnit (unit src : Nat) : Nat :=
  if unit = 6 then 20000 + src else if unit = 4 then 10000 + src else 100000 * unit + src

/-- R356: a hardware-error record for the fatal lane. -/
def State.hwError (s : State) (part : Nat) (ctx : Bool) (unit event src addr detail pc cause thr count : Nat)
    (lasting : Bool) : State :=
  s.record (hwUnit unit src) part ctx true 0x21
    [(8, cause), (16, lasting.toNat), (24, event), (32, unit), (45, thr), (48, src), (64, count % 2 ^ 64), (192, pc % 2 ^ 64),
     (256, addr % 2 ^ 64), (384, detail % 2 ^ 64)]

/-! ## Scratchpad bytes and tags (R99, R103) -/

def rawTag : BitVec 16 := 0
def zeroTag : BitVec 16 := 0x1000
def poisonTag : BitVec 16 := 0x7F00
def tagB (t : BitVec 16) : Bool := t.getLsbD 15
/-- R68: the format code of a tag, and its SCALE byte. -/
def tagFmt (t : BitVec 16) : Nat := t.toNat / 256 % 128
def tagScale (t : BitVec 16) : Nat := t.toNat % 256
def tagPoison (t : BitVec 16) : Bool := tagFmt t == 0x7F
def tagZero (t : BitVec 16) : Bool := tagFmt t == 0x10
def tagConst (t : BitVec 16) : Bool := tagFmt t == 0x11
def mkTag (b : Bool) (fmt scale : Nat) : BitVec 16 := BitVec.ofNat 16 (b.toNat * 2 ^ 15 + fmt * 256 + scale % 256)
/-- R69: a malformed tag: a reserved code, or a SCALE where it must be zero. -/
def tagMalformed (t : BitVec 16) : Bool :=
  let f := tagFmt t
  !(decide (f ≤ 7) || f == 0x10 || f == 0x11 || f == 0x7F)
    || (tagScale t != 0 && (f == 0 || f == 6 || f == 7 || f == 0x10))

def CoreCtx.byte (c : CoreCtx) (a : Nat) : Byte := SMap.get 0 c.spad a
def CoreCtx.setByte (c : CoreCtx) (a : Nat) (v : Byte) : CoreCtx := { c with spad := SMap.set 0 c.spad a v }
def CoreCtx.tag (c : CoreCtx) (a : Nat) : BitVec 16 := SMap.get 0 c.tags (a / 64)
def CoreCtx.setTag (c : CoreCtx) (a : Nat) (t : BitVec 16) : CoreCtx := { c with tags := SMap.set 0 c.tags (a / 64) t }

/-- n bytes from an address, the lowest first. -/
def CoreCtx.bytes (c : CoreCtx) (a n : Nat) : List Byte := (List.range n).map fun i => c.byte (a + i)

/-- R103: the tag of a block after a store of data with the given B. -/
def storeTag (old : BitVec 16) (b : Bool) : BitVec 16 :=
  if tagPoison old then old
  else if tagZero old || tagConst old then mkTag (tagB old || b) 0 0
  else if b then old ||| 0x8000 else old

/-- A store of one byte: the byte, and its block's tag (R103). -/
def CoreCtx.storeByte (c : CoreCtx) (a : Nat) (v : Byte) (b : Bool) : CoreCtx :=
  (c.setByte a v).setTag a (storeTag (c.tag a) b)
/-- A store of bytes at rising addresses. -/
def CoreCtx.store (c : CoreCtx) (a : Nat) (l : List Byte) (b : Bool) : CoreCtx :=
  (l.foldl (fun (p : Nat × CoreCtx) v => (p.1 + 1, p.2.storeByte p.1 v b)) (a, c)).2

/-- R103: a word that one write covers whole, an element of a store, eight active bytes of an STSV or what an engine writes at once, has no
old error left (log 88, DESIGN CHOICE). -/
def CoreCtx.heal (c : CoreCtx) (a n : Nat) : CoreCtx :=
  { c with badWords := c.badWords.filter fun w => !decide (a ≤ w * 8 ∧ w * 8 + 8 ≤ a + n) }

/-! ## The fetch queue (R23, R24, R140) -/

/-- R24: the linear index of a PC, and the PC of a linear index. -/
def linearIndex (pc : Word) : Int := (pc.toNat / 64 * 5 + pc.toNat % 8 : Nat)
def ofLinear (n : Int) : Word := BitVec.ofInt 64 (n / 5 * 64 + n % 5)
def branchTarget (pc : Word) (imm : BitVec 32) : Word := ofLinear (linearIndex pc + imm.toInt)

def pcLine (pc : Word) : Nat := pc.toNat / 64 * 64
def pcSlot (pc : Word) : Nat := pc.toNat % 8

/-- R16: the line word of a line. -/
def lineWord (bytes : List Byte) : Nat := bytesToNat (bytes.take 4)
def linePairs (bytes : List Byte) : Nat := bits (lineWord bytes) 10 4
def lineStops (bytes : List Byte) : Nat := bits (lineWord bytes) 5 5
def lineTargets (bytes : List Byte) : Nat := bits (lineWord bytes) 0 5
/-- R15: the word of a slot. -/
def lineSlot (bytes : List Byte) (i : Nat) : List Byte := (bytes.drop (4 + 12 * i)).take 12
/-- R17: the exclusive or of bytes 4-63. -/
def lineParity (bytes : List Byte) : Byte := (bytes.drop 4).foldl (· ^^^ ·) 0

/-- R18: the line word is correct. -/
def lineOk (bytes : List Byte) : Bool :=
  let w := lineWord bytes
  let p := linePairs bytes
  let second := 2 * p
  bits w 24 8 == 0 && bits w 14 2 == 0 && bits w 16 8 == (lineParity bytes).toNat
    && p &&& second == 0 && (lineTargets bytes ||| lineStops bytes) &&& second == 0

/-- R140: Seq of a PC, given its line's PAIR bits. -/
def seqPc (pairs : Nat) (pc : Word) : Word :=
  let k := pcSlot pc + (if pairs.testBit (pcSlot pc) then 2 else 1)
  if k ≤ 4 then BitVec.ofNat 64 (pcLine pc + k) else BitVec.ofNat 64 (pcLine pc + 64)

/-- The PAIR bits of a line that the thread has at hand: those of the line it issues from. -/
def Thread.pairs (t : Thread) (pc : Word) : Option Nat :=
  match t.line with
  | some l => if l.va = pcLine pc then some (linePairs l.bytes) else none
  | none => none

/-- R140: the entry that follows another: provisional where the line of the other has not been fetched. -/
def Thread.seqOf (t : Thread) (e : QEntry) : QEntry :=
  match t.pairs e.pc with
  | some p => ⟨seqPc p e.pc, false, e.sq, false⟩
  | none => ⟨seqPc 0 e.pc, false, true, false⟩

/-- A queue that begins at a PC (R140): launch and trap entry place it, so the TGT check applies to its first entry. -/
def Thread.startAt (t : Thread) (pc : Word) : Thread :=
  let q0 : QEntry := ⟨pc, false, false, true⟩
  let q1 := t.seqOf q0
  { t with q0 := q0, q1 := q1, q2 := t.seqOf q1 }

/-! ## Trace (R382, R383) -/

/-- R382: a trace message. -/
def traceMessage (t : ThreadId) (cycle : Word) (kind : Nat) (value : Word) : BitVec 128 :=
  BitVec.ofNat 128 (packFields
    [(0, kind), (18, coreInCluster t.core), (21, t.thr), (24, cycle.toNat % 2 ^ 40), (64, value.toNat)])

/-- R383: an encoder that has room again says first how many messages it dropped. -/
def Core.tellLoss (c : Core) (t : ThreadId) (cycle : Word) : Core :=
  if c.traceLost = 0 ∨ 64 ≤ c.trace.length then c
  else { c with trace := c.trace ++ [traceMessage { t with thr := 0 } cycle 6 (BitVec.ofNat 64 c.traceLost)], traceLost := 0 }

/-- R382, R383: a trace message of a thread, where its cluster's funnel is enabled for its core; a full encoder counts it as
lost. A cox core belongs to no cluster and traces nothing. -/
def State.emit (s : State) (t : ThreadId) (kind : Nat) (value : Word) : State :=
  let k := s.cluster (clusterOf t.core)
  if !isCox t.core && k.trcbase.getLsbD 0 && k.trcctl.getLsbD (40 + coreInCluster t.core) then
    let c := (s.core t.core).tellLoss t s.cycle
    s.setCore t.core (if c.trace.length < 64 then { c with trace := c.trace ++ [traceMessage t s.cycle kind value] }
      else { c with traceLost := c.traceLost + 1 })
  else s

/-! ## Taking a trap (R152-R154) and returning (R145) -/

/-- R153: TEPCk of a queue entry. -/
def tepcOf (e : QEntry) : Word :=
  BitVec.ofNat 64 (pcLine e.pc + e.sq.toNat * 16 + e.an.toNat * 8 + pcSlot e.pc)

/-- R153: an entry of TSAVE, as 64 bytes. -/
def saveEntry (l : Landing) : List Byte :=
  natToBytes 64 (packFields [(0, l.value.toNat), (256, l.dest.code), (264, l.rem), (272, l.b.toNat)])

/-- R153: TSAVE of a hardware thread. -/
def tsave (thr : Nat) : Nat := 0x2F000 + 0x100 * thr

/-- Entries in landing order, those that land together in producer order (R153). -/
def insertLanding (l : Landing) : List Landing → List Landing
  | [] => [l]
  | m :: r => if l.rem < m.rem then l :: m :: r else m :: insertLanding l r
def landingOrder (l : List Landing) : List Landing := l.foldl (fun a x => insertLanding x a) []

/-- R152: the entries go to TSAVE, entry k at 64 k. -/
def saveLanding (c : CoreCtx) (thr : Nat) (l : List Landing) : CoreCtx :=
  ((landingOrder l).foldl (fun (p : Nat × CoreCtx) e => (p.1 + 64, (p.2.store p.1 (saveEntry e) false).heal p.1 64))
    (tsave thr, c)).2

/-- R22, R125: what a judged group popped goes back to the head of its queue. -/
def State.putBack (s : State) (t : ThreadId) (p : Reg × Src) : State :=
  match p.1 with
  | .q n =>
    let c := s.coreCtx t.core t.ctx
    s.setCoreCtx t.core t.ctx (c.writeQ n ((p.2.word, p.2.b) :: c.readQ n))
  | _ => s

/-- The group in Q[0] of a thread ends without issuing, and what it holds outside the thread with it: popped entries, the
lock of a region (R270), a plain store that the controller has not judged (R234), a copy that waits for an entry (R88). -/
def State.releaseHeld (s : State) (t : ThreadId) : State :=
  let th := s.thread t
  let taken := match th.group with | some h => h.taken | none => []
  let s := taken.foldr (fun p s => s.putBack t p) s
  let s := if th.verdict = some .waiting then
      { s with
        regionLock := (match s.regionLock with
          | some (id, w, u) => if u = t then none else some (id, w, u)
          | none => none)
        ops := s.ops.filter fun o => match o.kind with
          | .bankStore _ _ _ false => decide (o.owner ≠ t)
          | _ => true }
    else s
  s.setThread t { th with
    group := none
    verdict := none
    copyHeld := none
    wait := if th.verdict.isSome then .none else th.wait }

/-- The thread's group has passed what another unit judges before issue (R234, R270), and issues at its next turn. -/
def Thread.passed (t : Thread) : Bool :=
  decide (t.wait = .judged) && (match t.verdict with | some (.pass _) => true | _ => false)

/-- A group that another unit judges before issue stands parked again (R234, R270, R380); one that has passed stays so. -/
def State.recall (s : State) (t : ThreadId) : State :=
  match (s.thread t).wait, (s.thread t).group with
  | .judged, some h =>
    if (s.thread t).passed then s
    else
      let s := s.releaseHeld t
      s.setThread t { s.thread t with group := some { h with taken := [], rooms := [], link := none, reload := none } }
  | _, _ => s

/-- R80: a miss of a thread at a VA is served by a walk: the same page in the same partition context, on the same die. -/
def State.sameWalk (s : State) (t : ThreadId) (va : Nat) (k : Walk) : Bool :=
  dieOf t.core == dieOf k.owner.core && s.partOf t.core == k.part && t.ctx == k.owner.ctx && k.va / 2 ^ 16 == va / 2 ^ 16

/-- The threads that wait for a walk, each with what it wants (R80). -/
def State.walkers (s : State) (k : Walk) : List (ThreadId × Nat × Access) :=
  s.threads.filterMap fun p =>
    let t := threadOfKey p.1
    match p.2.wait with
    | .walk va kind => if s.sameWalk t va k then some (t, va, kind) else none
    | _ => none

/-- R361: a walk that no thread waits for any more is abandoned: it leaves its walker. -/
def State.abandonWalks (s : State) : State := { s with walks := s.walks.filter fun k => !(s.walkers k).isEmpty }

/-- R380: a hard halt of a core. -/
def State.hardHalt (s : State) (core : Nat) : State :=
  let c := s.core core
  let s := s.setCore core { c with dbg := { c.dbg with halted := true } }
  let ctx := (s.part (s.partOf core)).res
  ((List.range 8).foldl (fun (s : State) i =>
    let s := s.recall ⟨core, ctx, i⟩
    s.setThread ⟨core, ctx, i⟩ (s.thread ⟨core, ctx, i⟩).abandonWalk) s).abandonWalks

/-- R154, R357: a double trap stops the thread and sends a record to the fatal lane. -/
def State.doubleTrap (s : State) (t : ThreadId) (cause : Nat) (tval : Word) : State :=
  let s := s.releaseHeld t
  let th := s.thread t
  let s := s.setThread t { th with run := .stopped }
  s.record (10000 + t.core) (s.partOf t.core) t.ctx true 0x20
    [(24, cause), (45, t.thr), (48, t.core), (128, th.tcause.toNat), (192, th.tepc0.toNat), (256, th.tval.toNat),
     (384, th.q0.pc.toNat), (448, tval.toNat)]

/-- R152: trap entry of a thread in task mode, a synchronous trap or an interrupt. Interrupt 11 leaves the thread held
before the handler's first group (R342). -/
def State.enterHandler (s : State) (t : ThreadId) (interrupt : Bool) (code : Nat) (tval : Word) : State :=
  let s := s.releaseHeld t
  let th := s.thread t
  let s := s.setCoreCtx t.core t.ctx (saveLanding (s.coreCtx t.core t.ctx) t.thr th.landing)
  let th := { th with
    tepc0 := tepcOf { th.q0 with sq := false }
    tepc1 := tepcOf th.q1
    tepc2 := tepcOf th.q2
    lbn := BitVec.ofNat 3 th.landing.length
    landing := []
    phm := false
    hm := true
    pie := th.ie
    ie := false
    tcause := BitVec.ofNat 64 (interrupt.toNat * 2 ^ 63 + code)
    tval := tval
    wait := if interrupt && code == 11 then .held else .none
    walkFaults := []
    resumed := false }
  (s.setThread t (th.startAt th.tvec)).emit t 4 th.tepc0

/-- R152, R154: a synchronous trap of a thread: trap entry in task mode, a double trap in handler mode. -/
def State.trapThread (s : State) (t : ThreadId) (cause : Nat) (tval : Word) : State :=
  if (s.thread t).hm then s.doubleTrap t cause tval else s.enterHandler t false cause tval

/-- The current group ends in a trap (R22): nothing of it stays but the trap. -/
def State.takeTrap (s : State) (cause : Nat) (tval : Word) : State :=
  let s := s.trapThread s.cur cause tval
  { s with iss := { s.iss with status := .trapped } }

/-- R80: the current thread waits; a miss that no walk serves asks for one, behind those that came before. -/
def State.waitFor (s : State) (w : Wait) : State :=
  let s := s.setTh { s.th with wait := w }
  match w with
  | .walk va _ => if s.walks.any (s.sameWalk s.cur va) then s
      else { s with walks := s.walks ++ [⟨s.partOf s.cur.core, s.cur, va⟩] }
  | _ => s

/-- The current group parks before issue, for a reason that its next turn looks at again (R112). -/
def State.park (s : State) (w : Wait) : State :=
  let s := s.waitFor w
  { s with iss := { s.iss with status := .parked } }

/-- The outcome of a slot: predicated off (R29), or its body's. -/
def State.slot (s : State) (p : Pred) (body : Except Stop State) : Host.Outcome State Fault Refusal :=
  if s.predOn p then
    match body with
    | .ok t => .next t
    | .error (.trap c v) => .next (s.takeTrap c v)
    | .error (.trapIn t c v) => .next (t.takeTrap c v)
    | .error (.park w) => .next (s.park w)
    | .error (.hand t) => .next { t with iss := { t.iss with status := .queued } }
  else .next s

/-- R35, R341: the TVAL of causes 2, 26 and 57 is the PC of the instruction. -/
def State.pcTrap {α : Type} (s : State) (cause : Nat) : Except Stop α := .error (.trap cause s.iss.pc)

/-- Cause 26 where one of the sources is bounded (R217). -/
def State.noBounded (s : State) (l : List Src) : Except Stop Unit := if l.any (·.b) then s.pcTrap 26 else .ok ()

/-- A trap found after something outside the thread has changed keeps that change. -/
def keepIn {α : Type} (s : State) : Except Stop α → Except Stop α
  | .error (.trap c v) => .error (.trapIn s c v)
  | r => r

/-- A check: the cause and TVAL where the condition holds. -/
def failIf (c : Bool) (cause : Nat) (tval : Word) : Except Stop Unit := if c then .error (.trap cause tval) else .ok ()

/-- R153: an entry of TSAVE read back; none where it is not well formed. Of an x or c register's value the upper bytes, which are zero
as they are saved, count for nothing (log 119, DESIGN CHOICE). -/
def loadEntry (l : List Byte) : Option Landing :=
  let n := bytesToNat l
  let rem := bits n 264 8
  match Reg.ofCode (bits n 256 8) with
  | none => none
  | some d =>
    let legal : Bool := match d with | .x k => k != 0 | .v _ => true | .c _ => true | _ => false
    let width := match d with | .v _ => 256 | _ => 64
    if n / 2 ^ 273 = 0 ∧ 1 ≤ rem ∧ rem ≤ 16 ∧ legal = true then
      some ⟨d, BitVec.ofNat 256 (bits n 0 width), bits n 272 1 == 1, rem⟩
    else none

/-- The first n entries of TSAVE. -/
def loadEntries (c : CoreCtx) (thr : Nat) : Nat → Option (List Landing)
  | 0 => some []
  | n + 1 => (loadEntries c thr n).bind fun l => (loadEntry (c.bytes (tsave thr + 64 * n) 64)).map fun e => l ++ [e]

/-- R145: a queue entry of a TEPC; no entry that ERET places is checked for TGT (log 103, DEDUCED). -/
def ofTepc (w : Word) (first : Bool) : QEntry :=
  ⟨BitVec.ofNat 64 (pcLine w + pcSlot w), w.getLsbD 3, !first && w.getLsbD 4, false⟩

/-- R145, R153: the entries that TSAVE holds for the current thread; none where LBN or one of them is refused. -/
def State.savedEntries (s : State) : Option (List Landing) :=
  if s.th.lbn.toNat > 4 then none else loadEntries s.cc s.cur.thr s.th.lbn.toNat

/-- R145: ERET of the current thread, whose landing buffer is empty, with the entries that it read. They come back one group
longer, because the group of the ERET ages the list once when it ends; a write of the slot before the ERET stands ahead of
them. -/
def State.returnWith (s : State) (l : List Landing) : State :=
  let th := s.th
  let t := { th with
    q0 := ofTepc th.tepc0 true
    q1 := ofTepc th.tepc1 false
    q2 := ofTepc th.tepc2 false
    landing := th.landing ++ l.map fun e => { e with rem := e.rem + 1 }
    hm := th.phm
    ie := th.pie
    stop := 0 }
  let s := s.setTh t
  { s with iss := { s.iss with noAdvance := true } }

/-- R145: ERET with what TSAVE holds now; none where an entry or LBN is refused. With a slot before it that adds a write, the
five of them stand (log 102, DESIGN CHOICE). -/
def State.returnFrom (s : State) : Option State := s.savedEntries.map s.returnWith

end Sys2Proof.Machine
end

