-- ==== Sys2Proof/Machine/Ecdsa.lean ====
section
/-!
DEFINITION. ECDSA on brainpoolP384r1 (RFC 5639; log 20, PRESUMED), by which R372 accepts a boot image.
-/
namespace Sys2Proof.Machine

/-! ## The curve -/

def curveP : Nat := 0x8CB91E82A3386D280F5D6F7E50E641DF152F7109ED5456B412B1DA197FB71123ACD3A729901D1A71874700133107EC53
def curveA : Nat := 0x7BC382C63D8C150C3C72080ACE05AFA0C2BEA28E4FB22787139165EFBA91F90F8AA5814A503AD4EB04A8C7DD22CE2826
def curveB : Nat := 0x04A8C7DD22CE28268B39B55416F0447C2FB77DE107DCD2A62E880EA53EEB62D57CB4390295DBC9943AB78696FA504C11
/-- The order of the base point. -/
def curveQ : Nat := 0x8CB91E82A3386D280F5D6F7E50E641DF152F7109ED5456B31F166E6CAC0425A7CF3AB6AF6B7FC3103B883202E9046565
/-- A point in affine coordinates; none is the point at infinity. -/
abbrev Point := Option (Nat × Nat)
def curveG : Point := some
  (0x1D1C64F068CF45FFA2A63A81B7C13F6B8847A3E77EF14FE3DB7FCAFE0CBD10E8E826E03436D646AAEF87B2E247D4AF1E,
   0x8ABE1D7520F9C2A45CB1EB8E95CFD55262B70B29FEEC5864E19C054FF99129280E4646217791811142820341263C5315)

/-- A power to an exponent of n bits, modulo m. -/
def powMod (m : Nat) : Nat → Nat → Nat → Nat
  | 0, _, _ => 1
  | n + 1, b, e => (if e % 2 = 1 then b else 1) * powMod m n (b * b % m) (e / 2) % m
/-- The inverse modulo a prime. -/
def invMod (m a : Nat) : Nat := powMod m 384 (a % m) (m - 2)
/-- A difference modulo p. -/
def subP (a b : Nat) : Nat := (a + curveP - b % curveP) % curveP

/-- The line through a point with a slope meets the curve again. -/
def alongSlope (l x y x' : Nat) : Point :=
  let r := subP (subP (l * l) x) x'
  some (r, subP (l * subP x r) y)

/-- The sum of two points. -/
def addPoint : Point → Point → Point
  | none, b => b
  | a, none => a
  | some (x, y), some (x', y') =>
    if x = x' then
      if (y + y') % curveP = 0 then none else alongSlope ((3 * x * x + curveA) * invMod curveP (2 * y) % curveP) x y x'
    else alongSlope (subP y' y * invMod curveP (subP x' x) % curveP) x y x'

/-- A multiple of a point by a number of n bits. -/
def mulPoint : Nat → Nat → Point → Point
  | 0, _, _ => none
  | n + 1, k, a => addPoint (if k % 2 = 1 then a else none) (mulPoint n (k / 2) (addPoint a a))

/-- A point of the curve. -/
def onCurve (x y : Nat) : Bool :=
  decide (x < curveP ∧ y < curveP ∧ y * y % curveP = (x * x * x + curveA * x + curveB) % curveP)

/-- A signature (r, s) of a digest verifies under a public key. -/
def verifies (x y digest r s : Nat) : Bool :=
  let w := invMod curveQ s
  onCurve x y && decide (1 ≤ r ∧ r < curveQ ∧ 1 ≤ s ∧ s < curveQ)
    && (match addPoint (mulPoint 384 (digest * w % curveQ) curveG) (mulPoint 384 (r * w % curveQ) (some (x, y))) with
      | some (z, _) => z % curveQ == r
      | none => false)

/-- The signature (r, s) of a digest under a private key, with a number drawn for it. -/
def sign (key digest nonce : Nat) : Nat × Nat :=
  match mulPoint 384 (nonce % curveQ) curveG with
  | some (x, _) => (x % curveQ, invMod curveQ (nonce % curveQ) * (digest + x % curveQ * key) % curveQ)
  | none => (0, 0)

end Sys2Proof.Machine
end

