-- ==== Sys2Proof/Machine/Numbers.lean ====
section
/-!
DEFINITION. Number formats and rounding (04): exact values, IEEE formats, MK8, fixed point, the rounding functions with
their flag events, stochastic rounding and its generator. Every operation is exact until its one rounding.
-/
namespace Sys2Proof.Machine

/-- An exact value: a NaN, an infinity, or (-1)^neg x m x 2^e; a zero keeps its sign (R55, R56). -/
inductive FVal where
  | nan (signalling : Bool)
  | inf (neg : Bool)
  | fin (neg : Bool) (m : Nat) (e : Int)
deriving DecidableEq, Repr

/-- The flag events of R61, in the order of FPFLAGS (R159). -/
structure Flags where
  nv : Bool
  dz : Bool
  of : Bool
  uf : Bool
  nx : Bool
deriving DecidableEq, Repr

def Flags.none : Flags := ⟨false, false, false, false, false⟩
def Flags.invalid : Flags := ⟨true, false, false, false, false⟩
def Flags.or (a b : Flags) : Flags := ⟨a.nv || b.nv, a.dz || b.dz, a.of || b.of, a.uf || b.uf, a.nx || b.nx⟩

/-- An IEEE format: exponent and fraction bits (R54). -/
structure Fmt754 where
  eb : Nat
  fb : Nat
deriving DecidableEq, Repr

def fp64 : Fmt754 := ⟨11, 52⟩
def fp32 : Fmt754 := ⟨8, 23⟩
def fp16 : Fmt754 := ⟨5, 10⟩
def bf16 : Fmt754 := ⟨8, 7⟩

def Fmt754.width (f : Fmt754) : Nat := 1 + f.eb + f.fb
/-- The exponent of the unit in the last place of the smallest normal, and of every subnormal. -/
def Fmt754.minUlp (f : Fmt754) : Int := 2 - (2 : Int) ^ (f.eb - 1) - f.fb
/-- The code of +infinity. -/
def Fmt754.infCode (f : Fmt754) : Nat := (2 ^ f.eb - 1) * 2 ^ f.fb
/-- The code of the canonical quiet NaN (R54, R55). -/
def Fmt754.nanCode (f : Fmt754) : Nat := f.infCode + 2 ^ (f.fb - 1)
/-- A sign and a magnitude code as one code. -/
def Fmt754.withSign (f : Fmt754) (neg : Bool) (code : Nat) : Nat := code + neg.toNat * 2 ^ (f.eb + f.fb)

/-- R54: the value of a code. -/
def Fmt754.decode (f : Fmt754) (code : Nat) : FVal :=
  let neg := code / 2 ^ (f.eb + f.fb) % 2 == 1
  let ex := code / 2 ^ f.fb % 2 ^ f.eb
  let fr := code % 2 ^ f.fb
  if ex = 2 ^ f.eb - 1 then (if fr = 0 then .inf neg else .nan (fr < 2 ^ (f.fb - 1)))
  else if ex = 0 then .fin neg fr f.minUlp
  else .fin neg (2 ^ f.fb + fr) (f.minUlp + ex - 1)

/-- m x 2^e rounded to a multiple of 2^u: the multiple, and what is left over as a fraction rem / 2^k. -/
def splitAt (m : Nat) (e u : Int) : Nat × Nat × Nat :=
  if u ≤ e then (m * 2 ^ (e - u).toNat, 0, 0)
  else let k := (u - e).toNat; (m / 2 ^ k, m % 2 ^ k, k)

/-- R59: whether the magnitude rounds up, given the lower neighbour's parity and the fraction rem / 2^k. -/
def roundsUp (mode : Rnd) (neg : Bool) (n rem k : Nat) : Bool :=
  match mode with
  | .rne => decide (2 * rem > 2 ^ k) || (decide (2 * rem = 2 ^ k) && n % 2 == 1)
  | .rz => false
  | .rp => !neg && decide (rem ≠ 0)
  | .rm => neg && decide (rem ≠ 0)

/-- m x 2^e as an integer multiple of 2^u under a rounding mode, and whether it is inexact. -/
def roundMag (mode : Rnd) (neg : Bool) (m : Nat) (e u : Int) : Nat × Bool :=
  let (n, rem, k) := splitAt m e u
  (if roundsUp mode neg n rem k then n + 1 else n, decide (rem ≠ 0))

/-- R60: the code of a result beyond the largest finite magnitude. -/
def Fmt754.overflow (f : Fmt754) (mode : Rnd) (neg : Bool) : Nat :=
  let toInf := match mode with | .rne => true | .rz => false | .rp => !neg | .rm => neg
  f.withSign neg (if toInf then f.infCode else f.infCode - 1)

/-- R59-R61: Round of a finite value into an IEEE format. -/
def Fmt754.roundFin (f : Fmt754) (mode : Rnd) (neg : Bool) (m : Nat) (e : Int) : Nat × Flags :=
  if m = 0 then (f.withSign neg 0, .none)
  else
    let ex : Int := Nat.log2 m + e
    let u := max (ex - f.fb) f.minUlp
    let (n, inexact) := roundMag mode neg m e u
    let code := n + (u - f.minUlp).toNat * 2 ^ f.fb
    if code ≥ f.infCode then (f.overflow mode neg, ⟨false, false, true, false, true⟩)
    else
      let (nu, _) := roundMag mode neg m e (ex - f.fb)
      let tiny := decide (ex - f.fb < f.minUlp) && !(decide (ex - f.fb + 1 = f.minUlp) && decide (nu = 2 ^ (f.fb + 1)))
      (f.withSign neg code, ⟨false, false, false, inexact && tiny, inexact⟩)

/-- R59, R60: Round into an IEEE format; a signalling NaN raises NV (R55). -/
def Fmt754.round (f : Fmt754) (mode : Rnd) : FVal → Nat × Flags
  | .nan s => (f.nanCode, ⟨s, false, false, false, false⟩)
  | .inf neg => (f.withSign neg f.infCode, .none)
  | .fin neg m e => f.roundFin mode neg m e

/-! MK8 (R57, R58). -/

/-- The length of the run of bits equal to b in the low n bits of p, from bit n - 1 downward. -/
def runLength (p : Nat) (b : Bool) : Nat → Nat
  | 0 => 0
  | n + 1 => if (p / 2 ^ n % 2 == 1) == b then runLength p b n + 1 else 0

/-- R57: FromMK8. -/
def mk8Decode (code : Nat) : FVal :=
  let neg := code / 128 % 2 == 1
  let p := code % 128
  if p = 0 then (if neg then .nan false else .fin false 0 0)
  else if p = 127 then .fin neg 1 11
  else
    let b := p / 64 == 1
    let k := runLength p b 7
    let r := 6 - k
    let rg : Int := if b then (k : Int) - 1 else -(k : Int)
    if r = 0 then .fin neg 1 (2 * rg)
    else
      let ex : Int := if p / 2 ^ (r - 1) % 2 == 1 then 1 else 0
      let fr := p % 2 ^ (r - 1)
      .fin neg (2 ^ (r - 1) + fr) (2 * rg + ex - ((r - 1 : Nat) : Int))

/-- The magnitude of a positive code in units of 2^-12, of which every MK8 value is a multiple (R58). -/
def mk8Units (code : Nat) : Nat :=
  match mk8Decode code with
  | .fin _ m e => m * 2 ^ (e + 12).toNat
  | _ => 0

/-- m x 2^e compared with t units of 2^-12: is it at least t? -/
def geUnits (m : Nat) (e : Int) (t : Nat) : Bool :=
  if -12 ≤ e then decide (t ≤ m * 2 ^ (e + 12).toNat) else decide (t * 2 ^ (-12 - e).toNat ≤ m)

/-- Is m x 2^e above t units of 2^-12? -/
def gtUnits (m : Nat) (e : Int) (t : Nat) : Bool :=
  if -12 ≤ e then decide (t < m * 2 ^ (e + 12).toNat) else decide (t * 2 ^ (-12 - e).toNat < m)

/-- The largest positive code not above the value, among codes up to the argument. -/
def mk8Floor (m : Nat) (e : Int) : Nat → Nat
  | 0 => 0
  | c + 1 => if geUnits m e (mk8Units (c + 1)) then c + 1 else mk8Floor m e c

/-- R59-R61: Round into MK8. -/
def mk8Round (mode : Rnd) : FVal → Nat × Flags
  | .nan s => (128, ⟨s, false, false, false, false⟩)
  | .inf neg => (127 + neg.toNat * 128, ⟨false, false, true, false, true⟩)
  | .fin neg m e =>
    if gtUnits m e (2 ^ 23) then
      (127 + neg.toNat * 128, ⟨false, false, true, false, true⟩)
    else
      let lo := mk8Floor m e 127
      let exact := !gtUnits m e (mk8Units lo)
      if exact then (if lo = 0 then 0 else lo + neg.toNat * 128, .none)
      else
        let mid := mk8Units lo + mk8Units (lo + 1)
        let above := geUnits (2 * m) e mid
        let tie := above && !gtUnits (2 * m) e mid
        let up := match mode with
          | .rne => if tie then lo % 2 == 1 else above
          | .rz => false
          | .rp => !neg
          | .rm => neg
        let c := if up then lo + 1 else lo
        (if c = 0 then 0 else c + neg.toNat * 128, ⟨false, false, false, decide (c = 0), true⟩)

/-! Integers (R53, R60). -/

def intMin (signed : Bool) (w : Nat) : Int := if signed then -(2 : Int) ^ (w - 1) else 0
def intMax (signed : Bool) (w : Nat) : Int := if signed then (2 : Int) ^ (w - 1) - 1 else (2 : Int) ^ w - 1

/-- The nearest integer of a range. -/
def clampInt (lo hi n : Int) : Int := if n < lo then lo else if hi < n then hi else n

/-- A finite value rounded to an integer, and whether it is inexact. -/
def roundToInt (mode : Rnd) (neg : Bool) (m : Nat) (e : Int) : Int × Bool :=
  let (n, inexact) := roundMag mode neg m e 0
  (if neg then -(n : Int) else (n : Int), inexact)

/-- R60, R61: Round into an integer format: it saturates with NV, and NaN gives 0 with NV. A value between an end of the format and
the next integer is rounded first, and is out of range only if its integer is (log 114, DESIGN CHOICE). -/
def intRound (signed : Bool) (w : Nat) (mode : Rnd) : FVal → Int × Flags
  | .nan _ => (0, .invalid)
  | .inf neg => (if neg then intMin signed w else intMax signed w, .invalid)
  | .fin neg m e =>
    let (n, inexact) := roundToInt mode neg m e
    if n < intMin signed w ∨ intMax signed w < n then (clampInt (intMin signed w) (intMax signed w) n, .invalid)
    else (n, ⟨false, false, false, false, inexact⟩)

/-! Exact arithmetic. -/

def FVal.ofInt (n : Int) : FVal := .fin (n < 0) n.natAbs 0
def FVal.neg : FVal → FVal
  | .nan s => .nan s
  | .inf n => .inf (!n)
  | .fin n m e => .fin (!n) m e
def FVal.isNan : FVal → Bool | .nan _ => true | _ => false
def FVal.isSignalling : FVal → Bool | .nan s => s | _ => false
def FVal.isZero : FVal → Bool | .fin _ m _ => m == 0 | _ => false
/-- The signed numerator over 2^e' for an exponent e' not above the value's own. -/
def FVal.scaled (neg : Bool) (m : Nat) (e e' : Int) : Int :=
  let n : Int := (m * 2 ^ (e - e').toNat : Nat)
  if neg then -n else n

/-- R69: ApplyScale. -/
def FVal.scale (s : Int) : FVal → FVal
  | .fin n m e => .fin n m (e + s)
  | v => v

/-- The exact sum and NV; an exact zero is signed by R56. -/
def FVal.add (mode : Rnd) : FVal → FVal → FVal × Bool
  | .nan s, b => (.nan false, s || b.isSignalling)
  | a, .nan s => (.nan false, s || a.isSignalling)
  | .inf a, .inf b => if a = b then (.inf a, false) else (.nan false, true)
  | .inf a, _ => (.inf a, false)
  | _, .inf b => (.inf b, false)
  | .fin na ma ea, .fin nb mb eb =>
    let e := min ea eb
    let r := FVal.scaled na ma ea e + FVal.scaled nb mb eb e
    if r = 0 then (.fin (if na = nb ∧ ma = 0 ∧ mb = 0 then na else mode == .rm) 0 0, false)
    else (.fin (r < 0) r.natAbs e, false)

/-- The exact product and NV. -/
def FVal.mul : FVal → FVal → FVal × Bool
  | .nan s, b => (.nan false, s || b.isSignalling)
  | a, .nan s => (.nan false, s || a.isSignalling)
  | .inf a, .inf b => (.inf (a != b), false)
  | .inf a, .fin b m _ => if m = 0 then (.nan false, true) else (.inf (a != b), false)
  | .fin a m _, .inf b => if m = 0 then (.nan false, true) else (.inf (a != b), false)
  | .fin a ma ea, .fin b mb eb => (.fin (a != b) (ma * mb) (ea + eb), false)

/-- Extra bits that a quotient or root carries, the last of them sticky: more than any format's fraction. -/
def guardBits : Nat := 140

/-- The quotient, exact or with a sticky last bit, with NV and DZ (R61). -/
def FVal.div : FVal → FVal → FVal × Flags
  | .nan s, b => (.nan false, ⟨s || b.isSignalling, false, false, false, false⟩)
  | a, .nan s => (.nan false, ⟨s || a.isSignalling, false, false, false, false⟩)
  | .inf _, .inf _ => (.nan false, .invalid)
  | .inf a, .fin b _ _ => (.inf (a != b), .none)
  | .fin a _ _, .inf b => (.fin (a != b) 0 0, .none)
  | .fin a ma ea, .fin b mb eb =>
    if mb = 0 then (if ma = 0 then (.nan false, .invalid) else (.inf (a != b), ⟨false, true, false, false, false⟩))
    else
      let q := ma * 2 ^ guardBits / mb
      let r := ma * 2 ^ guardBits % mb
      (.fin (a != b) (2 * q + (if r = 0 then 0 else 1)) (ea - eb - guardBits - 1), .none)

/-- The integer root, bit by bit from bit k - 1 downward. -/
def isqrtGo (n : Nat) : Nat → Nat → Nat
  | 0, r => r
  | k + 1, r => if (r + 2 ^ k) * (r + 2 ^ k) ≤ n then isqrtGo n k (r + 2 ^ k) else isqrtGo n k r

/-- The largest integer whose square is not above n. -/
def isqrt (n : Nat) : Nat := isqrtGo n (Nat.log2 n / 2 + 1) 0

/-- The square root, exact or with a sticky last bit, with NV. -/
def FVal.sqrt : FVal → FVal × Flags
  | .nan s => (.nan false, ⟨s, false, false, false, false⟩)
  | .inf neg => if neg then (.nan false, .invalid) else (.inf false, .none)
  | .fin neg m e =>
    if m = 0 then (.fin neg 0 0, .none)
    else if neg then (.nan false, .invalid)
    else
      let odd := (e % 2).toNat
      let n := m * 2 ^ odd * 2 ^ (2 * guardBits)
      let r := isqrt n
      (.fin false (2 * r + (if r * r = n then 0 else 1)) ((e - odd) / 2 - guardBits - 1), .none)

/-- The order of values other than NaN, with -0 = +0. -/
def FVal.lt : FVal → FVal → Bool
  | .nan _, _ => false
  | _, .nan _ => false
  | .inf a, .inf b => a && !b
  | .inf a, _ => a
  | _, .inf b => !b
  | .fin na ma ea, .fin nb mb eb =>
    let e := min ea eb
    decide (FVal.scaled na ma ea e < FVal.scaled nb mb eb e)

/-- Equality of values, with -0 = +0; a NaN equals nothing. -/
def FVal.eq (a b : FVal) : Bool := !a.isNan && !b.isNan && !a.lt b && !b.lt a

/-- The order of VMIN and VMAX (R158): as `lt`, with -0 below +0. -/
def FVal.ltSigned (a b : FVal) : Bool :=
  a.lt b || (match a, b with | .fin true 0 _, .fin false 0 _ => true | _, _ => false)

/-! Stochastic rounding (R63, R64) and fixed point (R65). -/

/-- R63: RoundSR of a value, with 16 random bits. -/
def Fmt754.roundSR (f : Fmt754) (v : FVal) (random : Nat) : Nat :=
  match v with
  | .nan _ => f.nanCode
  | .inf neg => f.withSign neg (f.infCode - 1)
  | .fin neg m e =>
    if m = 0 then f.withSign neg 0
    else
      let u := max ((Nat.log2 m + e : Int) - f.fb) f.minUlp
      let (n, rem, k) := splitAt m e u
      let code := n + (u - f.minUlp).toNat * 2 ^ f.fb
      if code ≥ f.infCode - 1 then f.withSign neg (f.infCode - 1)
      else
        let up := if rem = 0 then false
          else if neg then !decide (random < (2 ^ k - rem) * 2 ^ 16 / 2 ^ k)
          else decide (random < rem * 2 ^ 16 / 2 ^ k)
        f.withSign neg (if up then code + 1 else code)

/-- R64: LfsrLoad. -/
def lfsrLoad (seed : BitVec 32) : BitVec 32 := if seed = 0 then 1 else seed

/-- R64: LfsrDraw: the bits and the next state. -/
def lfsrDraw (s : BitVec 32) : Nat × BitVec 32 :=
  (s.toNat % 2 ^ 16, if s.getLsbD 0 then (s >>> 1) ^^^ 0x80200003#32 else s >>> 1)

/-- R65: ToFX; none is INVALID or OVERFLOW. -/
def toFX (w : Nat) (l : Int) : FVal → Option Int
  | .fin neg m e =>
    let (n, _) := roundToInt .rne neg m (e - l)
    if n < intMin true w ∨ intMax true w < n then none else some n
  | _ => none

/-- R65: FromFX. -/
def fromFX (n l : Int) : FVal := .fin (n < 0) n.natAbs l

/-! Element types (R30). -/

/-- The IEEE format of a type, if it is one. -/
def ieeeOf (t : ElType) : Option Fmt754 :=
  match t with
  | .fp16 => some fp16
  | .bf16 => some bf16
  | .fp32 => some fp32
  | .fp64 => some fp64
  | _ => none

end Sys2Proof.Machine
end

