-- ==== Sys2Proof/Machine/Memory.lean ====
section
/-!
DEFINITION. Device memory (05): the physical map and its interleave, DRAM bytes and block tags, page walks and the TLBs.
-/
namespace Sys2Proof.Machine

/-! ## The physical map (R70-R75) -/

def hbmEnd : Nat := 0xC000000000
def mmioBase : Nat := 0xF000000000

/-- R71: the number of linear frames, and where the linear zone begins. -/
def State.linframes (s : State) : Nat := s.memcfg.toNat % 128
def State.zi (s : State) : Nat := (128 - s.linframes) * (6 * 2 ^ 30)
def State.interleaved (s : State) (pa : Nat) : Bool := decide (pa < s.zi)
def State.linear (s : State) (pa : Nat) : Bool := decide (s.zi ≤ pa ∧ pa < hbmEnd)

/-- R73: the slice (stack x 8 + slice) that owns a PA of the interleaved zone, and its pseudo-channel. -/
def pchOfGranule (pa : Nat) : Nat := pa / 256 % 12 * 64 + pa / 256 / 12 % 64
def sliceOf (pa : Nat) : Nat := pa / 256 % 12 * 8 + pa / 256 / 12 % 64 / 8

/-- R74: the place of a PA of the linear zone. -/
def State.sidx (s : State) (pa : Nat) : Nat := (pa - s.zi) / (s.linframes * 2 ^ 21)
def State.linOff (s : State) (pa : Nat) : Nat := (pa - s.zi) % (s.linframes * 2 ^ 21)
def State.linPch (s : State) (pa : Nat) : Nat := s.sidx pa / 256 * 64 + s.sidx pa / 4 % 64
def State.linSid (s : State) (pa : Nat) : Nat := s.sidx pa % 4
def State.linBank (s : State) (pa : Nat) : Nat := s.linOff pa / 32 % 16
def State.linColumn (s : State) (pa : Nat) : Nat := s.linOff pa / 512 % 64

/-- The pseudo-channel of any HBM address. -/
def State.pchOf (s : State) (pa : Nat) : Nat := if s.interleaved pa then pchOfGranule pa else s.linPch pa

/-! ## DRAM bytes and tags (R67, R81) -/

def State.blockTag (s : State) (pa : Nat) : BitVec 16 := SMap.get zeroTag s.blockTags (pa / 64)
def State.setBlockTag (s : State) (pa : Nat) (t : BitVec 16) : State :=
  { s with blockTags := SMap.set zeroTag s.blockTags (pa / 64) t }

/-- What a read of one byte returns: a ZERO or CONST block has no payload, and a POISON block an undefined one (R68). -/
def State.dramByte (s : State) (pa : Nat) : Byte :=
  let t := s.blockTag pa
  if tagZero t then 0 else if tagConst t then BitVec.ofNat 8 (tagScale t)
  else if tagPoison t then Config.undefinedByte pa s.tick else SMap.get 0 s.hbm pa
def State.dramBytes (s : State) (pa n : Nat) : List Byte := (List.range n).map fun i => s.dramByte (pa + i)
def State.dramNat (s : State) (pa n : Nat) : Nat := bytesToNat (s.dramBytes pa n)

/-- The form of device memory: bytes and block tags in the canonical form of a sparse map, so that equal memories are equal
data. -/
def Memory.wf (s : State) : Bool := SMap.wf 0 s.hbm && SMap.wf zeroTag s.blockTags

def State.putByte (s : State) (pa : Nat) (v : Byte) : State := { s with hbm := SMap.set 0 s.hbm pa v }
/-- Bytes at rising addresses. -/
def State.putBytes (s : State) (pa : Nat) (l : List Byte) : State :=
  (l.foldl (fun (p : Nat × State) v => (p.1 + 1, p.2.putByte p.1 v)) (pa, s)).2

/-- R81: a ZERO or CONST block gets the bytes it read as. -/
def State.materialise (s : State) (pa : Nat) : State :=
  let t := s.blockTag pa
  if tagZero t || tagConst t then s.putBytes (pa / 64 * 64) (s.dramBytes (pa / 64 * 64) 64) else s

/-- R81: a store of one byte to part of a block. -/
def State.dramStoreByte (s : State) (pa : Nat) (v : Byte) (b : Bool) : State :=
  let t := s.blockTag pa
  ((s.materialise pa).putByte pa v).setBlockTag pa (storeTag t b)
def State.dramStore (s : State) (pa : Nat) (l : List Byte) (b : Bool) : State :=
  (l.foldl (fun (p : Nat × State) v => (p.1 + 1, p.2.dramStoreByte p.1 v b)) (pa, s)).2

/-- A whole block with its tag (R81, R94). -/
def State.putBlock (s : State) (pa : Nat) (l : List Byte) (t : BitVec 16) : State :=
  (s.putBytes (pa / 64 * 64) l).setBlockTag pa t

/-- The blocks that n bytes from an address touch. -/
def blocksOf (a n : Nat) : List Nat := if n = 0 then [] else (List.range ((a + n - 1) / 64 - a / 64 + 1)).map fun i => (a / 64 + i) * 64

/-- R295: a reserved pseudo-channel holds back what touches some bytes of the interleaved zone. -/
def State.reserved (s : State) (pa n : Nat) : Bool :=
  (s.pchs.any fun p => p.2.rsv) && (List.range ((pa + n + 255) / 256 - pa / 256)).any fun i =>
    s.interleaved (pa + 256 * i) && (s.pch (pchOfGranule (pa + 256 * i))).rsv

/-! ## Page tables (R76-R79) -/

/-- The fault of a walk. -/
inductive WalkFail where
  | page
  | access
  | poison (pa : Nat)
deriving DecidableEq, Repr

def State.dev (s : State) : Nat := s.domid.toNat % 512
def State.domSize (s : State) : Nat := s.domid.toNat / 512 % 2 ^ 15

/-- R78: a malformed entry with V = 1, at a level, for a VA (log 50, DEDUCED). -/
def State.pteMalformed (s : State) (level e va : Nat) : Bool :=
  let leaf := bits e 1 1 == 1
  let cls := bits e 2 2
  let ppn := bits e 16 24
  let pa := ppn * 2 ^ 16
  let ex := bits e 6 1 == 1
  let wr := bits e 5 1 == 1
  let rdev := bits e 40 9
  bits e 49 15 != 0 || bits e 7 1 != 0
    || (leaf && level == 1) || (!leaf && level == 3)
    || (!leaf && (bits e 2 14 != 0 || rdev != 0))
    || (leaf && (
      (level == 2 && (ppn % 2 ^ 13 != 0 || cls == 1 || cls == 3))
      || (cls == 0 && !s.interleaved pa) || (cls == 1 && !s.linear pa) || (cls == 3 && decide (pa < mmioBase))
      || (cls == 1 && va / 2 ^ 16 % 32 != ppn % 32)
      || (ex && (wr || cls != 0))
      || (cls != 0 && bits e 8 8 != 0)
      || (if cls == 2 then rdev == s.dev else rdev != 0)))

/-- R79: an entry with V = 1 in an access-fault case: a table or page in the unimplemented range, or a DEVICE leaf. -/
def pteAccess (e : Nat) : Bool :=
  let pa := bits e 16 24 * 2 ^ 16
  decide (hbmEnd ≤ pa ∧ pa < mmioBase) || (bits e 1 1 == 1 && bits e 2 2 == 3)

/-- The index of a VA at a level, and the bytes a leaf of that level maps (R76). -/
def vaIndex (level va : Nat) : Nat :=
  if level = 1 then va / 2 ^ 42 % 64 else if level = 2 then va / 2 ^ 29 % 8192 else va / 2 ^ 16 % 8192
def leafSize (level : Nat) : Nat := if level = 2 then 2 ^ 29 else 2 ^ 16

/-- The walk from a table at a level; `fuel` is the number of levels left. A table that does not lie in HBM, by PTROOT or by a
pointer, gives an access fault, and one that lies in the linear zone is read like one of the interleaved zone (log 100, DESIGN CHOICE). -/
def State.walkFrom (s : State) (part : Nat) (ctx : Bool) (va : Nat) : Nat → Nat → Except WalkFail TlbEntry
  | 0, _ => .error .page
  | fuel + 1, table =>
    let level := 3 - fuel
    let pa := table + 8 * vaIndex level va
    if hbmEnd ≤ pa then .error .access
    else if tagPoison (s.blockTag pa) then .error (.poison (pa / 64 * 64))
    else
      let e := s.dramNat pa 8
      if bits e 0 1 = 0 then .error .page
      else if pteAccess e then .error .access
      else if s.pteMalformed level e va then .error .page
      else if bits e 1 1 = 0 then s.walkFrom part ctx va fuel (bits e 16 24 * 2 ^ 16)
      else .ok
        { part := part, ctx := ctx, va := va / leafSize level * leafSize level, size := leafSize level
          pa := bits e 16 24 * 2 ^ 16, rdev := bits e 40 9, region := bits e 8 8
          ex := bits e 6 1 == 1, wr := bits e 5 1 == 1, rd := bits e 4 1 == 1, cls := bits e 2 2 }

/-- R76: where a walk reads its entries, from a table at a level on; `fuel` is the number of levels left. -/
def State.walkPlaces (s : State) (va : Nat) : Nat → Nat → List Nat
  | 0, _ => []
  | fuel + 1, table =>
    let pa := table + 8 * vaIndex (3 - fuel) va
    let e := s.dramNat pa 8
    if hbmEnd ≤ pa then []
    else pa :: (if tagPoison (s.blockTag pa) || bits e 0 2 != 1 then [] else s.walkPlaces va fuel (bits e 16 24 * 2 ^ 16))

/-- R295: a table block on the way of a walk lies behind a reserved pseudo-channel. -/
def State.walkReserved (s : State) (va fuel table : Nat) : Bool := (s.walkPlaces va fuel table).any fun pa => s.reserved pa 8

/-- R82: a walk meets a table block with an error that nothing has read yet. -/
def State.walkFlawed (s : State) (va fuel table : Nat) : Bool :=
  (s.walkPlaces va fuel table).any fun pa => s.weak.any fun w => w.1 == pa / 64

/-- R76: the root table of a partition context. -/
def State.rootTable (s : State) (part : Nat) (ctx : Bool) : Nat := (s.pctx part ctx).ptroot.toNat / 2 ^ 9 % 2 ^ 31 * 2 ^ 9

/-- R76: the walk of a VA in a partition context. -/
def State.walk (s : State) (part : Nat) (ctx : Bool) (va : Nat) : Except WalkFail TlbEntry :=
  s.walkFrom part ctx va 3 (s.rootTable part ctx)

def TlbEntry.hits (e : TlbEntry) (part : Nat) (ctx : Bool) (va : Nat) : Bool :=
  e.part == part && e.ctx == ctx && decide (e.va ≤ va ∧ va < e.va + e.size)

/-- R80: the core TLB, then the cluster TLB; a cox core has no cluster TLB (R10). -/
def State.tlbLookup (s : State) (core part : Nat) (ctx : Bool) (va : Nat) : Option TlbEntry :=
  ((s.core core).tlb.find? fun e => e.hits part ctx va).orElse fun _ =>
    if isCox core then none else (s.cluster (clusterOf core)).tlb.find? fun e => e.hits part ctx va

/-- A full TLB gives up an entry that nothing here fixes (log 15, DESIGN CHOICE). -/
def tlbInsert (cap victim : Nat) (l : List TlbEntry) (e : TlbEntry) : List TlbEntry :=
  if l.length < cap then e :: l else e :: l.eraseIdx (victim % cap)

def State.tlbFill (s : State) (core : Nat) (e : TlbEntry) : State :=
  let c := s.core core
  let s := s.setCore core { c with tlb := tlbInsert 32 (Config.victim s.tick) c.tlb e }
  if isCox core then s
  else
    let k := s.cluster (clusterOf core)
    s.setCluster (clusterOf core) { k with tlb := tlbInsert 1024 (Config.victim s.tick / 32) k.tlb e }

/-- R79: the cause of a page fault and of an access fault. -/
def Access.pageCause : Access → Nat | .fetch => 12 | .load => 13 | .store => 15 | .bank => 15
def Access.accessCause : Access → Nat | .fetch => 1 | .load => 5 | .store => 7 | .bank => 7
def Access.allowed (k : Access) (e : TlbEntry) : Bool :=
  match k with | .fetch => e.ex | .load => e.rd | .store => e.wr | .bank => e.rd && e.wr

/-- R79, R80: the translation of one address for the current thread: the leaf, a fault of the kind's causes, or a park
until a walk ends. -/
def State.translate (s : State) (va : Word) (k : Access) : Except Stop TlbEntry :=
  if 2 ^ 48 ≤ va.toNat then .error (.trap k.accessCause va)
  else match s.tlbLookup s.cur.core (s.partOf s.cur.core) s.cur.ctx va.toNat with
    | some e => if k.allowed e then .ok e else .error (.trap k.pageCause va)
    | none => match s.th.faultOf va.toNat k with
      | some c => .error (.trap c va)
      | none => .error (.park (.walk va.toNat k))

def TlbEntry.paOf (e : TlbEntry) (va : Nat) : Nat := e.pa + (va - e.va)

/-! ## Paths to another device (R375) -/

def State.port (s : State) (p : Nat) : Port := SMap.get Port.initial s.ports p
def State.setPort (s : State) (p : Nat) (v : Port) : State := { s with ports := SMap.set Port.initial s.ports p v }
/-- The device number lies in the domain, which holds up to 288 devices (R13, R374), and some port is UP whose switch reaches it
(R376). -/
def State.pathTo (s : State) (rdev : Nat) : Bool :=
  decide (rdev < s.domSize ∧ rdev < 288) && (List.range 18).any fun p => (s.port p).up && !(s.port p).lost.contains rdev

end Sys2Proof.Machine
end

