-- ==== Sys2Proof/Machine/Errors.lean ====
section
/-!
DEFINITION. Lasting faults (R14, R83, R359) and who hears of them: the partition contexts that use a failing place, and
their records on the fatal lane or in the steward log.
-/
namespace Sys2Proof.Machine

/-- R315, R353: a partition context exists. -/
def State.ctxExists (s : State) (part : Nat) (ctx : Bool) : Bool :=
  decide (part < 16) && (s.part part).v && (!ctx || (s.part part).split)

/-- The partition contexts that exist. -/
def State.contexts (s : State) : List (Nat × Bool) :=
  (((List.range 16).map fun p => [(p, false), (p, true)]).flatten).filter fun c => s.ctxExists c.1 c.2

/-- A page of a context on this device lies in a 2 MiB frame. -/
def State.mapsFrame (s : State) (part : Nat) (ctx : Bool) (frame : Nat) : Bool :=
  (List.range (2 ^ 32)).any fun p => match s.walk part ctx (p * 2 ^ 16) with
    | .ok e => decide (e.cls ≤ 1) && e.paOf (p * 2 ^ 16) / 2 ^ 21 == frame
    | .error _ => false

/-- A valid handle of a context reaches into a frame of this device (R85). -/
def State.handlesFrame (s : State) (part : Nat) (ctx : Bool) (frame : Nat) : Bool :=
  let p := s.pctx part ctx
  (List.range (bits p.htcount.toNat 0 17)).any fun i =>
    let e := s.dramNat (bits p.htbase.toNat 4 36 * 16 + 16 * i) 16
    bits e 96 1 == 1 && decide (bits e 81 2 ≤ 1 ∧ bits e 0 40 < (frame + 1) * 2 ^ 21 ∧ frame * 2 ^ 21 < bits e 0 40 + bits e 40 41)

/-- R82, R359: the partition contexts that use a source of errors (log 37, DEDUCED). -/
def State.users (s : State) : ErrSource → List (Nat × Bool)
  | .frame n => s.contexts.filter fun c => s.mapsFrame c.1 c.2 n || s.handlesFrame c.1 c.2 n
  | .bank core _ => s.contexts.filter fun c => c.1 == s.partOf core && (isCox core || (s.part c.1).holds (clusterOf core))
  | .port _ => s.contexts
  | .array n => s.contexts.filter fun c => (s.part c.1).holds (quadCluster (n / 4))

/-- R370: the interrupt source of a lane; advances may merge. -/
def laneSource (part : Nat) (ctx fatal : Bool) : Nat := (if fatal then 32 else 33) + 2 * (16 * ctx.toNat + part)
def State.interrupt (s : State) (n : Nat) : State :=
  { s with interrupts := if s.interrupts.contains n then s.interrupts else s.interrupts ++ [n] }

/-- What a record would hold goes to the steward log. -/
def State.logged (s : State) (make : State → State) : State :=
  let t := make { s with records := [] }
  { t with records := s.records, stewardLog := s.stewardLog ++ t.records.map (·.bits) }

/-- R356, R359: an error event that has its record: the unit reports it to the steward log too (in the form of log 39, DEDUCED). -/
def State.unitError (s : State) (part : Nat) (ctx : Bool) (unit event src addr detail pc cause thr count : Nat) : State :=
  (s.logged fun s => s.hwError 0 false unit event src addr detail pc cause thr count false).hwError part ctx unit event src addr
    detail pc cause thr count false

/-- A record for each of some partition contexts, or for the steward log where there is none. -/
def State.recordFor (s : State) (users : List (Nat × Bool)) (make : State → Nat → Bool → State) : State :=
  match users with
  | [] => s.logged fun s => make s 0 false
  | l => l.foldl (fun s c => make s c.1 c.2) s

/-- UNIT, SRC and ADDR of a source (R356). -/
def State.errorPlace (s : State) : ErrSource → Nat × Nat × Nat
  | .frame n => (1, s.pchOf (n * 2 ^ 21), n * 2 ^ 21)
  | .bank core b => (3, core, 8 * b)
  | .port p => (7, p, p)
  | .array n => (5, n, 0)

/-! ## Counting (R83, R359) -/

/-- R359: the limit of a source and its window, in microseconds. -/
def errorLimit : ErrSource → Nat × Nat
  | .frame _ => (4, 600000000)
  | .bank _ _ => (16, 1000000)
  | .port _ => (128, 1000)
  | .array _ => (1, 0)

/-- The events of a source that fall within a window that ends at a time (log 47, DEDUCED). -/
def State.windowCount (s : State) (src : ErrSource) (time : Nat) : Nat :=
  (s.errors.filter fun e => decide (e.1 = src) && decide (e.2 ≤ time ∧ time ≤ e.2 + (errorLimit src).2)).length

/-- R3: CYCLE in microseconds. -/
def State.now (s : State) : Nat := s.cycle.toNat / 1900

/-- R359: a unit reports an error event to the steward log (in the form of log 39, DEDUCED). -/
def State.report (s : State) (src : ErrSource) (event addr detail : Nat) : State :=
  let (unit, place, _) := s.errorPlace src
  s.logged fun s => s.hwError 0 false unit event place addr detail 0 0 0 0 false

/-- R375: a port with a lasting fault goes down whole. -/
def State.takeDown (s : State) : ErrSource → State
  | .port p => s.setPort p { s.port p with up := false, lasting := true, lost := [] }
  | _ => s

/-- R356, R370: the records of a lasting fault. One that no partition context gets raises the first fatal source (log 61, DESIGN
CHOICE). -/
def State.tellLasting (s : State) (src : ErrSource) (count detail : Nat) : State :=
  let (unit, place, addr) := s.errorPlace src
  let t := s.recordFor (s.users src) fun s part ctx => s.hwError part ctx unit 2 place addr detail 0 0 0 count true
  if (s.users src).isEmpty then t.interrupt (laneSource 0 false true) else t

/-- R359: an event makes the fault of a source lasting: a record with EVENT 2, and a port goes down whole. -/
def State.makeLasting (s : State) (src : ErrSource) (count detail : Nat) : State :=
  if s.lasting.contains src then s
  else ({ s with lasting := s.lasting ++ [src] }.takeDown src).tellLasting src count detail

/-- R359: firmware counts an event of a source. -/
def State.countEvent (s : State) (src : ErrSource) (time : Nat) : State := { s with errors := s.errors ++ [(src, time)] }

/-- R359: an event without a record of its own is reported and counted, and at the limit it makes the fault lasting. -/
def State.errorEvent (s : State) (src : ErrSource) (time addr detail : Nat) : State :=
  let s := (s.report src 0 addr detail).countEvent src time
  let n := s.windowCount src time
  if (errorLimit src).1 ≤ n then s.makeLasting src n detail else s

/-- R83, R359: a count of events makes the fault of a source lasting; one uncorrectable error does that to a frame. -/
def lastsAt (src : ErrSource) (n : Nat) : Bool :=
  match src with
  | .frame _ => true
  | _ => decide ((errorLimit src).1 ≤ n)

/-- R359: an event with a record of its own, which `own` writes, given the count of its window and whether it makes the
fault lasting. -/
def State.errorWith (s : State) (src : ErrSource) (event addr detail : Nat) (own : State → Nat → Bool → State) : State :=
  let s := (s.report src event addr detail).countEvent src s.now
  let n := s.windowCount src s.now
  let s := own s n (lastsAt src n && !s.lasting.contains src)
  if lastsAt src n then s.makeLasting src n detail else s

/-! ## DRAM (R82) -/

/-- R356: the instruction that an error meets: its PC, the trap cause that its reader takes with it, its thread; zeros where there
is none. -/
structure Reader where
  pc : Nat
  cause : Nat
  thr : Nat
deriving DecidableEq, Repr

def noReader : Reader := ⟨0, 0, 0⟩
/-- The instruction that began an operation, which a unit reads for. -/
def Op.reader (o : Op) (cause : Nat) : Reader := ⟨o.pc.toNat, cause, o.thr⟩
/-- The instruction of the current thread's slot. -/
def State.reader (s : State) (cause : Nat) : Reader := ⟨s.iss.pc.toNat, cause, s.cur.thr⟩

/-- R82: an uncorrectable error in a block: it becomes POISON, its frame's owners hear of it, and the frame's fault lasts. -/
def State.uncorrectable (s : State) (pa : Nat) (syndrome : Nat) (r : Reader) : State :=
  let src := ErrSource.frame (pa / 2 ^ 21)
  (s.setBlockTag pa poisonTag).errorWith src 1 (pa / 64 * 64) syndrome fun s n lasts =>
    s.recordFor (s.users src) fun s part ctx =>
      s.hwError part ctx 1 1 (s.pchOf pa) (pa / 64 * 64) syndrome r.pc r.cause r.thr n lasts

/-- R82: what the controller finds in a block: a correctable error is corrected and reported with its frame, an uncorrectable
one makes the block POISON. -/
def State.foundError (s : State) (pa : Nat) (uncorrectable : Bool) (syndrome : Nat) (r : Reader) : State :=
  let s := { s with weak := s.weak.filter fun w => w.1 != pa / 64 }
  if uncorrectable then s.uncorrectable pa syndrome r
  else s.errorEvent (.frame (pa / 2 ^ 21)) s.now (pa / 2 ^ 21 * 2 ^ 21) syndrome

/-- R82: the controller reads the codeword of the block of a PA. -/
def State.eccBlock (r : Reader) (s : State) (pa : Nat) : State :=
  match s.weak.find? fun w => w.1 == pa / 64 with
  | some (_, u, n) => s.foundError pa u n r
  | none => s

/-- R82: an access of an instruction reads the codewords of the blocks that n bytes touch. -/
def State.eccFor (s : State) (r : Reader) (pa n : Nat) : State :=
  if s.weak.isEmpty then s else (blocksOf pa n).foldl (State.eccBlock r) s
/-- The same for an access with which no thread takes a trap. -/
def State.ecc (s : State) (pa n : Nat) : State := s.eccFor noReader pa n
/-- The same for several places. -/
def State.eccAllFor (s : State) (r : Reader) (l : List (Nat × Nat)) : State :=
  if s.weak.isEmpty then s else l.foldl (fun s p => s.eccFor r p.1 p.2) s
def State.eccAll (s : State) (l : List (Nat × Nat)) : State := s.eccAllFor noReader l

/-! ## Scratchpad (R103, R359) -/

/-- R101: the bank of a scratchpad word. -/
def bankOfWord (w : Nat) : Nat := w % 32

/-- R103, R359: an uncorrectable word that a read finds: its block becomes POISON, the event is reported and counted for its
bank, and a record goes to the fatal lane. -/
def State.badWord (s : State) (core : Nat) (ctx : Bool) (unit : Nat) (pc cause thr : Nat) (w : Nat) : State :=
  let c := s.coreCtx core ctx
  let s := s.setCoreCtx core ctx { c.setTag (w * 8) poisonTag with badWords := c.badWords.filter fun v => v != w }
  let d := Config.syndrome (64 * s.tick + w)
  s.errorWith (.bank core (bankOfWord w)) 1 (w * 8) d fun s n lasts =>
    if unit = 0 then s else s.hwError (s.partOf core) ctx unit 1 core (w * 8) d pc cause thr n lasts

/-- The uncorrectable words among those that n bytes from each address touch. -/
def CoreCtx.badIn (c : CoreCtx) (l : List Nat) (n : Nat) : List Nat :=
  c.badWords.filter fun w => l.any fun a => decide (w * 8 < a + n ∧ a < w * 8 + 8)

/-- R103: a unit reads n bytes for an instruction: an uncorrectable word makes its block POISON. -/
def State.spadScrubFor (s : State) (r : Reader) (core : Nat) (ctx : Bool) (a n : Nat) : State :=
  ((s.coreCtx core ctx).badIn [a] n).foldl (State.badWord · core ctx 3 r.pc r.cause r.thr) s
/-- The same for an engine with which no trap is taken. -/
def State.spadScrub (s : State) (core : Nat) (ctx : Bool) (a n : Nat) : State := s.spadScrubFor noReader core ctx a n

/-- R103, R108: a thread reads n bytes at each address: every block with an uncorrectable word becomes POISON, each has a
record (R356), and the reader takes cause 28 at the first address that meets one (log 65, DEDUCED). -/
def State.spadEcc (s : State) (l : List Word) (n : Nat) : Except Stop Unit :=
  match l.find? fun a => !(s.cc.badIn [a.toNat] n).isEmpty with
  | none => .ok ()
  | some a => .error (.trapIn
      ((s.cc.badIn (l.map (·.toNat)) n).foldl (State.badWord · s.cur.core s.cur.ctx 3 s.iss.pc.toNat 28 s.cur.thr) s) 28 a)

end Sys2Proof.Machine
end

