-- ==== Sys2Proof/Machine/Merge.lean ====
section
/-!
DEFINITION. Merge space (15, 17): regions, composition and folds, the runs L0, L1 and L2, the paths between them, drains,
and what a load composes.
-/
namespace Sys2Proof.Machine

/-! ## Regions (R225, R226) -/

/-- R225: the record of a region; region 0 reads 0x61 and nothing changes it. -/
def State.region (s : State) (id : Nat) : BitVec 128 := if id = 0 then 0x61 else SMap.get 0 s.regions id

def regV (r : BitVec 128) : Bool := r.getLsbD 0
def regType (r : BitVec 128) : Nat := bits r.toNat 4 4
def regOp (r : BitVec 128) : Nat := bits r.toNat 8 4
def regOvf (r : BitVec 128) : Nat := bits r.toNat 12 2
def regL (r : BitVec 128) : Int := (BitVec.ofNat 8 (bits r.toNat 16 8)).toInt
/-- Element bytes of a region's type. -/
def regBytes (r : BitVec 128) : Nat :=
  match regType r with | 0 => 4 | 1 => 4 | 5 => 4 | 6 => 4 | _ => 8
/-- INT32, INT64 and FX64 are signed. -/
def regSigned (r : BitVec 128) : Bool := regType r == 0 || regType r == 2 || regType r == 4
def regInteger (r : BitVec 128) : Bool := decide (regType r ≤ 3)

/-- R225, R226: a record that RGSET and REGCFG accept. -/
def regLegal (r : BitVec 128) : Bool :=
  let n := r.toNat
  let t := regType r
  let op := regOp r
  n / 2 ^ 24 == 0 && bits n 14 2 == 0 && bits n 1 3 == 0
    && (t == 4 || bits n 16 8 == 0) && decide (regOvf r ≤ 2)
    && ((decide (t ≤ 3) && op == 1) || regOvf r == 0)
    && decide (t ≤ 7)
    && (op == 0 || (op == 1 && decide (t ≤ 4)) || ((op == 2 || op == 3) && decide (t ≤ 5))
      || (decide (4 ≤ op ∧ op ≤ 6) && (t == 6 || t == 7)))

/-- The order of MIN and MAX on FP32 (R158): a NaN loses to a number, -0 below +0. -/
def fp32Pick (max : Bool) (a b : Int) : Int :=
  let x := fp32.decode a.toNat
  let y := fp32.decode b.toNat
  if x.isNan then (if y.isNan then (fp32.nanCode : Int) else b)
  else if y.isNan then a
  else if max then (if x.ltSigned y then b else a) else (if y.ltSigned x then b else a)

/-- R226: the operator of a region, exact on VALUE. -/
def regCombine (r : BitVec 128) (a b : Int) : Int :=
  match regOp r with
  | 1 => a + b
  | 2 => if regType r = 5 then fp32Pick false a b else min a b
  | 3 => if regType r = 5 then fp32Pick true a b else max a b
  | 4 => ((a.toNat &&& b.toNat : Nat) : Int)
  | 5 => ((a.toNat ||| b.toNat : Nat) : Int)
  | 6 => ((a.toNat ^^^ b.toNat : Nat) : Int)
  | _ => b

/-- The range of a region's element. -/
def regMin (r : BitVec 128) : Int := intMin (regSigned r) (8 * regBytes r)
def regMax (r : BitVec 128) : Int := intMax (regSigned r) (8 * regBytes r)

/-- A number of bits read in a region's type. -/
def regOfBits (r : BitVec 128) (n : Nat) : Int :=
  let w := 8 * regBytes r
  if regSigned r ∧ 2 ^ (w - 1) ≤ n % 2 ^ w then ((n % 2 ^ w : Nat) : Int) - 2 ^ w else (n % 2 ^ w : Nat)

/-- R229: Fit; none where it faults. -/
def regFit (r : BitVec 128) (v : Int) : Option Int :=
  if regOp r = 1 ∧ regInteger r then
    match regOvf r with
    | 0 => some (regOfBits r (v % (2 : Int) ^ (8 * regBytes r)).toNat)
    | 1 => some (clampInt (regMin r) (regMax r) v)
    | _ => if v < regMin r ∨ regMax r < v then none else some v
  else if regType r = 4 ∧ (v < regMin r ∨ regMax r < v) then none
  else some v

/-! ## Folds (R228, R260, R263-R265) -/

/-- R224: an entry as software sees it. -/
def RunEntry.bits (e : RunEntry) : Nat :=
  let kind := match e.kind with | .set => 0 | .combine => 1 | .poison => 2
  e.key * 2 ^ 90 + kind * 2 ^ 88 + (e.value % (2 : Int) ^ 80).toNat

/-- R263: why a fold of an older and a newer entry fails, if it does. -/
def foldFails (r : BitVec 128) (older newer : RunEntry) : Option Nat :=
  if older.region ≠ newer.region then some 3
  else match older.kind, newer.kind with
    | .set, .combine =>
      let v := regCombine r older.value newer.value
      if regOp r = 1 ∧ (v < (if regSigned r then -2 ^ 79 else 0) ∨ (if regSigned r then 2 ^ 79 else 2 ^ 80) ≤ v) then some 1
      else if (regType r = 4 ∨ (regOp r = 1 ∧ regInteger r ∧ regOvf r = 2)) ∧ (v < regMin r ∨ regMax r < v) then some 2
      else none
    | .combine, .combine =>
      let v := regCombine r older.value newer.value
      if regOp r = 1 ∧ (v < (if regSigned r then -2 ^ 79 else 0) ∨ (if regSigned r then 2 ^ 79 else 2 ^ 80) ≤ v) then some 1
      else none
    | _, _ => none

/-- R228: the composition of two entries that does not fail. -/
def foldOk (r : BitVec 128) (older newer : RunEntry) : RunEntry :=
  match older.kind, newer.kind with
  | .set, .combine => { newer with kind := .set, value := regCombine r older.value newer.value }
  | .combine, .combine => { newer with value := regCombine r older.value newer.value }
  | .poison, .combine => { newer with kind := .poison, value := 0 }
  | _, _ => newer

/-- The cluster, or the cox core, that a core's entries come from (R265). -/
def mergeSrc (core : Nat) : Nat := if isCox core then core else clusterOf core

/-- R265: the merge fault record of a failed fold. Its unit is the core's port at level 1, and else the slice (R355). -/
def State.mergeFault (s : State) (level src reason : Nat) (older newer : RunEntry) : State :=
  s.record (if level = 1 then 90000 + src else 20000 + sliceOf (newer.key * 4)) newer.part newer.ctx false 0x31
    [(8, level), (16, reason), (24, older.region), (32, newer.region), (48, src), (64, older.bits), (192, newer.bits)]

/-- R228, R264: an older and a newer entry of one key meet; a failed fold leaves a POISON entry and a record. -/
def State.fold2 (s : State) (level src : Nat) (older newer : RunEntry) : State × RunEntry :=
  let r := s.region newer.region
  match foldFails r older newer with
  | none => (s, foldOk r older newer)
  | some reason =>
    (s.mergeFault level src reason older newer,
      { newer with kind := .poison, value := 0, region := older.region })

/-- The moved entries of one key fold onto what the destination holds, in their order (R260). -/
def State.foldAll (s : State) (level src : Nat) : Option RunEntry → List RunEntry → State × Option RunEntry
  | o, [] => (s, o)
  | none, e :: r => s.foldAll level src (some e) r
  | some o, e :: r =>
    let (s, n) := s.fold2 level src o e
    s.foldAll level src (some n) r

/-- The keys of a list of entries, each once, in order of first appearance. -/
def keysOf : List RunEntry → List Nat
  | [] => []
  | e :: r => e.key :: (keysOf r).filter (· != e.key)

/-! ## Paths to the slices (R261) -/

def State.pushPath (s : State) (src slice : Nat) (i : PathItem) : State :=
  { s with paths := s.paths ++ [⟨src, slice, s.serial, i⟩], serial := s.serial + 1 }

/-- The entries of each key travel together. -/
def State.pushEntries (s : State) (src : Nat) (es : List RunEntry) : State :=
  (keysOf es).foldl (fun s k => s.pushPath src (sliceOf (k * 4)) (.entries (es.filter fun e => e.key == k))) s

def PathItem.isLoad : PathItem → Bool | .load _ _ => true | _ => false

/-- R245: what the path of a core still has to deliver, up to now. -/
def State.pathWait (s : State) (core : Nat) (ops : List Nat) : FenceWait := ⟨ops, pathOf core, s.serial⟩

/-- A fence is complete: its operations are gone, and its path has delivered every entry up to its serial. -/
def State.fenceDone (s : State) (w : FenceWait) : Bool :=
  w.ops.all (fun id => (s.op id).isNone)
    && s.paths.all (fun p => p.src != w.src || decide (w.upto ≤ p.serial) || p.item.isLoad)

/-! ## L1 (R221, R259) -/

def State.l1Find (s : State) (cluster key : Nat) (ctx : Bool) : Option RunEntry :=
  (s.cluster cluster).l1.find? fun e => e.key == key && e.ctx == ctx
def State.l1Put (s : State) (cluster : Nat) (e : RunEntry) : State :=
  let c := s.cluster cluster
  s.setCluster cluster { c with l1 := (c.l1.filter fun f => !(f.key == e.key && f.ctx == e.ctx)) ++ [e] }
def State.l1Drop (s : State) (cluster key : Nat) (ctx : Bool) : State :=
  let c := s.cluster cluster
  s.setCluster cluster { c with l1 := c.l1.filter fun f => !(f.key == key && f.ctx == ctx) }

/-- R259: one key of L1 leaves for its slice. -/
def State.l1Move (s : State) (cluster key : Nat) (ctx : Bool) : State :=
  match s.l1Find cluster key ctx with
  | none => s
  | some e => (s.l1Drop cluster key ctx).pushPath cluster (sliceOf (key * 4)) (.entries [e])

/-- The keys of a context in an L1 that a selection picks. -/
def State.l1Keys (s : State) (cluster : Nat) (ctx : Bool) (sel : RunEntry → Bool) : List Nat :=
  ((s.cluster cluster).l1.filter fun e => e.ctx == ctx && sel e).map (·.key)

/-- Every picked key of a context leaves L1 for its slice. -/
def State.l1MoveAll (s : State) (cluster : Nat) (ctx : Bool) (sel : RunEntry → Bool) : State :=
  (s.l1Keys cluster ctx sel).foldl (fun s k => s.l1Move cluster k ctx) s

/-- R259: the capacity of an L1 for one context. -/
def State.l1Cap (s : State) (core : Nat) : Nat := if s.split2 core then 2048 else 4096

/-! ## L0 (R221, R259-R261) -/

/-- R260: the picked entries of a core's L0 leave it, key by key: into L1, which first moves out whole where it would
overflow, or, for a cox core, onto its paths. -/
def State.l0Move (s : State) (core : Nat) (ctx : Bool) (sel : RunEntry → Bool) : State :=
  let c := s.coreCtx core ctx
  let moved := c.l0.filter sel
  let s := s.setCoreCtx core ctx { c with l0 := c.l0.filter fun e => !sel e }
  if isCox core then s.pushEntries (pathOf core) moved
  else
    let cl := clusterOf core
    let keys := keysOf moved
    let fresh := keys.filter fun k => (s.l1Find cl k ctx).isNone
    let held := ((s.cluster cl).l1.filter fun e => e.ctx == ctx || !s.split2 core).length
    let s := if held + fresh.length > s.l1Cap core then s.l1MoveAll cl ctx (fun _ => true) else s
    keys.foldl (fun s k =>
      let (s, r) := s.foldAll 1 core (s.l1Find cl k ctx) (moved.filter fun e => e.key == k)
      match r with | some e => s.l1Put cl e | none => s) s

/-- R221: an entry takes its place in a run sorted by key, behind those of its own key. -/
def insertEntry (e : RunEntry) : List RunEntry → List RunEntry
  | [] => [e]
  | f :: r => if e.key < f.key then e :: f :: r else f :: insertEntry e r

/-- R221: the port writes entries into L0 until 16 stand there, which starts the merge. -/
def feedPort (c : CoreCtx) : Nat → CoreCtx
  | 0 => c
  | n + 1 =>
    if c.merging then c
    else match c.port with
      | [] => c
      | e :: r =>
        let l0 := insertEntry e c.l0
        feedPort { c with l0 := l0, port := r, merging := decide (16 ≤ l0.length) } n

def State.feed (s : State) (core : Nat) (ctx : Bool) : State :=
  let c := s.coreCtx core ctx
  s.setCoreCtx core ctx (feedPort c c.port.length)

/-- R261: the commit of an L0 merge: every entry leaves at one point, and the port goes on. -/
def State.l0Commit (s : State) (core : Nat) (ctx : Bool) : State :=
  let s := s.l0Move core ctx (fun _ => true)
  let c := s.coreCtx core ctx
  (s.setCoreCtx core ctx { c with merging := false }).feed core ctx

/-- The current core's port takes the entries of a group. -/
def State.insert (s : State) (es : List RunEntry) : State :=
  (s.setCc { s.cc with port := s.cc.port ++ es }).feed s.cur.core s.cur.ctx

/-- R261: the port finishes what it has begun before the next move. -/
def flushPort (s : State) (core : Nat) (ctx : Bool) : Nat → State
  | 0 => s
  | n + 1 => if (s.coreCtx core ctx).merging then flushPort (s.l0Commit core ctx) core ctx n else s
def State.flush (s : State) (core : Nat) (ctx : Bool) : State :=
  flushPort s core ctx ((s.coreCtx core ctx).port.length + 1)

/-- R268, R243: the drain of the picked entries of a core's L0, to L1 or on to L2 with the cluster's L1; and how many
entries left L0. Of the cluster's L1 the entries of this context move (log 125, DESIGN CHOICE). -/
def State.drain (s : State) (core : Nat) (ctx : Bool) (toL2 : Bool) (sel : RunEntry → Bool) : State × Nat :=
  let s := s.flush core ctx
  let n := ((s.coreCtx core ctx).l0.filter sel).length
  let s := s.l0Move core ctx sel
  (if toL2 && !isCox core then s.l1MoveAll (clusterOf core) ctx sel else s, n)

/-! ## L2 and DRAM (R221, R229, R259, R264) -/

def State.l2Find (s : State) (key : Nat) : Option RunEntry := (SMap.find s.l2 key).map (·.entry)
def State.l2Put (s : State) (e : RunEntry) : State :=
  { s with l2 := SMap.put s.l2 e.key ⟨e, s.serial⟩, serial := s.serial + 1 }
def State.l2Drop (s : State) (key : Nat) : State := { s with l2 := SMap.del s.l2 key }

/-- The L2 entries of a slice. -/
def State.sliceEntries (s : State) (slice : Nat) : List (Nat × L2Entry) :=
  s.l2.filter fun p => sliceOf (p.1 * 4) == slice
def State.slicePoisons (s : State) (slice : Nat) : Nat :=
  ((s.sliceEntries slice).filter fun p => p.2.entry.kind = .poison).length
/-- R221: 524,288 entries per stack in 8 slices. -/
def sliceCap : Nat := 65536

/-- R264, R359: a slice drops a POISON entry for a POISON block, whose codeword the controller reads as it writes the tag (R82): the
event is reported, and its record goes to the fatal lane. -/
def State.poisonLimit (s : State) (e : RunEntry) : State :=
  let s := s.ecc (e.key * 4) 4
  ((s.l2Drop e.key).setBlockTag (e.key * 4) poisonTag).unitError e.part e.ctx 6 5 (sliceOf (e.key * 4)) (e.key * 4) 0 0 0 0 0

/-- R264: a POISON entry beyond the 1,024th of its slice marks the DRAM block instead. -/
def State.l2PutChecked (s : State) (e : RunEntry) : State :=
  let slice := sliceOf (e.key * 4)
  let had : Bool := match s.l2Find e.key with | some o => decide (o.kind = .poison) | none => false
  if e.kind = .poison ∧ had = false ∧ 1024 ≤ s.slicePoisons slice then
    s.poisonLimit e
  else s.l2Put e

/-- R260: a slice takes the moved entries of one key off a path; `src` names the cluster or the cox core. -/
def State.l2Fold (s : State) (src : Nat) (es : List RunEntry) : State :=
  match es with
  | [] => s
  | e :: _ =>
    let (s, r) := s.foldAll 2 (if src < 256 then src else src - 256 + 2048) (s.l2Find e.key) es
    match r with | some e => s.l2PutChecked e | none => s

/-- R229: the element of a key in DRAM, as a SET. -/
def State.dramElement (s : State) (r : BitVec 128) (pa : Nat) : Int := regOfBits r (s.dramNat pa (regBytes r))

/-- R259: an entry leaves its slice for the write-back buffer, which the slice consults as part of L2 (R261). -/
def State.startWriteBack (s : State) (key : Nat) : State :=
  match s.l2Find key with
  | some e => if e.kind = .poison ∨ (SMap.find s.wbuf key).isSome then s
    else { (s.l2Drop key) with wbuf := SMap.put s.wbuf key e }
  | none => s

/-- R229, R264: the write-back of an entry into DRAM, and whether it was written: the element is composed and fitted; a failure
keeps the entry in the slice as POISON and leaves DRAM as it stood. A POISON block stays POISON (R81). -/
def State.commitBuffered (s : State) (key : Nat) : State × Bool :=
  match SMap.find s.wbuf key with
  | none => (s, false)
  | some e =>
    let s := { s with wbuf := SMap.del s.wbuf key }
    let r := s.region e.region
    let pa := key * 4
    let s := s.ecc pa (regBytes r)
    let old := s.dramElement r pa
    let v := match e.kind with | .set => e.value | _ => regCombine r old e.value
    match regFit r v with
    | some n => (s.dramStore pa (natToBytes (regBytes r) (n % (2 : Int) ^ (8 * regBytes r)).toNat) false, true)
    | none =>
      let s := s.mergeFault 3 (sliceOf pa) 2 { e with kind := .set, value := old } e
      let p : RunEntry := { e with kind := .poison, value := 0 }
      match s.l2Find key with
      | none => (s.l2PutChecked p, false)
      | some n =>
        let (s, j) := s.fold2 2 (mergeSrc n.core) p n
        (s.l2PutChecked j, false)
def State.commitWriteBack (s : State) (key : Nat) : State := (s.commitBuffered key).1

/-- R268: a region drain at one key: the buffered entry first, which is older, and then the slice's own; and how many entries of
the region were written back. -/
def State.drainKey (s : State) (region key : Nat) : State × Nat :=
  let held : Option RunEntry := SMap.find s.wbuf key
  let own : RunEntry → Bool := fun e => e.region == region
  let (s, a) := s.commitBuffered key
  let a := if held.any own then a.toNat else 0
  match s.l2Find key with
  | some e =>
    if e.kind = .poison ∨ own e = false then (s, a)
    else
      let (s, b) := (s.startWriteBack key).commitBuffered key
      (s, a + b.toNat)
  | none => (s, a)

/-- A write-back that completes at once: what a copy or a steward store does to entries it covers in part (R97). -/
def State.writeBackNow (s : State) (key : Nat) : State :=
  let s := s.commitWriteBack key
  match s.l2Find key with
  | some e => if e.kind = .poison then s else (s.startWriteBack key).commitWriteBack key
  | none => s

/-! ## What a load composes (R222, R229) -/

/-- The entries from the newest SET onward, oldest first. -/
def sinceSet (l : List RunEntry) : List RunEntry :=
  l.foldl (fun acc e => if e.kind = .set then [e] else acc ++ [e]) []
def hasSet (l : List RunEntry) : Bool := l.any fun e => e.kind = .set

/-- All entries carry one region id (R227). -/
def oneRegion : List RunEntry → Bool
  | [] => true
  | e :: r => r.all fun f => f.region == e.region

/-- R229: the value that entries compose to over an older value; none is POISON. -/
def composeValue (s : State) : Option Int → List RunEntry → Option Int
  | v, [] => v
  | v, e :: r =>
    let n := match e.kind with
      | .set => some e.value
      | .combine => v.map fun x => regCombine (s.region e.region) x e.value
      | .poison => none
    composeValue s n r

/-- R229: the result of a lane once its entries are known: the value of DRAM where the entries hold no SET. -/
def State.laneResult (s : State) (l : LaneReq) (es : List RunEntry) : LaneResult :=
  let r := s.region l.region
  let tval : Word := BitVec.ofNat 64 (l.pa / 4 * 4)
  let es := sinceSet es
  if hasSet es then
    match (if oneRegion es then composeValue s none es else none) with
    | none => .fault 49 tval
    | some v => match regFit r v with | none => .fault 49 tval | some n => .value n false
  else if tagPoison (s.blockTag l.pa) then .fault 29 (BitVec.ofNat 64 l.va)
  else match (if oneRegion es then composeValue s (some (s.dramElement r l.pa)) es else none) with
    | none => .fault 49 tval
    | some v => match regFit r v with
      | none => .fault 49 tval
      | some n => .value n (tagB (s.blockTag l.pa))

/-- The entries of a key beyond L1: the write-back buffer is older than the slice (R261). -/
def State.beyond (s : State) (key : Nat) : List RunEntry :=
  (SMap.find s.wbuf key).toList ++ (s.l2Find key).toList

/-- R222: what a load of a core finds in L1 and L0, oldest first; a cox core has no L1. -/
def State.nearView (s : State) (core : Nat) (ctx : Bool) (key : Nat) : List RunEntry :=
  (if isCox core then [] else (s.l1Find (clusterOf core) key ctx).toList)
    ++ ((s.coreCtx core ctx).l0.filter fun e => e.key == key)

/-- R97: the bytes of n bytes of DRAM as a copy or the steward reads them, combined with the slices; none where an element
is poisoned or does not fit (R368). -/
def State.sliceElement (s : State) (key : Nat) : Option Int :=
  match s.beyond key with
  | [] => none
  | e :: r =>
    let cfg := s.region e.region
    let es := sinceSet (e :: r)
    (composeValue s (if hasSet es then none else some (s.dramElement cfg (key * 4))) es).bind (regFit cfg)

/-- The entry of a slice that covers a byte, and its first key (R224: a 64-bit element has the key of its lower word). -/
def State.coveringKey (s : State) (pa : Nat) : Option (Nat × BitVec 128) :=
  let k := pa / 4
  match s.beyond k with
  | e :: _ => some (k, s.region e.region)
  | [] => if k % 2 = 1 then match s.beyond (k - 1) with
      | e :: _ => if regBytes (s.region e.region) = 8 then some (k - 1, s.region e.region) else none
      | [] => none
    else none

/-- R97: one byte as the owning slice gives it to a copy engine: none where the element is poisoned or does not fit. -/
def State.sliceByte (s : State) (pa : Nat) : Option Byte :=
  match s.coveringKey pa with
  | none => some (s.dramByte pa)
  | some (k, r) => (s.sliceElement k).map fun v =>
    BitVec.ofNat 8 ((v % (2 : Int) ^ (8 * regBytes r)).toNat / 2 ^ (8 * (pa - k * 4)))

/-- R97: a write of bytes that commits at the owning slice: entries of elements it covers whole are discarded, entries of
elements it covers in part are written back first. -/
def State.sliceWrite (s : State) (pa : Nat) (l : List Byte) : State :=
  let keys := ((List.range l.length).filterMap fun i => s.coveringKey (pa + i)).eraseDups
  let s := keys.foldl (fun s p =>
    if pa ≤ p.1 * 4 ∧ p.1 * 4 + regBytes p.2 ≤ pa + l.length then
      { (s.l2Drop p.1) with wbuf := SMap.del s.wbuf p.1 }
    else s.writeBackNow p.1) s
  s

end Sys2Proof.Machine
end

