-- ==== Sys2Proof/Machine/Group.lean ====
section
/-!
DEFINITION. One issue turn of a thread (R36, R345): the fetch of its line, the checks that come before a group issues,
pairing, and what the end of a group does. The meanings themselves stand in the family files.
-/
namespace Sys2Proof.Machine

/-! ## Words of a line, before they are decoded (R20, R21, R34, R126) -/

/-- The issue classes of R20. -/
inductive Cls where
  | s | v | e | b | y
deriving DecidableEq, Repr

def wordOpc (w : Nat) : Nat := bits w 88 8
def wordFn (w : Nat) : Nat := bits w 76 8
def wordD (w : Nat) : Nat := bits w 68 8

/-- R20, R32: the class of a major opcode; an unassigned one has none. -/
def opcClass (opc : Nat) : Option Cls :=
  if opc ≤ 4 then some .s else if opc ≤ 6 then some .b
  else if opc = 0x10 ∨ opc = 0x11 ∨ opc = 0x14 ∨ opc = 0x15 then some .e
  else if 0x18 ≤ opc ∧ opc ≤ 0x1D then some .e
  else if opc = 0x1E then some .y
  else if 0x20 ≤ opc ∧ opc ≤ 0x26 then some .v
  else if opc = 0x30 ∨ opc = 0x34 then some .e
  else if opc = 0x35 then some .v
  else if opc = 0x38 ∨ opc = 0x39 ∨ opc = 0x3C ∨ opc = 0x3E then some .e
  else none

/-- R21: the regspecs that a word writes, the implicit ones included (CALL x31, PMOV_FROMX p1-p7, VSORTKV the register
after its D, FMOVC its source, R123); x0, m0, p0 and none do not count. -/
def wordWrites (w : Nat) : List Nat :=
  let d := wordD w
  let named := if d = 0 ∨ d = 64 ∨ d = 96 ∨ d = 224 then [] else [d]
  let implicit :=
    if wordOpc w = 5 ∧ wordFn w = 5 then [31]
    else if wordOpc w = 4 ∧ wordFn w = 5 ∧ bits w 32 12 = 2 then [97, 98, 99, 100, 101, 102, 103]
    else if wordOpc w = 0x24 ∧ wordFn w = 6 then [d + 1]
    else if wordOpc w = 0x1A ∧ wordFn w = 3 ∧ bits w 60 8 ≠ 0 then [bits w 60 8]
    else []
  named ++ implicit

/-- The source fields of a word; MOVI has none (R25). -/
def wordSources (w : Nat) : List Nat := if wordOpc w = 3 then [] else [bits w 60 8, bits w 52 8, bits w 44 8]
/-- The q registers among the source fields of a word. -/
def wordPops (w : Nat) : List Nat := (wordSources w).filter fun r => r / 32 == 5
def wordQueues (w : Nat) : List Nat := (if wordD w / 32 = 5 then [wordD w] else []) ++ wordPops w

/-- R21 (log 25, DEDUCED). -/
def pairLegal (a b : Nat) : Bool :=
  let ca := opcClass (wordOpc a)
  let cb := opcClass (wordOpc b)
  !(ca == some .e && cb == some .e) && !(ca == some .v && cb == some .v)
    && ca != some .b && ca != some .y && cb != some .y
    && (wordWrites a).all (fun r => !(wordWrites b).contains r)
    && (wordQueues a).all (fun r => !(wordQueues b).contains r)

/-- The x, c and q registers that a word names, with its predicate, and whether as the destination. -/
def wordNames (w : Nat) : List (Pred × Bool × Reg) :=
  let p := Pred.ofCode (bits w 84 4)
  (((wordD w, true) :: (wordSources w).map fun r => (r, false)).filterMap fun q => (Reg.ofCode q.1).map fun r => (p, q.2, r)).filter
    fun q => match q.2.2 with
      | .x _ => true
      | .c _ => true
      | .q _ => true
      | _ => false

/-- R10: a word of a group that a cox core may issue beside another. -/
def wordLight (w : Nat) : Bool :=
  let c := opcClass (wordOpc w)
  c != some .e && c != some .b && c != some .y && (wordQueues w).isEmpty

/-- R10: the group in a slot of a line holds only such words. -/
def lineLight (bytes : List Byte) (slot : Nat) : Bool :=
  wordLight (bytesToNat (lineSlot bytes slot))
    && (!(linePairs bytes).testBit slot || wordLight (bytesToNat (lineSlot bytes (slot + 1))))

/-- R34: what one kind of core does not execute. -/
def foreign (cox : Bool) (w : Nat) : Bool :=
  if cox then wordOpc w == 0x30 || wordOpc w == 0x34
  else wordOpc w == 0x3E && (wordFn w == 1 || wordFn w == 2)

/-- R126, on a word that passed the checks of R26: a queue as the destination of a result later than one group, or in two
source fields. -/
def queueMisuse (w : Nat) : Bool :=
  let pops := wordPops w
  (wordOpc w == 1 && decide (2 ≤ wordFn w ∧ wordFn w ≤ 8) && wordD w / 32 == 5)
    || pops.eraseDups.length != pops.length

/-- Step 6 of R36 for one slot: the instruction, or the cause (log 17, DEDUCED; log 18, DEDUCED). -/
def checkWord (cox : Bool) (bs : List Byte) : Except Nat Instr :=
  match decodeBytes bs with
  | none => .error 2
  | some i =>
    let w := bytesToNat bs
    if foreign cox w then .error 2 else if queueMisuse w then .error 57 else .ok i

/-! ## Instruction fetch (R79, R80, R349) -/

/-- The line of a VA as the core's instruction cache holds it. -/
inductive Fetched where
  | bytes (l : List Byte)
  | miss
  | walk
  | fault (cause : Nat)
deriving DecidableEq, Repr

/-- The cache line at a PA. -/
def cacheFind (l : List (Nat × List Byte)) (pa : Nat) : Option (List Byte) := (l.find? fun e => e.1 == pa).map (·.2)
/-- A line enters a cache of some capacity; a full one gives up a line that nothing here fixes (log 16, DESIGN CHOICE). -/
def cachePut (cap victim : Nat) (l : List (Nat × List Byte)) (pa : Nat) (b : List Byte) : List (Nat × List Byte) :=
  let l := l.filter fun e => e.1 != pa
  (pa, b) :: if l.length < cap then l else l.eraseIdx (victim % cap)
/-- R10, R13: the lines of a core's own instruction cache, 8 KiB, and of a cluster's or a cox stack's, 64 KiB. -/
def coreLines : Nat := 128
def sharedLines : Nat := 1024
/-- The shared instruction cache behind a core's own: its cluster's, or that of its cox stack (R10). -/
def sharedCache (core : Nat) : Nat := if isCox core then 256 + coxStack core else clusterOf core

/-- What the current thread finds when it looks for the line at a VA (steps 2 of R36). -/
def State.fetch (s : State) (va : Nat) : Fetched :=
  match s.th.faultOf va .fetch with
  | some c => .fault c
  | none =>
    if 2 ^ 48 ≤ va then .fault 1
    else match s.tlbLookup s.cur.core (s.partOf s.cur.core) s.cur.ctx va with
      | none => .walk
      | some e =>
        if !e.ex then .fault 12
        else match cacheFind (s.core s.cur.core).icache (e.paOf va) with
          | some b => .bytes b
          | none => .miss

/-- R140: the PAIR bits of the line of a PC, where the current thread has the line at hand. -/
def State.pairsAt (s : State) (pc : Word) : Option Nat :=
  match s.th.pairs pc with
  | some p => some p
  | none => match s.fetch (pcLine pc) with
    | .bytes b => some (linePairs b)
    | _ => none

/-- R140: provisional entries whose predecessor's line has arrived are recomputed, and so is each entry derived in turn: one
whose predecessor's line is not there stays provisional. -/
def State.refreshQueue (s : State) : State :=
  let th := s.th
  let after := fun (e from_ : QEntry) (anew : Bool) =>
    match s.pairsAt from_.pc with
    | some p => { e with pc := seqPc p from_.pc, sq := false }
    | none => if anew then { e with pc := seqPc 0 from_.pc } else e
  let q1 := if th.q1.sq then after th.q1 th.q0 false else th.q1
  let q2 := if th.q2.sq && !q1.sq then after th.q2 q1 th.q1.sq else th.q2
  s.setTh { th with q1 := q1, q2 := q2 }

/-! ## The end of a group (R22, R116, R140, R148, R151) -/

/-- R148, R151: what a group adds to the stop count and, from the queue, to ICOUNT, in task mode. -/
def Thread.count (t : Thread) (icount : Bool) : Thread :=
  if t.hm then t else { t with stop := t.stop + 1, icount := if icount then t.icount + 1 else t.icount }

/-- R140: the queue moves on; a taken branch has placed its target, and an annulling one marks its delay slots. -/
def Thread.advance (t : Thread) (redirect : Option Word) (annul : Bool) : Thread :=
  let q2 := match redirect with
    | some pc => ⟨pc, false, false, true⟩
    | none => t.seqOf t.q2
  if annul then { t with q0 := { t.q1 with an := true }, q1 := { t.q2 with an := true }, q2 := q2 }
  else { t with q0 := t.q1, q1 := t.q2, q2 := q2 }

/-- What the slots left for the commit of their group. -/
def State.postOne (s : State) (p : Post) : State :=
  match p with
  | .pend (.c n) => (s.setCc ((s.cc.publishAll s.cur.thr).dropUnseen n)).writeReg s.cur (.c n) 0 false .pending
  | .pend r => s.writeReg s.cur r 0 false .pending
  | .clear n => s.writeReg s.cur (.x n) 0 false .present
  | .store n c => s.setCc (((s.cc.publishAll s.cur.thr).dropUnseen n).writeC n c)

/-- R310: a thread that its group ended has its partner's writes still in flight: they land as they would have, and the other
threads of the core see those to c registers (log 81, DEDUCED). -/
def State.landRest (s : State) : State :=
  if s.th.run = .ended then
    let n := s.th.landing.foldl (fun m l => max m l.rem) 0
    let t := (List.range n).foldl (fun (u : State) _ => ageLanding u u.cur) s
    t.setCc (t.cc.publishAll t.cur.thr)
  else s

/-- A group that issued commits: counts, queue, bindings, and the landing of what is due (R22). A wait that stood before
the group is over; one that the group itself begins stays. The clear of FMOVC comes before what lands before the next group, so that an
earlier write to its source stands (log 123, DESIGN CHOICE). -/
def State.finishGroup (s : State) : State :=
  let th := s.th
  let th := if s.iss.noAdvance then th else (th.count (!s.iss.keepCount)).advance s.iss.redirect s.iss.annul
  let s1 := s.setTh { th with
    wait := (match th.wait with
      | .fence f a => .fence f a
      | .barrier obj p => .barrier obj p
      | .service => .service
      | _ => .none)
    walkFaults := []
    group := none
    verdict := none
    copyHeld := none
    resumed := false }
  let s1 := s1.refreshQueue
  let s2 := s1.iss.post.foldl State.postOne s1
  { (ageLanding s2 s2.cur).landRest with iss := .initial }

/-- R117: an empty group: it counts as a group of the thread, but not in ICOUNT (R151), and the queue stays. The group in
Q[0] is looked at anew: its stop may be honoured now (R148). -/
def State.emptyGroup (s : State) : State := ageLanding (s.setTh { s.th.count false with group := none }) s.cur

/-- R117: the group's writes would raise the count above 4: what the thread holds and what the group adds to stay. -/
def landingFull (before after : Thread) : Bool :=
  let fresh := ((after.landing.drop before.landing.length).filter fun l => decide (3 ≤ l.rem)).length
  fresh != 0 && decide (4 < before.landing.length + fresh)

/-! ## Interrupts (R148, R150, R342) -/

/-- R342: is the interrupt pending? -/
def State.pendingInt (s : State) (t : Thread) (code : Nat) : Bool :=
  match code with
  | 1 => t.ipDb
  | 5 => t.cyccmp != 0 && decide (t.cyccmp.toNat ≤ s.cycle.toNat)
  | 7 => t.icmp != 0 && decide (t.icmp.toNat ≤ t.icount.toNat)
  | 9 => t.ipPrq
  | 11 => t.ipDbg
  | _ => false

/-- R150: the interrupt that a thread takes at an honoured stop. -/
def State.interruptOf (s : State) (t : Thread) : Option Nat :=
  if t.hm then none
  else [11, 9, 7, 5, 1].find? fun c =>
    s.pendingInt t c && (c == 11 || c == 9 || (t.ie && t.ien.getLsbD c))

/-- R146: what ends a WFI. -/
def State.wakes (s : State) (t : Thread) : Bool := [1, 5, 7, 9, 11].any fun c => s.pendingInt t c && t.ien.getLsbD c

/-- R148: the stop at the group in Q[0] is honoured. -/
def Thread.stopHonoured (t : Thread) : Bool :=
  !t.q0.an && t.landing.isEmpty && (match t.line with
    | some l => decide (l.va = pcLine t.q0.pc) && (lineStops l.bytes).testBit (pcSlot t.q0.pc)
    | none => false)

/-! ## The checks before a group (R36, R345) -/

/-- What a thread's turn comes to. -/
inductive Turn where
  | idle
  | wait (s : State) (w : Wait)
  | event (s : State) (i : Instr)
  | trap (s : State) (cause : Nat) (tval : Word)
  | group (s : State) (h : Held)

/-- R345, R352: a matrix threshold trap is due before the thread's next group. -/
def Thread.thresholdDue (t : Thread) : Bool := !t.hm && !t.thresholds.isEmpty

/-- R148: the interrupt that a thread takes while another unit judges its group before issue (R234, R270), or has refused
it. -/
def State.judgedInt (s : State) : Option Nat :=
  let th := s.th
  if th.wait = .judged && !th.passed && th.stopHonoured then s.interruptOf th else none

/-- R111, R345: what another unit judges before issue takes a turn once it is judged, or where a trap or an interrupt comes
before it; what it judges after the issue takes none (R22). -/
def State.judgedTurn (s : State) : Bool :=
  let th := s.th
  decide (th.wait = .judged) && (th.verdict != some .waiting || th.thresholdDue || s.judgedInt.isSome)

/-- Is the current thread able to take a turn at all: it runs, its context is resident, its core is neither halted nor held
by a swap, and it waits for nothing that comes after its group (R111, R112, R146, R361, R380)? -/
def State.mayRun (s : State) : Bool :=
  let th := s.th
  decide (th.run = .running) && (s.part (s.partOf s.cur.core)).res == s.cur.ctx
    && !(s.core s.cur.core).dbg.halted && !(s.core s.cur.core).out && !s.coxOut s.cur.core
    && (th.verdict.isNone || s.judgedTurn)
    && (match th.pause with
      | .none => true
      | .yield => false
      | .wfi => s.wakes th)
    && (match th.wait with
      | .held => false
      | .fence _ _ => false
      | .arrive _ _ => false
      | .service => false
      | .barrier obj p => (s.barrier obj).phase != p
      | _ => true)

/-- R349: every line of the core's and the shared instruction cache goes, and what the thread had fetched with them. -/
def State.invalidateLines (s : State) : State :=
  let c := s.core s.cur.core
  let s := s.setCore s.cur.core { c with icache := [] }
  let k := sharedCache s.cur.core
  let s := s.setCluster k { s.cluster k with icache := [] }
  s.setTh { s.th with line := none }

/-- What follows the fence of the current thread (R310, R349). A header reaches the launch unit behind those that came before
(R316). -/
def State.afterFence (s : State) (a : After) : State :=
  match a with
  | .nothing => s
  | .invalidate => s.invalidateLines
  | .launch n => match s.task n with
    | some t => { s with tasks := s.tasks.filter (fun u => u.id != n) ++ [{ t with stage := .intake }] }
    | none => s
  | .trigger => match s.taskOf s.cur.core s.cur.ctx with
    | some t =>
      if s.th.triggered || t.field 89 1 == 0 then s
      else (s.setTh { s.th with triggered := true }).setTask { t with triggered := t.triggered + 1 }
    | none => s

/-- The wait of a thread that runs again is over (log 66, DEDUCED). -/
def State.endWait (s : State) : State :=
  s.setTh { s.th with
    pause := .none
    wait := match s.th.wait with
      | .barrier _ _ => .none
      | w => w }

/-- A fence of the current thread is complete, and what follows it happens (R245, R310, R349). -/
def State.endFence (s : State) : State :=
  match s.th.wait with
  | .fence _ a => (s.setTh { s.th with wait := .none }).afterFence a
  | _ => s

/-- R381: the first enabled breakpoint that matches the group in Q[0]; one whose request already stands matches no more. -/
def State.breakpoint (s : State) : Option Nat :=
  let th := s.th
  if th.q0.an || th.resumed then none
  else [0, 1, 2, 3].find? fun n =>
    let d : Word := SMap.get 0 (s.core s.cur.core).dbg.dbp n
    d.getLsbD 63 && d.getLsbD (48 + s.cur.thr) && d.toNat / 8 % 8 == 0 && d.toNat % 2 ^ 48 == th.q0.pc.toNat
      && !(d.getLsbD 62 && th.ipDbg)

/-- Steps 4 to 6 of R36, and the group or the empty group that follows. -/
def State.prepareGroup (s : State) (bytes : List Byte) : Turn :=
  let th := s.th
  let pc := th.q0.pc
  let slot := pcSlot pc
  let va : Word := BitVec.ofNat 64 (pcLine pc)
  let cox := isCox s.cur.core
  if th.q0.tgt && !th.q0.an && !(lineTargets bytes).testBit slot then .trap s 0 pc
  else
    let lo := lineSlot bytes slot
    let hi := lineSlot bytes (slot + 1)
    let paired := (linePairs bytes).testBit slot
    if paired && !pairLegal (bytesToNat lo) (bytesToNat hi) then .trap s 24 va
    else match checkWord cox lo with
      | .error 2 => .event s (.unassignedEncoding pc)
      | .error c => .trap s c pc
      | .ok i =>
        if paired then
          match checkWord cox hi with
          | .error 2 => .event s (.unassignedEncoding (pc + 1))
          | .error c => .trap s c (pc + 1)
          | .ok j => if th.q0.an then .event s .annulledGroup
            else .group s ⟨i, some j, wordNames (bytesToNat lo) ++ wordNames (bytesToNat hi), lineLight bytes slot,
              [], [], none, none, false⟩
        else if th.q0.an then .event s .annulledGroup
          else .group s ⟨i, none, wordNames (bytesToNat lo), lineLight bytes slot, [], [], none, none, false⟩

/-- Step 3 of R36, the stop (R148, R150), and then the rest. -/
def State.prepareLine (s : State) (l : LineBuf) : Turn :=
  if !l.checked && !lineOk l.bytes then .trap s 24 (BitVec.ofNat 64 l.va)
  else
    let s := s.setTh { s.th with line := some { l with checked := true } }
    if s.th.stopHonoured then
      let s := s.setTh { s.th with stop := 0 }
      match s.interruptOf s.th with
      | some c => .event s (.interruptEntry c)
      | none => s.prepareGroup l.bytes
    else if !s.th.hm && s.th.stop == s.th.stopmax.toNat then .event s .stopSpacingFault
    else s.prepareGroup l.bytes

/-- R112, R148: the turn of a group that passed steps 1 to 7: a pending interrupt enters where its stop is honoured, and else
it is tried again. -/
def State.prepareHeld (s : State) (h : Held) : Turn :=
  match (if s.th.stopHonoured then s.interruptOf s.th else none) with
  | some c => .event s (.interruptEntry c)
  | none => .group s h

/-- The line that the thread issues from, where Q[0] stands in it. -/
def Thread.lineHere (t : Thread) : Option LineBuf :=
  match t.line with
  | some l => if l.va = pcLine t.q0.pc then some l else none
  | none => none

/-- Steps 1 and 2 of R36: the line of Q[0]. -/
def State.prepareFetch (s : State) : Turn :=
  let pc := s.th.q0.pc
  if 4 < pcSlot pc ∨ pc.toNat / 8 % 8 ≠ 0 then .trap s 0 pc
  else if 2 ^ 48 ≤ pc.toNat then .event s (.instructionFetchFault 1 pc)
  else
    match s.th.lineHere with
    | some l => s.prepareLine l
    | none => match s.fetch (pcLine pc) with
      | .bytes b => s.prepareLine ⟨pcLine pc, b, false⟩
      | .miss => .wait s .line
      | .walk => .wait s (.walk (pcLine pc) .fetch)
      | .fault c => .event s (.instructionFetchFault c (BitVec.ofNat 64 (pcLine pc)))

/-- R10: the current thread's next group is one that a cox core may issue beside another; a group whose line is not at hand
is none, and an empty group is judged by the words of the group that it comes before (log 109, DEDUCED). -/
def State.nextLight (s : State) : Bool :=
  let slot := pcSlot s.th.q0.pc
  match s.th.group with
  | some h => h.light
  | none => match s.th.lineHere with
    | some l => lineLight l.bytes slot
    | none => match s.fetch (pcLine s.th.q0.pc) with
      | .bytes b => lineLight b slot
      | _ => false

/-- R345: the turn of the current thread, up to the execution of its group: a threshold trap and an interrupt come before one
that is judged (R234, R270), but not before one that has passed. -/
def State.prepare (s : State) : Turn :=
  if !s.mayRun then .idle
  else
    let s := s.refreshQueue.endWait
    if s.th.thresholdDue && !s.th.passed then .event s .matrixThresholdTrap
    else match s.judgedInt with
    | some c => .event s (.interruptEntry c)
    | none => match s.th.group with
      | some h => if s.th.verdict.isSome then .group s h else s.prepareHeld h
      | none => match s.breakpoint with
        | some n => .event s (.breakpointMatch n)
        | none => s.prepareFetch

end Sys2Proof.Machine
end

