-- ==== Sys2Proof/Machine/Flags.lean ====
section
/-!
DEFINITION. The flag computations: FPFLAGS (R159) and how events enter it.
-/
namespace Sys2Proof.Machine

/-- R159: the bits of FPFLAGS. -/
def Flags.bits (f : Flags) : BitVec 5 :=
  BitVec.ofNat 5 (16 * f.nv.toNat + 8 * f.dz.toNat + 4 * f.of.toNat + 2 * f.uf.toNat + f.nx.toNat)

/-- R159: the events of a group are ORed into FPFLAGS of its thread. -/
def State.raise (s : State) (f : Flags) : State := s.setTh { s.th with fpflags := s.th.fpflags ||| f.bits }

/-- The events of several lanes. -/
def orFlags (l : List Flags) : Flags := l.foldl Flags.or .none

end Sys2Proof.Machine
end

