-- ==== Sys2Proof/Machine/Operands.lean ====
section
/-!
DEFINITION. Operand forms: scalar operands and their 32-bit form (R133, R134), conditions (R139), immediates by expected
class (R27), lanes and masks (R106, R155, R156), and the values of lanes by element type (R158).
-/
namespace Sys2Proof.Machine

/-! ## Scalars -/

/-- R133: N. -/
def opWidth (h : Bool) : Nat := if h then 32 else 64
/-- R134: the low N bits of an operand, unsigned and signed. -/
def lowU (h : Bool) (v : Word) : Nat := v.toNat % 2 ^ opWidth h
def lowS (h : Bool) (v : Word) : Int := if h then (v.setWidth 32).toInt else v.toInt
/-- R133: a result of N bits as a register holds it. -/
def narrow (h : Bool) (r : Int) : Word := if h then (BitVec.ofInt 32 r).signExtend 64 else BitVec.ofInt 64 r

/-- R134: Ex and Sat. -/
def exOf (ov : Ov) (h : Bool) (v : Word) : Int := match ov with | .satu => (lowU h v : Int) | _ => lowS h v
def satOf (ov : Ov) (h : Bool) (e : Int) : Int :=
  match ov with
  | .wrap => e
  | .sats => clampInt (intMin true (opWidth h)) (intMax true (opWidth h)) e
  | .satu => clampInt (intMin false (opWidth h)) (intMax false (opWidth h)) e

/-- R139: Compare. -/
def compare (c : Cond) (h : Bool) (a b : Word) : Bool :=
  match c with
  | .eq => lowU h a == lowU h b
  | .ne => lowU h a != lowU h b
  | .lt => decide (lowS h a < lowS h b)
  | .ge => decide (lowS h b ≤ lowS h a)
  | .ltu => decide (lowU h a < lowU h b)
  | .geu => decide (lowU h b ≤ lowU h a)

/-- R27: a predicate or mask source; the immediate is true where it is not zero, and is the 32 lane bits. -/
def predOf (r : Reg) (a : Src) : Bool := match r with | .imm => a.val != 0 | _ => a.val.getLsbD 0
def maskOf (a : Src) : BitVec 32 := a.val.setWidth 32

/-! ## Lanes -/

/-- Lane i of width w bytes, as a number. -/
def lane (w : Nat) (v : VWord) (i : Nat) : Nat := bits v.toNat (8 * w * i) (8 * w)
def lanesOf (w : Nat) (v : VWord) : List Nat := (List.range (32 / w)).map (lane w v)
/-- The register whose lanes of width w are the numbers of a list. -/
def packLanes (w : Nat) (l : List Nat) : VWord :=
  BitVec.ofNat 256 (l.foldr (fun x a => a * 2 ^ (8 * w) + x % 2 ^ (8 * w)) 0)
/-- R155: lane i is active. -/
def active (m : BitVec 32) (w i : Nat) : Bool := m.getLsbD (i * w)
/-- A lane's bits as a signed number. -/
def signedLane (w n : Nat) : Int := if n < 2 ^ (8 * w - 1) then (n : Int) else (n : Int) - 2 ^ (8 * w)

/-- INT8 to INT64. -/
def isSigned : ElType → Bool
  | .int8 => true
  | .int16 => true
  | .int32 => true
  | .int64 => true
  | _ => false

/-- The number of lanes of a type. -/
def laneCount (t : ElType) : Nat := 32 / t.bytes

/-- The integer that a lane of an integer type holds. -/
def laneInt (t : ElType) (n : Nat) : Int := if isSigned t then signedLane t.bytes n else (n : Int)
/-- The bits of an integer in a lane. -/
def laneBits (t : ElType) (e : Int) : Nat := (e % (2 : Int) ^ (8 * t.bytes)).toNat

/-- R27: the lane that an immediate fills; an FP64 immediate that is a signalling NaN arrives as the quiet one, and its conversion raises no
event (log 46, DESIGN CHOICE). -/
def immLane (t : ElType) (imm : BitVec 32) : Nat :=
  match t with
  | .int64 => (imm.signExtend 64).toNat
  | .fp64 => (fp64.round .rne (fp32.decode imm.toNat)).1
  | _ => imm.toNat % 2 ^ (8 * t.bytes)
/-- A vector source: a v register, or the immediate broadcast (R27). -/
def vecVal (t : ElType) (imm : BitVec 32) (r : Reg) (a : Src) : VWord :=
  match r with
  | .imm => packLanes t.bytes (List.replicate (laneCount t) (immLane t imm))
  | _ => a.val

/-! ## Values of lanes (R158) -/

/-- The value of a lane: an integer, or a floating code. -/
def laneVal (t : ElType) (n : Nat) : FVal :=
  match t with
  | .mk8 => mk8Decode n
  | .fp16 => fp16.decode n
  | .bf16 => bf16.decode n
  | .fp32 => fp32.decode n
  | .fp64 => fp64.decode n
  | _ => .ofInt (laneInt t n)

/-- Round of a value into a lane of a type. -/
def roundLane (t : ElType) (m : Rnd) (v : FVal) : Nat × Flags :=
  match t with
  | .mk8 => mk8Round m v
  | .fp16 => fp16.round m v
  | .bf16 => bf16.round m v
  | .fp32 => fp32.round m v
  | .fp64 => fp64.round m v
  | _ => let (n, f) := intRound (isSigned t) (8 * t.bytes) m v; (laneBits t n, f)

/-- The canonical NaN of a floating type. -/
def nanLane (t : ElType) : Nat := if t = .mk8 then 128 else match ieeeOf t with | some f => f.nanCode | none => 0

/-- R158: the first row of its table, then the operation. -/
def floatLane (t : ElType) (ops : List FVal) (r : Nat × Flags) : Nat × Flags :=
  if ops.any FVal.isNan then (nanLane t, ⟨ops.any FVal.isSignalling, false, false, false, false⟩) else r

/-- Round what an exact operation gave; an invalid one gives the canonical NaN and NV. -/
def roundExact (t : ElType) (m : Rnd) (v : FVal × Bool) : Nat × Flags :=
  if v.2 then (nanLane t, .invalid) else roundLane t m v.1

def floatAdd (t : ElType) (m : Rnd) (a b : FVal) : Nat × Flags := floatLane t [a, b] (roundExact t m (FVal.add m a b))
def floatMul (t : ElType) (m : Rnd) (a b : FVal) : Nat × Flags := floatLane t [a, b] (roundExact t m (a.mul b))
def floatFma (t : ElType) (m : Rnd) (a b c : FVal) : Nat × Flags :=
  let (p, nv) := a.mul b
  let (r, nv') := FVal.add m p c
  floatLane t [a, b, c] (roundExact t m (r, nv || nv'))
/-- R158: a zero divisor gives an infinity, or the largest MK8 magnitude, and DZ alone. -/
def floatDiv (t : ElType) (m : Rnd) (a b : FVal) : Nat × Flags :=
  let (q, f) := a.div b
  floatLane t [a, b] (if f.nv then (nanLane t, .invalid) else if f.dz then ((roundLane t m q).1, f) else roundLane t m q)
def floatSqrt (t : ElType) (m : Rnd) (a : FVal) : Nat × Flags :=
  let (r, f) := a.sqrt
  floatLane t [a] (if f.nv then (nanLane t, .invalid) else roundLane t m r)
/-- R158: VMIN and VMAX on the codes of two lanes. -/
def floatPick (t : ElType) (max : Bool) (a b : Nat) : Nat × Flags :=
  let x := laneVal t a
  let y := laneVal t b
  let f : Flags := ⟨x.isSignalling || y.isSignalling, false, false, false, false⟩
  (if x.isNan then (if y.isNan then nanLane t else b)
    else if y.isNan then a
    else if max then (if x.ltSigned y then b else a) else (if y.ltSigned x then b else a), f)
/-- The sign bit of a floating lane. -/
def signBit (t : ElType) : Nat := 2 ^ (8 * t.bytes - 1)
def floatAbs (t : ElType) (a : Nat) : Nat × Flags := floatLane t [laneVal t a] (a % signBit t, .none)
/-- R158: MK8 has one zero. -/
def floatNeg (t : ElType) (a : Nat) : Nat × Flags :=
  floatLane t [laneVal t a]
    (if t = .mk8 ∧ a = 0 then 0 else if a < signBit t then a + signBit t else a - signBit t, .none)

/-! ## Vector sources (R156, R157) -/

/-- What a vector instruction reads: its sources, the old vd where R156 reads it, and the OR of their B bits. -/
structure VecIn where
  a : VWord
  b : VWord
  c : VWord
  d : VWord
  bounded : Bool
  ab : Bool
  bb : Bool
  mask : BitVec 32
deriving DecidableEq, Repr

/-- R156: does the encoding read vd? -/
def readsOld (m : VecMod) : Bool := !m.zm && m.mask != 0

/-- The sources of a vector instruction; `old` says that vd is one of them, and its recorded fault stands behind those of A, B and C
(log 104, DEDUCED). -/
def State.vecSources (s : State) (o : Fmt VecMod) (old : Bool) : Except Stop VecIn := do
  let (a, b, c) ← s.sources o
  let d := if old then s.read o.imm o.d else .present 0
  match firstFault [d] with
  | some (k, v) => .error (.trap k v)
  | none =>
    let t := o.mod.type
    .ok ⟨vecVal t o.imm o.a a, vecVal t o.imm o.b b, vecVal t o.imm o.c c, d.val, a.b || b.b || c.b || d.b, a.b, b.b,
      s.th.readM o.mod.mask⟩

/-- R156: the lanes of a result: an active lane by f, an inactive one zero or as vd stood; and the flags of the active
lanes. Under m0 the encoding's ZM has no effect (R30; log 22, DEDUCED). -/
def vecLanes (m : VecMod) (v : VecIn) (f : Nat → Nat × Flags) : VWord × Flags :=
  let w := m.type.bytes
  let l := (List.range (laneCount m.type)).map fun i =>
    if active v.mask w i then f i else (if m.zm && m.mask != 0 then 0 else lane w v.d i, Flags.none)
  (packLanes w (l.map (·.1)), orFlags (l.map (·.2)))

end Sys2Proof.Machine
end

