-- ==== Sys2Proof/Machine/Scratch.lean ====
section
/-!
DEFINITION. The scratchpad (07): the map, the checks of R108, the SPAD family and the bank atomics; and the watchpoints of
R379 and R381.
-/
namespace Sys2Proof.Machine

def Width.bytes (w : Width) : Nat := match w with | .w8 => 1 | .w16 => 2 | .w32 => 4 | .w64 => 8

/-! ## Watchpoints (R379, R381) -/

/-- Does a watchpoint match an access of n bytes from an address, by a thread? -/
def watchHit (d : Word) (thr : Nat) (key write : Bool) (a n : Nat) : Bool :=
  let sz := bits d.toNat 44 4
  let base := bits d.toNat 0 40 / 2 ^ sz * 2 ^ sz
  d.getLsbD 63 && d.getLsbD 61 == key && d.getLsbD (if write then 59 else 60) && d.getLsbD (48 + thr)
    && decide (a < base + 2 ^ sz ∧ base < a + n)

/-- R381: the matching group completes; the halt, or the request of interrupt 11, precedes the thread's next group. -/
def State.watch (s : State) (key write : Bool) (a n : Nat) : State :=
  [0, 1, 2, 3].foldl (fun s i =>
    let c := s.core s.cur.core
    let d : Word := SMap.get 0 c.dbg.dwp i
    if watchHit d s.cur.thr key write a n then
      if d.getLsbD 62 then s.setTh { s.th with ipDbg := true }
      else s.hardHalt s.cur.core
    else s) s

/-- The accesses of one instruction, one after the other. -/
def State.watchAll (s : State) (key write : Bool) (l : List (Nat × Nat)) : State :=
  l.foldl (fun s p => s.watch key write p.1 p.2) s

/-! ## The map and the checks (R99, R108) -/

/-- R99: may the current thread make this access? -/
def State.spadMay (s : State) (a : Nat) (write : Bool) : Bool :=
  if a < 0x17000 then true
  else if a < 0x2F000 then !s.split2 s.cur.core
  else if a < 0x2F800 then s.th.hm
  else decide (a < 0x30000) && (!write || s.th.hm)

/-- The first element of a list that fails a check: cause and address. -/
def failFirst (l : List Word) (bad : Word → Bool) (cause : Nat) : Except Stop Unit :=
  match l.find? bad with
  | some a => .error (.trap cause a)
  | none => .ok ()

/-- R108: the alignment and range of the elements of an access. -/
def State.spadCheck (s : State) (l : List Word) (align : Nat) (write : Bool) : Except Stop Unit := do
  failFirst l (fun a => decide (a.toNat % align ≠ 0)) (if write then 6 else 4)
  failFirst l (fun a => !s.spadMay a.toNat write) (if write then 7 else 5)

/-- R108: a read of a byte of a POISON block. -/
def State.spadPoison (s : State) (l : List Word) : Except Stop Unit :=
  failFirst l (fun a => tagPoison (s.cc.tag a.toNat)) 29

/-- R108: what a load of elements of n bytes checks, and its B (R107). -/
def State.spadLoad (s : State) (l : List Word) (align n : Nat) : Except Stop Bool := do
  s.spadCheck l align false
  s.spadEcc l n
  s.spadPoison l
  .ok (l.any fun a => tagB (s.cc.tag a.toNat))

/-- R103: a store of bytes by the current thread. -/
def State.spadStore (s : State) (a : Nat) (l : List Byte) (b : Bool) : State := s.setCc ((s.cc.store a l b).heal a l.length)

/-- A number as the bytes of a store. -/
def storeBytes (n : Nat) (v : Word) : List Byte := natToBytes n (v.toNat % 2 ^ (8 * n))
/-- n bytes as a loaded number. -/
def State.spadNat (s : State) (a n : Nat) : Nat := bytesToNat (s.cc.bytes a n)

/-- R105: ea. -/
def effAddr (a b : Src) (imm : BitVec 32) : Word := a.word + b.word + immWord imm
/-- R106: the address of lane i. -/
def laneAddr (w : Nat) (a b : Src) (imm : BitVec 32) (i : Nat) : Word :=
  a.word + immWord imm + (BitVec.ofNat 32 (lane w b.val i)).signExtend 64 * BitVec.ofNat 64 w

/-! ## SPAD (R105-R108) -/

/-- R106: LDS. -/
def execLds (o : Fmt SpadMod) (s : State) : Host.Outcome State Fault Refusal :=
  s.slot o.pred (do
    let (a, b, _) ← s.sources o
    s.noBounded [a, b]
    let n := Width.bytes o.mod.w
    let ea := effAddr a b o.imm
    let bb ← s.spadLoad [ea] n n
    let v := s.spadNat ea.toNat n
    let r := if o.mod.sx then BitVec.ofInt 64 (signedLane n v) else BitVec.ofNat 64 v
    .ok ((s.watch false false ea.toNat n).land o.d (r.setWidth 256) bb 3))
/-- R106: STS. -/
def execSts (o : Fmt SpadMod) (s : State) : Host.Outcome State Fault Refusal :=
  s.slot o.pred (do
    let (a, b, c) ← s.sources o
    s.noBounded [a, b]
    let n := Width.bytes o.mod.w
    let ea := effAddr a b o.imm
    s.spadCheck [ea] n true
    .ok ((s.watch false true ea.toNat n).spadStore ea.toNat (storeBytes n c.word) c.b))

/-- The active bytes of a 32-byte access (log 64, DEDUCED). -/
def State.activeBytes (s : State) (m : SpadMod) : List Nat := (List.range 32).filter fun j => active (s.th.readM m.mask) 1 j
/-- The old vd where a masked load keeps part of it (R156). -/
def State.spadOld (s : State) (m : SpadMod) (d : Reg) (imm : BitVec 32) : Except Stop Src :=
  if !m.zm && m.mask != 0 then
    let a := s.read imm d
    match firstFault [a] with
    | some (k, v) => .error (.trap k v)
    | none => .ok a
  else .ok (.present 0)

/-- R106: LDSV; its address is aligned to 8 bytes, and only active bytes are accessed. -/
def execLdsv (o : Fmt SpadMod) (s : State) : Host.Outcome State Fault Refusal :=
  s.slot o.pred (do
    let (a, b, _) ← s.sources o
    let old ← s.spadOld o.mod o.d o.imm
    s.noBounded [a, b]
    let ea := effAddr a b o.imm
    let act := s.activeBytes o.mod
    failIf (!act.isEmpty && decide (ea.toNat % 8 ≠ 0)) 4 ea
    let at_ := act.map fun j => ea + BitVec.ofNat 64 j
    let bb ← s.spadLoad at_ 1 1
    let l := (List.range 32).map fun j =>
      if act.contains j then (s.cc.byte (ea + BitVec.ofNat 64 j).toNat).toNat else lane 1 old.val j
    .ok ((s.watchAll false false (at_.map fun x => (x.toNat, 1))).land o.d (packLanes 1 l) (bb || old.b) 4))
/-- R106: STSV. -/
def execStsv (o : Fmt SpadMod) (s : State) : Host.Outcome State Fault Refusal :=
  s.slot o.pred (do
    let (a, b, c) ← s.sources o
    s.noBounded [a, b]
    let ea := effAddr a b o.imm
    let act := s.activeBytes o.mod
    failIf (!act.isEmpty && decide (ea.toNat % 8 ≠ 0)) 6 ea
    let at_ := act.map fun j => ea + BitVec.ofNat 64 j
    s.spadCheck at_ 1 true
    let s := s.watchAll false true (at_.map fun x => (x.toNat, 1))
    let s := act.foldl (fun t j => t.spadStore (ea + BitVec.ofNat 64 j).toNat [BitVec.ofNat 8 (lane 1 c.val j)] c.b) s
    let whole := (List.range 4).filter fun k => (List.range 8).all fun i => act.contains (8 * k + i)
    .ok (s.setCc (whole.foldl (fun (c : CoreCtx) k => c.heal (ea.toNat + 8 * k) 8) s.cc)))

/-- The active lanes of a gather or scatter. -/
def State.activeLanes (s : State) (m : SpadMod) : List Nat :=
  (List.range (32 / Width.bytes m.w)).filter fun i => active (s.th.readM m.mask) (Width.bytes m.w) i

/-- R106: VGATHS. -/
def execVgaths (o : Fmt SpadMod) (s : State) : Host.Outcome State Fault Refusal :=
  s.slot o.pred (do
    let (a, b, _) ← s.sources o
    let old ← s.spadOld o.mod o.d o.imm
    s.noBounded [a, b]
    let w := Width.bytes o.mod.w
    let act := s.activeLanes o.mod
    let at_ := act.map (laneAddr w a b o.imm)
    let bb ← s.spadLoad at_ w w
    let l := (List.range (32 / w)).map fun i =>
      if act.contains i then s.spadNat (laneAddr w a b o.imm i).toNat w else lane w old.val i
    .ok ((s.watchAll false false (at_.map fun x => (x.toNat, w))).land o.d (packLanes w l) (bb || old.b) 4))
/-- R106: VSCATS, lanes ascending. -/
def execVscats (o : Fmt SpadMod) (s : State) : Host.Outcome State Fault Refusal :=
  s.slot o.pred (do
    let (a, b, c) ← s.sources o
    s.noBounded [a, b]
    let w := Width.bytes o.mod.w
    let act := s.activeLanes o.mod
    let at_ := act.map (laneAddr w a b o.imm)
    s.spadCheck at_ w true
    let s := s.watchAll false true (at_.map fun x => (x.toNat, w))
    .ok (act.foldl (fun t i =>
      t.spadStore (laneAddr w a b o.imm i).toNat (natToBytes w (lane w c.val i)) c.b) s))
/-- R106: LDT; its B is 0 (R107) (log 63, DEDUCED). -/
def execLdt (o : Fmt Unit) (s : State) : Host.Outcome State Fault Refusal :=
  s.slot o.pred (do
    let (a, b, _) ← s.sources o
    s.noBounded [a, b]
    let ea := effAddr a b o.imm
    s.spadCheck [ea] 1 false
    .ok (s.land o.d ((s.cc.tag ea.toNat).setWidth 256) false 3))
/-- R106, R107: STT; clearing B counts in ACCEPTS (log 63, DEDUCED). -/
def execStt (o : Fmt Unit) (s : State) : Host.Outcome State Fault Refusal :=
  s.slot o.pred (do
    let (a, b, c) ← s.sources o
    s.noBounded [a, b, c]
    let ea := effAddr a b o.imm
    s.spadCheck [ea] 64 true
    let t : BitVec 16 := c.val.setWidth 16
    let s := if tagB (s.cc.tag ea.toNat) && !tagB t then s.setTh { s.th with accepts := s.th.accepts + 1 } else s
    .ok (s.setCc (s.cc.setTag ea.toNat t)))

/-! ## SAMO (R109, R110) -/

/-- R109: the new value of an element of n bytes, and its flags. -/
def samoValue (op : SamoOp) (n : Nat) (old v cmp : Nat) : Nat × Flags :=
  let m := 2 ^ (8 * n)
  match op with
  | .add => ((old + v) % m, .none)
  | .and => (old &&& v, .none)
  | .or => (old ||| v, .none)
  | .xor => (old ^^^ v, .none)
  | .min => (if signedLane n v < signedLane n old then v else old, .none)
  | .max => (if signedLane n old < signedLane n v then v else old, .none)
  | .minu => (min old v, .none)
  | .maxu => (max old v, .none)
  | .swap => (v, .none)
  | .cas => (if old = cmp then v else old, .none)
  | .fadd => floatAdd .fp32 .rne (fp32.decode old) (fp32.decode v)

/-- A bank atomic: the checks of R110, then one read and write of the element; `ret` says whether the old value lands. -/
def State.samoOp (s : State) (o : Fmt SamoMod) (ret : Bool) : Host.Outcome State Fault Refusal :=
  s.slot o.pred (do
    let (a, b, c) ← s.sources o
    s.noBounded [a, b, c]
    let n := Width.bytes o.mod.w
    let ea := a.word + immWord o.imm
    s.spadCheck [ea] n true
    s.spadEcc [ea] n
    failIf (tagB (s.cc.tag ea.toNat)) 26 ea
    s.spadPoison [ea]
    let old := s.spadNat ea.toNat n
    let (v, f) := samoValue o.mod.op n old (c.word.toNat % 2 ^ (8 * n)) (b.word.toNat % 2 ^ (8 * n))
    let s := ((s.watch false true ea.toNat n).spadStore ea.toNat (natToBytes n v) false).raise f
    let r := if o.mod.op = .fadd then BitVec.ofNat 64 old else BitVec.ofInt 64 (signedLane n old)
    .ok (if ret then s.land o.d (r.setWidth 256) false 4 else s))

/-- R109: SAMO returns the old value. -/
def execSamo (o : Fmt SamoMod) (s : State) : Host.Outcome State Fault Refusal := s.samoOp o true
/-- R109: SAMON returns nothing. -/
def execSamon (o : Fmt SamoMod) (s : State) : Host.Outcome State Fault Refusal := s.samoOp o false

end Sys2Proof.Machine
end

