-- ==== Sys2Proof/Machine/Global.lean ====
section
/-!
DEFINITION. The GLOBAL family (15): element addresses, the checks of R234, loads and stores of every page class, and the
events that serve them.
-/
namespace Sys2Proof.Machine

/-! ## Elements (R232, R233) -/

/-- The address forms of R233. -/
inductive GForm where
  | scalar | contiguous | indexed
deriving DecidableEq, Repr

/-- wm and lw of R233. -/
def globWm (m : GlobMod) : Nat := if m.w64 then 8 else 4
def globLw (m : GlobMod) : Nat := if !m.w64 || m.fc == .f32 then 4 else 8

/-- The active lanes and their addresses; a scalar form has one element. -/
def State.globElems (s : State) (f : GForm) (o : Fmt GlobMod) (a b : Src) : List (Nat × Word) :=
  let base := a.word + immWord o.imm
  let lw := globLw o.mod
  let act := (List.range (32 / lw)).filter fun i => active (s.th.readM o.mod.mask) lw i
  match f with
  | .scalar => [(0, base + b.word)]
  | .contiguous => act.map fun i => (i, base + b.word + BitVec.ofNat 64 (i * globWm o.mod))
  | .indexed => act.map fun i =>
    (i, base + (BitVec.ofNat 32 (lane lw b.val i)).signExtend 64 * BitVec.ofNat 64 (globWm o.mod))

/-- An element with its translation. -/
structure GElem where
  lane : Nat
  ea : Word
  leaf : TlbEntry
  pa : Nat
deriving DecidableEq, Repr

/-- The translations in lane order; the first fault or miss decides. -/
def State.translateAll (s : State) (k : Access) : List (Nat × Word) → Except Stop (List GElem)
  | [] => .ok []
  | (i, va) :: r =>
    match s.translate va k with
    | .error e => .error e
    | .ok leaf => (s.translateAll k r).map fun l => ⟨i, va, leaf, leaf.paOf va.toNat⟩ :: l

/-- The first element that fails a check: cause and its address. -/
def failElem (l : List GElem) (bad : GElem → Bool) (cause : Nat) : Except Stop Unit :=
  match l.find? bad with
  | some e => .error (.trap cause e.ea)
  | none => .ok ()

/-- R234: a region, or a BANK page, that the instruction does not fit. -/
def State.globMisfit (s : State) (m : GlobMod) (cmb : Bool) (e : GElem) : Bool :=
  if e.leaf.cls = 1 then cmb || m.fc != .none
  else
    let r := s.region e.leaf.region
    !regV r || (cmb && regOp r == 0)
      || (regBytes r != globWm m && !(regType r == 6 && m.w64))
      || (m.fc != .none && regType r != 4)

/-- R270: a locked region holds its accesses back. -/
def State.regionHeld (s : State) (l : List GElem) : Bool :=
  match s.regionLock with
  | some (id, _, _) => l.any fun e => e.leaf.cls != 1 && e.leaf.region == id
  | none => false

/-- R234, as far as the region row: the elements, translated. -/
def State.globCheck (s : State) (f : GForm) (o : Fmt GlobMod) (store cmb : Bool) (a b : Src) : Except Stop (List GElem) := do
  s.noBounded [a, b]
  let l := s.globElems f o a b
  failFirst (l.map (·.2)) (fun ea => decide (ea.toNat % globWm o.mod ≠ 0)) (if store then 6 else 4)
  let es ← s.translateAll (if store then .store else .load) l
  if s.regionHeld es then .error (.park .none)
  failElem es (s.globMisfit o.mod cmb) 50
  .ok es

/-- R221: the insertion port still works on an earlier group. -/
def State.portBusy (s : State) : Bool := s.cc.merging || !s.cc.port.isEmpty

/-! ## Stores (R233, R230) -/

/-- The VALUE of R224 that a lane supplies, or none where ToFX fails. -/
def globValue (r : BitVec 128) (m : GlobMod) (n : Nat) : Option Int :=
  match m.fc with
  | .none => some (regOfBits r n)
  | .f32 => toFX 64 (regL r) (fp32.decode n)
  | .f64 => toFX 64 (regL r) (fp64.decode n)

/-- The updates of one element: key address and VALUE; a 64-bit access of a BITS32 region is two of them. -/
def State.globUpdates (s : State) (m : GlobMod) (data : VWord) (e : GElem) : Except Stop (List (Nat × Int)) :=
  let r := s.region e.leaf.region
  let n := lane (globLw m) data e.lane
  if regType r = 6 ∧ m.w64 then .ok [(e.pa, (n % 2 ^ 32 : Nat)), (e.pa + 4, (n / 2 ^ 32 : Nat))]
  else match globValue r m n with
    | some v => .ok [(e.pa, v)]
    | none => .error (.trap 30 e.ea)

/-- The updates of a list of elements, each with its element, in lane order. -/
def State.allUpdates (s : State) (m : GlobMod) (data : VWord) : List GElem → Except Stop (List (GElem × Nat × Int))
  | [] => .ok []
  | e :: r =>
    match s.globUpdates m data e with
    | .error x => .error x
    | .ok u => (s.allUpdates m data r).map fun l => u.map (fun p => (e, p.1, p.2)) ++ l

/-- R224: an entry of the current core. -/
def State.entryOf (s : State) (kind : EntryKind) (pa region : Nat) (v : Int) : RunEntry :=
  ⟨pa / 4, kind, v, region, s.partOf s.cur.core, s.cur.ctx, s.cur.core⟩

/-- R235: the REMOTE updates leave one by one. -/
def State.sendUpdates (s : State) (kind : EntryKind) (l : List (GElem × Nat × Int)) : State :=
  l.foldl (fun s p => s.addOp none (.remoteUpdate p.1.leaf.rdev p.2.1 kind p.2.2 p.1.leaf.region)) s

/-- The bytes of the elements that a plain store writes. -/
def plainElems (m : GlobMod) (data : VWord) (l : List GElem) : List ElemReq :=
  l.map fun e => ⟨e.lane, e.pa, e.ea.toNat, BitVec.ofNat 64 (lane (globLw m) data e.lane)⟩

/-- What a group does that is judged before issue: as its verdict says, and without one what it does first. -/
def State.judgedOr (s : State) (first : Except Stop State) : Except Stop State :=
  match s.th.verdict with
  | some (.pass _) => .ok s
  | some (.trap c v) => .error (.trap c v)
  | _ => first

/-- The group stands before issue until another unit has judged it. -/
def State.awaitVerdict (s : State) : Except Stop State :=
  .error (.hand (s.setTh { s.th with wait := .judged, verdict := some .waiting }))

/-- A bounded plain store goes to its controllers for their verdict (R234). -/
def State.boundedStore (s : State) (m : GlobMod) (data : VWord) (l : List GElem) : Except Stop State :=
  (s.addOp none (.bankStore (globWm m) (plainElems m data l) true false)).awaitVerdict

/-- R233-R235: a store form, a SET or a COMBINE. -/
def State.globStore (s : State) (f : GForm) (cmb : Bool) (o : Fmt GlobMod) : Host.Outcome State Fault Refusal :=
  s.slot o.pred (s.judgedOr do
    let (a, b, c) ← s.sources o
    let es ← s.globCheck f o true cmb a b
    let merge := es.filter fun e => e.leaf.cls == 0
    let remote := es.filter fun e => e.leaf.cls == 2
    let bank := es.filter fun e => e.leaf.cls == 1
    if c.b && !(merge.isEmpty && remote.isEmpty) then s.pcTrap 26
    else if c.b && !bank.isEmpty then s.boundedStore o.mod c.val bank
    else do
      let us ← s.allUpdates o.mod c.val (es.filter fun e => e.leaf.cls != 1)
      if !merge.isEmpty && s.portBusy then .error (.park .none)
      let kind : EntryKind := if cmb then .combine else .set
      let s := s.watchAll true true (merge.map fun e => (e.pa, globWm o.mod))
      let local_ := us.filter fun p => p.1.leaf.cls == 0
      let s := if local_.isEmpty then s else s.insert (local_.map fun p => s.entryOf kind p.2.1 p.1.leaf.region p.2.2)
      let s := s.sendUpdates kind (us.filter fun p => p.1.leaf.cls == 2)
      .ok (if bank.isEmpty then s else s.addOp none (.bankStore (globWm o.mod) (plainElems o.mod c.val bank) false true)))

/-- R233: STG. -/
def execStg (o : Fmt GlobMod) (s : State) : Host.Outcome State Fault Refusal := s.globStore .scalar false o
/-- R233: STGV. -/
def execStgv (o : Fmt GlobMod) (s : State) : Host.Outcome State Fault Refusal := s.globStore .contiguous false o
/-- R233: STGX. -/
def execStgx (o : Fmt GlobMod) (s : State) : Host.Outcome State Fault Refusal := s.globStore .indexed false o
/-- R233: CMB. -/
def execCmb (o : Fmt GlobMod) (s : State) : Host.Outcome State Fault Refusal := s.globStore .scalar true o
/-- R233: CMBV. -/
def execCmbv (o : Fmt GlobMod) (s : State) : Host.Outcome State Fault Refusal := s.globStore .contiguous true o
/-- R233: CMBX. -/
def execCmbx (o : Fmt GlobMod) (s : State) : Host.Outcome State Fault Refusal := s.globStore .indexed true o

/-! ## Loads (R222, R233) -/

/-- R229, R230: a lane is composed and fitted with its region as it stands. -/
def State.decideLane (s : State) (l : LaneReq) (es : List RunEntry) : LaneReq :=
  { l with result := s.laneResult l es, fixL := regL (s.region l.region) }

/-- The requests of one element; a lane whose newest SET stands in L0 or L1 is decided there and now (R229). -/
def State.laneReqs (s : State) (m : GlobMod) (e : GElem) : List LaneReq :=
  let cls := e.leaf.cls
  let halves : List Nat := if cls != 1 && regType (s.region e.leaf.region) == 6 && m.w64 then [0, 1] else [0]
  halves.map fun h =>
    let pa := e.pa + 4 * h
    let view := if cls = 0 then s.nearView s.cur.core s.cur.ctx (pa / 4) else []
    let l : LaneReq := ⟨e.lane, h, if halves.length = 2 then 4 else globWm m, pa, e.ea.toNat, cls, e.leaf.rdev,
      e.leaf.region, view, .waiting, regL (s.region e.leaf.region)⟩
    if hasSet view then s.decideLane l view else l

/-- The lanes that a slice decides travel on the core's path, behind what it has sent there (R261). -/
def State.sendLanes (s : State) (op : Nat) (l : List LaneReq) : State :=
  (l.zipIdx).foldl (fun s p =>
    if p.1.cls = 0 ∧ p.1.result = .waiting then s.pushPath (pathOf s.cur.core) (sliceOf p.1.pa) (.load op p.2) else s) s

/-- R156: the old destination, where a masked load keeps part of it. -/
def State.globOld (s : State) (f : GForm) (o : Fmt GlobMod) : Except Stop Src :=
  if f != .scalar && !o.mod.zm && o.mod.mask != 0 then
    let a := s.read o.imm o.d
    match firstFault [a] with
    | some (k, v) => .error (.trap k v)
    | none => .ok a
  else .ok (.present 0)

/-- R233-R235: a load form; its register is pending from the commit of its group. -/
def State.globLoad (s : State) (f : GForm) (o : Fmt GlobMod) : Host.Outcome State Fault Refusal :=
  s.slot o.pred (do
    let (a, b, _) ← s.sources o
    let old ← s.globOld f o
    let es ← s.globCheck f o false false a b
    let merge := es.filter fun e => e.leaf.cls == 0
    if !merge.isEmpty && s.portBusy then .error (.park .none)
    let s := s.watchAll true false (merge.map fun e => (e.pa, globWm o.mod))
    let lanes := (es.map fun e => s.laneReqs o.mod e).flatten
    let fmt : LoadFmt := ⟨f != .scalar, o.mod.w64, o.mod.fc, o.mod.sx, globLw o.mod, old.val, old.b⟩
    let op := s.nextOp
    .ok ((s.start o.d (.load fmt lanes)).sendLanes op lanes))

/-- R233: LDG. -/
def execLdg (o : Fmt GlobMod) (s : State) : Host.Outcome State Fault Refusal := s.globLoad .scalar o
/-- R233: LDGV. -/
def execLdgv (o : Fmt GlobMod) (s : State) : Host.Outcome State Fault Refusal := s.globLoad .contiguous o
/-- R233: LDGX. -/
def execLdgx (o : Fmt GlobMod) (s : State) : Host.Outcome State Fault Refusal := s.globLoad .indexed o

/-! ## Results of a load -/

/-- R233: a decided element as the bits of its lane. -/
def LaneReq.bitsOf (l : LaneReq) (fmt : LoadFmt) (n : Int) : Nat :=
  let x := fromFX n l.fixL
  match fmt.fc with
  | .none => (n % (2 : Int) ^ (8 * l.width)).toNat * 2 ^ (32 * l.half)
  | .f32 => (fp32.round .rne x).1
  | .f64 => (fp64.round .rne x).1

/-- The fault of the lowest faulting lane. -/
def laneFault : List LaneReq → Option (Nat × Word)
  | [] => none
  | l :: r => match l.result with
    | .fault c v => some (c, v)
    | _ => laneFault r

def LaneReq.decided (l : LaneReq) : Bool := match l.result with | .waiting => false | _ => true
def LaneReq.bounded (l : LaneReq) : Bool := match l.result with | .value _ b => b | _ => false

/-- The register that a load whose lanes are all decided writes. -/
def LoadFmt.value (fmt : LoadFmt) (lanes : List LaneReq) : VWord :=
  let part := fun (i : Nat) => (lanes.filter fun l => l.lane == i).foldl (fun a l =>
    match l.result with | .value n _ => a + l.bitsOf fmt n | _ => a) 0
  if fmt.vec then
    packLanes fmt.lw ((List.range (32 / fmt.lw)).map fun i =>
      if lanes.any fun l => l.lane == i then part i else lane fmt.lw fmt.base i)
  else if fmt.sx then (BitVec.ofInt 64 (signedLane 4 (part 0))).setWidth 256
  else BitVec.ofNat 256 (part 0)

/-- R384: one more access of a thread, with the delay it carried back: to the stack that owns the place, or to another
device. -/
def State.addDelay (s : State) (t : ThreadId) (stack : Option Nat) (i : Nat) : State :=
  let th := s.thread t
  let d := Config.delay (64 * s.tick + i) % 2 ^ 24
  let bump := fun (w : Word) =>
    BitVec.ofNat 64 ((w.toNat / 2 ^ 40 + 1) % 2 ^ 24 * 2 ^ 40 + (w.toNat + d) % 2 ^ 40)
  match stack with
  | some n => s.setThread t { th with dly := SMap.set 0 th.dly n (bump (SMap.get 0 th.dly n)) }
  | none => s.setThread t { th with ndly := bump th.ndly }

/-- The stack that owns the place of a lane; none on another device. -/
def State.laneStack (s : State) (l : LaneReq) : Option Nat :=
  if l.cls = 2 then none else if l.cls = 1 then some (s.pchOf l.pa / 64) else some (sliceOf l.pa / 8)

/-- R384: where a load counts: once for each stack it reached, and once for other devices (log 27, DEDUCED). -/
def State.loadStacks (s : State) (lanes : List LaneReq) : List (Option Nat) := (lanes.map s.laneStack).eraseDups

/-- R233: a load resolves, once every lane has its value. -/
def State.finishLoad (s : State) (o : Op) (fmt : LoadFmt) (lanes : List LaneReq) : State :=
  let s := ((s.loadStacks lanes).zipIdx).foldl (fun s p => s.addDelay o.owner p.1 p.2) s
  match laneFault lanes with
  | some (c, v) => s.resolveFault o c v
  | none => s.resolve o (fmt.value lanes) (fmt.baseB || lanes.any LaneReq.bounded) .present

/-- One element of a list, picked freely among those that qualify (log 1, DESIGN CHOICE). -/
def State.pick {α : Type} (s : State) (l : List α) : Option α := l[Config.outcome s.tick % l.length]?

/-- Is a path item the first of its path? -/
def State.pathHead (s : State) (e : PathEntry) : Bool :=
  match s.paths.find? fun p => p.src == e.src && p.slice == e.slice with
  | some p => p.serial == e.serial
  | none => false

/-- R295: a lane of a load waits for its pseudo-channel. -/
def State.laneHeld (s : State) (op i : Nat) : Bool :=
  match s.op op with
  | some o => match o.kind with
    | .load _ lanes => match lanes[i]? with
      | some l => s.reserved l.pa l.width
      | none => false
    | _ => false
  | none => false

/-- The items of a load that its slices can take now. -/
def State.servable (s : State) (op : Nat) : List (PathEntry × Nat) :=
  s.paths.filterMap fun e => match e.item with
    | .load id i => if id = op ∧ s.pathHead e ∧ s.laneHeld op i = false then some (e, i) else none
    | _ => none

/-- A path gives up an item. -/
def State.popPath (s : State) (e : PathEntry) : State := { s with paths := s.paths.filter fun p => p.serial != e.serial }

/-- R229, R261: a slice decides one lane of a load at the head of its path, and reads DRAM for it where it must; when every lane is decided, the register is
written. -/
def execLoadServe (op : Nat) (s : State) : Host.Outcome State Fault Refusal :=
  match s.op op with
  | some o => match o.kind with
    | .load fmt lanes =>
      if lanes.all LaneReq.decided then .next (s.finishLoad o fmt lanes)
      else match s.pick (s.servable op) with
        | some (e, i) =>
          let s := match lanes[i]? with
            | some l => if hasSet (s.beyond (l.pa / 4) ++ l.view) then s else s.eccFor (o.reader 29) l.pa l.width
            | none => s
          let serve := fun (l : LaneReq) => s.decideLane l (s.beyond (l.pa / 4) ++ l.view)
          .next ((s.popPath e).setOp { o with kind := .load fmt (lanes.modify i serve) })
        | none => .next s
    | _ => .next s
  | none => .next s

/-! ## Where a copy stands (R85, R87, R92) -/

def handleIdx (w : Word) : Nat := bits w.toNat 40 24
def handleOff (w : Word) : Nat := bits w.toNat 0 40

/-- The fields of a handle entry. -/
def heV (e : BitVec 128) : Bool := e.getLsbD 96
def heRdev (e : BitVec 128) : Nat := bits e.toNat 87 9
def hePol (e : BitVec 128) : Nat := bits e.toNat 85 2
def heWr (e : BitVec 128) : Bool := e.getLsbD 84
def heRd (e : BitVec 128) : Bool := e.getLsbD 83
def heCls (e : BitVec 128) : Nat := bits e.toNat 81 2
def heLen (e : BitVec 128) : Nat := bits e.toNat 40 41
def heBase (e : BitVec 128) : Nat := bits e.toNat 0 40

def CopyOp.total (c : CopyOp) : Nat := c.rows * c.length
def CopyOp.moving (c : CopyOp) : Bool := c.status.isNone && decide (c.next < c.total)
/-- A transfer of the copy is in progress. -/
def CopyOp.busy (c : CopyOp) : Bool := c.moving && (!c.buf.isEmpty || c.done != 0)
def CopyOp.remote (c : CopyOp) : Bool := c.fn != 4 && heCls c.entry == 2
/-- Its handle side is a BANK page. -/
def CopyOp.linear (c : CopyOp) : Bool := c.fn != 4 && heCls c.entry == 1

/-- R92: the handle-side offset of the row in progress. -/
def CopyOp.rowOff (c : CopyOp) : Nat := handleOff c.handle + (if 2 ≤ c.fn then c.index else c.next / c.length) * c.hpitch
/-- The handle-side address, and the scratchpad address, of the next byte to move. -/
def CopyOp.pa (c : CopyOp) : Nat := heBase c.entry + c.rowOff + c.next % c.length
def CopyOp.spadAt (c : CopyOp) : Nat :=
  if c.fn = 4 then c.spad + c.next else c.spad + c.next / c.length * c.pitch + c.next % c.length

/-- R97: a transfer goes on by some of the 8-byte words it has left: the rest of the core's accesses fall between them (log 1, DESIGN CHOICE,
DESIGN CHOICE). -/
def State.someWords (s : State) (left : Nat) : Nat :=
  if left ≤ 8 then left else min left (8 + 8 * (Config.outcome s.tick % (left / 8)))

/-- Some neighbours of a list, and the rest: which are picked is free (log 1, DESIGN CHOICE). -/
def State.someOf {α : Type} (s : State) (l : List α) : List α × List α :=
  let n := Config.outcome s.tick % l.length
  let k := 1 + Config.outcome s.tick / l.length % l.length
  ((l.drop n).take k, l.take n ++ l.drop (n + k))

/-- Some bytes from an address as stores of 8-byte words. -/
def wordStores (core a : Nat) (l : List Byte) (tag : Option (BitVec 16)) : List UnitStore :=
  (List.range ((l.length + 7) / 8)).map fun i => ⟨core, a + 8 * i, (l.drop (8 * i)).take 8, tag⟩

/-- R188, R197, R210: a unit stores a word: with a tag for its block, which a POISON block keeps where `keep` says so, or as a
store with B 0. -/
def CoreCtx.unitStore (c : CoreCtx) (keep : Bool) (w : UnitStore) : CoreCtx :=
  (match w.tag with
    | some t =>
      let d := (w.bytes.zipIdx).foldl (fun (k : CoreCtx) (p : Byte × Nat) => k.setByte (w.addr + p.2) p.1) c
      if keep && tagPoison (d.tag w.addr) then d else d.setTag w.addr t
    | none => c.store w.addr w.bytes false).heal w.addr w.bytes.length

/-! ## Accesses to BANK pages (R235, R281, R285, R295) -/

/-- R285, R295: the controller performs an access of a pseudo-channel. -/
def State.pchOpen (s : State) (pch : Nat) : Bool := (s.pch pch).mode.isNone && !(s.pch pch).rsv

/-- The pseudo-channels of the plain accesses that an operation still has to make. -/
def State.plainPchs (s : State) (o : Op) : List Nat :=
  match o.kind with
  | .load _ lanes => (lanes.filter fun l => l.cls == 1 && !l.decided).map fun l => s.pchOf l.pa
  | .bankStore _ elems _ _ => elems.map fun e => s.pchOf e.pa
  | .stewardLoad _ _ pa => [s.pchOf pa]
  | _ => []

/-- An operation has an access to make at a pseudo-channel. -/
def State.wants (s : State) (o : Op) (pch : Nat) : Bool :=
  match o.kind with
  | .copy c => c.moving && c.linear && s.pchOf c.pa == pch
  | .matrix mmv => mmv
  | _ => (s.plainPchs o).contains pch

/-- R285: the accesses that wait at the controller since a time when the pseudo-channel was closed, in arrival order. -/
def State.waitingLine (s : State) (pch : Nat) : List Nat :=
  (s.pch pch).waiting.filter fun i => match s.op i with | some o => s.wants o pch | none => false

/-- R286: a BKMODE.on that stands in the SAU's queue, picked by its operation. -/
def State.modeQueued (s : State) (pch : Nat) (sel : Nat → Bool) : Bool :=
  s.ops.any fun p => match p.kind with
    | .bank c => c.fn == 0 && c.on && s.pchOf c.pa == pch && (s.pch pch).queue.contains p.id && sel p.id
    | _ => false

/-- R285, R295: an access that keeps no place at the controller cannot reach a pseudo-channel: it is closed, or one that waits there
goes first (log 76, DEDUCED). -/
def State.channelBusy (s : State) (pch : Nat) : Bool :=
  !s.pchOpen pch || !(s.waitingLine pch).isEmpty || s.modeQueued pch fun _ => true

/-- R286: the accesses that had arrived, and waited, when a BKMODE.on arrived. -/
def State.earlier (s : State) (pch mode : Nat) : List Nat :=
  (((s.pch pch).early.find? fun e => e.1 == mode).map (·.2)).getD []

/-- R285, R286: the pseudo-channel holds back an access of an operation: it is closed, or a BKMODE.on stands in the queue that was
issued before and did not find the access waiting. -/
def State.accessHeld (s : State) (id pch : Nat) : Bool :=
  !s.pchOpen pch || s.modeQueued pch (fun n => decide (n < id) && !(s.earlier pch n).contains id)

/-- An access that a closed pseudo-channel holds back: its own, or for a bounded store, which is performed whole (R234), that of
any of its elements (log 76, DEDUCED). -/
def State.heldBack (s : State) (id pch : Nat) : Bool :=
  s.accessHeld id pch || (match s.op id with
    | some o => match o.kind with
      | .bankStore _ elems _ false => elems.any fun e => s.accessHeld id (s.pchOf e.pa)
      | _ => false
    | none => false)

/-- R285: the turn of an access: of those that wait at the pseudo-channel and are not held back, the one that arrived first. -/
def State.accessTurn (s : State) (id pch : Nat) : Bool :=
  !s.heldBack id pch && ((s.waitingLine pch).find? fun h => !s.heldBack h pch).all (· == id)

/-- R281: no earlier plain access of the same thread waits for the pseudo-channel. -/
def State.threadFirst (s : State) (o : Op) (pch : Nat) : Bool :=
  s.ops.all fun p => decide (o.id ≤ p.id) || decide (p.owner ≠ o.owner) || !(s.plainPchs p).contains pch

def State.plainReady (s : State) (o : Op) (pch : Nat) : Bool := s.accessTurn o.id pch && s.threadFirst o pch

/-- An access arrives at a closed pseudo-channel, behind those of its thread (R281, R285). -/
def State.arriveAt (s : State) (o : Op) (pch : Nat) : State :=
  let p := s.pch pch
  let before := s.ops.all fun q => decide (o.id ≤ q.id) || decide (q.owner ≠ o.owner) || !(s.plainPchs q).contains pch
    || p.waiting.contains q.id
  if !s.accessHeld o.id pch || p.waiting.contains o.id || !before then s
  else s.setPch pch { p with waiting := s.waitingLine pch ++ [o.id] }

/-- Every access of an operation that finds its pseudo-channel closed waits there. -/
def State.arriveAll (s : State) (o : Op) : State := (s.plainPchs o).foldl (State.arriveAt · o) s

/-- R234, R285: a bounded store that cannot be performed whole arrives at all its pseudo-channels at once. -/
def State.arriveWhole (s : State) (o : Op) : State :=
  let pchs := (s.plainPchs o).eraseDups
  if pchs.all (s.threadFirst o) then pchs.foldl (fun (s : State) n =>
    let p := s.pch n
    if p.waiting.contains o.id then s else s.setPch n { p with waiting := s.waitingLine n ++ [o.id] }) s
  else s

/-- The result of a plain load of an element. -/
def State.plainLoad (s : State) (l : LaneReq) : LaneResult :=
  if tagPoison (s.blockTag l.pa) then .fault 29 (BitVec.ofNat 64 l.va)
  else .value (s.dramNat l.pa l.width) (tagB (s.blockTag l.pa))

/-- A plain store of an element; the controller reads the codeword that it changes (R82). -/
def State.plainStore (s : State) (r : Reader) (width : Nat) (b : Bool) (e : ElemReq) : State :=
  (s.eccFor r e.pa width).dramStore e.pa (storeBytes width e.data) b

/-- The first of the elements that can be made now, by pseudo-channel. -/
def firstOfPch (pch : Nat → Nat) (n : Nat) : List Nat :=
  (List.range n).filter fun i => (List.range i).all fun j => pch j != pch i

/-- The judgement on a thread's group before issue reaches it (R234, R270). -/
def State.judge (s : State) (t : ThreadId) (v : Verdict) : State :=
  let th := s.thread t
  s.setThread t { th with verdict := some v, wait := if th.wait = .judged then .judged else .none }

/-! ## Steward cores (R368) -/

/-- R368: the answer to a steward core's load. -/
def State.answerHart (s : State) (hart : Nat) (a : Answer) : State := s.setHart hart { s.hart hart with answer := a }

/-- A CSR as it is stored, and some of them written. -/
def Hart.csrAt (h : Hart) (n : Nat) : Nat := (SMap.get (0 : Word) h.csr n).toNat
def Hart.putCsrs (h : Hart) (l : List (Nat × Nat)) : Hart :=
  { h with csr := l.foldl (fun m p => SMap.set (0 : Word) m p.1 (BitVec.ofNat 64 p.2)) h.csr }

/-- A number with some of its bits replaced. -/
def putBits (w lo n v : Nat) : Nat := w - bits w lo n * 2 ^ lo + v % 2 ^ n * 2 ^ lo

/-- A hart takes an exception or an interrupt, as the RISC-V privileged architecture has it: to machine mode, or down to
supervisor mode; the pc that it leaves is that of its instruction, and an interrupt has a vector of its own where `mtvec` or `stvec`
says so (log 110, PRESUMED). -/
def Hart.enter (h : Hart) (down intr : Bool) (cause tval : Nat) : Hart :=
  let st := h.csrAt 0x300
  let code := cause + intr.toNat * 2 ^ 63
  let handler := fun (v : Nat) => BitVec.ofNat 64 (v / 4 * 4 + if intr && v % 4 == 1 then 4 * cause else 0)
  if down then
    { h.putCsrs [(0x141, h.pc.toNat), (0x142, code), (0x143, tval),
        (0x300, putBits (putBits (putBits st 5 1 (bits st 1 1)) 1 1 0) 8 1 h.priv)] with priv := 1, pc := handler (h.csrAt 0x105) }
  else
    { h.putCsrs [(0x341, h.pc.toNat), (0x342, code), (0x343, tval),
        (0x300, putBits (putBits (putBits st 7 1 (bits st 3 1)) 3 1 0) 11 2 h.priv)] with priv := 3, pc := handler (h.csrAt 0x305) }

/-- R368: a hart takes an exception: to supervisor mode where `medeleg` hands it down. -/
def Hart.takeTrap (h : Hart) (cause tval : Nat) : Hart :=
  h.enter (decide (h.priv ≠ 3) && bits (h.csrAt 0x302) cause 1 == 1) false cause tval

/-- MRET and SRET: the privilege and the interrupt enable that the trap saved come back. -/
def Hart.mret (h : Hart) : Hart :=
  let st := h.csrAt 0x300
  let mpp := bits st 11 2
  let back := putBits (putBits (putBits st 3 1 (bits st 7 1)) 7 1 1) 11 2 0
  { h.putCsrs [(0x300, if mpp = 3 then back else putBits back 17 1 0)] with priv := mpp, pc := BitVec.ofNat 64 (h.csrAt 0x341) }
def Hart.sret (h : Hart) : Hart :=
  let st := h.csrAt 0x300
  let back := putBits (putBits (putBits (putBits st 1 1 (bits st 5 1)) 5 1 1) 8 1 0) 17 1 0
  { h.putCsrs [(0x300, back)] with priv := bits st 8 1, pc := BitVec.ofNat 64 (h.csrAt 0x141) }

/-- A hart writes an `x` register (`x0` takes nothing), or, from 32 on, an `f` register. -/
def Hart.put (h : Hart) (rd : Nat) (w : Word) : Hart :=
  if rd = 0 then h
  else if rd < 32 then { h with x := SMap.set 0 h.x rd w }
  else if rd < 64 then { h with f := SMap.set 0 h.f (rd - 32) w }
  else h

/-- An instruction of some bytes is complete. -/
def Hart.goOn (h : Hart) (length : Nat) : Hart := { h with pc := h.pc + BitVec.ofNat 64 length }
def State.hartGo (s : State) (hart : Nat) (length : Nat) : State := s.setHart hart ((s.hart hart).goOn length)

/-- The data of a load in its register: extended by sign or by zeros, and in an `f` register boxed with ones. -/
def hartData (l : HartLoad) (w : Word) : Word :=
  let n := 8 * l.size
  let box := if 32 ≤ l.rd then BitVec.allOnes 64 <<< n else 0
  if l.signed && l.rd < 32 then (w.setWidth n).signExtend 64 else (w.setWidth n).setWidth 64 ||| box

/-- The data of a load reach their register: an element takes its bytes of a `v` register. -/
def Hart.take (h : Hart) (l : HartLoad) (w : Word) : Hart :=
  if l.rd < 64 then h.put l.rd (hartData l w)
  else if l.rd < 96 then
    let old := (SMap.find h.v (l.rd - 64)).getD []
    let old := old ++ List.replicate (l.at_ + l.size - old.length) 0
    { h with v := SMap.put h.v (l.rd - 64) (old.take l.at_ ++ natToBytes l.size w.toNat ++ old.drop (l.at_ + l.size)) }
  else h

/-- What an atomic memory operation of some bytes stores. -/
def amoResult (f : HartAmo) (size : Nat) (old w : Word) : Word :=
  let n := 8 * size
  let a := old.setWidth n
  let b := w.setWidth n
  let less := match f with
    | .min => a.slt b
    | .max => b.slt a
    | .minu => a.ult b
    | _ => b.ult a
  (match f with
    | .swap => b
    | .add => a + b
    | .xor => a ^^^ b
    | .and => a &&& b
    | .or => a ||| b
    | _ => if less then a else b).setWidth 64

/-- The CSR in which a number is held, where its bits stand there, and which of them it shows: `sstatus`, `sie`, `sip`, `fflags`
and `frm` are views. -/
def Hart.csrView (h : Hart) (n : Nat) : Nat × Nat × Nat :=
  match n with
  | 0x100 => (0x300, 0, 0x80000003000DE762)
  | 0x104 => (0x304, 0, h.csrAt 0x303)
  | 0x144 => (0x344, 0, h.csrAt 0x303)
  | 0x001 => (0x003, 0, 0x1F)
  | 0x002 => (0x003, 5, 7)
  | n => (n, 0, 2 ^ 64 - 1)

/-- What a hart reads of a CSR; `mhartid` is its number. -/
def Hart.csrRead (h : Hart) (hart n : Nat) : Nat :=
  let (home, lo, mask) := h.csrView n
  if n = 0xF14 then hart else (h.csrAt home / 2 ^ lo) &&& mask

/-- A hart writes a CSR: the bits that the number shows, and no others. -/
def Hart.csrWrite (h : Hart) (n : Nat) (w : Nat) : Hart :=
  let (home, lo, mask) := h.csrView n
  let old := h.csrAt home
  h.putCsrs [(home, old - (old &&& (mask * 2 ^ lo)) + (w &&& mask) * 2 ^ lo)]

/-- A CSR instruction: a number beyond the hart's privilege, or a write of one that is read-only, is an illegal instruction. -/
def Hart.csrAccess (h : Hart) (hart n rd : Nat) (value : Option Word) : Hart :=
  if 4096 ≤ n ∨ h.priv < bits n 8 2 ∨ (bits n 10 2 = 3 ∧ value.isSome = true) then h.takeTrap 2 0
  else
    let t := match value with
      | some w => h.csrWrite n w.toNat
      | none => h
    (if rd < 32 then t.put rd (BitVec.ofNat 64 (h.csrRead hart n)) else t).goOn 4

/-- What instructions that stay within a hart have left: a pc, registers, and CSRs that user mode may write, and `vl` and `vtype`. -/
def Hart.leave (h : Hart) (pc : Word) (x f : List (Nat × Word)) (v : List (Nat × List Byte)) (csr : List (Nat × Word)) : Hart :=
  let h := (x.filter fun p => p.1 < 32).foldl (fun h p => h.put p.1 p.2) h
  let h := (f.filter fun p => p.1 < 32).foldl (fun h p => h.put (32 + p.1) p.2) h
  let h := (csr.filter fun p => p.1 < 0x100 || p.1 == 0xC20 || p.1 == 0xC21).foldl (fun h p => h.csrWrite p.1 p.2.toNat) h
  { h with v := (v.filter fun p => p.1 < 32).foldl (fun m p => SMap.put m p.1 p.2) h.v, pc := pc }

/-- An interrupt that `mideleg` hands down, and an exception that `medeleg` does, go to supervisor mode. -/
def Hart.handsDown (h : Hart) (cause : Nat) : Bool := bits (h.csrAt 0x303) cause 1 == 1

/-- The standard interrupts, in the order in which they are taken: external, software and timer, of machine and of supervisor mode. -/
def hartCauses : List Nat := [11, 3, 7, 9, 1, 5]

/-- An interrupt is enabled, and not masked where the hart stands. -/
def Hart.hears (h : Hart) (cause : Nat) : Bool :=
  let st := h.csrAt 0x300
  hartCauses.contains cause && bits (h.csrAt 0x304) cause 1 == 1
    && (if h.handsDown cause then h.priv == 0 || (h.priv == 1 && bits st 1 1 == 1) else decide (h.priv < 3) || bits st 3 1 == 1)

/-- The bit of a cause in `mip`, and how it is set or cleared. -/
def Hart.pends (h : Hart) (cause : Nat) : Bool := bits (h.csrAt 0x344) cause 1 == 1
def Hart.pend (h : Hart) (cause : Nat) (on : Bool) : Hart :=
  if hartCauses.contains cause then h.putCsrs [(0x344, putBits (h.csrAt 0x344) cause 1 on.toNat)] else h

/-- An interrupt goes before another: one of machine mode first, and else in the standard order. -/
def Hart.before (h : Hart) (a b : Nat) : Bool :=
  if h.handsDown a == h.handsDown b then decide (hartCauses.idxOf a < hartCauses.idxOf b) else h.handsDown b

/-- R368, R370: a hart takes an interrupt that is pending, in `mip` or, an external one, at the device, unless another that is pending in
`mip` goes before it. -/
def Hart.takesInt (h : Hart) (outside : Bool) (cause : Nat) : Bool :=
  h.hears cause && (h.pends cause || (outside && (cause == 9 || cause == 11)))
    && !hartCauses.any fun c => h.before c cause && h.pends c && h.hears c

/-- MRET and SRET, where the hart's privilege allows them: `mstatus.TSR` keeps SRET from supervisor mode. -/
def Hart.returns (h : Hart) (supervisor : Bool) : Hart :=
  if h.priv = 3 then (if supervisor then h.sret else h.mret)
  else if supervisor ∧ h.priv = 1 ∧ bits (h.csrAt 0x300) 22 1 = 0 then h.sret
  else h.takeTrap 2 0

/-- R70, R368: an access of a steward core gets an error response: the hart takes a load access-fault exception, and of a store or an
atomic memory operation a store access-fault one. -/
def State.hartLoadFault (s : State) (hart pa : Nat) (l : HartLoad) : State :=
  s.setHart hart { (s.hart hart).takeTrap (if l.amo.isSome then 7 else 5) pa with answer := .fault }
def State.hartStoreFault (s : State) (hart pa : Nat) : State := s.setHart hart ((s.hart hart).takeTrap 7 pa)

/-- R368: the answer of a load at a place: data in its register and the next instruction, or the exception. -/
def State.answerAt (s : State) (hart pa : Nat) (l : HartLoad) (a : Answer) : State :=
  match a with
  | .fault => s.hartLoadFault hart pa l
  | .data w => s.setHart hart { ((s.hart hart).take l w).goOn l.length with answer := .data w }
  | .nothing => s.answerHart hart .nothing

/-- What a load that got an answer stores in the same access. -/
def amoStores (l : HartLoad) (a : Answer) : Option Word :=
  match l.amo, a with
  | some (f, w), .data old => some (amoResult f l.size old w)
  | _, _ => none

/-! ## Accesses to BANK pages, performed (R235) -/

/-- R234, R235: the whole of a bounded store, with its check: the block tag of each element has B already. One of a group whose
other slot traps stores nothing (R22). -/
def State.boundedPerform (s : State) (o : Op) (width : Nat) (elems : List ElemReq) : State :=
  let s := s.eccAllFor (o.reader 0) (elems.map fun e => (e.pa, width))
  match elems.find? fun e => !tagB (s.blockTag e.pa) with
  | some e => (s.removeOp o.id).judge o.owner (.trap 26 (BitVec.ofNat 64 e.va))
  | none =>
    let t := if (s.thread o.owner).doomed then s else elems.foldl (fun s e => s.plainStore (o.reader 0) width true e) s
    (t.removeOp o.id).judge o.owner (.pass 0)

/-- R235: the controller performs a plain access: a whole bounded store with its check, or one element of another store or
of a load; the accesses of a thread to one pseudo-channel in their order (R281) (log 76, DEDUCED). One that finds its
pseudo-channel closed arrives there and waits (R285). A bounded store of a thread that has a threshold trap due is not judged
(R345). -/
def execBankAccessPerform (op : Nat) (s : State) : Host.Outcome State Fault Refusal :=
  match s.op op with
  | some o => match o.kind with
    | .bankStore width elems b checked =>
      if !checked then
        .next (if (s.thread o.owner).thresholdDue then s
          else if elems.all fun e => s.plainReady o (s.pchOf e.pa) then s.boundedPerform o width elems
          else s.arriveWhole o)
      else
        let ready := (firstOfPch (fun i => match elems[i]? with | some e => s.pchOf e.pa | none => 0) elems.length).filter
          fun i => match elems[i]? with | some e => s.plainReady o (s.pchOf e.pa) | none => false
        match (s.pick ready).bind fun i => (elems[i]?).map fun e => (i, e) with
        | some (i, e) =>
          let rest := elems.eraseIdx i
          let s := s.plainStore (o.reader 0) width b e
          .next (if rest.isEmpty then { s.removeOp op with fenced := s.fenced.erase op }
            else s.setOp { o with kind := .bankStore width rest b checked })
        | none => .next (s.arriveAll o)
    | .load fmt lanes =>
      let waits := fun (i : Nat) => match lanes[i]? with | some l => l.cls == 1 && !l.decided | none => false
      let pch := fun (i : Nat) => match lanes[i]? with | some l => s.pchOf l.pa | none => 0
      let ready := (List.range lanes.length).filter fun i =>
        waits i && s.plainReady o (pch i) && (List.range i).all fun j => !waits j || pch j != pch i
      match s.pick ready with
      | some i =>
        let s := match lanes[i]? with
          | some l => s.eccFor (o.reader 29) l.pa l.width
          | none => s
        .next (s.setOp { o with kind := .load fmt (lanes.modify i fun l => { l with result := s.plainLoad l }) })
      | none => .next (s.arriveAll o)
    | .stewardLoad hart l pa =>
      .next (if s.plainReady o (s.pchOf pa) then
          let s := s.ecc pa l.size
          let a := if tagPoison (s.blockTag pa) then Answer.fault else .data (BitVec.ofNat 64 (s.dramNat pa l.size))
          let s := match amoStores l a with
            | some w => s.dramStore pa (storeBytes l.size w) false
            | none => s
          (s.answerAt hart pa l a).removeOp op
        else s.arriveAll o)
    | _ => .next s
  | none => .next s

/-! ## Merge events (R259-R261) -/

/-- R261: the L0 merge commits. -/
def execL0MergeCommit (core : Nat) (ctx : Bool) (s : State) : Host.Outcome State Fault Refusal :=
  .next (if (s.coreCtx core ctx).merging then s.l0Commit core ctx else s)

/-- R259: L1 gives up a key early. -/
def execL1Move (cluster : Nat) (key : Nat) (ctx : Bool) (s : State) : Host.Outcome State Fault Refusal :=
  .next (s.l1Move cluster key ctx)

/-- R259: a full slice makes room for a new key by writing back the entry it folded least recently. -/
def State.makeRoom (s : State) (slice key : Nat) : State :=
  let es := s.sliceEntries slice
  if (s.l2Find key).isSome || decide (es.length < sliceCap) then s
  else
    let movable := es.filter fun p => p.2.entry.kind != .poison && (SMap.find s.wbuf p.1).isNone
    match movable with
    | [] => s
    | p :: r => s.startWriteBack (r.foldl (fun a q => if q.2.folded < a.2.folded then q else a) p).1

/-- R269: an MRESOLVE reaches its slice: each SET replaces what the slice holds. -/
def State.resolveAt (s : State) (op : Nat) (es : List RunEntry) : State :=
  let poisoned := es.any fun e => match s.l2Find e.key with | some o => o.kind == .poison | none => false
  let s := es.foldl (fun s e => (s.makeRoom (sliceOf (e.key * 4)) e.key).l2Put e) s
  match s.op op with
  | some o => s.resolveStatus o stOk poisoned.toNat
  | none => s

/-- R260: a slice takes the next moved entries, or an MRESOLVE, off a path; a load there waits for LOAD_SERVE. -/
def execL2Fold (path : Nat) (slice : Nat) (s : State) : Host.Outcome State Fault Refusal :=
  match s.paths.find? fun p => p.src == path && p.slice == slice with
  | some e => match e.item with
    | .entries es =>
      let s := s.popPath e
      .next ((es.head?.elim s fun h => s.makeRoom slice h.key).l2Fold path es)
    | .resolve op es => .next ((s.popPath e).resolveAt op es)
    | .load _ _ => .next s
  | none => .next s

/-- R259: an entry other than POISON leaves its slice for the write-back buffer. -/
def execWriteBack (key : Nat) (s : State) : Host.Outcome State Fault Refusal := .next (s.startWriteBack key)

/-- R261: a write-back takes effect, unless its pseudo-channel is reserved (R295). -/
def execWriteBackCommit (key : Nat) (s : State) : Host.Outcome State Fault Refusal :=
  .next (if s.reserved (key * 4) 8 then s else s.commitWriteBack key)

end Sys2Proof.Machine
end

