-- ==== Sys2Proof/Machine/Mergectl.lean ====
section
/-!
DEFINITION. Scopes (16 R238-R240), what a fence waits for, and the MERGECTL family (17) with its events.
-/
namespace Sys2Proof.Machine

/-! ## Scopes -/

def rectX0 (w : Word) : Nat := bits w.toNat 0 8
def rectY0 (w : Word) : Nat := bits w.toNat 8 8
def rectX1 (w : Word) : Nat := bits w.toNat 16 8
def rectY1 (w : Word) : Nat := bits w.toNat 24 8

/-- Does a rectangle word hold a core? -/
def rectHolds (w : Word) (core : Nat) : Bool :=
  !isCox core && decide (rectX0 w ≤ coreX core ∧ coreX core ≤ rectX1 w ∧ rectY0 w ≤ coreY core ∧ coreY core ≤ rectY1 w)

/-- R239: the word is well formed for the current thread; a cox core lies in no rectangle (R238). -/
def State.rectOk (s : State) (w : Word) : Bool :=
  decide (w.toNat < 2 ^ 32 ∧ rectX0 w ≤ rectX1 w ∧ rectY0 w ≤ rectY1 w ∧ rectX1 w ≤ 63 ∧ rectY1 w ≤ 31)
    && rectHolds w s.cur.core
    && (match s.taskOf s.cur.core s.cur.ctx with
      | some t => decide (t.x0 ≤ rectX0 w ∧ rectX1 w ≤ t.x1 ∧ t.y0 ≤ rectY0 w ∧ rectY1 w ≤ t.y1)
      | none => false)

/-- R238: the common level of a scope. -/
def levelOf (sc : Scope) (rect : Word) : Nat :=
  match sc with
  | .thread => 0
  | .core => 0
  | .rect => if rectX0 rect / 4 = rectX1 rect / 4 ∧ rectY0 rect / 2 = rectY1 rect / 2 then 1 else 2
  | _ => 2

/-- R253: a scope register that the instruction reads. -/
def State.scopeCheck (s : State) (sc : Scope) (w : Word) : Except Stop Unit :=
  failIf (sc == .rect && !s.rectOk w) 51 w

/-! ## What is not acknowledged yet (R243, R245) -/

def OpKind.isRemote : OpKind → Bool
  | .remoteUpdate _ _ _ _ _ => true
  | .resolve (some _) _ => true
  | _ => false
def OpKind.isStore : OpKind → Bool
  | .bankStore _ _ _ _ => true
  | k => k.isRemote
def OpKind.isAccess : OpKind → Bool
  | .load _ _ => true
  | k => k.isStore

/-- The operations of the current thread of some kind. -/
def State.opsOf (s : State) (sel : OpKind → Bool) : List Nat :=
  (s.ops.filter fun o => decide (o.owner = s.cur) && sel o.kind).map (·.id)

/-- R245, R268: the drain of the current core to a level, and what its completion waits for beside the operations. -/
def State.drainTo (s : State) (core : Nat) (ctx : Bool) (level : Nat) (ops : List Nat) : State × FenceWait × Nat :=
  if level = 0 then (s, ⟨ops, 0, 0⟩, 0)
  else
    let (t, n) := s.drain core ctx (level = 2) fun _ => true
    (t, if level = 2 || isCox core then t.pathWait core ops else ⟨ops, 0, 0⟩, n)

/-- R261: a drain or a release whose moves out of L0 are still to come. -/
def State.unmoved (s : State) (o : Op) : Bool :=
  match o.kind with
  | .mdrain toL2 toL1 moved _ _ => !moved && (toL2 || toL1)
  | .rel r => r.stage == .acks && levelOf (s.sync r.obj).scope (s.sync r.obj).rect != 0
  | _ => false

/-- R261: a core's port makes its moves in the core's issue order: one that was issued before an operation is still to come. -/
def State.moveWaits (s : State) (core : Nat) (ctx : Bool) (id : Nat) : Bool :=
  s.ops.any fun p => decide (p.id < id) && p.core == core && p.ctx == ctx && s.unmoved p

/-- R245: what FENCE begins at a level: its drain, which takes its turn behind the moves that the core issued before (R261). -/
def State.beginFence (s : State) (level : Nat) : State × FenceWait :=
  let ops := s.opsOf OpKind.isAccess
  if level != 0 && s.moveWaits s.cur.core s.cur.ctx s.nextOp then
    (s.addOp none (.mdrain (level = 2) (level = 1) false ⟨[], 0, 0⟩ 0), ⟨ops ++ [s.nextOp], 0, 0⟩)
  else
    let (t, w, _) := s.drainTo s.cur.core s.cur.ctx level ops
    (t, w)

/-! ## MERGECTL -/

/-- R268: MDRAIN with a scope. -/
def execMdrain (o : Fmt ScopeMod) (s : State) : Host.Outcome State Fault Refusal :=
  s.slot o.pred (do
    let (a, _, _) ← s.sources o
    s.noBounded [a]
    s.scopeCheck o.mod.scope a.word
    let level := levelOf o.mod.scope a.word
    let acks := if o.mod.scope = .domain then s.opsOf OpKind.isRemote else []
    .ok (s.start o.d (.mdrain (level = 2) (level = 1) false ⟨acks, 0, 0⟩ 0)))

/-- R266: the current context owns a region. -/
def State.ownsRegion (s : State) (t : ThreadId) (id : Nat) : Bool :=
  id != 0 && (s.pctx (s.partOf t.core) t.ctx).own.getLsbD id

/-- R268: MDRAIN of a region. -/
def execMdrainRegion (o : Fmt Unit) (s : State) : Host.Outcome State Fault Refusal :=
  s.slot o.pred (do
    let (a, _, _) ← s.sources o
    s.noBounded [a]
    failIf (decide (255 < a.word.toNat) || !s.ownsRegion s.cur a.word.toNat) 50 a.word
    .ok (s.start o.d (.mdrainRegion a.word.toNat 0 0)))

/-- R269: MRESOLVE: a SET straight to the slice, or to the owning device. -/
def execMresolve (o : Fmt GlobMod) (s : State) : Host.Outcome State Fault Refusal :=
  s.slot o.pred (do
    let (a, b, c) ← s.sources o
    let es ← s.globCheck .scalar o true false a b
    failElem es (fun e => e.leaf.cls == 1) 50
    if c.b then s.pcTrap 26
    let us ← s.allUpdates o.mod c.val es
    let merge := es.filter fun e => e.leaf.cls == 0
    let s := s.watchAll true true (merge.map fun e => (e.pa, globWm o.mod))
    let op := s.nextOp
    match us, es with
    | u :: _, e :: _ =>
      if e.leaf.cls = 2 then .ok (s.start o.d (.resolve (some e.leaf.rdev) e.ea))
      else
        let l := us.map fun p => s.entryOf .set p.2.1 p.1.leaf.region p.2.2
        .ok ((s.start o.d (.resolve none e.ea)).pushPath (pathOf s.cur.core) (sliceOf u.2.1) (.resolve op l))
    | _, _ => .ok s)

/-- R270: RGSET: the region is locked, the census judges, and the group issues or faults. -/
def execRgset (o : Fmt Unit) (s : State) : Host.Outcome State Fault Refusal :=
  s.slot o.pred (s.judgedOr do
    let (a, b, _) ← s.sources o
    s.noBounded [a, b]
    failIf (decide (255 < a.word.toNat)) 50 a.word
    match s.regionLock with
    | some _ => .error (.park .none)
    | none =>
      let s := { s with regionLock := some (a.word.toNat, b.word, s.cur) }
      s.awaitVerdict)

/-- R271: RGGET. -/
def execRgget (o : Fmt Unit) (s : State) : Host.Outcome State Fault Refusal :=
  s.slot o.pred (do
    let (a, _, _) ← s.sources o
    s.noBounded [a]
    failIf (decide (255 < a.word.toNat) || !(a.word == 0 || s.ownsRegion s.cur a.word.toNat)) 50 a.word
    .ok (s.start o.d (.rgget a.word.toNat)))

/-! ## Events -/

/-- R243, R268, R375: an operation that a release or a drain waits for has no path left; the device. -/
def State.lostAck (s : State) (w : FenceWait) : Option Nat :=
  s.ops.findSome? fun p => if w.ops.contains p.id then (match p.kind with
    | .remoteUpdate rdev _ _ _ _ => if s.pathTo rdev then none else some rdev
    | .resolve (some rdev) _ => if s.pathTo rdev then none else some rdev
    | _ => none) else none

/-- R243, R268: a release or a drain still waits for the acknowledgement of an operation: where its path is gone, that one is LINK_DOWN
first. -/
def State.ackAwaited (s : State) (op : Nat) : Bool :=
  s.ops.any fun p => match p.kind with
    | .mdrain _ _ moved w _ => !moved && w.ops.contains op
    | .rel r => r.stage == .acks && r.wait.ops.contains op
    | _ => false

/-- R268: a drain of scope makes its moves once its acknowledgements stand, and resolves when they have committed; a region
drain visits the slices one by one (log 69, DESIGN CHOICE). -/
def execMdrainComplete (op : Nat) (s : State) : Host.Outcome State Fault Refusal :=
  match s.op op with
  | some o => match o.kind with
    | .mdrain toL2 toL1 moved w count =>
      if moved then .next (if s.fenceDone w then s.resolveStatus o stOk count else s)
      else if s.fenceDone w then
        if s.moveWaits o.core o.ctx o.id then .next s else
        let (t, w, n) := s.drainTo o.core o.ctx (if toL2 then 2 else if toL1 then 1 else 0) []
        .next (t.setOp { o with kind := .mdrain toL2 toL1 true w n })
      else if (s.lostAck w).isSome then .next (s.resolveStatus o stLinkDown 0)
      else .next s
    | .mdrainRegion region slices count =>
      if 96 ≤ slices then .next (s.resolveStatus o stOk count)
      else
        let keys := ((s.sliceEntries slices).filter fun p =>
          p.2.entry.region == region && p.2.entry.kind != .poison).map (·.1)
        let pending := (s.wbuf.filter fun p => sliceOf (p.1 * 4) == slices && p.2.region == region).map (·.1)
        let all := keys ++ pending.filter fun k => !keys.contains k
        if all.any fun k => s.reserved (k * 4) 8 then .next s else
        let (t, n) := all.foldl (fun (p : State × Nat) k =>
          let (t, n) := p.1.drainKey region k
          (t, p.2 + n)) (s, count)
        .next (t.setOp { o with kind := .mdrainRegion region (slices + 1) n })
    | _ => .next s
  | none => .next s

/-- R270: the entries of a region anywhere on the device. -/
def State.census (s : State) (region : Nat) : Bool :=
  let has := fun (l : List RunEntry) => l.any fun e => e.region == region
  s.ctxs.any (fun p => has p.2.l0 || has p.2.port)
    || s.clusters.any (fun p => has p.2.l1)
    || s.l2.any (fun p => p.2.entry.region == region)
    || s.wbuf.any (fun p => p.2.region == region)
    || s.paths.any (fun p => match p.item with
      | .entries es => has es
      | .resolve _ es => has es
      | .load _ _ => false)

/-- R270: the record may be installed: it is legal, and no entry of the region is left. -/
def State.regionFree (s : State) (id : Nat) (r : BitVec 128) : Bool := id != 0 && regLegal r && !s.census id

def State.setRegion (s : State) (id : Nat) (r : BitVec 128) : State := { s with regions := SMap.set 0 s.regions id r }

/-- R270: the census of the locked region ends: the record is installed or the RGSET faults, and the region is unlocked. A
threshold trap that is due comes first (R345), and a group whose other slot traps installs nothing (R22). -/
def execRegionCensus (t : ThreadId) (s : State) : Host.Outcome State Fault Refusal :=
  match s.regionLock with
  | some (id, w, u) =>
    if (s.thread t).thresholdDue then .next s
    else if u = t then
      let s := { s with regionLock := none }
      let r : BitVec 128 := w.setWidth 128
      if s.ownsRegion t id && s.regionFree id r then
        .next ((if (s.thread t).doomed then s else s.setRegion id r).judge t (.pass 0))
      else .next (s.judge t (.trap 50 (BitVec.ofNat 64 id)))
    else .next s
  | none => .next s

/-- R271: RGGET resolves. -/
def execRggetResolve (op : Nat) (s : State) : Host.Outcome State Fault Refusal :=
  match s.op op with
  | some o => match o.kind with
    | .rgget id => .next (s.resolve o (((s.region id).setWidth 64).setWidth 256) false .present)
    | _ => .next s
  | none => .next s

end Sys2Proof.Machine
end

