-- ==== Sys2Proof/Machine/Sync.lean ====
section
/-!
DEFINITION. The families SYNC and BARRIER (16) with their events: sync objects, releases and acquires, fences, barriers.
-/
namespace Sys2Proof.Machine

/-! ## Sync objects (R241) -/

/-- R241, R308: the object that an object word names in the current task; a thread of a cox core belongs to none, and names no object
(log 124, DESIGN CHOICE). -/
def State.objectOf (s : State) (w : Word) : Except Stop Nat :=
  match s.taskOf s.cur.core s.cur.ctx with
  | none => .error (.trap 51 w)
  | some t =>
    let die := bits w.toNat 16 1
    let i := bits w.toNat 0 16
    let count := if die = 0 then t.field 192 13 else t.field 208 13
    if w.toNat < 2 ^ 17 ∧ i < count then .ok (die * 65536 + (if die = 0 then t.sync0 else t.sync1) + i)
    else .error (.trap 51 w)

/-- R99, R247: where the data map of the current context ends (log 62, DEDUCED). -/
def State.dataEnd (s : State) : Nat := if s.split2 s.cur.core then 0x17000 else 0x2F000

/-- R242: entry k of a range list: BASE and LEN. -/
def State.rangeEntry (s : State) (list k : Nat) : Word × Word :=
  let n := bytesToNat (s.cc.bytes (list + 16 * k) 16)
  (BitVec.ofNat 64 (n % 2 ^ 64), BitVec.ofNat 64 (n / 2 ^ 64))

/-- R242: a page is mapped for a load, and its table blocks can be read (R295) and hold no error (R82). -/
def State.pageStands (s : State) (va : Nat) : Bool :=
  let part := s.partOf s.cur.core
  let root := s.rootTable part s.cur.ctx
  !s.walkFlawed va 3 root && !s.walkReserved va 3 root && (match s.walk part s.cur.ctx va with
    | .ok e => e.rd
    | .error _ => false)

/-- R242: the pages between the ends of a range: one that does not stand is translated like any other, and waits for its walk. -/
def State.rangePages (s : State) (va : Nat) : Nat → Except Stop Unit
  | 0 => .ok ()
  | n + 1 =>
    if s.pageStands va then s.rangePages (va + 2 ^ 16) n
    else match s.translate (BitVec.ofNat 64 va) .load with
      | .ok _ => s.rangePages (va + 2 ^ 16) n
      | .error x => .error x

/-- R242: a range as a load translates it: the leaves of its ends. A range in one leaf has no pages between. -/
def State.rangeLeaf (s : State) (r : Word × Word) : Except Stop (TlbEntry × TlbEntry) :=
  match s.translate r.1 .load with
  | .error e => .error e
  | .ok a =>
    let first := r.1.toNat
    let last := first + r.2.toNat - 1
    let stop := min last (2 ^ 48)
    match (if last < a.va + a.size then .ok () else s.rangePages ((first / 2 ^ 16 + 1) * 2 ^ 16) (stop / 2 ^ 16 - first / 2 ^ 16 - 1)) with
    | .error e => .error e
    | .ok _ =>
      if 2 ^ 48 ≤ last then .error (.trap 5 (BitVec.ofNat 64 last))
      else (s.translate (BitVec.ofNat 64 last) .load).map fun b => (a, b)

def State.rangeLeaves (s : State) : List (Word × Word) → Except Stop (List ((Word × Word) × TlbEntry × TlbEntry))
  | [] => .ok []
  | r :: l =>
    match s.rangeLeaf r with
    | .error e => .error e
    | .ok p => (s.rangeLeaves l).map fun m => (r, p) :: m

/-- R242: is a REL on the object in progress? -/
def State.relOpen (s : State) (obj : Nat) : Bool :=
  s.ops.any fun o => match o.kind with | .rel r => r.obj == obj | _ => false

/-- R242: BIND (log 71, DEDUCED). -/
def execBind (o : Fmt ScopeMod) (s : State) : Host.Outcome State Fault Refusal :=
  s.slot o.pred (do
    let (a, b, c) ← s.sources o
    s.noBounded [a, b, c]
    let n := bits o.imm.toNat 0 4
    let list := b.word
    failIf (decide (list.toNat % 16 ≠ 0)) 4 list
    failIf (decide (s.dataEnd < list.toNat + 16 * n)) 5 (BitVec.ofNat 64 (max list.toNat s.dataEnd))
    let obj ← s.objectOf a.word
    s.scopeCheck o.mod.scope c.word
    s.spadEcc [list] (16 * n)
    let s := if n = 0 then s else s.watchAll false false [(list.toNat, 16 * n)]
    let rs := (List.range n).map fun k => s.rangeEntry list.toNat k
    match rs.find? fun r => decide (r.2.toNat % 4 ≠ 0 ∨ r.2.toNat < 4 ∨ r.1.toNat % 4 ≠ 0) with
    | some r => .error (.trap 51 r.1)
    | none => do
      let ls ← s.rangeLeaves rs
      match ls.find? fun p => decide (p.2.1 ≠ p.2.2) ||
        !(p.2.1.cls == 0 || (p.2.1.cls == 2 && o.mod.scope == .domain)) with
      | some p => .error (.trap 51 p.1.1)
      | none =>
        if s.relOpen obj then .error (.park .none)
        else
          let ranges := ls.map fun p =>
            (p.2.1.paOf p.1.1.toNat, p.1.2.toNat, if p.2.1.cls = 2 then some p.2.1.rdev else none)
          .ok (s.setSync obj ⟨true, o.mod.scope, if o.mod.scope == .rect then c.word else 0, ranges, 0⟩))

/-- R244: ACQ parks until SEQ has reached the target. -/
def execAcq (o : Fmt Unit) (s : State) : Host.Outcome State Fault Refusal :=
  s.slot o.pred (do
    let (a, b, _) ← s.sources o
    s.noBounded [a, b]
    let obj ← s.objectOf a.word
    let x := s.sync obj
    failIf (!x.bound) 51 a.word
    failIf (x.scope == .rect && !rectHolds x.rect s.cur.core) 51 x.rect
    if (x.seq - b.val.setWidth 32).toNat < 2 ^ 31 then .ok s else .error (.park .none))

/-- R243: REL. -/
def execRel (o : Fmt Unit) (s : State) : Host.Outcome State Fault Refusal :=
  s.slot o.pred (do
    let (a, _, _) ← s.sources o
    s.noBounded [a]
    let obj ← s.objectOf a.word
    failIf (!(s.sync obj).bound) 51 a.word
    .ok (s.start o.d (.rel ⟨obj, .acks, ⟨s.opsOf OpKind.isStore, 0, 0⟩, 0, [], 0⟩)))

/-- R245: FENCE: what it drains leaves at once, and the thread waits for the rest after its group. -/
def execFence (o : Fmt ScopeMod) (s : State) : Host.Outcome State Fault Refusal :=
  s.slot o.pred (do
    let (a, _, _) ← s.sources o
    s.noBounded [a]
    s.scopeCheck o.mod.scope a.word
    let (s, w) := s.beginFence (levelOf o.mod.scope a.word)
    .ok (s.setTh { s.th with wait := .fence w .nothing }))

/-! ## Bank scope (R240, R246) -/

/-- R240: a well-formed bank word. -/
def bankWordOk (w : Word) : Bool :=
  let n := w.toNat
  let kind := bits n 30 2
  decide (n < 2 ^ 32) && kind != 3 && bits n 12 18 == 0 && bits n 6 2 == 0 && decide (bits n 8 4 < 12)
    && (kind != 2 || bits n 8 4 == 0) && (kind == 0 || bits n 0 6 == 0)

/-- R240: the pseudo-channels that a bank word covers. -/
def bankWordHolds (w : Word) (pch : Nat) : Bool :=
  let n := w.toNat
  match bits n 30 2 with
  | 0 => pch == bits n 8 4 * 64 + bits n 0 6
  | 1 => pch / 64 == bits n 8 4
  | _ => true

/-- The pseudo-channel of a bank command. -/
def State.commandPch (s : State) (k : OpKind) : Option Nat :=
  match k with
  | .stack c _ => some (s.pchOf c.pa)
  | .bank c => some (s.pchOf c.pa)
  | _ => none

/-- The bank commands of a thread that have not completed, for the pseudo-channels that are asked for. -/
def State.bankPending (s : State) (t : ThreadId) (sel : Nat → Bool) : List Nat :=
  (s.ops.filter fun o => decide (o.owner = t) && (match s.commandPch o.kind with | some p => sel p | none => false)).map (·.id)

/-- R246: BFENCE (log 67, DEDUCED). -/
def execBfence (o : Fmt Unit) (s : State) : Host.Outcome State Fault Refusal :=
  s.slot o.pred (do
    let (a, _, _) ← s.sources o
    s.noBounded [a]
    failIf (!bankWordOk a.word) 51 a.word
    if (s.bankPending s.cur (bankWordHolds a.word)).isEmpty then .ok s else .error (.park .none))

/-! ## Barriers (R248-R250) -/

/-- The object of a domain barrier (R377) among the barrier objects of the model. -/
def domainObject (id : Nat) : Nat := 8192 + id

/-- R248, R306, R377: the object and the count of a barrier id; none where the count is 0, and of a device barrier for a cox core (log
124, DESIGN CHOICE). -/
def State.barrierOf (s : State) (t : ThreadId) (v : Word) : Option (Nat × Nat) :=
  let id := v.toNat
  if id < 16 then
    (s.taskOf t.core t.ctx).bind fun k => ((k.barriers.find? fun p => p.1 == id).map (·.2)).bind fun obj =>
      if (s.barrier obj).count = 0 then none else some (obj, (s.barrier obj).count)
  else if 512 ≤ id ∧ id < 4096 then
    let n := (SMap.get (0 : BitVec 32) s.dbarcnt (id - 512)).toNat
    if n = 0 then none else some (domainObject id, n)
  else none

/-- R249: the fence of an arrival; the group commits once the arrival has counted. -/
def State.beginArrival (s : State) (id : Word) (reduce : Option (BarrOp × BitVec 8)) (payload : Word) (dest : Reg) :
    Except Stop State :=
  let (s, w) := s.beginFence 2
  let obj := match s.barrierOf s.cur id with | some p => p.1 | none => 0
  .error (.hand (s.setTh { s.th with wait := .arrive w ⟨id.toNat, obj, reduce, payload, dest⟩, verdict := some .waiting }))

/-- R249: BAR waits for the phase to end, after its group. -/
def execBar (o : Fmt Unit) (s : State) : Host.Outcome State Fault Refusal :=
  s.slot o.pred (match s.th.verdict, s.th.wait with
    | some (.pass p), .arrive _ x => .ok (s.setTh { s.th with wait := .barrier x.obj (p.setWidth 32) })
    | some (.trap c v), _ => .error (.trap c v)
    | _, _ => do
      let (a, _, _) ← s.sources o
      s.noBounded [a]
      s.beginArrival a.word none 0 .none)

/-- R249: BARA; the phase lands at the next group. -/
def execBara (o : Fmt Unit) (s : State) : Host.Outcome State Fault Refusal :=
  s.slot o.pred (match s.th.verdict with
    | some (.pass p) => .ok (s.land o.d (p.setWidth 256) false 1)
    | some (.trap c v) => .error (.trap c v)
    | _ => do
      let (a, _, _) ← s.sources o
      s.noBounded [a]
      s.beginArrival a.word none 0 .none)

/-- R249: BARW parks until the phase has passed a value. -/
def execBarw (o : Fmt Unit) (s : State) : Host.Outcome State Fault Refusal :=
  s.slot o.pred (do
    let (a, b, _) ← s.sources o
    s.noBounded [a, b]
    match s.barrierOf s.cur a.word with
    | none => .error (.trap 55 a.word)
    | some (obj, _) =>
      let d := ((s.barrier obj).phase - b.val.setWidth 32).toNat
      if 1 ≤ d ∧ d < 2 ^ 31 then .ok s else .error (.park .none))

/-- R250: BARR; its register is pending from its arrival on. -/
def execBarr (o : Fmt BarrMod) (s : State) : Host.Outcome State Fault Refusal :=
  s.slot o.pred (match s.th.verdict with
    | some (.pass _) => .ok s
    | some (.trap c v) => .error (.trap c v)
    | _ => do
      let (a, b, _) ← s.sources o
      s.noBounded [a, b]
      s.beginArrival a.word (some (o.mod.op, o.mod.l)) b.word o.d)

/-- R250: what the payloads of a phase combine to: none is an FX128 overflow. -/
def combineAll (op : BarrOp) (l : BitVec 8) (ps : List Word) : Option Word :=
  match op with
  | .add => some (ps.foldl (· + ·) 0)
  | .min => match ps with
    | [] => some 0
    | p :: r => some (r.foldl (fun a b => if b.toInt < a.toInt then b else a) p)
  | .max => match ps with
    | [] => some 0
    | p :: r => some (r.foldl (fun a b => if a.toInt < b.toInt then b else a) p)
  | .fmin => some (BitVec.ofNat 64 (ps.foldl (fun a b => (floatPick .fp64 false a b.toNat).1) fp64.nanCode))
  | .fmax => some (BitVec.ofNat 64 (ps.foldl (fun a b => (floatPick .fp64 true a b.toNat).1) fp64.nanCode))
  | .fsum =>
    let n := ps.foldl (fun a p => a + (toFX 128 l.toInt (fp64.decode p.toNat)).getD 0) 0
    if n < intMin true 128 ∨ intMax true 128 < n then none
    else some (BitVec.ofNat 64 (fp64.round .rne (fromFX n l.toInt)).1)

/-- R249, R250: the open phase of an object completes: a new one begins, and the BARRs of it resolve. Reported arrivals beyond
the count belong to the new phase, with what they brought. -/
def State.completePhase (s : State) (obj left : Nat) : State :=
  let b := s.barrier obj
  let rest := b.reported.drop (b.reported.length - left)
  let result := match b.kind with
    | .reduce op l => combineAll op l (b.payloads ++ b.reported.take (b.reported.length - left))
    | _ => some 0
  let done := s.ops.filter fun o => match o.kind with | .barr x p => x == obj && p == b.phase | _ => false
  let s := s.setBarrier obj { b with
    phase := b.phase + 1
    arrived := 0
    kind := if left = 0 then .empty else b.kind
    payloads := []
    reported := rest
    opened := if left = 0 then 0 else s.cycle
    recorded := false
    part := if left = 0 then b.part else 16 }
  done.foldl (fun s o => match result with
    | some v => s.resolve o (v.setWidth 256) false .present
    | none => s.resolveFault o 30 0) s

/-- R250: does an arrival break the rules of the open phase? -/
def phaseClash (k : PhaseKind) (r : Option (BarrOp × BitVec 8)) : Bool :=
  match k, r with
  | .empty, _ => false
  | .plain, none => false
  | .reduce op l, some (op', l') => op != op' || l != l'
  | _, _ => true

/-- R250: the kind of a phase that an arrival opens. -/
def phaseKind (r : Option (BarrOp × BitVec 8)) : PhaseKind := match r with | some (op, l) => .reduce op l | none => .plain

/-- The number of a domain's arrivals that a device knows of: its own and those reported to it (R377). -/
def State.arrivals (s : State) (obj id : Nat) : Nat :=
  (s.barrier obj).arrived + (if id < 512 then 0 else SMap.get 0 s.domReports id)

/-- R249, R377: a phase is complete when all its arrivals are in; that of a domain barrier completes on device 0. -/
def State.completeIfFull (s : State) (obj id count : Nat) : State :=
  if s.arrivals obj id < count ∨ (512 ≤ id ∧ s.dev ≠ 0) then s
  else
    let left := s.arrivals obj id - count
    { (s.completePhase obj left) with domReports := if id < 512 then s.domReports else SMap.set 0 s.domReports id left }

/-- The record of a phase that has waited too long (R358). -/
def State.ageRecord (s : State) (obj : Nat) : State :=
  let b := s.barrier obj
  s.record (50000 + obj / 4096 % 2) b.part b.ctx false 0x35
    [(288, b.phase.toNat), (272, b.count % 2 ^ 16), (256, s.arrivals obj b.id % 2 ^ 16), (240, b.id),
     (48, if obj < 8192 then obj / 4096 else 0)]

/-- R3: clk in a number of microseconds. -/
def clkOf (us : Nat) : Nat := 1900 * us

/-- R251: does the open phase stand at its age limit, its one record unwritten? -/
def State.tooOld (s : State) (obj : Nat) : Bool :=
  let b := s.barrier obj
  let age := s.barage.toNat % 2 ^ 32
  age != 0 && !b.recorded && s.arrivals obj b.id != 0 && decide (clkOf age ≤ s.cycle.toNat - b.opened.toNat)

/-- R251: an open phase that has reached AGE has its record, at the latest before the phase or AGE changes. -/
def State.tellAge (s : State) (obj : Nat) : State :=
  if s.tooOld obj then (s.ageRecord obj).setBarrier obj { s.barrier obj with recorded := true } else s

/-- R249, R250: after its fence, an arrival is judged and counts at its object; one of a group whose other slot traps does not count
(R22). -/
def execBarrierArrive (t : ThreadId) (s : State) : Host.Outcome State Fault Refusal :=
  let th := s.thread t
  match th.wait, th.verdict with
  | .arrive w a, some .waiting =>
    if !s.fenceDone w then .next s
    else
      let answer := fun (s : State) (v : Verdict) => s.setThread t { s.thread t with verdict := some v }
      let id : Word := BitVec.ofNat 64 a.id
      match s.barrierOf t id with
      | none => .next (answer s (.trap 55 id))
      | some (obj, count) =>
        let b := s.barrier obj
        let sum := match a.reduce with
          | some (.fsum, l) => (toFX 128 l.toInt (fp64.decode a.payload.toNat)).isSome
          | _ => true
        if !sum then .next (answer s (.trap 30 a.payload))
        else if phaseClash b.kind a.reduce then .next (answer s (.trap 55 id))
        else if th.doomed then .next (answer s (.pass 0))
        else
          let s := s.tellAge obj
          let b := s.barrier obj
          let first := s.arrivals obj a.id == 0
          let b' := { b with
            id := a.id
            count := count
            arrived := b.arrived + 1
            kind := phaseKind a.reduce
            payloads := match a.reduce with | some _ => b.payloads ++ [a.payload] | none => b.payloads
            opened := if first then s.cycle else b.opened
            part := if b.arrived = 0 then s.partOf t.core else b.part
            ctx := if b.arrived = 0 then t.ctx else b.ctx }
          let s := (s.setBarrier obj b').setThread t { th with wait := .arrive w { a with obj := obj } }
          let s := if a.reduce.isSome then
              (s.addOpOf t (some a.dest) (.barr obj b.phase)).writeReg t a.dest 0 false .pending
            else s
          .next ((answer s (.pass (b.phase.setWidth 64))).completeIfFull obj a.id count)
  | _, _ => .next s

/-- R251: the record of an open phase that has reached AGE. -/
def execBarrierAgeRecord (obj : Nat) (s : State) : Host.Outcome State Fault Refusal :=
  .next (s.tellAge obj)

/-- R251: a write to BARAGE; the phases that have reached the old AGE have their records. -/
def execBarageWrite (value : Word) (s : State) : Host.Outcome State Fault Refusal :=
  .next { s.barriers.foldl (fun (t : State) p => t.tellAge p.1) s with barage := BitVec.ofNat 64 (value.toNat % 2 ^ 32) }

/-- R249, R250, R377: one arrival that a device below reports, with its payload: it counts at this device's object as an
arrival here does, and one that breaks the rules of the open phase does not count. Until a thread of this device arrives, the
phase belongs to no partition here (number 16; log 97, DEDUCED). -/
def State.reportOne (s : State) (id count : Nat) (reduce : Option (BarrOp × BitVec 8)) (payload : Option Word) : State :=
  let obj := domainObject id
  let b := s.barrier obj
  if phaseClash b.kind reduce then s
  else
    let s := s.tellAge obj
    let b := s.barrier obj
    let first := s.arrivals obj id == 0
    let s := s.setBarrier obj { b with
      id := id
      count := count
      kind := phaseKind reduce
      reported := b.reported ++ (if reduce.isSome then payload.toList else [])
      opened := if first then s.cycle else b.opened
      part := if first then 16 else b.part }
    let s := { s with domReports := SMap.set 0 s.domReports id (SMap.get 0 s.domReports id + 1) }
    if count = 0 then s else s.completeIfFull obj id count

/-- R377: the arrivals that a device below reports, one after the other. -/
def State.reportAll (s : State) (id count : Nat) (reduce : Option (BarrOp × BitVec 8)) (payloads : List Word) : Nat → State
  | 0 => s
  | n + 1 => (s.reportOne id count reduce payloads.head?).reportAll id count reduce payloads.tail n

/-- R377: a device below reports its arrivals, with the payloads they bring; device 0 completes the phase. -/
def execDomainBarrierReport (id : Nat) (arrivals : Nat) (reduce : Option (BarrOp × BitVec 8)) (payloads : List Word)
    (s : State) : Host.Outcome State Fault Refusal :=
  if id < 512 ∨ 4096 ≤ id then .next s
  else .next (s.reportAll id (SMap.get (0 : BitVec 32) s.dbarcnt (id - 512)).toNat reduce payloads arrivals)

/-- R377: device 0 sends the completed phase down the tree, with its payloads; every waiter here sees it (log 28, DEDUCED). -/
def execDomainBarrierComplete (id : Nat) (payloads : List Word) (s : State) : Host.Outcome State Fault Refusal :=
  if id < 512 ∨ 4096 ≤ id ∨ s.dev = 0 then .next s
  else
    let obj := domainObject id
    let s := s.tellAge obj
    let s := s.setBarrier obj { s.barrier obj with payloads := payloads, reported := [] }
    .next { (s.completePhase obj 0) with domReports := SMap.set 0 s.domReports id 0 }

/-! ## REL (R243, R376) -/

/-- The entries whose key lies in an object's ranges on this device. -/
def inRanges (x : SyncObject) (e : RunEntry) : Bool :=
  x.ranges.any fun r => r.2.2.isNone && decide (r.1 ≤ e.key * 4 ∧ e.key * 4 < r.1 + r.2.1)

/-- The devices that hold a bound range, each once. -/
def remoteDevices (x : SyncObject) : List Nat := (x.ranges.filterMap fun r => r.2.2).eraseDups

/-- R356: no path to a device for a release flag. -/
def State.noPath (s : State) (o : Op) (rdev : Nat) : State :=
  s.unitError (s.partOf o.core) o.ctx 8 6 o.core 0 rdev o.pc.toNat 0 o.thr 0

/-- R243: SEQ counts. -/
def State.countSeq (s : State) (obj : Nat) : State :=
  let x := s.sync obj
  s.setSync obj { x with seq := x.seq + 1 }

/-- R376: the number that a thread's next flag to a device carries. -/
def State.nextFlag (s : State) (t : ThreadId) (rdev : Nat) : State × BitVec 32 :=
  let th := s.thread t
  let n := SMap.get (0 : BitVec 32) th.relSeq rdev + 1
  (s.setThread t { th with relSeq := SMap.set 0 th.relSeq rdev n }, n)

/-- R376: the flags to every device of a list. -/
def State.sendFlags (s : State) (t : ThreadId) : List Nat → State × List (Nat × BitVec 32)
  | [] => (s, [])
  | d :: r =>
    let (s, n) := s.nextFlag t d
    let (s, l) := s.sendFlags t r
    (s, (d, n) :: l)

/-- R243: the moves of a release, once its acknowledgements stand. -/
def State.relMoves (s : State) (o : Op) (r : RelOp) : State :=
  let x := s.sync r.obj
  let level := levelOf x.scope x.rect
  let (s, w, n) :=
    if level = 0 then (s, (⟨[], 0, 0⟩ : FenceWait), 0)
    else
      let (t, n) := s.drain o.core o.ctx (level = 2) (inRanges x)
      (t, if level = 2 || isCox o.core then t.pathWait o.core [] else ⟨[], 0, 0⟩, n)
  s.setOp { o with kind := .rel { r with stage := .moves, wait := w, count := n } }

/-- R376: a release ends without a path to a device; the record of a flag that could not be delivered. -/
def State.loseRel (s : State) (o : Op) (bound : Bool) (rdev count : Nat) : State :=
  (if bound then s.noPath o rdev else s).resolveStatus o stLinkDown count

/-- The devices that a release sends its flags to (R376). -/
def State.flagDevices (s : State) (r : RelOp) : List Nat :=
  let x := s.sync r.obj
  if x.scope = .domain then remoteDevices x else []

/-- R243: a REL of the same thread on the same object was issued before. -/
def State.relEarlier (s : State) (o : Op) (r : RelOp) : Bool :=
  s.ops.any fun p => decide (p.id < o.id) && decide (p.owner = o.owner) && (match p.kind with
    | .rel q => q.obj == r.obj
    | _ => false)

/-- R243: the moves of another REL on the object were complete before, and it has not counted. -/
def State.relAhead (s : State) (r : RelOp) : Bool :=
  s.ops.any fun p => match p.kind with
    | .rel q => q.obj == r.obj && q.stage == .flags && decide (q.moved < r.moved)
    | _ => false

/-- R243, R376: a REL goes on: its moves; then the flags to other devices, and, once every flag is acknowledged, the count of
SEQ. Without flags SEQ counts where the moves are complete. The RELs of one thread on one object count in issue order, those
of different threads in the order in which their moves complete. -/
def execRelCount (op : Nat) (s : State) : Host.Outcome State Fault Refusal :=
  match s.op op with
  | some o => match o.kind with
    | .rel r =>
      let devices := s.flagDevices r
      match r.stage with
      | .acks =>
        if s.fenceDone r.wait then .next (if s.relEarlier o r || s.moveWaits o.core o.ctx o.id then s else s.relMoves o r)
        else match s.lostAck r.wait with
          | some d => .next (s.loseRel o (devices.contains d) d 0)
          | none => .next s
      | .moves =>
        if !s.fenceDone r.wait then .next s
        else if devices.isEmpty then .next ((s.countSeq r.obj).resolveStatus o stOk r.count)
        else
          let (s, flags) := s.sendFlags o.owner devices
          .next (s.setOp { o with kind := .rel { r with stage := .flags, flags := flags, moved := s.tick } })
      | .flags => match r.flags.find? fun f => !s.pathTo f.1 with
        | some f => .next (s.loseRel o true f.1 r.count)
        | none => .next (if r.flags.isEmpty && !s.relAhead r then (s.countSeq r.obj).resolveStatus o stOk r.count else s)
    | _ => .next s
  | none => .next s

/-- R243: the first release whose moves are complete: it counts, or sends its flags, before anything else happens. -/
def State.dueRel (s : State) : Option Nat :=
  (s.ops.find? fun o => match o.kind with
    | .rel r => r.stage == .moves && s.fenceDone r.wait
    | _ => false).map (·.id)

end Sys2Proof.Machine
end

