-- ==== Sys2Proof/Machine/Copy.lean ====
section
/-!
DEFINITION. Pinned handles (05 R85, R86) and the copy engines (06): the COPY family, COPY_TRANSFER and COPY_RESOLVE.
-/
namespace Sys2Proof.Machine

/-! ## Handles (R85, R89) -/

/-- Where the table's entry for a reference lies, in a partition context, and the entry; a table that lies outside the HBM reads as
zeros, V = 0, and one in the linear zone like one of the interleaved zone (log 100, DESIGN CHOICE). -/
def State.handlePlace (s : State) (part : Nat) (ctx : Bool) (w : Word) : Nat :=
  bits (s.pctx part ctx).htbase.toNat 4 36 * 16 + 16 * handleIdx w
def State.handleEntry (s : State) (part : Nat) (ctx : Bool) (w : Word) : BitVec 128 :=
  BitVec.ofNat 128 (s.dramNat (s.handlePlace part ctx w) 16)

/-- R85: V = 1 and a legal encoding. -/
def State.entryLegal (s : State) (e : BitVec 128) : Bool :=
  heV e && bits e.toNat 97 31 == 0 && heCls e != 3 && decide (hePol e ≤ 1)
    && (if heCls e == 2 then heRdev e != s.dev else heRdev e == 0)
    && decide (1 ≤ heLen e ∧ heLen e ≤ 2 ^ 40 ∧ heBase e % 64 = 0)
    && (heCls e != 0 || decide (heBase e + heLen e ≤ s.zi))
    && (heCls e != 1 || decide (s.zi ≤ heBase e ∧ heBase e + heLen e ≤ hbmEnd))

/-- R85: a handle reference resolved; none is cause 53. -/
def State.resolveHandle (s : State) (part : Nat) (ctx : Bool) (w : Word) : Option (BitVec 128) :=
  let e := s.handleEntry part ctx w
  if handleIdx w < (s.pctx part ctx).htcount.toNat % 2 ^ 17 ∧ s.entryLegal e = true then some e else none

/-- R295: the place of a reference's entry lies behind a reserved pseudo-channel, where nothing reads it. -/
def State.entryHeld (s : State) (part : Nat) (ctx : Bool) (w : Word) : Bool := s.reserved (s.handlePlace part ctx w) 16

/-- The entry of a reference is read by the current thread, with its codeword (R82), where it can be read (R295). -/
def State.touchHandle (s : State) (w : Word) : State :=
  let part := s.partOf s.cur.core
  if s.entryHeld part s.cur.ctx w then s else s.eccFor (s.reader 0) (s.handlePlace part s.cur.ctx w) 16

/-- The handle check of R93 for the current thread; a table behind a reserved pseudo-channel keeps the group waiting (R295). -/
def State.handleCheck (s : State) (w : Word) (write : Bool) : Except Stop (BitVec 128) :=
  if s.entryHeld (s.partOf s.cur.core) s.cur.ctx w then .error (.park .none)
  else match s.resolveHandle (s.partOf s.cur.core) s.cur.ctx w with
  | some e => if (if write then heWr e else heRd e) then .ok e else .error (.trap 53 w)
  | none => .error (.trap 53 w)

/-- R86: V of a handle as it stands now. -/
def State.handleLive (s : State) (part : Nat) (ctx : Bool) (w : Word) : Bool := heV (s.handleEntry part ctx w)

/-- R97: the tag of a block as a copy engine reads it: a slice's entry lands in the block as a write-back would leave it. -/
def State.viewTag (s : State) (pa : Nat) : BitVec 16 :=
  let t := s.blockTag pa
  if s.interleaved pa && (tagZero t || tagConst t)
    && (List.range 16).any fun i => (s.coveringKey (pa / 64 * 64 + 4 * i)).isSome then storeTag t false else t

/-- R94: a byte under a tag: a ZERO or CONST block has no payload but what its tag says. -/
def tagByte (t : BitVec 16) (b : Byte) : Byte :=
  if tagZero t then 0 else if tagConst t then BitVec.ofNat 8 (tagScale t) else b

/-- One byte behind a handle with its block's tag, by PA. What another device holds is free (log 11, DESIGN CHOICE), and so is what an element
that its slice cannot compose reads as (log 32, DESIGN CHOICE). -/
def State.handleRead (s : State) (e : BitVec 128) (pa : Nat) : Byte × BitVec 16 :=
  if heCls e = 2 then
    let t := Config.remoteTag s.tick (pa / 64)
    (tagByte t (Config.remoteByte s.tick pa), t)
  else if heCls e = 0 then ((s.sliceByte pa).getD (Config.undefinedByte pa s.tick), s.viewTag pa)
  else (s.dramByte pa, s.blockTag pa)

/-- R94: one byte of a scratchpad under a tag, which the copy trusts; and under its block's tag. -/
def CoreCtx.copyByte (c : CoreCtx) (tick a : Nat) (t : BitVec 16) : Byte × BitVec 16 :=
  (tagByte t (if tagPoison t then Config.freeByte a tick else c.byte a), t)
def CoreCtx.copyRead (c : CoreCtx) (tick a : Nat) : Byte × BitVec 16 := c.copyByte tick a (c.tag a)

/-! ## Tags (R94) -/

/-- R94: the tag of a destination block; part of a block of a MERGE page follows the partial store of R81, and one of a BANK page
R94 (log 92, DEDUCED). -/
def copyTag (whole elide merge : Bool) (old : BitVec 16) (srcs : List (BitVec 16)) : BitVec 16 :=
  if srcs.any tagPoison then poisonTag
  else if whole then (if elide then zeroTag else srcs.headD 0)
  else if merge then storeTag old (srcs.any tagB)
  else if tagPoison old then old
  else mkTag (tagB old || srcs.any tagB) 0 0

/-- The blocks that a copy has filled in part, by destination block: the source block and the bytes. -/
abbrev Fills := List (Nat × Option Nat × Nat)

/-- R94: some bytes of a destination block come from a source address: the block as it is fed now, and whether it is whole.
A block that several rows fill from one source block counts like one that a single transfer fills; another source block begins
it anew, whether its bytes come at once or word by word. -/
def noteFill (fills : Fills) (lo n src : Nat) : Fills × Bool :=
  let d := lo / 64
  let one := decide (src % 64 = lo % 64) && decide (src % 64 + n ≤ 64)
  let mask := (2 ^ n - 1) * 2 ^ (lo % 64)
  let full := 2 ^ 64 - 1
  let new : Option Nat × Nat :=
    if one then match fills.find? fun f => f.1 == d with
      | some (_, from_, m) => (some (src / 64), if from_ == some (src / 64) then m ||| mask else mask)
      | none => (some (src / 64), mask)
    else (none, 0)
  ((d, new) :: fills.filter fun f => f.1 != d, new.1.isSome && new.2 == full)

/-- The pieces of bytes that go to a destination address from a source address, block by block. -/
def piecesOf (dst src : Nat) (l : List (Byte × BitVec 16)) (fills : Fills) : List Piece × Fills :=
  (blocksOf dst l.length).foldl (fun (p : List Piece × Fills) b =>
    let lo := max dst b
    let hi := min (dst + l.length) (b + 64)
    let got := (l.drop (lo - dst)).take (hi - lo)
    let (fills, whole) := noteFill p.2 lo (hi - lo) (src + (lo - dst))
    (p.1 ++ [⟨lo, got.map (·.1), (got.map (·.2)).eraseDups, whole⟩], fills)) ([], fills)

/-- The pieces of a swizzled line: a block that they cover is whole, with the line's tag. -/
def linePieces (dst : Nat) (l : List Byte) (tag : BitVec 16) : List Piece :=
  (piecesOf dst dst (l.map fun b => (b, tag)) []).1

/-- A piece into scratchpad: a ZERO or CONST source is materialised. -/
def CoreCtx.putPiece (c : CoreCtx) (p : Piece) : CoreCtx :=
  let t := copyTag p.whole false false (c.tag p.lo) p.tags
  let c := (p.bytes.zipIdx).foldl (fun (k : CoreCtx) q => k.setByte (p.lo + q.2) q.1) c
  (c.setTag p.lo t).heal p.lo p.bytes.length

/-- A piece into memory behind a handle: a whole ZERO or CONST block is not stored, and neither is one that the handle's
policy elides (R94). -/
def State.putPiece (s : State) (elide merge : Bool) (p : Piece) : State :=
  let old := s.blockTag p.lo
  let s := ((s.materialise p.lo).putBytes p.lo p.bytes).setBlockTag p.lo (copyTag false false merge old p.tags)
  if !p.whole then s
  else
    let block := p.lo / 64 * 64
    let zero := elide && !p.tags.any tagB && !p.tags.any (fun t => tagZero t || tagConst t)
      && (List.range 64).all fun i => SMap.get 0 s.hbm (block + i) == 0
    s.setBlockTag p.lo (copyTag true zero merge old p.tags)

/-! ## A copy in flight (R87, R92) -/

/-- R88: a copy that resolves BOUNDS at issue takes no entry of the copy table. -/
def CopyOp.entered (c : CopyOp) : Bool := !(c.status == some stBounds && decide (c.fn ≤ 1))

def copyOf : OpKind → Option CopyOp
  | .copy c => some c
  | _ => none

/-- R102: the place in a bank line of byte i of a line of a row; the placement is its own inverse. -/
def swizzle (row i : Nat) : Nat := (i / 8 ^^^ row % 32) * 8 + i % 8

/-- R87: the size of a transfer at a handle-side address, in a row with some bytes left (log 33, DEDUCED). -/
def transferSize (at_ left : Nat) : Nat := min (256 - at_ % 256) left

/-- R87: the size of the transfer in progress. CPYR has no handle side: its transfers end at the 256-byte boundaries of its
source (log 33, DEDUCED). A swizzled line that lies across a boundary of the handle side is two transfers. -/
def CopyOp.size (c : CopyOp) : Nat :=
  let b := c.next % c.length
  if c.fn = 4 then transferSize (c.list + c.next) (c.length - b)
  else transferSize c.pa (if c.swz then 256 - b % 256 else c.length - b)

/-- R94: the tag of a swizzled line, by its source blocks; one POISON block makes the whole line POISON, and a line that is
not a whole number of source blocks has no tag of its own (log 91, DESIGN CHOICE). -/
def lineTag (aligned : Bool) (tags : List (BitVec 16)) : BitVec 16 :=
  if tags.any tagPoison then poisonTag
  else match tags with
    | [] => rawTag
    | t :: r => if aligned && r.all (· == t) then t else mkTag (tags.any tagB) 0 0

/-- The cores that CPYR writes (R92). -/
def copyTargets (core mask : Nat) : List Nat :=
  ((List.range 8).filter fun t => mask.testBit t).map fun t =>
    if isCox core then 2048 + 8 * coxStack core + t else clusterCore (clusterOf core) t

/-- Pieces into the scratchpad of a core's context. -/
def State.spadPieces (s : State) (core : Nat) (ctx : Bool) (l : List Piece) : State :=
  s.setCoreCtx core ctx (l.foldl CoreCtx.putPiece (s.coreCtx core ctx))

/-- R97: pieces into memory, at one point: those of the interleaved zone commit at their slices. -/
def State.memoryPieces (s : State) (r : Reader) (merge elide : Bool) (l : List Piece) : State :=
  let s := s.eccAllFor r (l.map fun p => (p.lo, p.bytes.length))
  let s := if merge then l.foldl (fun (t : State) p => t.sliceWrite p.lo p.bytes) s else s
  l.foldl (fun (t : State) p => t.putPiece elide merge p) s

/-- The same behind a handle; nothing of another device's memory stands here. -/
def State.handlePieces (s : State) (r : Reader) (e : BitVec 128) (elide : Bool) (l : List Piece) : State :=
  if heCls e = 2 then s else s.memoryPieces r (heCls e == 0) elide l

/-- R95: the offset of the first poisoned source block, where none was found before: bytes of the copy from an offset on, read from
a source address on. A block that is found bad once its first words are read counts from where it, or its row, begins. -/
def CopyOp.mark (c : CopyOp) (l : List (Byte × BitVec 16)) (at_ src : Nat) : CopyOp :=
  { c with poison := c.poison.orElse fun _ => ((List.range l.length).find? fun i =>
      match l[i]? with | some p => tagPoison p.2 | none => false).map fun i =>
        at_ + i - min ((src + i) % 64) ((at_ + i) % c.length) }

/-- The transfer in progress is done. -/
def CopyOp.advance (c : CopyOp) (n : Nat) : CopyOp := { c with next := c.next + n, buf := [], done := 0 }

/-- R95: the offset of the first poisoned source block of a swizzled line, also of one that is found bad once its words are read. -/
def CopyOp.markLine (c : CopyOp) (tags : List (BitVec 16)) : CopyOp :=
  { c with poison := c.poison.orElse fun _ => ((List.range 256).find? fun i =>
      tagPoison (tags.getD (swizzle (c.next / c.length) i / 64) rawTag)).map (c.next - c.next % c.length % 256 + ·) }

/-- R92: CPYR moves some words to its targets, in ascending order, each read and landed at all of them at once (log 107, DESIGN
CHOICE). -/
def State.copySpread (s : State) (o : Op) (c : CopyOp) : State :=
  let n := s.someWords (c.size - c.done)
  let src := c.list + c.next + c.done
  let s := s.spadScrubFor (o.reader 0) o.core o.ctx src n
  let cc := s.coreCtx o.core o.ctx
  let l := (List.range n).map fun i => cc.copyRead s.tick (src + i)
  let (ps, fills) := piecesOf (c.spadAt + c.done) src l c.fills
  let s := (copyTargets o.core c.mask).foldl (fun (t : State) k => t.spadPieces k o.ctx ps) s
  let c' := { c.mark l (c.next + c.done) src with done := c.done + n, fills := fills }
  s.setOp { o with kind := .copy (if c'.done = c.size then c'.advance c.size else c') }

/-- R102: where byte i of a transfer lies on the scratchpad side of a copy. -/
def CopyOp.placed (c : CopyOp) (i : Nat) : Nat :=
  if c.swz then
    let b := c.next % c.length + i
    c.spad + c.next / c.length * c.pitch + b / 256 * 256 + swizzle (c.next / c.length) (b % 256)
  else c.spadAt + i

/-- The start of the line of a swizzled transfer, on the scratchpad side and on the handle side. -/
def CopyOp.spadLine (c : CopyOp) : Nat := c.spadAt - c.next % c.length % 256
def CopyOp.handleLine (c : CopyOp) : Nat := c.pa - c.next % c.length % 256
/-- A transfer that begins a line, and one that ends it: a line that lies across a boundary is two (log 33, DEDUCED). -/
def CopyOp.lineStart (c : CopyOp) : Bool := c.next % c.length % 256 == 0
def CopyOp.lineEnd (c : CopyOp) : Bool := (c.next % c.length + c.size) % 256 == 0

/-- R285, R295: the transfer in progress cannot be made at its pseudo-channel now. -/
def State.copyHeld (s : State) (c : CopyOp) : Bool :=
  if c.linear then !s.pchOpen (s.pchOf c.pa) else c.fn != 4 && !c.remote && s.reserved c.pa c.size

/-- R94: the tags of the four blocks of an outward swizzled line, read once at its start; a block found bad since is POISON. -/
def CopyOp.outTags (c : CopyOp) (cc : CoreCtx) : List (BitVec 16) :=
  let now := if c.swz then (List.range 4).map fun i => cc.tag (c.spadLine + 64 * i) else []
  if c.buf.isEmpty && c.lineStart then now
  else (c.lineTags.zip now).map fun p => if tagPoison p.2 then p.2 else p.1

/-- R97: an outward copy reads some words of its transfer, in ascending order (log 107, DESIGN CHOICE), and with the last of them
writes it whole (R94). -/
def State.copyOut (s : State) (o : Op) (c : CopyOp) : State :=
  let size := c.size
  let n := s.someWords (size - c.buf.length)
  let at_ := c.buf.length
  let s := (List.range (n / 8)).foldl (fun (t : State) i => t.spadScrubFor (o.reader 0) o.core o.ctx (c.placed (at_ + 8 * i)) 8) s
  let cc := s.coreCtx o.core o.ctx
  let tags := c.outTags cc
  let l := (List.range n).map fun i =>
    let a := c.placed (at_ + i)
    if c.swz then cc.copyByte s.tick a (tags.getD ((a - c.spadLine) / 64) rawTag) else cc.copyRead s.tick a
  let c := { (if c.swz then c.markLine tags else c.mark l (c.next + at_) (c.placed at_)) with buf := c.buf ++ l, lineTags := tags }
  if c.buf.length < size ∨ s.copyHeld c = true then s.setOp { o with kind := .copy c }
  else
    let (ps, fills) :=
      if c.swz then (linePieces c.pa (c.buf.map (·.1)) (lineTag true tags), c.fills)
      else piecesOf c.pa c.spadAt c.buf c.fills
    (s.handlePieces (o.reader 0) c.entry (hePol c.entry == 1 && !c.swz) ps).setOp
      { o with kind := .copy { c.advance size with fills := fills } }

/-- R94: the tags of an inward swizzled line, as far as it is read, each once. -/
def CopyOp.readTags (c : CopyOp) (l : List (BitVec 16)) : List (BitVec 16) :=
  if c.swz then ((if c.lineStart then [] else c.lineTags) ++ l).eraseDups else []

/-- R94: the tag of a block of an inward swizzled line: by its source blocks once the line is read whole, and until then as part of
a block. -/
def CopyOp.inTag (c : CopyOp) (old : BitVec 16) : BitVec 16 :=
  if c.lineEnd then lineTag (c.handleLine % 64 == 0) c.lineTags else copyTag false false false old c.lineTags

/-- R97: an inward copy reads its transfer with its tags, and writes some words of it, in ascending order (log 107, DESIGN
CHOICE). -/
def State.copyIn (s : State) (o : Op) (c : CopyOp) : State :=
  let size := c.size
  let s := if c.buf.isEmpty && heCls c.entry != 2 then s.eccFor (o.reader 0) c.pa size else s
  let c := if c.buf.isEmpty then
      let l := (List.range size).map fun i => s.handleRead c.entry (c.pa + i)
      { c.mark l c.next c.pa with buf := l, lineTags := c.readTags (l.map (·.2)) }
    else c
  let n := s.someWords (size - c.done)
  let l := (c.buf.drop c.done).take n
  let (s, fills) :=
    if c.swz then
      let line := c.spadLine
      let cc := s.coreCtx o.core o.ctx
      let cc := (l.zipIdx).foldl (fun (k : CoreCtx) q => k.setByte (c.placed (c.done + q.2)) q.1.1) cc
      let cc := (List.range (n / 8)).foldl (fun (k : CoreCtx) i => k.heal (c.placed (c.done + 8 * i)) 8) cc
      (s.setCoreCtx o.core o.ctx ((List.range 4).foldl (fun (k : CoreCtx) i => k.setTag (line + 64 * i) (c.inTag (k.tag (line + 64 * i)))) cc), c.fills)
    else
      let (ps, fills) := piecesOf (c.spadAt + c.done) (c.pa + c.done) l c.fills
      (s.spadPieces o.core o.ctx ps, fills)
  let c' := { c with done := c.done + n, fills := fills }
  s.setOp { o with kind := .copy (if c'.done = size then c'.advance size else c') }

/-- R92, R94: a transfer goes on. -/
def State.copyMove (s : State) (o : Op) (c : CopyOp) : State :=
  if c.fn = 4 then s.copySpread o c else if c.out then s.copyOut o c else s.copyIn o c

/-! ### Which copy an engine takes (R87) -/

/-- The engine of a core: its cluster's, or its cox stack's (R10). -/
def engineOf (core : Nat) : Nat := sharedCache core
/-- Member w of the cores that an engine serves. -/
def engineCore (engine w : Nat) : Nat := if engine < 256 then clusterCore engine w else 2048 + 8 * (engine - 256) + w
def engineMember (core : Nat) : Nat := if isCox core then coxMember core else coreInCluster core

/-- R87: the copy of a core whose transfers come next: the first in issue order that still moves. -/
def State.coreCopy (s : State) (core : Nat) : Option (Op × CopyOp) :=
  s.ops.findSome? fun p => match copyOf p.kind with
    | some c => if p.core == core && c.moving then some (p, c) else none
    | none => none

/-- A copy waits at the controller of its handle side, with its index read (R285). -/
def State.copyWaits (s : State) (o : Op) (c : CopyOp) : Bool := c.linear && (s.pch (s.pchOf c.pa)).waiting.contains o.id

/-- R92, R93: at the start of a row the engine reads its index, once; an uncorrectable word of the list makes its block
POISON, and the index is what the bytes say (log 93, DESIGN CHOICE). -/
def State.copyRow (s : State) (o : Op) (c : CopyOp) : State × CopyOp :=
  if (c.fn == 2 || c.fn == 3) && c.next % c.length == 0 && !s.copyWaits o c then
    let at_ := c.list + 4 * (c.next / c.length)
    let s := s.spadScrubFor (o.reader 0) o.core o.ctx at_ 4
    (s, { c with index := bytesToNat ((s.coreCtx o.core o.ctx).bytes at_ 4) })
  else (s, c)

/-- A transfer can begin now: one of a BANK page takes its turn at its pseudo-channel (R285). -/
def State.copyReady (s : State) (o : Op) (c : CopyOp) : Bool :=
  if c.linear then s.accessTurn o.id (s.pchOf c.pa) else !s.copyHeld c

/-- R295: the handle's entry, which a copy reads before each transfer (R86), lies behind a reserved pseudo-channel. -/
def State.copyBlind (s : State) (o : Op) (c : CopyOp) : Bool := c.fn != 4 && s.entryHeld (s.partOf o.core) o.ctx c.handle

/-- A copy has something to do now: it goes on with a transfer, stops before its next one, can begin it, or comes to wait at its
controller. -/
def State.copyNext (s : State) (o : Op) (c : CopyOp) : Bool :=
  c.busy || (!s.copyBlind o c && (o.cancelled || (let c := (s.copyRow o c).2
    s.copyReady o c || (c.linear && s.accessHeld o.id (s.pchOf c.pa) && !s.copyWaits o c))))

/-- R87: what an engine goes on with: the transfer in progress, or the next transfer of the next of its cores, round robin,
that has a copy to move. The transfers of one engine do not overlap, so that nothing lands behind the count of a copy that stops
(log 106, DESIGN CHOICE). -/
def State.engineNext (s : State) (engine : Nat) : Option Op :=
  let heads := (List.range 8).filterMap fun i =>
    s.coreCopy (engineCore engine (((s.cluster engine).copyLast + 1 + i) % 8))
  match heads.find? fun p => p.2.busy with
  | some p => some p.1
  | none => (heads.find? fun p => s.copyNext p.1 p.2).map (·.1)

/-- A copy ends early. -/
def State.copyStop (s : State) (o : Op) (c : CopyOp) (code : Nat) : State :=
  s.setOp { o with kind := .copy { c with status := some code } }

/-- R93: the row in progress breaks R89, which is judged at its start. -/
def CopyOp.rowBounds (c : CopyOp) : Bool :=
  (c.fn == 2 || c.fn == 3) && c.next % c.length == 0
    && decide (heLen c.entry < c.rowOff + c.length ∨ handleOff c.handle % 8 ≠ 0)

/-- R285: the copy comes to wait at its controller; when it begins the transfer it waits no more. -/
def State.copyArrive (s : State) (o : Op) (c : CopyOp) : State :=
  let n := s.pchOf c.pa
  if c.linear && s.accessHeld o.id n && !s.copyWaits o c then
    s.setPch n { s.pch n with waiting := s.waitingLine n ++ [o.id] }
  else s
def State.copyLeave (s : State) (o : Op) (c : CopyOp) : State :=
  let n := s.pchOf c.pa
  if c.linear then s.setPch n { s.pch n with waiting := (s.pch n).waiting.filter fun i => i != o.id } else s

/-- The start of a transfer of a copy: what stops it, in the order of R96, and else its engine turns to it. -/
def State.copyBegin (s : State) (o : Op) (c : CopyOp) : State :=
  let s := if c.fn == 4 then s else s.eccFor (o.reader 0) (s.handlePlace (s.partOf o.core) o.ctx c.handle) 16
  if c.fn != 4 && !s.handleLive (s.partOf o.core) o.ctx c.handle then s.copyStop o c stRevoked
  else if c.remote && !s.pathTo (heRdev c.entry) then s.copyStop o c stLinkDown
  else if o.cancelled then s.copyStop o c stCancelled
  else
    let (s, c) := s.copyRow o c
    if c.rowBounds then s.copyStop o c stBounds
    else if !s.copyReady o c then (s.setOp { o with kind := .copy c }).copyArrive o c
    else
      let s := s.copyLeave o c
      let k := engineOf o.core
      (s.setCluster k { s.cluster k with copyLast := engineMember o.core }).copyMove o c

/-- R86, R87, R96: the engine takes the next transfer of a copy, or goes on with it, or stops the copy. -/
def execCopyTransfer (op : Nat) (s : State) : Host.Outcome State Fault Refusal :=
  match s.op op with
  | some o => match o.kind with
    | .copy c =>
      if s.engineNext (engineOf o.core) != some o then .next s
      else if c.busy then .next (s.copyMove o c)
      else .next (s.copyBegin o c)
    | _ => .next s
  | none => .next s

/-- R358: the record of a copy that lost its path. -/
def State.linkDownRecord (s : State) (o : Op) (c : CopyOp) (count : Nat) : State :=
  s.record (40000 + pathOf o.core) (s.partOf o.core) o.ctx false 0x36
    [(256, c.handle.toNat), (192, (statusWord stLinkDown count).toNat), (128, heRdev c.entry), (48, o.core), (45, o.thr)]

/-- R96: a copy whose last transfer stands resolves; one that writes another device once its acknowledgements stand, or its
last path is gone. One that broke R89 at issue was decided there (R93), and makes no transfer. -/
def execCopyResolve (op : Nat) (s : State) : Host.Outcome State Fault Refusal :=
  match s.op op with
  | some o => match o.kind with
    | .copy c =>
      if c.moving then .next s
      else if !c.entered then .next (s.resolveStatus o stBounds c.next)
      else if c.status = some stRevoked then .next (s.resolveStatus o stRevoked c.next)
      else if c.remote && (c.status == some stLinkDown || !s.pathTo (heRdev c.entry)) then
        let n := if c.out then Config.outcome s.tick % (c.next + 1) else c.next
        .next ((s.linkDownRecord o c n).resolveStatus o stLinkDown n)
      else match c.status with
        | some code => .next (s.resolveStatus o code c.next)
        | none => match c.poison with
          | some n => .next (s.resolveStatus o stPoison n)
          | none => .next (s.resolveStatus o stOk c.next)
    | _ => .next s
  | none => .next s

/-! ## The COPY family (R90-R93) -/

/-- The end of what a copy may write of a core's scratchpad (R93, R99). -/
def State.writeEnd (s : State) (core : Nat) : Nat := if s.split2 core then 0x17000 else 0x2F000

/-- The intervals of the scratchpad map that the current thread may not access (R93, R99). -/
def State.spadHoles (s : State) (write : Bool) : List (Nat × Nat) :=
  let top := 2 ^ 64
  if write then [(s.writeEnd s.cur.core, top)]
  else (if s.split2 s.cur.core then [(0x17000, 0x2F000)] else [])
    ++ (if s.th.hm then [] else [(0x2F000, 0x2F800)]) ++ [(0x30000, top)]

/-- The first byte of a range that lies in a hole. -/
def firstIn (holes : List (Nat × Nat)) (a n : Nat) : Option Nat :=
  holes.findSome? fun h => if max a h.1 < min (a + n) h.2 then some (max a h.1) else none

/-- R93: the scratchpad ranges of a copy. -/
def State.rangeCheck (s : State) (write : Bool) (l : List (Nat × Nat)) : Except Stop Unit :=
  match l.findSome? fun r => firstIn (s.spadHoles write) r.1 r.2 with
  | some a => .error (.trap (if write then 7 else 5) (BitVec.ofNat 64 a))
  | none => .ok ()

/-- R99: ranges that must lie in the data rows of the map. -/
def State.dataRange (s : State) (cause : Nat) (l : List (Nat × Nat)) : Except Stop Unit :=
  match l.findSome? fun r => firstIn [(s.dataEnd, 2 ^ 64)] r.1 r.2 with
  | some a => .error (.trap cause (BitVec.ofNat 64 a))
  | none => .ok ()

/-- R93: the first value that is not a multiple of its alignment. -/
def alignCheck (cause : Nat) : List (Nat × Nat) → Except Stop Unit
  | [] => .ok ()
  | (v, n) :: r => if v % n ≠ 0 then .error (.trap cause (BitVec.ofNat 64 v)) else alignCheck cause r

/-- The rows of a scratchpad side. -/
def spadRows (c : CopyOp) : List (Nat × Nat) := (List.range c.rows).map fun r => (c.spad + r * c.pitch, c.length)

/-- R89: OFF is a multiple of 8, and the whole handle side of a CPY or CPY2 lies within LEN. -/
def CopyOp.inHandle (c : CopyOp) : Bool :=
  handleOff c.handle % 8 == 0 && (c.total == 0 || decide (handleOff c.handle + (c.rows - 1) * c.hpitch + c.length ≤ heLen c.entry))

/-- R88: the copies of the core context that hold an entry of the copy table. -/
def State.copyEntries (s : State) : Nat :=
  (s.ops.filter fun o => o.core == s.cur.core && o.ctx == s.cur.ctx && (match copyOf o.kind with
    | some c => c.entered
    | none => false)).length

/-- R88: the copy takes an entry; where none is free the group waits, and then issues without its checks. -/
def State.enterCopy (s : State) (d : Reg) (c : CopyOp) : Except Stop State :=
  if c.entered && decide ((if s.split2 s.cur.core then 256 else 512) ≤ s.copyEntries) then
    if s.th.copyHeld = some c then .error (.park .none)
    else .error (.hand (s.setTh { s.th with copyHeld := some c }))
  else .ok (s.start d (.copy c))

/-- A copy through a handle: the checks of R93 in their order (log 94, DESIGN CHOICE), then the copy. `aligned` lists the
values with their alignments, `lists` the index list. One that waits for an entry has been judged. -/
def State.sendCopy (s : State) (d : Reg) (srcs : List Src) (c : CopyOp) (aligned lists : List (Nat × Nat)) :
    Except Stop State :=
  match s.th.copyHeld with
  | some c => s.enterCopy d c
  | none => do
    s.noBounded srcs
    let s := s.touchHandle c.handle
    keepIn s (do
      let e ← s.handleCheck c.handle c.out
      alignCheck (if c.out then 4 else 6) aligned
      if c.out then s.rangeCheck false lists else s.rangeCheck true (spadRows c)
      if c.out then s.rangeCheck false (spadRows c) else s.rangeCheck false lists
      let c := { c with entry := e }
      s.enterCopy d (if c.fn ≤ 1 ∧ c.inHandle = false then { c with status := some stBounds } else c))

/-- R90, R92: CPY. -/
def State.linearCopy (s : State) (out : Bool) (o : Fmt Unit) : Host.Outcome State Fault Refusal :=
  s.slot o.pred (do
    let (a, b, c) ← s.sources o
    let n := c.word.toNat
    s.sendCopy o.d [a, b, c] { CopyOp.initial with out := out, handle := a.word, spad := b.word.toNat, length := n }
      [(b.word.toNat, 8), (n, 8)] [])

/-- R92: CPY.in. -/
def execCpyIn (o : Fmt Unit) (s : State) : Host.Outcome State Fault Refusal := s.linearCopy false o
/-- R92: CPY.out. -/
def execCpyOut (o : Fmt Unit) (s : State) : Host.Outcome State Fault Refusal := s.linearCopy true o

/-- R91: the fields of the shape word. -/
def shapePitch (w : Word) : Nat := bits w.toNat 36 28
def shapeRows (w : Word) : Nat := bits w.toNat 20 16
def shapeLen (w : Word) : Nat := bits w.toNat 0 20

/-- R90, R92: CPY2. -/
def State.planeCopy (s : State) (out : Bool) (o : Fmt SwzMod) : Host.Outcome State Fault Refusal :=
  s.slot o.pred (do
    let (a, b, c) ← s.sources o
    let pitch := o.imm.toNat % 2 ^ 18
    let w := c.word
    let n := if o.mod.swz then 256 else 8
    s.sendCopy o.d [a, b, c]
      { CopyOp.initial with
        fn := 1, out := out, swz := o.mod.swz, handle := a.word, spad := b.word.toNat, length := shapeLen w, rows := shapeRows w
        hpitch := shapePitch w, pitch := pitch }
      [(b.word.toNat, n), (shapeLen w, n), (pitch, n), (shapePitch w, 8)] [])

/-- R92: CPY2.in. -/
def execCpy2In (o : Fmt SwzMod) (s : State) : Host.Outcome State Fault Refusal := s.planeCopy false o
/-- R92: CPY2.out. -/
def execCpy2Out (o : Fmt SwzMod) (s : State) : Host.Outcome State Fault Refusal := s.planeCopy true o

/-- R91: the fields of the row word. -/
def rowPitch (w : Word) : Nat := bits w.toNat 34 30
def rowRows (w : Word) : Nat := bits w.toNat 18 16
def rowList (w : Word) : Nat := bits w.toNat 0 18

/-- R90, R92: CPYG and CPYS. -/
def State.rowCopy (s : State) (fn : Nat) (out : Bool) (o : Fmt Unit) : Host.Outcome State Fault Refusal :=
  s.slot o.pred (do
    let (a, b, c) ← s.sources o
    let len := o.imm.toNat % 2 ^ 20
    let w := c.word
    s.sendCopy o.d [a, b, c]
      { CopyOp.initial with
        fn := fn, out := out, handle := a.word, spad := b.word.toNat, length := len, rows := rowRows w, hpitch := rowPitch w
        pitch := len, list := rowList w }
      [(b.word.toNat, 8), (rowPitch w, 8), (rowList w, 4), (len, 8)] [(rowList w, 4 * rowRows w)])

/-- R92: CPYG. -/
def execCpyg (o : Fmt Unit) (s : State) : Host.Outcome State Fault Refusal := s.rowCopy 2 false o
/-- R92: CPYS. -/
def execCpys (o : Fmt Unit) (s : State) : Host.Outcome State Fault Refusal := s.rowCopy 3 true o

/-- R92: do two ranges of n bytes overlap? -/
def overlap (a b n : Nat) : Bool := decide (a < b + n ∧ b < a + n)

/-- R93: the range that CPYR writes, on every target by that core's own map; without a target by the issuing core's (log 94, DESIGN
CHOICE). -/
def State.targetCheck (s : State) (mask a n : Nat) : Except Stop Unit :=
  let l := copyTargets s.cur.core mask
  match (if l.isEmpty then [s.cur.core] else l).findSome? fun k => firstIn [(s.writeEnd k, 2 ^ 64)] a n with
  | some a => .error (.trap 7 (BitVec.ofNat 64 a))
  | none => .ok ()

/-- R92: CPYR; its overlap check stands behind the alignments, with TVAL xb (log 94, DESIGN CHOICE). -/
def execCpyr (o : Fmt Unit) (s : State) : Host.Outcome State Fault Refusal :=
  s.slot o.pred (do
    let (a, b, c) ← s.sources o
    let n := c.word.toNat
    let mask := o.imm.toNat % 256
    match s.th.copyHeld with
    | some cmd => s.enterCopy o.d cmd
    | none => do
      s.noBounded [a, b, c]
      alignCheck 6 [(a.word.toNat, 8), (b.word.toNat, 8), (n, 8)]
      failIf ((copyTargets s.cur.core mask).contains s.cur.core && overlap a.word.toNat b.word.toNat n) 6 b.word
      s.targetCheck mask b.word.toNat n
      s.rangeCheck false [(a.word.toNat, n)]
      s.enterCopy o.d { CopyOp.initial with fn := 4, spad := b.word.toNat, length := n, list := a.word.toNat, mask := mask })

end Sys2Proof.Machine
end

