-- ==== Sys2Proof/Machine/Stack.lean ====
section
/-!
DEFINITION. The families STACK (18) and BANK (19), the stack atomic units, all-bank mode, and the base-die context save.
-/
namespace Sys2Proof.Machine

/-! ## STACK at the core (R276-R278, R274) -/

/-- Element bytes of a STACK command. -/
def stackWm (m : StackMod) : Nat := if m.w64 then 8 else 4

def OpKind.isStack : OpKind → Bool | .stack _ _ => true | _ => false
def OpKind.isBank : OpKind → Bool | .bank _ => true | _ => false

/-- The STACK, or BANK, commands of the current core that have not completed. -/
def State.countOps (s : State) (sel : OpKind → Bool) : Nat := (s.ops.filter fun o => o.core == s.cur.core && sel o.kind).length

/-- R278: the translation of a command: NAMOR's load part gives load faults, and a leaf that lacks WR a store fault. -/
def State.stackLeaf (s : State) (fn : Nat) (ea : Word) : Except Stop TlbEntry :=
  if fn = 2 then
    match s.translate ea .load with
    | .error e => .error e
    | .ok leaf => if leaf.wr then .ok leaf else .error (.trap 15 ea)
  else s.translate ea .bank

/-- R277: the active lanes of a NAMOV, as a mask of lanes. -/
def State.stackLanes (s : State) (fn : Nat) (m : StackMod) : Nat :=
  if fn = 1 then
    let w := stackWm m
    ((List.range (32 / w)).filter fun i => active (s.th.readM m.mask) w i).foldl (fun a i => a + 2 ^ i) 0
  else 1

/-- R277, R278: a STACK command: the checks, and the command that goes to its SAU; a NAMOV without lanes sends nothing. -/
def State.sendStack (s : State) (fn : Nat) (o : Fmt StackMod) : Host.Outcome State Fault Refusal :=
  s.slot o.pred (do
    let (a, b, c) ← s.sources o
    s.noBounded [a, b, c]
    let ea := effAddr a b o.imm
    failIf (decide (ea.toNat % (if fn = 1 then 32 else stackWm o.mod) ≠ 0)) 6 ea
    let leaf ← s.stackLeaf fn ea
    failIf (leaf.cls != 1) 52 ea
    let act := s.stackLanes fn o.mod
    if act = 0 then .ok s
    else if 32 ≤ s.countOps OpKind.isStack then .error (.park .none)
    else
      let cmd : StackCmd := ⟨fn, o.mod.op, o.mod.w64, encStackMod o.mod, o.imm, ea, leaf.paOf ea.toNat,
        if fn = 1 then c.val else c.word.setWidth 256, act, s.iss.pc, if fn = 2 then o.d.code else 0⟩
      .ok (if fn = 2 then s.start o.d (.stack cmd none) else s.addOp none (.stack cmd none)))

/-- R277: NAMO. -/
def execNamo (o : Fmt StackMod) (s : State) : Host.Outcome State Fault Refusal := s.sendStack 0 o
/-- R277: NAMOV. -/
def execNamov (o : Fmt StackMod) (s : State) : Host.Outcome State Fault Refusal := s.sendStack 1 o
/-- R277: NAMOR. -/
def execNamor (o : Fmt StackMod) (s : State) : Host.Outcome State Fault Refusal := s.sendStack 2 o

/-! ## BANK at the core (R286-R288) -/

/-- A tag that a bank walk or BKLDR accepts: RAW, FP16 with SCALE 0, ZERO or CONST. -/
def bankTag (t : BitVec 16) : Bool :=
  !tagMalformed t && (tagFmt t == 0 || (tagFmt t == 3 && tagScale t == 0) || tagZero t || tagConst t)

/-- R288: the blocks that BKLDR reads, lowest address first: the first that fails decides. -/
def State.bankSource (s : State) (at_ : Nat) : Nat → Except Stop Unit
  | 0 => .ok ()
  | n + 1 => do
    s.bankSource at_ n
    let a : Word := BitVec.ofNat 64 (at_ + 64 * n)
    let t := s.cc.tag (at_ + 64 * n)
    s.spadEcc [a] 64
    failIf (tagPoison t) 29 a
    failIf (tagB t) 26 a
    failIf (!bankTag t) 30 a

/-- The bytes of blocks of scratchpad: stores keep the payload materialised, so a ZERO or CONST block reads as it stands. -/
def State.sourceBytes (s : State) (at_ n : Nat) : List Byte := s.cc.bytes at_ n

/-- The checks of R288 up to the leaf: the address and its PA. -/
def State.bankAddress {M : Type} (s : State) (o : Fmt M) (align walk : Nat) : Except Stop (Word × Nat × Src) := do
  let (a, b, c) ← s.sources o
  s.noBounded [a, b, c]
  let ea := effAddr a b o.imm
  failIf (decide (ea.toNat % align ≠ 0)) 6 ea
  failIf (walk != 0 && decide (64 < ea.toNat / 512 % 64 + walk)) 52 ea
  let leaf ← s.translate ea .bank
  failIf (leaf.cls != 1) 52 ea
  .ok (ea, leaf.paOf ea.toNat, c)

/-- R286: the command goes to its SAU; the core holds at most 16. -/
def State.sendBank (s : State) (d : Reg) (c : BankCmd) : Except Stop State :=
  if 16 ≤ s.countOps OpKind.isBank then .error (.park .none) else .ok (s.start d (.bank c))

/-- R289: BKMODE.on. -/
def execBkmodeOn (o : Fmt Unit) (s : State) : Host.Outcome State Fault Refusal :=
  s.slot o.pred (do
    let (ea, pa, _) ← s.bankAddress o 32 0
    s.sendBank o.d ⟨0, true, ea, pa, [], 0, 0, 0, o.imm, false, 0, o.d.code⟩)
/-- R289: BKMODE.off. -/
def execBkmodeOff (o : Fmt Unit) (s : State) : Host.Outcome State Fault Refusal :=
  s.slot o.pred (do
    let (ea, pa, _) ← s.bankAddress o 32 0
    s.sendBank o.d ⟨0, false, ea, pa, [], 0, 0, 0, o.imm, false, 0, o.d.code⟩)
/-- R290: BKLDR reads its 512 bytes now. -/
def execBkldr (o : Fmt Unit) (s : State) : Host.Outcome State Fault Refusal :=
  s.slot o.pred (do
    let (ea, pa, c) ← s.bankAddress o 32 0
    failIf (decide (c.word.toNat % 64 ≠ 0)) 4 c.word
    let blocks := (List.range 8).map fun i => c.word + BitVec.ofNat 64 (64 * i)
    failFirst blocks (fun a => !s.spadMay a.toNat false) 5
    s.bankSource c.word.toNat 8
    let s := s.watchAll false false [(c.word.toNat, 512)]
    s.sendBank o.d ⟨1, false, ea, pa, s.sourceBytes c.word.toNat 512, 0, 0, 0, o.imm, false, 0, o.d.code⟩)
/-- R291: BKMAC (log 74, DEDUCED). -/
def execBkmac (o : Fmt BankMod) (s : State) : Host.Outcome State Fault Refusal :=
  s.slot o.pred (do
    let n := o.mod.n1.toNat + 1
    let (ea, pa, _) ← s.bankAddress o 512 n
    s.sendBank o.d ⟨2, false, ea, pa, [], 0, n, o.mod.a0.toNat, o.imm, false, 0, o.d.code⟩)
/-- R292: BKRD. -/
def execBkrd (o : Fmt BankMod) (s : State) : Host.Outcome State Fault Refusal :=
  s.slot o.pred (do
    let n := o.mod.n1.toNat + 1
    let (ea, pa, c) ← s.bankAddress o 32 0
    failIf (decide (c.word.toNat % 64 ≠ 0)) 6 c.word
    let blocks := (List.range n).map fun i => c.word + BitVec.ofNat 64 (64 * i)
    failFirst blocks (fun a => !s.spadMay a.toNat true) 7
    s.sendBank o.d ⟨3, false, ea, pa, [], c.word.toNat, n, o.mod.a0.toNat, o.imm, false, 0, o.d.code⟩)

/-! ## The stack atomic unit (R273-R280) -/

/-- R277: Op on two elements of n bytes. -/
def stackValue (op : StackOp) (n old v : Nat) : Nat :=
  match op with
  | .add => (old + v) % 2 ^ (8 * n)
  | .fadd => (floatAdd .fp32 .rne (fp32.decode old) (fp32.decode v)).1
  | .min => if signedLane n v < signedLane n old then v else old
  | .max => if signedLane n old < signedLane n v then v else old
  | .and => old &&& v
  | .or => old ||| v
  | .xor => old ^^^ v

/-- The bank of a bank-zone address: pseudo-channel, SID and bank. -/
def State.bankOf (s : State) (pa : Nat) : Nat × Nat × Nat := (s.linPch pa, s.linSid pa, s.linBank pa)

/-- R273: the commands that stand in the queue of a SAU, in arrival order. -/
def State.sauQueue (s : State) (pch : Nat) : List Op := (s.pch pch).queue.filterMap s.op

/-- What stands in the queue before a command. -/
def State.queueBefore (s : State) (pch op : Nat) : List Op := (s.sauQueue pch).takeWhile fun o => o.id != op

/-- R273, R295: a command is still in the network: it has neither arrived nor been saved. -/
def State.inNetwork (s : State) (pch op : Nat) : Bool := !(s.pch pch).queue.contains op && !(s.pch pch).saved.contains op

/-- R273, R281, R286: a command arrives at its SAU, behind those that its core sent there before and behind the accesses that wait
there; a queue of 64 is full. -/
def State.arriveSau (s : State) (o : Op) (pch : Nat) : State :=
  let p := s.pch pch
  let before := s.ops.any fun q => decide (q.id < o.id) && q.core == o.core && s.commandPch q.kind == some pch
    && s.inNetwork pch q.id
  if before || decide (64 ≤ p.queue.length) then s
  else s.setPch pch { p with
    queue := p.queue ++ [o.id], early := (o.id, s.waitingLine pch) :: p.early.filter fun e => (p.queue ++ p.saved).contains e.1 }

/-- A command leaves the queue. -/
def State.leaveSau (s : State) (o : Op) (pch : Nat) : State :=
  s.setPch pch { s.pch pch with queue := (s.pch pch).queue.filter fun n => n != o.id }

/-- R273, R281, R285, R286: a STACK command is performed while its pseudo-channel is open, behind what stands before it in the
queue for its bank; the commands of the BANK family act on all banks. -/
def State.stackReady (s : State) (o : Op) (c : StackCmd) : Bool :=
  let n := s.pchOf c.pa
  s.pchOpen n && (s.queueBefore n o.id).all fun p => match p.kind with
    | .stack d none => s.bankOf d.pa != s.bankOf c.pa
    | .bank _ => false
    | _ => true

/-- R277: the elements of a command, lowest lane first; the old value of the last one. -/
def State.stackApply (s : State) (c : StackCmd) : List Nat → State × Nat
  | [] => (s, 0)
  | i :: r =>
    let w := if c.w64 then 8 else 4
    let pa := c.pa + i * w
    let old := s.dramNat pa w
    let t := s.putBytes pa (natToBytes w (stackValue c.op w old (lane w c.value i)))
    let (u, n) := t.stackApply c r
    (u, if r.isEmpty then old else n)

/-- R280: the record of a command that wrote nothing. -/
def State.bankRecord (s : State) (o : Op) (c : StackCmd) (reason : Nat) : State :=
  s.record (30000 + s.pchOf c.pa) (s.partOf o.core) o.ctx false 0x32
    [(256, c.ea.toNat), (216, c.pa), (64, c.pc.toNat), (48, o.core), (45, o.thr), (24, c.mod), (16, reason), (8, c.fn)]

/-- A command completes: its delay is counted (R384). -/
def State.bankDelay (s : State) (o : Op) (pa : Nat) : State := s.addDelay o.owner (some (s.pchOf pa / 64)) 0

/-- R274: a STACK command completes: it leaves the queue, and its delay is counted (R384). -/
def State.endStack (s : State) (o : Op) (c : StackCmd) : State := (s.leaveSau o (s.pchOf c.pa)).bankDelay o c.pa

/-- R275, R277, R279: the SAU performs a command, indivisibly: its read finds what is wrong with the codeword, and then the tag
decides. A NAMOR keeps its entry until its register has resolved (R273, R274). -/
def State.stackPerform (s : State) (o : Op) (c : StackCmd) : State :=
  let was := tagPoison (s.blockTag c.pa)
  let s := s.eccFor ⟨c.pc.toNat, if c.fn = 2 then 29 else 0, o.thr⟩ (c.pa / 32 * 32) 32
  let t := s.blockTag c.pa
  let reason := if was then 1 else if tagPoison t then 2 else if tagB t then 3 else 0
  if reason ≠ 0 then
    if c.fn = 2 then (s.endStack o c).resolveFault o (if reason = 3 then 26 else 29) c.ea
    else ((s.endStack o c).bankRecord o c reason).removeOp o.id
  else
    let s := if tagZero t || tagConst t then (s.materialise c.pa).setBlockTag c.pa rawTag else s
    let (s, old) := s.stackApply c ((List.range 8).filter fun i => c.active.testBit i)
    if c.fn = 2 then
      let r : Word := if c.w64 || c.op == .fadd then BitVec.ofNat 64 old else BitVec.ofInt 64 (signedLane 4 old)
      s.setOp { o with kind := .stack c (some r) }
    else (s.endStack o c).removeOp o.id

/-- R273: a STACK command arrives at its SAU, and is performed when its turn comes. -/
def execStackCommandPerform (op : Nat) (s : State) : Host.Outcome State Fault Refusal :=
  match s.op op with
  | some o => match o.kind with
    | .stack c none =>
      let n := s.pchOf c.pa
      .next (if s.inNetwork n op then s.arriveSau o n
        else if (s.pch n).queue.contains op && s.stackReady o c then s.stackPerform o c else s)
    | _ => .next s
  | none => .next s

/-- R273, R277: NAMOR's old value reaches its register, and the command has completed. -/
def execNamorResolve (op : Nat) (s : State) : Host.Outcome State Fault Refusal :=
  match s.op op with
  | some o => match o.kind with
    | .stack c (some r) => .next ((s.endStack o c).resolve o (r.setWidth 256) false .present)
    | _ => .next s
  | none => .next s

/-! ## Bank multiply-accumulate units (R284-R292) -/

/-- R285: the issuing core and context hold the mode for the SID of the address. -/
def State.holdsMode (s : State) (o : Op) (pa : Nat) : Bool := (s.pch (s.pchOf pa)).mode == some (s.linSid pa, o.core, o.ctx)

/-- R281, R286: the turn of a BANK command: no BANK command stands before it in the queue, and while the mode is off no STACK
command of its SID does (in the mode those wait for its end, R285). -/
def State.bankReady (s : State) (o : Op) (c : BankCmd) : Bool :=
  let n := s.pchOf c.pa
  !(s.pch n).rsv && (s.queueBefore n o.id).all fun p => match p.kind with
    | .bank _ => false
    | .stack d none => (s.pch n).mode.isSome || s.linSid d.pa != s.linSid c.pa
    | _ => true

/-- R286, R289: every access and command of the pseudo-channel that came before has completed: those that waited when the command
arrived, a copy's transfer that has begun, and what was issued before. A NAMOR stands in the queue until its register has resolved
(R274). -/
def State.pchDrained (s : State) (o : Op) (pch : Nat) : Bool :=
  s.ops.all (fun p => match p.kind with
    | .copy c => !(c.busy && c.linear && s.pchOf c.pa == pch)
    | _ => decide (o.id ≤ p.id) || !(s.plainPchs p).contains pch)
    && (s.earlier pch o.id).all (fun i => !(s.waitingLine pch).contains i)
    && (s.queueBefore pch o.id).isEmpty

/-- A BANK command resolves and leaves the queue. -/
def State.endBank (s : State) (o : Op) (c : BankCmd) (code count : Nat) : State :=
  ((s.leaveSau o (s.pchOf c.pa)).bankDelay o c.pa).resolveStatus o code count
def State.faultBank (s : State) (o : Op) (c : BankCmd) (cause : Nat) (tval : Word) : State :=
  ((s.leaveSau o (s.pchOf c.pa)).bankDelay o c.pa).resolveFault o cause tval

/-! The registers of the BMUs (R284): lane l of XREG and entry k of ACC in bank b of a SID. -/

def xregKey (sid b l : Nat) : Nat := (sid * 16 + b) * 16 + l
def accKey (sid b k : Nat) : Nat := (sid * 16 + b) * 64 + k
def PseudoChannel.xregAt (p : PseudoChannel) (sid b l : Nat) : BitVec 16 := SMap.get 0 p.xreg (xregKey sid b l)
def PseudoChannel.accAt (p : PseudoChannel) (sid b k : Nat) : BitVec 32 := SMap.get 0 p.acc (accKey sid b k)

/-- The registers of a SID are zero. -/
def PseudoChannel.clearSid (p : PseudoChannel) (sid : Nat) : PseudoChannel :=
  { p with xreg := p.xreg.filter fun e => e.1 / 256 != sid, acc := p.acc.filter fun e => e.1 / 1024 != sid }
/-- R285: a mode turns off, and the bank registers of its SID are lost. -/
def PseudoChannel.turnOff (p : PseudoChannel) : PseudoChannel :=
  match p.mode with
  | some (sid, _, _) => { (p.clearSid sid) with mode := none }
  | none => p

/-- R289: BKMODE; ON waits for what came before it, in the mode too (log 98, DEDUCED). -/
def State.performMode (s : State) (o : Op) (c : BankCmd) : State :=
  let n := s.pchOf c.pa
  let p := s.pch n
  let mine := match p.mode with | some (_, core, ctx) => core == o.core && ctx == o.ctx | none => true
  if c.on then
    let sid := match p.mode with | some (sid, _, _) => sid == s.linSid c.pa | none => true
    if !mine || !sid then s.faultBank o c 52 c.ea
    else if !s.pchDrained o n then s
    else (s.setPch n { (p.clearSid (s.linSid c.pa)) with mode := some (s.linSid c.pa, o.core, o.ctx) }).endBank o c stOk 16
  else if !mine then s.faultBank o c 52 c.ea
  else (s.setPch n { p with mode := none }).endBank o c stOk (if p.mode.isSome then 16 else 0)

/-- R290: BKLDR. -/
def State.performLoad (s : State) (o : Op) (c : BankCmd) : State :=
  let n := s.pchOf c.pa
  let p := s.pch n
  let x := (List.range 256).foldl (fun m i => SMap.set (0 : BitVec 16) m (xregKey (s.linSid c.pa) (i / 16) (i % 16))
    (BitVec.ofNat 16 (bytesToNat ((c.data.drop (2 * i)).take 2)))) p.xreg
  (s.setPch n { p with xreg := x }).endBank o c stOk 512

/-- R291: what the tags of a walk's blocks say, lowest address first; none: the walk runs. -/
def State.walkTags (s : State) (o : Op) (c : BankCmd) : Option State :=
  let blocks := (List.range (8 * c.n)).map fun i => c.pa + 64 * i
  let bad := fun (a : Nat) => let t := s.blockTag a; tagPoison t || tagB t || !bankTag t
  match blocks.find? bad with
  | some a =>
    let t := s.blockTag a
    some (if tagPoison t then s.endBank o c stPoison (a - c.pa)
      else s.faultBank o c (if tagB t then 26 else 30) (BitVec.ofNat 64 a))
  | none =>
    if blocks.any fun a => tagZero (s.blockTag a) || tagConst (s.blockTag a) then some (s.endBank o c stElided 0) else none

/-- R291: one add of a BMU: the product is exact, the sum rounded. -/
def bmuAdd (t x w : Nat) : Nat :=
  (fp32.round .rne (FVal.add .rne (fp32.decode t) ((fp16.decode x).mul (fp16.decode w)).1).1).1

/-- R291: one column step of one bank. -/
def State.bankStep (s : State) (p : PseudoChannel) (c : BankCmd) (b : Nat) : BitVec 32 :=
  let sid := s.linSid c.pa
  BitVec.ofNat 32 ((List.range 16).foldl (fun t l =>
    bmuAdd t (p.xregAt sid b l).toNat (s.dramNat (c.pa + 512 * c.step + 32 * b + 2 * l) 2)) (p.accAt sid b (c.a0 + c.step)).toNat)

/-- R291: a column step in all sixteen banks; a read that meets an uncorrectable error ends the walk, and the last step
resolves it. -/
def State.walkStep (s : State) (o : Op) (c : BankCmd) : State :=
  let n := s.pchOf c.pa
  let s := s.eccFor (o.reader 0) (c.pa + 512 * c.step) 512
  let p := s.pch n
  if (List.range 8).any fun i => tagPoison (s.blockTag (c.pa + 512 * c.step + 64 * i)) then s.endBank o c stPoison c.step
  else
    let acc := (List.range 16).foldl (fun m b =>
      SMap.set (0 : BitVec 32) m (accKey (s.linSid c.pa) b (c.a0 + c.step)) (s.bankStep p c b)) p.acc
    let s := s.setPch n { p with acc := acc }
    if c.n ≤ c.step + 1 then s.endBank o c stOk c.n
    else s.setOp { o with kind := .bank { c with step := c.step + 1 } }

/-- R292: the sums that BKRD delivers, bank by bank, as bytes. -/
def State.readBytes (s : State) (c : BankCmd) : List Byte :=
  let p := s.pch (s.pchOf c.pa)
  ((List.range 16).map fun b => ((List.range c.n).map fun k =>
    natToBytes 4 (p.accAt (s.linSid c.pa) b (c.a0 + k)).toNat).flatten).flatten

/-- R292, R335: bytes that an engine writes into scratchpad, with their tag; a POISON tag stays (R103). -/
def CoreCtx.readInto (k : CoreCtx) (at_ : Nat) (l : List Byte) (tag : BitVec 16) : CoreCtx :=
  let k := (l.zipIdx).foldl (fun (k : CoreCtx) q => k.setByte (at_ + q.2) q.1) k
  let k := (blocksOf at_ l.length).foldl (fun (k : CoreCtx) b => if tagPoison (k.tag b) then k else k.setTag b tag) k
  k.heal at_ l.length

/-- R286, R292: BKRD writes some of the words it has left: until it resolves, each of them reads old or new. -/
def State.performRead (s : State) (o : Op) (c : BankCmd) : State :=
  let n := s.someWords (64 * c.n - c.step)
  let l := ((s.readBytes c).drop c.step).take n
  let s := s.setCoreCtx o.core o.ctx ((s.coreCtx o.core o.ctx).readInto (c.xs + c.step) l 0x0500)
  if 64 * c.n ≤ c.step + n then s.endBank o c stOk (64 * c.n)
  else s.setOp { o with kind := .bank { c with started := true, step := c.step + n } }

/-- R286: a BANK command whose turn has come goes on; a walk goes column by column. -/
def State.bankPerform (s : State) (o : Op) (c : BankCmd) : State :=
  if c.fn = 0 then s.performMode o c
  else if !s.holdsMode o c.pa then s.faultBank o c 52 c.ea
  else if c.fn = 1 then s.performLoad o c
  else if c.fn = 3 then s.performRead o c
  else if c.started then s.walkStep o c
  else
    let s := s.eccFor (o.reader 0) c.pa (512 * c.n)
    match s.walkTags o c with
    | some t => t
    | none => s.setOp { o with kind := .bank { c with started := true } }

/-- R273, R286: a BANK command arrives at its SAU, and goes on when its turn comes; one that FCANCEL named while it waits resolves
CANCELLED. -/
def execBankCommandPerform (op : Nat) (s : State) : Host.Outcome State Fault Refusal :=
  match s.op op with
  | some o => match o.kind with
    | .bank c =>
      let n := s.pchOf c.pa
      .next (if s.inNetwork n op then s.arriveSau o n
        else if !(s.pch n).queue.contains op || (s.pch n).rsv then s
        else if o.cancelled && !c.started then s.endBank o c stCancelled 0
        else if s.bankReady o c then s.bankPerform o c else s)
    | _ => .next s
  | none => .next s

/-- R294: a refresh of a bank is due: in all-bank mode that of the mode's SID is postponed, and when the debt of a bank reaches
8 the controller refreshes all sixteen between two column steps; nothing else changes. -/
def execRefresh (pch : Nat) (bank : Nat) (s : State) : Host.Outcome State Fault Refusal :=
  let p := s.pch pch
  .next (match p.mode with
    | some (sid, _, _) =>
      let k := sid * 16 + bank % 16
      let n := SMap.get 0 p.debt k + 1
      s.setPch pch { p with debt := if n < 8 then SMap.set 0 p.debt k n else p.debt.filter fun e => e.1 / 16 != sid }
    | none => s.setPch pch { p with debt := p.debt.filter fun e => e.1 % 16 != bank % 16 })

/-! ## Context save in the base die (R295-R298) -/

/-- A BANK command is in service. -/
def OpKind.serving : OpKind → Bool
  | .bank c => c.started
  | _ => false

/-- A NAMOR whose write has committed: only its register is still to resolve. -/
def OpKind.performed : OpKind → Bool
  | .stack _ (some _) => true
  | _ => false

/-- The commands of a queue that have not been performed. -/
def State.unperformed (s : State) (pch : Nat) : List Op := (s.sauQueue pch).filter fun o => !o.kind.performed

/-- R283, R296: the commands that a SAVE takes: a walk in progress first, then the others in queue order. A NAMOR that has been
performed stays where it is, and its register resolves. -/
def State.queued (s : State) (pch : Nat) : List Op :=
  let l := s.unperformed pch
  (l.filter fun o => o.kind.serving) ++ l.filter fun o => !o.kind.serving

/-- What a save or a discard leaves in the queue. -/
def State.performedIds (s : State) (pch : Nat) : List Nat := ((s.sauQueue pch).filter fun o => o.kind.performed).map (·.id)

/-- R287: MOD of a BANK command. -/
def BankCmd.mod (c : BankCmd) : Nat :=
  if c.fn = 0 then c.on.toNat else if c.fn = 1 then 0 else (c.n - 1) + c.a0 * 64

/-- R298: the record of a queued command, with BKLDR's data behind it. -/
def State.commandBytes (s : State) (o : Op) : List Byte :=
  let head := fun (pa mod fn opc dreg : Nat) (imm : BitVec 32) =>
    [(216, pa), (184, imm.toNat), (172, mod), (164, fn), (156, opc), (144, o.core), (141, o.thr), (140, o.ctx.toNat),
     (136, s.partOf o.core), (131, dreg)]
  match o.kind with
  | .stack c _ => natToBytes 64 (packFields
      (head c.pa c.mod c.fn 0x38 c.dreg c.imm ++ [(256, c.value.toNat), (123, if c.fn = 1 then c.active else 0)]))
  | .bank c => natToBytes 64 (packFields (head c.pa c.mod c.fn 0x39 c.dreg c.imm ++ [(0, (c.fn == 1).toNat)])) ++ c.data
  | _ => []

/-- R296: the SID whose registers a save area holds: that of the mode. -/
def PseudoChannel.sid (p : PseudoChannel) : Nat := match p.mode with | some (sid, _, _) => sid | none => 0

/-- R297: the record of a bank. -/
def PseudoChannel.bankBytes (p : PseudoChannel) (b : Nat) : List Byte :=
  natToBytes 320 (packFields (((List.range 16).map fun l => (16 * l, (p.xregAt p.sid b l).toNat))
    ++ ((List.range 64).map fun k => (256 + 32 * k, (p.accAt p.sid b k).toNat))))

/-- R296-R298: the save area. -/
def State.saveArea (s : State) (pch : Nat) : List Byte :=
  let p := s.pch pch
  let q := s.queued pch
  let cmds := (q.map s.commandBytes).flatten
  let step : Nat := match q with
    | [] => 0
    | o :: _ => match o.kind with | .bank c => if c.started then c.step else 0 | _ => 0
  let owner := match p.mode with
    | some (sid, core, ctx) =>
      [(112, core), (108, ctx.toNat), (104, s.partOf core), (80, 1), (78, sid)]
    | none => []
  natToBytes 64 (packFields (owner ++
      [(0, 1), (32, 5184 + cmds.length), (64, pch / 64), (72, pch % 64), (81, (q.any fun o => o.kind.serving).toNat), (88, step),
       (96, q.length)]))
    ++ ((List.range 16).map p.bankBytes).flatten ++ cmds

/-- R295: a command other than a walk is in service, and a SAVE lets it finish. -/
def State.finishing (s : State) (pch : Nat) : Bool :=
  (s.sauQueue pch).any fun o => match o.kind with | .bank c => c.started && c.fn != 2 | _ => false

/-- A write of OP to BKCTX; one while BUSY is ignored (R295). A SAVE reserves the pseudo-channel. -/
def State.bkctxStart (s : State) (pch op : Nat) (area : Option Word) : State :=
  let p := s.pch pch
  if p.busy then s
  else s.setPch pch { p with
    busy := true
    err := false
    op := op
    area := (match area with | some a => bits a.toNat 6 34 | none => p.area)
    rsv := p.rsv || (op == 1 && !s.finishing pch) }

/-- R295: SAVE begins. -/
def execBkctxSave (pch : Nat) (area : Word) (s : State) : Host.Outcome State Fault Refusal := .next (s.bkctxStart pch 1 (some area))
/-- R295: RESTORE begins. -/
def execBkctxRestore (pch : Nat) (area : Word) (s : State) : Host.Outcome State Fault Refusal := .next (s.bkctxStart pch 2 (some area))
/-- R295: DISCARD begins. -/
def execBkctxDiscard (pch : Nat) (s : State) : Host.Outcome State Fault Refusal := .next (s.bkctxStart pch 3 none)

/-- R297, R298: the bytes of an area of the interleaved zone, as its slices give them to the firmware. -/
def State.areaNat (s : State) (at_ n : Nat) : Nat :=
  bytesToNat ((List.range n).map fun i => (s.sliceByte (at_ + i)).getD (Config.undefinedByte (at_ + i) s.tick))

/-- The command records of an area, and where each lies. -/
def State.areaRecords (s : State) (at_ : Nat) : Nat → Nat → List Nat
  | 0, _ => []
  | n + 1, pos => pos :: s.areaRecords at_ n (pos + (if s.areaNat (at_ + pos) 1 % 2 = 1 then 576 else 64))

/-- R298: the length that the records of an area make. -/
def State.areaLength (s : State) (at_ n : Nat) : Nat :=
  (s.areaRecords at_ n 5184).foldl (fun _ pos => pos + (if s.areaNat (at_ + pos) 1 % 2 = 1 then 576 else 64)) 5184

/-- R283, R298: a command record names the command that was saved: its issuer, its family, its function and its future (log 31,
DESIGN CHOICE). -/
def State.recordNames (s : State) (pa : Nat) (o : Op) : Bool :=
  let r := s.areaNat pa 64
  bits r 144 12 == o.core && bits r 141 3 == o.thr && bits r 140 1 == o.ctx.toNat && (match o.kind with
    | .stack c none => bits r 156 8 == 0x38 && bits r 164 8 == c.fn && bits r 131 5 == c.dreg % 32
    | .bank c => bits r 156 8 == 0x39 && bits r 164 8 == c.fn && bits r 131 5 == c.dreg % 32
    | _ => false)

/-- R295: what RESTORE requires of a save area: VERSION 1, STACK, PC and SID of this pseudo-channel, and a LENGTH that is that of
its records. An area that reaches past memory has none of it. -/
def State.areaOk (s : State) (pch at_ : Nat) : Bool :=
  let h := s.areaNat at_ 64
  decide (at_ + 64 ≤ hbmEnd) && bits h 0 16 == 1 && bits h 64 4 == pch / 64 && bits h 72 6 == pch % 64
    && (match (s.pch pch).mode with
      | some (sid, _, _) => bits h 78 2 == sid
      | none => true)
    && bits h 32 32 == s.areaLength at_ (bits h 96 8) && decide (at_ + bits h 32 32 ≤ hbmEnd)

/-- R298: a command as its record in the area has it; what the record does not hold stands with the command that it names. -/
def State.reissued (s : State) (pa : Nat) (serving : Bool) (step : Nat) (k : OpKind) : OpKind :=
  let r := s.areaNat pa 64
  let mod := bits r 172 12
  let imm := BitVec.ofNat 32 (bits r 184 32)
  match k with
  | .stack c done => .stack { c with
      op := (StackOp.ofCode (mod % 8)).getD c.op, w64 := bits mod 3 1 == 1, mod := mod, imm := imm, pa := bits r 216 40
      value := BitVec.ofNat 256 (bits r 256 256), active := if c.fn = 1 then bits r 123 8 else 1 } done
  | .bank c => .bank { c with
      on := c.fn == 0 && bits mod 0 1 == 1, imm := imm, pa := bits r 216 40
      n := if 2 ≤ c.fn then mod % 64 + 1 else 0, a0 := if 2 ≤ c.fn then bits mod 6 6 else 0
      data := if c.fn = 1 then natToBytes 512 (s.areaNat (pa + 64) 512) else []
      started := serving && c.fn == 2, step := if serving && c.fn == 2 then step else 0 }
  | k => k

/-- R298: the command of a record that names none of those that were saved: what its fields do not hold (the virtual address, the
PC, where BKRD writes) is free (log 31, DESIGN CHOICE). A record of another OPC is no command. -/
def State.recordKind (s : State) (pa : Nat) : Option OpKind :=
  let r := s.areaNat pa 64
  let fn := bits r 164 8
  let dreg := bits r 131 5
  let free := fun (k : Nat) => Config.unrecorded s.tick (4 * pa + k)
  if bits r 156 8 = 0x38 ∧ fn < 3 then
    some (.stack ⟨fn, .add, false, 0, 0, BitVec.ofNat 64 (free 0), 0, 0, 0, BitVec.ofNat 64 (free 1), dreg⟩ none)
  else if bits r 156 8 = 0x39 ∧ fn < 4 then
    some (.bank ⟨fn, false, BitVec.ofNat 64 (free 0), 0, [], 64 * (free 2 % 3072), 0, 0, 0, false, 0, dreg⟩)
  else none

/-- R283, R298: the command of a record comes back: the saved one that it names, or a new one of the issuer that it gives. -/
def State.recordBack (s : State) (saved : List Nat) (pa : Nat) (serving : Bool) (step : Nat) : State × Option Nat :=
  let r := s.areaNat pa 64
  match (saved.filterMap s.op).find? fun o => s.recordNames pa o with
  | some o => (s.setOp { o with kind := s.reissued pa serving step o.kind }, some o.id)
  | none => match s.recordKind pa with
    | some k =>
      let t : ThreadId := ⟨bits r 144 12, bits r 140 1 == 1, bits r 141 3⟩
      let d : Option Reg := if bits r 131 5 = 0 then none else some (.x (Fin.ofNat 32 (bits r 131 5)))
      (s.addOpOf t d (s.reissued pa serving step k), some s.nextOp)
    | none => (s, none)

/-- R295, R298: the commands of an area, in its order; what no record names stays in the save area. -/
def State.recordsBack (s : State) (saved : List Nat) (serving : Bool) (step : Nat) : List Nat → State × List Nat × List Nat
  | [] => (s, [], saved)
  | pa :: l =>
    let (t, id) := s.recordBack saved pa serving step
    let left := match id with | some n => saved.filter fun k => k != n | none => saved
    let (u, ids, rest) := t.recordsBack left false 0 l
    (u, id.toList ++ ids, rest)

/-- R295: RESTORE reloads registers, mode and owner, and puts the saved commands ahead of every newer one: what the queue has no
room for is back in the network (log 31, DESIGN CHOICE). -/
def State.reload (s : State) (pch at_ : Nat) : State :=
  let h := s.areaNat at_ 64
  let p := s.pch pch
  let sid := bits h 78 2
  let bank := fun (b : Nat) => s.areaNat (at_ + 64 + 320 * b) 320
  let x := (List.range 256).foldl (fun m i =>
    SMap.set (0 : BitVec 16) m (xregKey sid (i / 16) (i % 16)) (BitVec.ofNat 16 (bits (bank (i / 16)) (16 * (i % 16)) 16))) p.xreg
  let acc := (List.range 1024).foldl (fun m i =>
    SMap.set (0 : BitVec 32) m (accKey sid (i / 64) (i % 64)) (BitVec.ofNat 32 (bits (bank (i / 64)) (256 + 32 * (i % 64)) 32))) p.acc
  let mode := if bits h 80 1 = 1 then some (sid, bits h 112 12, bits h 108 1 == 1) else none
  let (s, ids, rest) := s.recordsBack p.saved (bits h 81 1 == 1) (bits h 88 7)
    ((s.areaRecords at_ (bits h 96 8) 5184).map (at_ + ·))
  s.setPch pch { p with
    xreg := x
    acc := acc
    mode := mode
    queue := (ids ++ p.queue).take 64
    saved := rest
    rsv := false
    busy := false }

/-- R295: the futures of dropped commands, where their context still exists; what resolves adds its delay (R384). -/
def State.dropQueued (s : State) (pch : Nat) : State :=
  (s.unperformed pch ++ (s.pch pch).saved.filterMap s.op).foldl (fun s o =>
    if !s.ctxExists (s.partOf o.core) o.ctx then s.removeOp o.id
    else match o.kind with
      | .stack c none => if c.fn = 2 then (s.bankDelay o c.pa).resolveFault o 52 c.ea else s.removeOp o.id
      | .bank c => (s.bankDelay o c.pa).resolveStatus o stCancelled 0
      | _ => s) s

/-- R295: SAVE writes the area through the slices, and the commands stand there. -/
def State.saveTo (s : State) (pch at_ : Nat) : State :=
  let l := s.saveArea pch
  let p := s.pch pch
  let q := (s.queued pch).map (·.id)
  let s := if at_ + l.length ≤ hbmEnd then (((s.ecc at_ l.length).sliceWrite at_ l).dramStore at_ l false) else s
  s.setPch pch { p with saved := p.saved ++ q, queue := s.performedIds pch, busy := false }

/-- R295: the operation that BKCTX began goes on: a SAVE reserves the pseudo-channel once the current command has finished, and
then ends, and BUSY clears. -/
def execBkctxComplete (pch : Nat) (s : State) : Host.Outcome State Fault Refusal :=
  let p := s.pch pch
  let at_ := p.area * 64
  .next (if !p.busy then s
    else match p.op with
      | 1 => if !p.rsv then (if s.finishing pch then s else s.setPch pch { p with rsv := true }) else s.saveTo pch at_
      | 2 =>
        let s := s.ecc at_ (min 42048 (max 64 (bits (s.areaNat at_ 64) 32 32)))
        if s.areaOk pch at_ then s.reload pch at_ else s.setPch pch { p with err := true, busy := false }
      | _ => (s.dropQueued pch).setPch pch { p with mode := none, queue := s.performedIds pch, saved := [], rsv := false, busy := false })

end Sys2Proof.Machine
end

