-- ==== Sys2Proof/Machine/Cox.lean ====
section
/-!
DEFINITION. The training path (22): gradient queues, the COX family, TILE_ARRIVE and TILE_MATCH.
-/
namespace Sys2Proof.Machine

/-! ## Gradient queues (R332-R335) -/

/-- R332: the key of queue q of cox core k, its configuration, and the fields of it. -/
def queueKey (core q : Nat) : Nat := 8 * (core - 2048) + q
def State.queueCfg (s : State) (key : Nat) : Word := SMap.get 0 s.gqcfg key
def qcV (w : Word) : Bool := w.getLsbD 23
def qcCtx (w : Word) : Bool := w.getLsbD 17
def qcPart (w : Word) : Nat := bits w.toNat 13 4
def qcFp32 (w : Word) : Bool := w.getLsbD 7
def qcBlocks (w : Word) : Nat := bits w.toNat 0 7

/-- R332: the cox core and the queue of a queue word. -/
def qwCore (w : Word) : Nat := bits w.toNat 0 12
def qwQueue (w : Word) : Nat := bits w.toNat 12 3

/-- R332: a queue that the current thread's context may use. -/
def State.queueMine (s : State) (key : Nat) : Bool :=
  let w := s.queueCfg key
  qcV w && qcPart w == s.partOf s.cur.core && qcCtx w == s.cur.ctx

/-- R334: the queue word names a queue of the issuer. -/
def State.queueWordOk (s : State) (w : Word) : Bool :=
  decide (w.toNat < 2 ^ 15 ∧ 2048 ≤ qwCore w ∧ qwCore w < 2144) && s.queueMine (queueKey (qwCore w) (qwQueue w))

/-- R334: a tag that a tile of a type accepts. -/
def tileTag (fp32_ : Bool) (t : BitVec 16) : Bool :=
  (tagFmt t == (if fp32_ then 5 else 4) && tagScale t == 0) || (tagZero t && tagScale t == 0) || tagConst t

/-- R334: the source blocks, lowest address first. -/
def State.tileSource (s : State) (fp32_ : Bool) (at_ : Nat) : Nat → Except Stop Unit
  | 0 => .ok ()
  | n + 1 => do
    s.tileSource fp32_ at_ n
    let a : Word := BitVec.ofNat 64 (at_ + 64 * n)
    let t := s.cc.tag (at_ + 64 * n)
    s.spadEcc [a] 64
    failIf (tagPoison t) 29 a
    failIf (tagB t) 26 a
    failIf (!tileTag fp32_ t) 30 a

/-- R334, R335: the tiles that a core has outstanding at a queue: the credit of one that a GQR takes returns once it is written whole (log 122,
DEDUCED). -/
def State.outstanding (s : State) (core key : Nat) : Nat :=
  (s.ops.filter fun o => match o.kind with
    | .gqw k q _ _ _ => o.core == core && queueKey k q == key
    | .delivery k _ sender _ => sender == core && k == key
    | _ => false).length
    + (s.tiles.filter fun t => t.sender == core && t.queue == key).length

/-- R334: GQW; its blocks are read now. -/
def execGqw (o : Fmt Bool) (s : State) : Host.Outcome State Fault Refusal :=
  s.slot o.pred (do
    let (a, b, _) ← s.sources o
    let w := a.word
    let n := o.imm.toNat % 128
    s.noBounded [a, b]
    failIf (decide (b.word.toNat % 64 ≠ 0)) 4 b.word
    s.dataRange 5 [(b.word.toNat, 64 * n)]
    failIf (!s.queueWordOk w) 7 w
    s.tileSource o.mod b.word.toNat n
    if 4 ≤ s.outstanding s.cur.core (queueKey (qwCore w) (qwQueue w)) then .error (.park .none)
    else .ok ((s.watch false false b.word.toNat (64 * n)).start o.d
      (.gqw (qwCore w) (qwQueue w) o.mod w (s.cc.bytes b.word.toNat (64 * n)))))

/-- R335: GQR; A names the queue by a register or IMM. -/
def execGqr (o : Fmt Bool) (s : State) : Host.Outcome State Fault Refusal :=
  s.slot o.pred (do
    let (a, b, c) ← s.sources o
    s.noBounded [b, c]
    if 7 < a.word.toNat then s.pcTrap 2
    let key := queueKey s.cur.core a.word.toNat
    failIf (!s.queueMine key) 7 a.word
    failIf (decide (c.word.toNat % 64 ≠ 0)) 6 c.word
    s.dataRange 7 [(c.word.toNat, 64 * qcBlocks (s.queueCfg key))]
    .ok (s.start o.d (.gqr key (if o.mod then none else some b.word.toNat) c.word.toNat)))

/-- R335: may a waiting GQR take a tile of a sender at a queue? -/
def gqrTakes (k : OpKind) (key sender : Nat) : Bool :=
  match k with
  | .gqr q from_ _ => q == key && (match from_ with
    | some r => r == sender
    | none => true)
  | _ => false

/-- R335: the first GQR, in issue order, that takes a tile of a sender (log 35, DEDUCED). -/
def State.waitingGqr (s : State) (key sender : Nat) : Option Op := s.ops.find? fun o => gqrTakes o.kind key sender && !o.cancelled

/-- R335: a GQR has its tile, which goes to its destination from now on. -/
def State.deliverTile (s : State) (o : Op) (t : Tile) : State :=
  match o.kind with
  | .gqr key _ dst => s.setOp { o with kind := .delivery key dst t.sender t.bytes }
  | _ => s

/-- R335: some of the words that are left of a tile reach their place; the last of them resolve the GQR. -/
def State.deliverWords (s : State) (o : Op) (key dst sender : Nat) (rest : List Byte) : State :=
  let n := s.someWords rest.length
  let tag := mkTag false (if qcFp32 (s.queueCfg key) then 5 else 4) 0
  let s := s.setCoreCtx o.core o.ctx ((s.coreCtx o.core o.ctx).readInto dst (rest.take n) tag)
  if rest.length ≤ n then s.resolveStatus o stOk sender
  else s.setOp { o with kind := .delivery key (dst + n) sender (rest.drop n) }

/-- R332: the bytes that the queue buffer of a cox core holds. -/
def State.bufferBytes (s : State) (core : Nat) : Nat :=
  ((s.tiles.filter fun t => t.queue / 8 == core - 2048).map fun t => t.bytes.length).sum

/-- R335: the tiles of one sender to one queue arrive in the order of their GQWs. -/
def State.tileTurn (s : State) (o : Op) (key : Nat) : Bool :=
  s.ops.all fun p => decide (o.id ≤ p.id) || p.core != o.core || (match p.kind with
    | .gqw k q _ _ _ => queueKey k q != key
    | _ => true)

/-- R334, R335: a tile reaches its queue; one that finds the buffer full goes straight to a GQR that waits for its sender,
once that GQR finds no tile in the queue that came before. -/
def execTileArrive (op : Nat) (s : State) : Host.Outcome State Fault Refusal :=
  match s.op op with
  | some o => match o.kind with
    | .gqw core q fp32_ word bytes =>
      let key := queueKey core q
      let w := s.queueCfg key
      if !s.tileTurn o key then .next s
      else if qcFp32 w != fp32_ || 64 * qcBlocks w != bytes.length then .next (s.resolveFault o 30 word)
      else
        let t : Tile := ⟨key, o.core, op, bytes⟩
        let room := decide (s.bufferBytes core + bytes.length ≤ 256 * 1024)
        if room then .next ({ s with tiles := s.tiles ++ [t] }.resolveStatus o stOk bytes.length)
        else match s.waitingGqr key o.core with
          | some g => .next (if s.tiles.any fun u => u.queue == key && gqrTakes g.kind key u.sender then s
              else (s.deliverTile g t).resolveStatus o stOk bytes.length)
          | none => .next s
    | _ => .next s
  | none => .next s

/-- R335: the oldest tile that a GQR may take and that no earlier GQR takes first. -/
def State.tileFor (s : State) (o : Op) (key : Nat) : Option Tile :=
  (s.tiles.find? fun t => t.queue == key && gqrTakes o.kind key t.sender).filter fun t =>
    (s.waitingGqr key t.sender).map (fun g => g.id) == some o.id

/-- R335: a tile is matched to a GQR, and its words reach their place; with the last of them its credit returns. A GQR that was
cancelled before resolves. -/
def execTileMatch (op : Nat) (s : State) : Host.Outcome State Fault Refusal :=
  match s.op op with
  | some o => match o.kind with
    | .gqr key _ _ =>
      if o.cancelled then .next (s.resolveStatus o stCancelled 0)
      else match s.tileFor o key with
        | some t => .next ({ s with tiles := s.tiles.filter fun u => u.op != t.op }.deliverTile o t)
        | none => .next s
    | .delivery key dst sender rest => .next (s.deliverWords o key dst sender rest)
    | _ => .next s
  | none => .next s

/-! ## OUPD (R338-R340) -/

/-- A field of the parameter block. -/
def prm (p lo : Nat) : FVal := fp32.decode (bits p lo 32)

/-- The exact operations of R339, each rounded once, with its events. -/
def rAdd (a b : Nat) : Nat × Flags := floatAdd .fp32 .rne (fp32.decode a) (fp32.decode b)
def rSub (a b : Nat) : Nat × Flags := floatAdd .fp32 .rne (fp32.decode a) (fp32.decode b).neg
def rMul (a b : Nat) : Nat × Flags := floatMul .fp32 .rne (fp32.decode a) (fp32.decode b)
def rDiv (a b : Nat) : Nat × Flags := floatDiv .fp32 .rne (fp32.decode a) (fp32.decode b)
def rSqrt (a : FVal) : Nat × Flags := floatSqrt .fp32 .rne a

/-- A result with the events so far. -/
def withFlags (f : Flags) (r : Nat × Flags) : Nat × Flags := (r.1, f.or r.2)

/-- R339: c, with its events; a signalling MAXN is an input of the comparison (R55). -/
def clipFactor (sum : Word) (maxn : Nat) : Nat × Flags :=
  let (n, f) := rSqrt (fp64.decode sum.toNat)
  let x := fp32.decode n
  if x.isNan then (fp32.nanCode, f)
  else if (FVal.fin false 0 0).lt (fp32.decode maxn) && (fp32.decode maxn).lt x then withFlags f (rDiv maxn n)
  else (0x3F800000, f.or (fp32.round .rne (fp32.decode maxn)).2)

/-- A lane of w, m and v as OUPD leaves it. -/
structure OptLane where
  w : Nat
  m : Nat
  v : Nat
  f : Flags
deriving DecidableEq, Repr

/-- R339: one lane. -/
def optLane (p c g w m v : Nat) : OptLane :=
  let lr := bits p 0 32
  let b1 := bits p 32 32
  let b2 := bits p 64 32
  let one := 0x3F800000
  let (t1, f1) := rSub one b1
  let (t2, f2) := rSub one b2
  let (h, f3) := rMul g c
  let (a1, f4) := rMul b1 m
  let (a2, f5) := rMul t1 h
  let (m', f6) := rAdd a1 a2
  let (a3, f7) := rMul b2 v
  let (a4, f8) := rMul t2 h
  let (a5, f9) := rMul a4 h
  let (v', f10) := rAdd a3 a5
  let (a6, f11) := rMul v' (bits p 224 32)
  let (a7, f12) := rSqrt (fp32.decode a6)
  let (d, f13) := rAdd a7 (bits p 96 32)
  let (a8, f14) := rMul m' (bits p 192 32)
  let (u, f15) := rDiv a8 d
  let (a9, f16) := rMul (bits p 128 32) w
  let (a10, f17) := rAdd u a9
  let (a11, f18) := rMul lr a10
  let (w', f19) := rSub w a11
  ⟨w', m', v', orFlags [f1, f2, f3, f4, f5, f6, f7, f8, f9, f10, f11, f12, f13, f14, f15, f16, f17, f18, f19]⟩

/-- The bytes of the parameter block; a POISON block has no payload that the spec fixes (log 10, DESIGN CHOICE). -/
def State.paramBlock (s : State) (at_ : Nat) : Nat :=
  bytesToNat ((List.range 64).map fun i =>
    if tagPoison (s.cc.tag at_) then Config.freeByte (at_ + i) s.tick else s.cc.byte (at_ + i))

/-- The VAs of w, m and v (R338). -/
def optAddrs (w : Word) (p : Nat) : List Word :=
  [w, w + BitVec.ofNat 64 (bits p 256 64), w + BitVec.ofNat 64 (bits p 320 64)]

/-- R340: two of three blocks of 32 bytes overlap. -/
def blocksMeet (l : List Word) : Bool :=
  match l with
  | [a, b, c] => [(a, b), (a, c), (b, c)].any fun p => decide ((p.1 - p.2).toNat < 32 ∨ (p.2 - p.1).toNat < 32)
  | _ => false

/-- R340: the pages of w, m and v. -/
def State.optLeaves (s : State) : List Word → Except Stop (List (Word × TlbEntry))
  | [] => .ok []
  | a :: r =>
    match s.translate a .bank with
    | .error e => .error e
    | .ok leaf => (s.optLeaves r).map fun l => (a, leaf) :: l

/-- R281, R285, R286: a plain access that the current thread makes now has its turn, and no earlier one of its own waits. -/
def State.plainOpen (s : State) (pch : Nat) : Bool :=
  s.accessTurn s.nextOp pch && s.ops.all fun p => decide (p.owner ≠ s.cur) || !(s.plainPchs p).contains pch

/-- R340: the record and the trap of a block of w, m or v that cannot be read. -/
def State.optTrap (s : State) (addr : Nat) (tval : Word) : Stop :=
  let n := s.windowCount (.frame (addr / 2 ^ 21)) s.now
  .trapIn (s.unitError (s.partOf s.cur.core) s.cur.ctx 4 1 s.cur.core addr 0 s.iss.pc.toNat 56 s.cur.thr n) 56 tval

/-- R340: the gradient block, read: an uncorrectable word makes it POISON, and one record names OUPD and cause 56. -/
def State.gradientEcc (s : State) (g : Word) (n : Nat) : Except Stop Unit :=
  let read := fun (s : State) (unit : Nat) (w : Nat) =>
    s.badWord s.cur.core s.cur.ctx unit s.iss.pc.toNat 56 s.cur.thr w
  match s.cc.badIn [g.toNat] n with
  | w :: l => .error (.trapIn (l.foldl (fun s w => read s 0 w) (read s 4 w)) 56 g)
  | [] =>
    if tagPoison (s.cc.tag g.toNat) then
      .error (.trapIn (s.unitError (s.partOf s.cur.core) s.cur.ctx 4 1 s.cur.core g.toNat 0 s.iss.pc.toNat 56 s.cur.thr
        (s.windowCount (.bank s.cur.core (bankOfWord (g.toNat / 8))) s.now)) 56 g)
    else .ok ()

/-- R339: the gradient of a lane; BF16 is the upper half of FP32. -/
def State.gradient (s : State) (bf : Bool) (at_ i : Nat) : Nat :=
  if bf then s.spadNat (at_ + 2 * i) 2 * 2 ^ 16 else s.spadNat (at_ + 4 * i) 4

/-- R339: a block of eight words as it is posted. -/
def optElems (va : Word) (pa : Nat) (l : List Nat) : List ElemReq :=
  (List.range 4).map fun i => ⟨i, pa + 8 * i, va.toNat + 8 * i,
    BitVec.ofNat 64 (l.getD (2 * i) 0 + 2 ^ 32 * l.getD (2 * i + 1) 0)⟩

/-- R339, R340: OUPD once its parameter block is read: the rest of the checks, the reads, the eight lanes, and the three
writes as plain stores (log 56, DEDUCED). -/
def State.optimise (s : State) (o : Fmt Bool) (a b c : Src) : Except Stop State := do
  let gb := if o.mod then 16 else 32
  let at_ := o.imm.toNat
  let g := b.word.toNat
  let p := s.paramBlock at_
  let l := optAddrs a.word p
  failIf (decide (p / 2 ^ 384 ≠ 0 ∨ bits p 256 64 % 32 ≠ 0 ∨ bits p 320 64 % 32 ≠ 0) || blocksMeet l) 30 (immWord o.imm)
  failIf (decide (a.word.toNat % 32 ≠ 0)) 6 a.word
  let leaves ← s.optLeaves l
  match leaves.find? fun q => q.2.cls != 1 with
  | some q => .error (.trap 52 q.1)
  | none =>
    failIf (tagB (s.cc.tag g)) 26 b.word
    let pas := leaves.map fun q => (q.1, q.2.paOf q.1.toNat)
    if !pas.all fun q => s.plainOpen (s.pchOf q.2) then .error (.park .none)
    let s := s.eccAllFor (s.reader 56) (pas.map fun q => (q.2, 32))
    match pas.find? fun q => tagPoison (s.blockTag q.2) with
    | some q => .error (s.optTrap q.2 q.1)
    | none =>
      s.gradientEcc b.word gb
      let word := fun (k i : Nat) => match pas[k]? with
        | some q => s.dramNat (q.2 + 4 * i) 4
        | none => 0
      let (cf, f) := clipFactor c.word (bits p 160 32)
      let r := (List.range 8).map fun i => optLane p cf (s.gradient o.mod g i) (word 0 i) (word 1 i) (word 2 i)
      let s := (s.watchAll false false [(at_, 64), (g, gb)]).raise (orFlags (f :: r.map (·.f)))
      let vals := [r.map (·.w), r.map (·.m), r.map (·.v)]
      .ok ((pas.zip vals).foldl (fun (t : State) q => t.addOp none (.bankStore 8 (optElems q.1.1 q.1.2 q.2) false true)) s)

/-- R338, R340: OUPD: the checks before its parameter block is read, and then the rest (log 56, DEDUCED). -/
def execOupd (o : Fmt Bool) (s : State) : Host.Outcome State Fault Refusal :=
  s.slot o.pred (do
    let (a, b, c) ← s.sources o
    let gb := if o.mod then 16 else 32
    let at_ := o.imm.toNat
    let g := b.word.toNat
    s.noBounded [a, b, c]
    failIf (decide (at_ % 64 ≠ 0)) 4 (immWord o.imm)
    failIf (decide (g % gb ≠ 0)) 4 b.word
    s.dataRange 5 [((immWord o.imm).toNat, 64), (g, gb)]
    let s := s.spadScrubFor (s.reader 0) s.cur.core s.cur.ctx at_ 64
    keepIn s (s.optimise o a b c))

end Sys2Proof.Machine
end

