-- ==== Sys2Proof/Machine/Matrix.lean ====
section
/-!
DEFINITION. The quad matrix unit (12): operand words and tiles, the checks of R186, accumulators, the MATRIX family but
TOPKC, and the dispatch, end and stream-fill events.
-/
namespace Sys2Proof.Machine

/-! ## Operand words and tiles (R177-R180) -/

def mwFmt (w : Word) : Nat := bits w.toNat 36 4
def mwPitch (w : Word) : Nat := bits w.toNat 18 18
def mwAddr (w : Word) : Nat := bits w.toNat 0 18
def mwSwz (w : Word) : Bool := w.getLsbD 41
def mwOrd (w : Word) : Bool := w.getLsbD 40
def mwCm (w : Word) : Bool := w.getLsbD 45
def mwMate (w : Word) : Nat := bits w.toNat 42 3

/-- The element width of a format code. -/
def fmtBytes (f : Nat) : Nat := if f ≤ 2 then 1 else if f ≤ 4 then 2 else 4
/-- R182: the chunk of a format. -/
def chunkOf (f : Nat) : Nat := if f ≤ 2 then 64 else 32

/-- R177: the bits of an operand word that must be zero. -/
def mwReserved (w : Word) : Bool := decide (w.toNat / 2 ^ 46 ≠ 0) || (!mwCm w && mwMate w != 0)
/-- R179: the alignment, and the placement of a tile with some stored rows of some bytes. -/
def mwMisplaced (w : Word) (rows len : Nat) : Bool :=
  let n := if mwSwz w || mwOrd w then 256 else 64
  decide (mwAddr w % n ≠ 0 ∨ mwPitch w % n ≠ 0) || (mwOrd w && decide (1 < rows) && decide (mwPitch w < len))

/-- The stored rows of a tile of some outer and inner size, and their length in bytes. -/
def tileRows (w : Word) (u v : Nat) : Nat := if mwOrd w then v else u
def tileLen (w : Word) (u v : Nat) : Nat := (if mwOrd w then u else v) * fmtBytes (mwFmt w)

/-- R178: where element (u, v) lies. -/
def tileAt (w : Word) (u v : Nat) : Nat :=
  let r := if mwOrd w then v else u
  let b := (if mwOrd w then u else v) * fmtBytes (mwFmt w)
  mwAddr w + r * mwPitch w + (if mwSwz w then b / 256 * 256 + swizzle r (b % 256) else b)

/-- The 8-byte words that a tile touches. -/
def tileWords (w : Word) (u v : Nat) : List Nat :=
  ((List.range (tileRows w u v)).map fun r => (List.range ((tileLen w u v + 7) / 8)).map fun i =>
    mwAddr w + r * mwPitch w + (if mwSwz w then i * 8 / 256 * 256 + swizzle r (i * 8 % 256) else i * 8)).flatten

/-- A number into a rising list without repeats. -/
def insertNat (n : Nat) : List Nat → List Nat
  | [] => [n]
  | m :: r => if n < m then n :: m :: r else if n = m then m :: r else m :: insertNat n r

/-- The blocks of a tile, in rising order. -/
def tileBlocks (w : Word) (u v : Nat) : List Nat :=
  ((tileWords w u v).map fun a => a / 64 * 64).eraseDups.foldr insertNat []

/-- R177: the core whose scratchpad holds the tile. -/
def tileCore (core : Nat) (w : Word) : Nat := if mwCm w then clusterCore (clusterOf core) (mwMate w) else core

/-- R179: the first byte of a tile that lies outside the data map. -/
def State.tileOutside (s : State) (w : Word) (u v : Nat) : Option Nat :=
  ((tileWords w u v).filter fun a => decide (s.dataEnd ≤ a)).foldl (fun m a => some (match m with
    | some b => min a b
    | none => a)) none

def State.tileRange (s : State) (write : Bool) (w : Word) (u v : Nat) : Except Stop Unit :=
  match s.tileOutside w u v with
  | some a => .error (.trap (if write then 7 else 5) (BitVec.ofNat 64 a))
  | none => .ok ()

/-- R180, R195: what is wrong with a block that a tile reads; `bounded` adds the test of B. An uncorrectable word comes before the
tag POISON (log 53, DEDUCED), and one that the tile itself does not touch counts too (log 127, DESIGN CHOICE). -/
def CoreCtx.blockFault (c : CoreCtx) (bounded : Bool) (f a : Nat) : Option Nat :=
  let t := c.tag a
  if c.badWords.any fun w => decide (a ≤ w * 8 ∧ w * 8 < a + 64) then some 28
  else if tagPoison t then some 29
  else if bounded && tagB t then some 26
  else if tagMalformed t || !(tagFmt t == f || tagZero t || tagConst t) then some 30
  else none

/-- The first block of a tile that fails. -/
def State.tileFault (s : State) (core : Nat) (ctx : Bool) (bounded : Bool) (w : Word) (u v : Nat) : Option (Nat × Nat) :=
  let c := s.coreCtx (tileCore core w) ctx
  (tileBlocks w u v).findSome? fun a => (c.blockFault bounded (mwFmt w) a).map fun k => (k, a)

/-- R68: the value of a code of a numeric format. -/
def fmtValue (f n : Nat) : FVal :=
  if f = 1 then .ofInt (signedLane 1 n) else if f = 2 then mk8Decode n else if f = 3 then fp16.decode n
  else if f = 4 then bf16.decode n else fp32.decode n

/-- A SCALE byte. -/
def scaleOf (t : BitVec 16) : Int := (BitVec.ofNat 8 (tagScale t)).toInt

/-- R69: the bits of an element, where the block may be ZERO or CONST, and its scaled value. -/
def elemBits (t : BitVec 16) (l : List Byte) : Nat :=
  if tagZero t then 0 else if tagConst t then bytesToNat (l.map fun _ => BitVec.ofNat 8 (tagScale t)) else bytesToNat l
def elemValue (f : Nat) (t : BitVec 16) (l : List Byte) : FVal :=
  let v := fmtValue f (elemBits t l)
  if tagZero t || tagConst t then v else v.scale (scaleOf t)

/-- R180, R181: what the unit has read of a scratchpad: the tag of a block, and bytes. -/
def Quad.tag (q : Quad) (core a : Nat) : BitVec 16 := SMap.get 0 q.seen (core * 4096 + a / 64)
def Quad.bytes (q : Quad) (core a n : Nat) : List Byte :=
  (List.range n).map fun i => SMap.get 0 q.got (core * 2 ^ 18 + a + i)

/-- Val of R183: element (u, v) of a tile. -/
def Quad.tileValue (q : Quad) (core : Nat) (w : Word) (u v : Nat) : FVal :=
  let k := tileCore core w
  let a := tileAt w u v
  elemValue (mwFmt w) (q.tag k a) (q.bytes k a (fmtBytes (mwFmt w)))

/-- R185: a block counts in BSO where an element lies above the largest finite FP32. -/
def blockOver (f : Nat) (t : BitVec 16) (l : List Byte) : Bool :=
  let n := fmtBytes f
  let top := fp32.decode 0x7F7FFFFF
  (List.range (64 / n)).any fun i => match elemValue f t ((l.drop (n * i)).take n) with
    | .nan _ => false
    | .inf _ => true
    | .fin _ m e => top.lt (.fin false m e)

/-- The B bits and the BSO blocks of what a tile reads. -/
def Quad.tileBounded (q : Quad) (core : Nat) (w : Word) (u v : Nat) : Bool :=
  (tileBlocks w u v).any fun a => tagB (q.tag (tileCore core w) a)
def Quad.tileOver (q : Quad) (core : Nat) (w : Word) (u v : Nat) : List (Nat × Nat) :=
  let k := tileCore core w
  ((tileBlocks w u v).filter fun a => blockOver (mwFmt w) (q.tag k a) (q.bytes k a 64)).map fun a => (k, a)

/-! ## Accumulators (R176, R183-R185) -/

/-- The byte of element (i, j) of a slot. -/
def accAt (accf : Bool) (slot i j : Nat) : Nat :=
  if accf then 16384 * slot + 2 * (128 * i + j) else 32768 * slot + 4 * (128 * i + j)
/-- The counter set, and the quarters, of a slot. -/
def accSet (accf : Bool) (slot : Nat) : Nat := if accf then slot else 2 * slot
def accQuarters (accf : Bool) (slot : Nat) : List Nat := if accf then [slot] else [2 * slot, 2 * slot + 1]

def CoreCtx.half (c : CoreCtx) (a : Nat) : BitVec 16 := SMap.get 0 c.acc (a / 2)
def CoreCtx.readAcc (c : CoreCtx) (accf : Bool) (slot i j : Nat) : Nat :=
  let a := accAt accf slot i j
  if accf then (c.half a).toNat else (c.half a).toNat + 2 ^ 16 * (c.half (a + 2)).toNat
def CoreCtx.writeAcc (c : CoreCtx) (accf : Bool) (slot i j n : Nat) : CoreCtx :=
  let a := accAt accf slot i j
  let l := SMap.set 0 c.acc (a / 2) (BitVec.ofNat 16 n)
  { c with acc := if accf then l else SMap.set 0 l (a / 2 + 1) (BitVec.ofNat 16 (n / 2 ^ 16)) }

def CoreCtx.counter (c : CoreCtx) (k : Nat) : Counters := SMap.get Counters.initial c.counters k
def CoreCtx.setCounter (c : CoreCtx) (k : Nat) (v : Counters) : CoreCtx :=
  { c with counters := SMap.set Counters.initial c.counters k v }
/-- R183: a counter saturates at 0xFFFF. -/
def bump (n : BitVec 16) (by_ : Nat) : BitVec 16 := BitVec.ofNat 16 (min (n.toNat + by_) 0xFFFF)

/-- The generator of a column. -/
def CoreCtx.gen (c : CoreCtx) (j : Nat) : BitVec 32 := SMap.get 0 c.gens j ^^^ lfsrLoad (BitVec.ofNat 32 j)
def CoreCtx.setGen (c : CoreCtx) (j : Nat) (v : BitVec 32) : CoreCtx :=
  { c with gens := SMap.set 0 c.gens j (v ^^^ lfsrLoad (BitVec.ofNat 32 j)) }

/-- The largest finite BF16, and the absolute value of a number. -/
def bf16Top : FVal := bf16.decode 0x7F7F
def FVal.abs : FVal → FVal
  | .nan x => .nan x
  | .inf _ => .inf false
  | .fin _ m e => .fin false m e

/-- R183, R184: Acc: the accumulator takes a sum, rounded once. -/
def CoreCtx.accumulate (c : CoreCtx) (accf : Bool) (slot i col : Nat) (sum : FVal) : CoreCtx :=
  let k := accSet accf slot
  let n := c.counter k
  let old := c.readAcc accf slot i col
  let t := (FVal.add .rne (if accf then bf16.decode old else fp32.decode old) sum).1
  if accf then
    let (rb, g) := lfsrDraw (c.gen col)
    let r := bf16.roundSR t rb
    let sat := !t.isNan && !t.abs.lt bf16Top && !(t.eq (bf16.decode r))
    let c := c.setGen col g
    let c := if t.isNan then c.setCounter k { n with nan := bump n.nan 1 }
      else if sat then c.setCounter k { n with sat := bump n.sat 1 } else c
    c.writeAcc accf slot i col r
  else
    let r := (fp32.round .rne t).1
    if t.isNan then (c.setCounter k { n with nan := bump n.nan 1 }).writeAcc accf slot i col r
    else if r % 2 ^ 31 = 0x7F800000 then (c.setCounter k { n with sat := bump n.sat 1 }).writeAcc accf slot i col (r - 1)
    else c.writeAcc accf slot i col r

/-- R183: the exact sum of a chunk. -/
def dotChunk (a b : Nat → FVal) (k0 : Nat) : Nat → FVal
  | 0 => .fin false 0 0
  | 1 => ((a k0).mul (b k0)).1
  | n + 1 => (FVal.add .rne (dotChunk a b k0 n) ((a (k0 + n)).mul (b (k0 + n))).1).1

/-- R183: the chunks of a product, in order: rows, and columns by j. -/
def CoreCtx.product (c : CoreCtx) (accf : Bool) (slot col0 m n kc chunks : Nat) (a b : Nat → Nat → FVal) : CoreCtx :=
  (List.range chunks).foldl (fun c ch => (List.range m).foldl (fun c i => (List.range n).foldl (fun c j =>
    c.accumulate accf slot i (col0 + j) (dotChunk (a i) (b j) (ch * kc) kc)) c) c) c

/-- R185: the counters of a set that crossed their thresholds. -/
def crossed (thr : Word) (old new : Counters) : Nat :=
  let one := fun (lo b : Nat) (x y : BitVec 16) =>
    let t := bits thr.toNat lo 16
    if t ≠ 0 ∧ x.toNat < t ∧ t ≤ y.toNat then 2 ^ b else 0
  one 0 0 old.sat new.sat + one 16 1 old.nan new.nan + one 32 2 old.bso new.bso

/-- The B bits of the quarters of a slot. -/
def CoreCtx.markQuarters (c : CoreCtx) (accf : Bool) (slot : Nat) (b : Bool) : CoreCtx :=
  (accQuarters accf slot).foldl (fun c k => c.setCounter k { c.counter k with b := (c.counter k).b || b }) c

/-- The end of a product: BSO, B and the counters that crossed. -/
def CoreCtx.settle (before c : CoreCtx) (accf : Bool) (slot big : Nat) (b : Bool) : CoreCtx × Option (Nat × Nat) :=
  let k := accSet accf slot
  let n := c.counter k
  let c := (c.setCounter k { n with bso := bump n.bso big }).markQuarters accf slot b
  let x := crossed c.mxthr (before.counter k) (c.counter k)
  (c, if x = 0 then none else some (k, x))

/-! ## The checks at issue (R186) -/

/-- The shape in IMM (R182), and its limits (R182, R188). -/
def mxM (imm : BitVec 32) : Nat := bits imm.toNat 0 7
def mxN (imm : BitVec 32) : Nat := bits imm.toNat 7 8
def mxK (imm : BitVec 32) : Nat := bits imm.toNat 15 10
def mxCol (imm : BitVec 32) : Nat := bits imm.toNat 25 7
def tileShapeOk (imm : BitVec 32) : Bool := decide (1 ≤ mxM imm ∧ mxM imm ≤ 64 ∧ 1 ≤ mxN imm ∧ mxN imm ≤ 128 ∧ mxCol imm + mxN imm ≤ 128)
def mmaShapeOk (imm : BitVec 32) : Bool := tileShapeOk imm && decide (1 ≤ mxK imm ∧ mxK imm ≤ 512 ∧ mxK imm % 32 = 0)

/-- R176: the slot lies beyond the context. -/
def State.slotBeyond (s : State) (m : MatMod) : Bool :=
  s.split2 s.cur.core && decide ((if m.accf then 2 else 1) ≤ m.slot.val)

/-- The slot check: TVAL is the slot number. -/
def State.slotCheck (s : State) (m : MatMod) : Except Stop Unit := failIf (s.slotBeyond m) 30 (BitVec.ofNat 64 m.slot.val)

/-- R174: a MATRIX operation enters the dispatch queue, which holds two that have not started; `status` is what it resolves with
at its head where its weights are out of range (R187). -/
def State.enqueue (s : State) (i : Instr) (a b c : Word) (op : Option Nat) (status : Word) : Except Stop State :=
  let k := s.cc
  if 2 ≤ k.dispatch.length then .error (.park .none)
  else .ok (s.setCc { k with
    dispatch := k.dispatch ++ [⟨s.cur.core, s.cur.ctx, s.cur.thr, i, s.iss.pc, a, b, c, op, status, none⟩] })

/-- R174, R186: a synchronous operation: its group has issued, and commits or traps by the judgement at its service start. -/
def State.matrixSync (s : State) (checks : Except Stop Unit) (i : Instr) (a b : Word) : Except Stop Word :=
  match s.th.verdict with
  | some (.pass v) => .ok v
  | some (.trap c v) => .error (.trap c v)
  | _ => do
    checks
    let s ← s.enqueue i a b 0 none 0
    .error (.hand (s.setTh { s.th with wait := .service, verdict := some .waiting }))

/-- R182: MMA (log 52, DEDUCED). -/
def execMma (o : Fmt MatMod) (s : State) : Host.Outcome State Fault Refusal :=
  s.slot o.pred (do
    let (a, b, c) ← s.sources o
    let x := a.word
    let y := b.word
    let m := mxM o.imm
    let n := mxN o.imm
    let k := mxK o.imm
    let f := mwFmt x
    let checks : Except Stop Unit := do
      s.noBounded [a, b, c]
      failIf (!mmaShapeOk o.imm) 2 s.iss.pc
      failIf (mwReserved x) 30 x
      failIf (mwReserved y) 30 y
      failIf (!decide (1 ≤ f ∧ f ≤ 4)) 30 x
      failIf (mwFmt y != f) 30 y
      failIf (k % chunkOf f != 0 || (decide (3 ≤ f) && decide (64 < n ∨ 256 < k))) 30 x
      s.slotCheck o.mod
      failIf (mwMisplaced x (tileRows x m k) (tileLen x m k)) 30 x
      failIf (mwMisplaced y (tileRows y n k) (tileLen y n k)) 30 y
      s.tileRange false x m k
      s.tileRange false y n k
    let _ ← s.matrixSync checks (.mma o) x y
    .ok s)

/-- R188: ACZ. -/
def execAcz (o : Fmt MatMod) (s : State) : Host.Outcome State Fault Refusal :=
  s.slot o.pred (do
    let _ ← s.sources o
    let _ ← s.matrixSync (s.slotCheck o.mod) (.acz o) 0 0
    .ok s)

/-- R188: the format that the view and the direction accept. -/
def accFormat (accf : Bool) (f : Nat) : Bool := f == 4 || (f == 5 && !accf)

/-- R188: the checks of ACLD and ACST. -/
def State.tileChecks (s : State) (write : Bool) (o : Fmt MatMod) (a : Src) : Except Stop Unit := do
  let x := a.word
  let m := mxM o.imm
  let n := mxN o.imm
  s.noBounded [a]
  failIf (!tileShapeOk o.imm) 2 s.iss.pc
  failIf (mwReserved x) 30 x
  failIf (!accFormat o.mod.accf (mwFmt x)) 30 x
  failIf (tileLen x m n % 64 != 0) 30 x
  s.slotCheck o.mod
  failIf (mwMisplaced x (tileRows x m n) (tileLen x m n)) 30 x
  s.tileRange write x m n

/-- R188: ACLD. -/
def execAcld (o : Fmt MatMod) (s : State) : Host.Outcome State Fault Refusal :=
  s.slot o.pred (do
    let (a, _, _) ← s.sources o
    let _ ← s.matrixSync (s.tileChecks false o a) (.acld o) a.word 0
    .ok s)
/-- R188: ACST. -/
def execAcst (o : Fmt MatMod) (s : State) : Host.Outcome State Fault Refusal :=
  s.slot o.pred (do
    let (a, _, _) ← s.sources o
    let _ ← s.matrixSync (s.tileChecks true o a) (.acst o) a.word 0
    .ok s)
/-- R189: MXSEED. -/
def execMxseed (o : Fmt Unit) (s : State) : Host.Outcome State Fault Refusal :=
  s.slot o.pred (do
    let (a, _, _) ← s.sources o
    let _ ← s.matrixSync (s.noBounded [a]) (.mxseed o) a.word 0
    .ok s)
/-- R189: MXSTAT; its result is present at the next group. -/
def execMxstat (o : Fmt ClrMod) (s : State) : Host.Outcome State Fault Refusal :=
  s.slot o.pred (do
    let _ ← s.sources o
    let set := o.imm.toNat % 4
    let v ← s.matrixSync (failIf (s.split2 s.cur.core && decide (2 ≤ set)) 30 (BitVec.ofNat 64 set)) (.mxstat o) 0 0
    .ok (s.land o.d (v.setWidth 256) false 1))
/-- R189: MXTHR. -/
def execMxthr (o : Fmt Unit) (s : State) : Host.Outcome State Fault Refusal :=
  s.slot o.pred (do
    let (a, _, _) ← s.sources o
    let _ ← s.matrixSync (s.noBounded [a]) (.mxthr o) a.word 0
    .ok s)

/-! ## MMV (R187) -/

def swPitch (w : Word) : Nat := bits w.toNat 32 32
def swBatch (w : Word) : Nat := bits w.toNat 24 4
def swN (w : Word) : Nat := bits w.toNat 16 8
def swK (w : Word) : Nat := bits w.toNat 0 16

/-- The weight bytes of a stream. -/
def swTotal (f : Nat) (w : Word) : Nat := swN w * swK w * fmtBytes f

/-- R89, R187: every weight byte lies within LEN; with K = 0 there is none. -/
def streamInside (a w : Word) (f : Nat) (e : BitVec 128) : Bool :=
  decide (swK w = 0 ∨ handleOff a + (swN w - 1) * swPitch w + swK w * fmtBytes f ≤ heLen e)

/-- R187: the stream word's own limits. -/
def streamWordOk (w : Word) (f col : Nat) : Bool :=
  bits w.toNat 28 4 == 0
    && decide (swPitch w % 64 = 0 ∧ swK w * fmtBytes f ≤ swPitch w ∧ 1 ≤ swBatch w ∧ swBatch w ≤ 8
      ∧ 1 ≤ swN w ∧ swN w ≤ 128 ∧ col + swN w ≤ 128)

/-- R187: MMV; one whose weights leave the handle resolves when it heads its queue (log 57, DEDUCED). Its checks with
cause 30 come in the order reserved bits and FMT of the batch word, OFF of the handle, stream word, limits that the format sets, slot,
alignment of the batch tile (log 52, DEDUCED). -/
def execMmv (o : Fmt MatMod) (s : State) : Host.Outcome State Fault Refusal :=
  s.slot o.pred (do
    let (a, b, c) ← s.sources o
    let x := b.word
    let w := c.word
    let f := mwFmt x
    s.noBounded [a, b, c]
    let s := s.touchHandle a.word
    keepIn s (do
      let e ← s.handleCheck a.word false
      failIf (mwReserved x) 30 x
      failIf (!decide (1 ≤ f ∧ f ≤ 4)) 30 x
      failIf (decide (handleOff a.word % 64 ≠ 0)) 30 a.word
      failIf (!streamWordOk w f (mxCol o.imm)) 30 w
      failIf (swK w % chunkOf f != 0 || decide ((if f ≤ 2 then 1024 else 512) < swK w)) 30 x
      s.slotCheck o.mod
      failIf (mwMisplaced x (tileRows x (swBatch w) (swK w)) (tileLen x (swBatch w) (swK w))) 30 x
      s.tileRange false x (swBatch w) (swK w)
      let op := s.nextOp
      let s ← s.enqueue (.mmv o) a.word x w (some op) (if streamInside a.word w f e then 0 else statusWord stBounds 0)
      .ok (s.start o.d (.matrix true))))

/-- The blocks of a stream, as handle offsets, in the order of the rows. -/
def streamBlocks (a w : Word) (f : Nat) : List Nat :=
  ((List.range (swN w)).map fun j => (List.range (swK w * fmtBytes f / 64)).map fun i =>
    handleOff a + j * swPitch w + 64 * i).flatten

/-- A weight (j, k) of the filled stream buffer. -/
def Quad.weight (q : Quad) (f k row col : Nat) : FVal :=
  let n := fmtBytes f
  let at_ := row * (k * n) + col * n
  match q.fill[at_ / 64]? with
  | some (l, t) => elemValue f t ((l.drop (at_ % 64)).take n)
  | none => .fin false 0 0

/-! ## Service (R175, R180, R183, R188) -/

/-- What a cut of the dispatch queue leaves. -/
def State.setDispatch (s : State) (core : Nat) (ctx : Bool) (l : List MatrixCmd) : State :=
  s.setCoreCtx core ctx { s.coreCtx core ctx with dispatch := l }

/-- The answer to an operation that fails at the start of its service. -/
def State.matrixFail (s : State) (q : MatrixCmd) (cause : Nat) (tval : Word) : State :=
  match q.op.bind s.op with
  | some o => s.resolveFault o cause tval
  | none => s.judge ⟨q.core, q.ctx, q.thr⟩ (.trap cause tval)

/-- R22, R186: a synchronous operation passed its checks at the start of its service: its group commits, and the thread waits
for the end of the service. -/
def State.matrixPass (s : State) (q : MatrixCmd) (v : Word) : State :=
  let t : ThreadId := ⟨q.core, q.ctx, q.thr⟩
  if q.op.isSome then s else s.setThread t { s.thread t with verdict := some (.pass v) }

/-- R180: an SRAM error that is met makes its block POISON. -/
def State.tileScrub (s : State) (q : MatrixCmd) (w : Word) (a : Nat) : State := 
  s.spadScrubFor ⟨q.pc.toNat, 28, q.thr⟩ (tileCore q.core w) q.ctx a 64

/-- R183: an MMA (log 54, DEDUCED). -/
def State.performMma (s : State) (u : Quad) (q : MatrixCmd) (o : Fmt MatMod) : State × Option (Nat × Nat) :=
  let m := mxM o.imm
  let n := mxN o.imm
  let k := mxK o.imm
  let c := s.coreCtx q.core q.ctx
  let kc := chunkOf (mwFmt q.a)
  let b := u.tileBounded q.core q.a m k || u.tileBounded q.core q.b n k
  let big := (u.tileOver q.core q.a m k ++ u.tileOver q.core q.b n k).eraseDups.length
  let d := c.product o.mod.accf o.mod.slot.val (mxCol o.imm) m n kc (k / kc) (u.tileValue q.core q.a) (u.tileValue q.core q.b)
  let (d, x) := c.settle d o.mod.accf o.mod.slot.val big b
  (s.setCoreCtx q.core q.ctx d, x)

/-- R187: an MMV whose weights stand in the stream buffer (log 54, DEDUCED). -/
def State.performMmv (s : State) (u : Quad) (q : MatrixCmd) (o : Fmt MatMod) : State × Option (Nat × Nat) :=
  let f := mwFmt q.b
  let k := swK q.c
  let m := swBatch q.c
  let c := s.coreCtx q.core q.ctx
  let kc := chunkOf f
  let b := u.tileBounded q.core q.b m k || u.fill.any fun p => tagB p.2
  let big := (u.tileOver q.core q.b m k).length + (u.fill.filter fun p => blockOver f p.2 p.1).length
  let d := c.product o.mod.accf o.mod.slot.val (mxCol o.imm) m (swN q.c) kc (k / kc) (u.tileValue q.core q.b) (u.weight f k)
  let (d, x) := c.settle d o.mod.accf o.mod.slot.val big b
  (s.setCoreCtx q.core q.ctx d, x)

/-- R188: the element that ACLD loads. -/
def loadConvert (accf : Bool) (f n : Nat) : Nat :=
  if accf || f == 5 then n else (fp32.round .rne (bf16.decode n)).1
/-- R188: the element that ACST stores. -/
def storeConvert (accf : Bool) (f n : Nat) : Nat :=
  if accf || f == 5 then n
  else
    let r := (bf16.round .rne (fp32.decode n)).1
    if r % 2 ^ 15 = 0x7F80 then r - 1 else r

/-- R188: ACLD. -/
def State.performLoadTile (s : State) (u : Quad) (q : MatrixCmd) (o : Fmt MatMod) : State :=
  let m := mxM o.imm
  let n := mxN o.imm
  let f := mwFmt q.a
  let k := tileCore q.core q.a
  let c := s.coreCtx q.core q.ctx
  let d := (List.range m).foldl (fun c i => (List.range n).foldl (fun c j =>
    let a := tileAt q.a i j
    c.writeAcc o.mod.accf o.mod.slot.val i (mxCol o.imm + j)
      (loadConvert o.mod.accf f (elemBits (u.tag k a) (u.bytes k a (fmtBytes f))))) c) c
  s.setCoreCtx q.core q.ctx (d.markQuarters o.mod.accf o.mod.slot.val (u.tileBounded q.core q.a m n))

/-- R188: what ACST stores, word by word: whole blocks, each with the tag of the tile's format. -/
def State.storeTileWords (s : State) (q : MatrixCmd) (o : Fmt MatMod) : List UnitStore :=
  let m := mxM o.imm
  let n := mxN o.imm
  let f := mwFmt q.a
  let c := s.coreCtx q.core q.ctx
  let b := (accQuarters o.mod.accf o.mod.slot.val).any fun k => (c.counter k).b
  let t := (List.range m).foldl (fun t i => (List.range n).foldl (fun (t : CoreCtx) j =>
    let v := storeConvert o.mod.accf f (c.readAcc o.mod.accf o.mod.slot.val i (mxCol o.imm + j))
    ((natToBytes (fmtBytes f) v).zipIdx).foldl (fun (t : CoreCtx) p => t.setByte (tileAt q.a i j + p.2) p.1) t) t)
    CoreCtx.initial
  (tileWords q.a m n).map fun a => ⟨tileCore q.core q.a, a, t.bytes a 8, some (mkTag b f 0)⟩

/-- R188: ACZ. -/
def CoreCtx.zeroSlot (c : CoreCtx) (m : MatMod) : CoreCtx :=
  let lo := accAt m.accf m.slot.val 0 0 / 2
  let c := { c with acc := c.acc.filter fun p => !decide (lo ≤ p.1 ∧ p.1 < lo + if m.accf then 8192 else 16384) }
  (accQuarters m.accf m.slot.val).foldl (fun c k => c.setCounter k { c.counter k with b := false }) c

/-- R189: MXSEED. -/
def CoreCtx.seed (c : CoreCtx) (seed : BitVec 32) : CoreCtx :=
  (List.range 128).foldl (fun c j => c.setGen j (lfsrLoad (seed ^^^ BitVec.ofNat 32 j))) c

/-- R189: a counter set as MXSTAT reads it. -/
def Counters.word (n : Counters) : Word := BitVec.ofNat 64 (packFields [(32, n.bso.toNat), (16, n.nan.toNat), (0, n.sat.toNat)])

/-- R188: an ACLD block that is neither ZERO nor CONST has SCALE 0 (log 55, DEDUCED). -/
def State.scaledBlock (s : State) (q : MatrixCmd) (m n : Nat) : Option (Nat × Nat) :=
  let c := s.coreCtx (tileCore q.core q.a) q.ctx
  ((tileBlocks q.a m n).find? fun a => let t := c.tag a; !tagZero t && !tagConst t && tagScale t != 0).map fun a => (30, a)

/-- The lower of two failing blocks. -/
def firstOf (x y : Option (Nat × Nat)) : Option (Nat × Nat) :=
  match x, y with
  | some a, some b => if b.2 < a.2 then some b else some a
  | some a, none => some a
  | none, y => y

/-! ### TOPKC (R195-R197) -/

/-- The shape in IMM (R192), and the addresses of the output word (R193). -/
def tkRows (imm : BitVec 32) : Nat := bits imm.toNat 0 11
def tkCols (imm : BitVec 32) : Nat := bits imm.toNat 11 8
def tkPicks (imm : BitVec 32) : Nat := bits imm.toNat 19 7
def tkIdx (w : Word) : Nat := bits w.toNat 0 18
def tkVal (w : Word) : Nat := bits w.toNat 18 18

/-- R196: Before. -/
def ranksBefore (min_ : Bool) (a b : Nat × FVal) : Bool :=
  if a.2.isNan then b.2.isNan && decide (a.1 < b.1)
  else if b.2.isNan then true
  else if a.2.eq b.2 then decide (a.1 < b.1)
  else if min_ then a.2.lt b.2 else b.2.lt a.2

/-- A row into the ranking. -/
def rankInto (min_ : Bool) (a : Nat × FVal) : List (Nat × FVal) → List (Nat × FVal)
  | [] => [a]
  | b :: r => if ranksBefore min_ a b then a :: b :: r else b :: rankInto min_ a r

/-- R196: the rows that a column chooses, by rank. -/
def Quad.ranking (u : Quad) (q : MatrixCmd) (o : Fmt TopkMod) (col : Nat) : List (Nat × FVal) :=
  (((List.range (tkRows o.imm)).map fun r => (r, u.tileValue q.core q.a r col)).foldr (rankInto o.mod.dir) []).take
    (tkPicks o.imm)

/-- R196, R197: the outputs, and the status. -/
def Quad.performTopk (u : Quad) (q : MatrixCmd) (o : Fmt TopkMod) : List UnitStore × Word :=
  let rows := tkRows o.imm
  let cols := tkCols o.imm
  let ranks := (List.range cols).map (u.ranking q o)
  let nans := ((List.range cols).map fun c =>
    ((List.range rows).filter fun r => (u.tileValue q.core q.a r c).isNan).length).sum
  let idx := (ranks.flatten.map fun p => natToBytes 4 p.1).flatten
  let val := (ranks.flatten.map fun p => natToBytes 4 (fp32.round .rne p.2).1).flatten
  let marks := (List.range rows).map fun r => BitVec.ofNat 8 (packFields
    (ranks.zipIdx.map fun p => (p.2, (p.1.any fun x => x.1 == r).toNat)))
  (wordStores q.core (tkIdx q.b) idx none ++ wordStores q.core (tkVal q.b) val none
    ++ (if o.mod.mark then wordStores q.core q.c.toNat marks none else []), statusWord stOk nans)

/-! ### The start and the end of a service -/

/-- What is wrong with the blocks that an operation reads, at the start of its service (log 53, DEDUCED). -/
def State.serviceFault (s : State) (q : MatrixCmd) : Option (Nat × Nat × Word) :=
  let tile := fun (b : Bool) (w : Word) (u v : Nat) => (s.tileFault q.core q.ctx b w u v).map fun p => (p.1, p.2, w)
  match q.instr with
  | .mma o => (tile false q.a (mxM o.imm) (mxK o.imm)).orElse fun _ => tile false q.b (mxN o.imm) (mxK o.imm)
  | .mmv _ => tile false q.b (swBatch q.c) (swK q.c)
  | .acld o => (firstOf (s.tileFault q.core q.ctx false q.a (mxM o.imm) (mxN o.imm))
      (s.scaledBlock q (mxM o.imm) (mxN o.imm))).map fun p => (p.1, p.2, q.a)
  | .topkc o => tile true q.a (tkRows o.imm) (tkCols o.imm)
  | _ => none

/-- The tiles that an operation reads. -/
def MatrixCmd.tiles (q : MatrixCmd) : List (Word × Nat × Nat) :=
  match q.instr with
  | .mma o => [(q.a, mxM o.imm, mxK o.imm), (q.b, mxN o.imm, mxK o.imm)]
  | .mmv _ => [(q.b, swBatch q.c, swK q.c)]
  | .acld o => [(q.a, mxM o.imm, mxN o.imm)]
  | .topkc o => [(q.a, tkRows o.imm, tkCols o.imm)]
  | _ => []

/-- R181, R185: the words of a tile, and what else its blocks hold, which BSO looks at (log 84, DEDUCED). -/
def wordsToRead (w : Word) (u v : Nat) : List Nat :=
  tileWords w u v ++ ((tileBlocks w u v).map fun a => (List.range 8).map fun i => a + 8 * i).flatten

/-- R180: the unit reads the tags of an operation's blocks; its words are still to be read (R181). -/
def State.beginReading (s : State) (u : Quad) (q : MatrixCmd) : Quad :=
  let words := (q.tiles.map fun t => (wordsToRead t.1 t.2.1 t.2.2).map fun a => (tileCore q.core t.1, a)).flatten.eraseDups
  let seen := q.tiles.foldl (fun m t => (tileBlocks t.1 t.2.1 t.2.2).foldl (fun m a =>
    let k := tileCore q.core t.1
    SMap.set 0 m (k * 4096 + a / 64) ((s.coreCtx k q.ctx).tag a)) m) []
  { u with stage := .reading, todo := words, got := [], seen := seen, outs := [] }

/-- The effect of an operation that has read its operands: the state, the word it answers with, the counters that crossed, and
what is still to be stored (log 30, DEDUCED). -/
def State.perform (s : State) (u : Quad) (q : MatrixCmd) : State × Word × Option (Nat × Nat) × List UnitStore :=
  let c := s.coreCtx q.core q.ctx
  match q.instr with
  | .mma o => let (s, x) := s.performMma u q o; (s, 0, x, [])
  | .mmv o => let (s, x) := s.performMmv u q o; (s, statusWord stOk (swTotal (mwFmt q.b) q.c), x, [])
  | .acz o => (s.setCoreCtx q.core q.ctx (c.zeroSlot o.mod), 0, none, [])
  | .acld o => (s.performLoadTile u q o, 0, none, [])
  | .acst o => (s, 0, none, s.storeTileWords q o)
  | .mxseed _ => (s.setCoreCtx q.core q.ctx (c.seed (q.a.setWidth 32)), 0, none, [])
  | .mxstat o =>
    let k := o.imm.toNat % 4
    let n := c.counter k
    (if o.mod.clr then s.setCoreCtx q.core q.ctx (c.setCounter k { Counters.initial with b := n.b }) else s, n.word, none, [])
  | .mxthr _ => (s.setCoreCtx q.core q.ctx { c with mxthr := BitVec.ofNat 64 (bits q.a.toNat 0 48) }, 0, none, [])
  | .topkc o => let (l, w) := u.performTopk q o; (s, w, none, l)
  | _ => (s, 0, none, [])

/-- R189: the word that a synchronous operation gives its group at the start of its service: MXSTAT's counters. -/
def State.startWord (s : State) (q : MatrixCmd) : Word :=
  match q.instr with
  | .mxstat o => ((s.coreCtx q.core q.ctx).counter (o.imm.toNat % 4)).word
  | _ => 0

/-- The head operation of a core's dispatch queue. -/
def State.matrixHead (s : State) (core : Nat) : Option MatrixCmd :=
  (s.coreCtx core (s.part (s.partOf core)).res).dispatch.head?

def isMmv : Instr → Bool
  | .mmv _ => true
  | _ => false

/-- FCANCEL took effect on the operation. -/
def State.matrixCancelled (s : State) (q : MatrixCmd) : Bool := match q.op.bind s.op with | some o => o.cancelled | none => false

/-- R175: the operation can start. -/
def State.canStart (s : State) (quad : Nat) (q : MatrixCmd) : Bool :=
  !isMmv q.instr || s.matrixCancelled q || q.status != 0 || ((s.quad quad).filled == q.op)

/-- R175: the next core of a quad whose head operation can start, after the one served last. -/
def State.nextMatrix (s : State) (quad : Nat) : Option MatrixCmd :=
  ((List.range 4).map fun i => quadCore quad (((s.quad quad).last + 1 + i) % 4)).findSome? fun k =>
    (s.matrixHead k).filter fun q => s.canStart quad q

/-- The stream buffer gives up what it holds for an operation. -/
def Quad.emptied (u : Quad) (q : MatrixCmd) : Quad :=
  if isMmv q.instr && u.filled == q.op then { u with filled := none, fill := [] } else u

/-- R175, R180: the unit starts the next head operation: it checks the blocks that the operation reads; one that fails, was
cancelled, has its weights out of range, or belongs to a group whose other slot traps (R22), ends at once with no effect. -/
def execMatrixDispatch (quad : Nat) (s : State) : Host.Outcome State Fault Refusal :=
  let u := s.quad quad
  if u.service.isSome then .next s
  else match s.nextMatrix quad with
    | none => .next s
    | some q =>
      let s := s.setDispatch q.core q.ctx ((s.coreCtx q.core q.ctx).dispatch.drop 1)
      let u := { u with last := coreInQuad q.core }
      let idle := s.setQuad quad (u.emptied q)
      match (if s.matrixCancelled q then q.op.bind s.op else none) with
      | some o => .next (idle.resolveStatus o stCancelled 0)
      | none =>
        if q.status ≠ 0 then .next (match q.op.bind s.op with
          | some o => idle.resolve o (q.status.setWidth 256) false .present
          | none => idle)
        else match s.serviceFault q with
        | some (k, a, w) =>
          let t := if k = 28 then idle.tileScrub q w a else idle
          .next (t.matrixFail q k (BitVec.ofNat 64 a))
        | none => .next (if q.op.isNone && (s.thread ⟨q.core, q.ctx, q.thr⟩).doomed
            then idle.judge ⟨q.core, q.ctx, q.thr⟩ (.pass (s.startWord q))
            else (s.setQuad quad { s.beginReading u q with service := some q }).matrixPass q (s.startWord q))

/-- R185: counters that crossed make a trap due. -/
def State.dueThreshold (s : State) (t : ThreadId) (x : Option (Nat × Nat)) : State :=
  match x with
  | none => s
  | some p =>
    let th := s.thread t
    s.setThread t { th with
      thresholds := if th.thresholds.any fun q => q.1 == p.1
        then th.thresholds.map fun q => if q.1 == p.1 then (q.1, q.2 ||| p.2) else q
        else th.thresholds ++ [p] }

/-- R174: the operation in service ends: its thread goes on, or its future resolves. -/
def State.endService (s : State) (quad : Nat) (q : MatrixCmd) : State :=
  let t : ThreadId := ⟨q.core, q.ctx, q.thr⟩
  let s := (s.setQuad quad { s.quad quad with service := none, got := [], seen := [] }).dueThreshold t q.cross
  match q.op.bind s.op with
  | some o => s.resolve o (q.status.setWidth 256) false .present
  | none =>
    let th := s.thread t
    if q.op.isNone && th.wait = .service then s.setThread t { th with wait := .none } else s

/-- R181: the unit reads a word; what an uncorrectable one holds is free (log 10, DESIGN CHOICE). -/
def State.readWord (s : State) (ctx : Bool) (m : SMap Byte) (p : Nat × Nat) : SMap Byte :=
  let c := s.coreCtx p.1 ctx
  let bad := !(c.badIn [p.2] 8).isEmpty
  ((c.bytes p.2 8).zipIdx).foldl (fun (m : SMap Byte) (b : Byte × Nat) =>
    SMap.set 0 m (p.1 * 2 ^ 18 + p.2 + b.2) (if bad then Config.freeByte (p.2 + b.2) s.tick else b.1)) m

/-- R103, R181: the unit reads some words of an operation; one that went bad in service makes its block POISON and has its
record, and no trap is left to take. -/
def State.readWords (s : State) (q : MatrixCmd) (m : SMap Byte) (l : List (Nat × Nat)) : State × SMap Byte :=
  (l.foldl (fun (s : State) p => s.spadScrubFor ⟨q.pc.toNat, 0, q.thr⟩ p.1 q.ctx p.2 8) s, l.foldl (s.readWord q.ctx) m)

/-- R174, R181, R197: the service goes on: the unit reads some words of the operands, performs the operation once it has them
all, stores some words of what it writes, and ends the operation. -/
def execMatrixOpDone (quad : Nat) (s : State) : Host.Outcome State Fault Refusal :=
  let u := s.quad quad
  match u.service with
  | none => .next s
  | some q => match u.stage with
    | .reading =>
      if u.todo.isEmpty then
        let (t, v, x, outs) := s.perform u q
        .next (t.setQuad quad { u.emptied q with service := some { q with status := v, cross := x }, stage := .writing, outs := outs })
      else
        let (l, rest) := s.someOf u.todo
        let (t, got) := s.readWords q u.got l
        .next (t.setQuad quad { u with todo := rest, got := got })
    | .writing =>
      if u.outs.isEmpty then .next (s.endService quad q)
      else
        let (l, rest) := s.someOf u.outs
        .next (l.foldl (fun (s : State) w => s.setCoreCtx w.core q.ctx ((s.coreCtx w.core q.ctx).unitStore true w))
          (s.setQuad quad { u with outs := rest }))

/-! ### The stream buffer (R187) -/

/-- The MMVs of a quad that have not started, in the order in which they entered their queues. -/
def State.quadStreams (s : State) (quad : Nat) : List (Nat × MatrixCmd) :=
  let all := ((List.range 4).map fun w =>
    let k := quadCore quad w
    (s.coreCtx k (s.part (s.partOf k)).res).dispatch.filter fun q => isMmv q.instr && q.status == 0).flatten
  all.filterMap fun q => q.op.map fun n => (n, q)

/-- The next stream to fill: the earliest, and the buffer is free. -/
def State.nextStream (s : State) (quad : Nat) : Option (Nat × MatrixCmd) :=
  if (s.quad quad).filled.isSome then none
  else (s.quadStreams quad).foldl (fun m p => match m with
    | some q => if p.1 < q.1 then some p else some q
    | none => some p) none

/-- R187: what is wrong with the weight blocks: the first one decides. -/
def streamFault (f : Nat) (a : Word) (l : List (Nat × List Byte × BitVec 16)) : Option (Nat × Word) :=
  (l.find? fun p => tagPoison p.2.2 || tagMalformed p.2.2
    || !(tagFmt p.2.2 == f || tagZero p.2.2 || tagConst p.2.2)).map fun p =>
    if tagPoison p.2.2 then (29, BitVec.ofNat 64 p.1) else (30, BitVec.ofNat 64 (handleIdx a * 2 ^ 40 + p.1))

/-- R187: a stream that ends in its fill leaves its queue. -/
def State.dropStream (s : State) (q : MatrixCmd) : State :=
  s.setDispatch q.core q.ctx ((s.coreCtx q.core q.ctx).dispatch.filter fun r => r.op != q.op)

/-- R285: the pseudo-channels of a stream from a BANK page. -/
def State.streamPchs (s : State) (e : BitVec 128) (l : List Nat) : List Nat :=
  if heCls e = 1 then (l.map fun a => s.pchOf (heBase e + a)).eraseDups else []
/-- R285: the stream waits at a pseudo-channel that is closed, and no more once it is read. -/
def State.streamArrive (s : State) (id pch : Nat) : State :=
  let p := s.pch pch
  if !s.accessHeld id pch || p.waiting.contains id then s else s.setPch pch { p with waiting := s.waitingLine pch ++ [id] }
def State.streamLeave (s : State) (id pch : Nat) : State :=
  let p := s.pch pch
  if p.waiting.contains id then s.setPch pch { p with waiting := p.waiting.filter fun i => i != id } else s

/-- R187: the weights of the next MMV are read whole, unless it was cancelled; a handle that is gone by then was read up to a
point nothing here fixes (log 34, DEDUCED). -/
def execStreamBufferFill (op : Nat) (s : State) : Host.Outcome State Fault Refusal :=
  match s.op op with
  | some o =>
    let quad := quadOf o.core
    match s.nextStream quad with
    | some (n, q) =>
      if n ≠ op then .next s
      else if o.cancelled then .next ((s.dropStream q).resolveStatus o stCancelled 0)
      else if s.entryHeld (s.partOf q.core) q.ctx q.a then .next s
      else
        let part := s.partOf q.core
        let reader : Reader := ⟨q.pc.toNat, 0, q.thr⟩
        let s := s.eccFor reader (s.handlePlace part q.ctx q.a) 16
        let e := s.handleEntry part q.ctx q.a
        let f := mwFmt q.b
        let partial_ := Config.outcome s.tick % max 1 (swTotal f q.c)
        let blocks := streamBlocks q.a q.c f
        let pchs := s.streamPchs e blocks
        if !heV e then .next ((s.dropStream q).resolveStatus o stRevoked partial_)
        else if heCls e == 2 && !s.pathTo (heRdev e) then .next ((s.dropStream q).resolveStatus o stLinkDown partial_)
        else if heCls e == 0 && blocks.any (fun a => s.reserved (heBase e + a) 64) then .next s
        else if !pchs.all (s.accessTurn op) then .next (pchs.foldl (State.streamArrive · op) s)
        else
          let s := pchs.foldl (State.streamLeave · op) s
          let s := if heCls e = 2 then s else s.eccAllFor reader (blocks.map fun a => (heBase e + a, 64))
          let l := blocks.map fun a =>
            let got := (List.range 64).map fun i => s.handleRead e (heBase e + a + i)
            (a, got.map (·.1), (s.handleRead e (heBase e + a)).2)
          match streamFault f q.a l with
          | some (29, v) => .next ((s.dropStream q).resolveStatus o stPoison v.toNat)
          | some (c, v) => .next ((s.dropStream q).resolveFault o c v)
          | none => .next (s.setQuad quad { s.quad quad with filled := some op, fill := l.map (·.2) })
    | none => .next s
  | none => .next s

/-! ## TOPKC (R192-R194) -/

/-- R194: two ranges share a byte. -/
def rangesMeet (a n b m : Nat) : Bool := decide (a < b + m ∧ b < a + n)

/-- R194: an output overlaps a byte of the tile in the issuing core's scratchpad. -/
def tileMeets (core : Nat) (w : Word) (u v a n : Nat) : Bool :=
  tileCore core w == core && (tileWords w u v).any fun t => rangesMeet t 8 a n

/-- R192: TOPKC (log 58, DEDUCED). -/
def execTopkc (o : Fmt TopkMod) (s : State) : Host.Outcome State Fault Refusal :=
  s.slot o.pred (do
    let (a, b, c) ← s.sources o
    let x := a.word
    let y := b.word
    let z := c.word
    let rows := tkRows o.imm
    let cols := tkCols o.imm
    let k := tkPicks o.imm
    let f := mwFmt x
    let n := 4 * (cols * k)
    let mk := o.mod.mark
    s.noBounded [a, b, c]
    failIf (!decide (1 ≤ rows ∧ rows ≤ 1024 ∧ 1 ≤ cols ∧ cols ≤ 128 ∧ 1 ≤ k ∧ k ≤ 64)) 2 s.iss.pc
    failIf (decide (rows < k ∨ 8192 < rows * cols ∨ 1024 < k * cols) || (mk && decide (8 < cols))) 30 x
    failIf (!decide (1 ≤ f ∧ f ≤ 5)) 30 x
    failIf (mwReserved x || mwMisplaced x (tileRows x rows cols) (tileLen x rows cols)) 30 x
    failIf (decide (y.toNat / 2 ^ 36 ≠ 0 ∨ tkIdx y % 64 ≠ 0 ∨ tkVal y % 64 ≠ 0)) 30 y
    failIf (mk && decide (z.toNat % 64 ≠ 0)) 30 z
    failIf (rangesMeet (tkIdx y) n (tkVal y) n || tileMeets s.cur.core x rows cols (tkIdx y) n
      || tileMeets s.cur.core x rows cols (tkVal y) n) 30 y
    failIf (mk && (rangesMeet (tkIdx y) n z.toNat rows || rangesMeet (tkVal y) n z.toNat rows
      || tileMeets s.cur.core x rows cols z.toNat rows)) 30 z
    s.tileRange false x rows cols
    s.dataRange 7 ([(tkIdx y, n), (tkVal y, n)] ++ if mk then [(z.toNat, rows)] else [])
    let op := s.nextOp
    let s ← s.enqueue (.topkc o) x y z (some op) 0
    .ok (s.start o.d (.matrix false)))

end Sys2Proof.Machine
end

