-- ==== Sys2Proof/Machine/Futures.lean ====
section
/-!
DEFINITION. The FUTURE family and the MSG family (08), and the messages between cores (08, 21).
-/
namespace Sys2Proof.Machine

/-! ## FUTURE (R122, R123) -/

/-- R123: FTEST neither parks nor traps on its register. -/
def execFtest (o : Fmt Bool) (s : State) : Host.Outcome State Fault Refusal :=
  s.slot o.pred (
    let st := (s.read o.imm o.a).st
    let r := if o.mod then (match st with | .faulted _ _ => true | _ => false) else st != .pending
    .ok (s.land o.d (BitVec.ofNat 256 r.toNat) false 1))

/-- R123: FCANCEL asks the operation bound to the register to stop. -/
def execFcancel (o : Fmt Unit) (s : State) : Host.Outcome State Fault Refusal :=
  s.slot o.pred (
    if (s.read o.imm o.a).st = .pending then
      match s.boundOp o.a with
      | some p => .ok (s.setOp { p with cancelled := true })
      | none => .ok s
    else .ok s)

/-- R123: FWAIT parks while one of its registers is pending. -/
def execFwait (o : Fmt Unit) (s : State) : Host.Outcome State Fault Refusal :=
  s.slot o.pred (
    if [o.a, o.b, o.c].any fun r => (s.read o.imm r).st == .pending then .error (.park .none) else .ok s)

/-- R123: FMOVC moves a value, a fault record or a binding into a c register and clears its source. -/
def execFmovc (o : Fmt Unit) (s : State) : Host.Outcome State Fault Refusal :=
  s.slot o.pred (match o.d, o.a with
    | .c n, .x m =>
      if (s.cc.readC n).st = .pending then .error (.park .none)
      else
        let cell := s.th.readX m
        let s := if cell.st = .pending then
            match s.boundOp o.a with
            | some p => s.setOp { p with dest := some (.c n) }
            | none => s
          else s
        .ok { s with iss := { s.iss with post := s.iss.post ++ [.store n cell, .clear m] } }
    | _, _ => .ok s)

/-! ## MSG (R127, R128) -/

def OpKind.isSend : OpKind → Bool | .send _ _ _ => true | _ => false

/-- R128: the cores a SEND may name: a compute core of the sender's partition, or a cox core that the steward assigned to the
sender's partition context through one of its gradient queues (R332; log 90, DEDUCED). -/
def State.mayReach (s : State) (dst : Nat) : Bool :=
  let part := s.partOf s.cur.core
  if dst < 2048 then (s.part part).holds (clusterOf dst)
  else decide (dst < 2144) && (List.range 8).any fun q =>
    let g := (SMap.get (0 : Word) s.gqcfg (8 * (dst - 2048) + q)).toNat
    bits g 23 1 == 1 && bits g 13 4 == part && bits g 17 1 == s.cur.ctx.toNat

/-- R128: SEND; the core holds at most 16 that are not acknowledged. -/
def execSend (o : Fmt SendMod) (s : State) : Host.Outcome State Fault Refusal :=
  s.slot o.pred (do
    let (a, b, _) ← s.sources o
    s.noBounded [a]
    let dst := a.word.toNat
    failIf (!s.mayReach dst) 7 a.word
    if 16 ≤ (s.ops.filter fun p => p.core == s.cur.core && p.kind.isSend).length then .error (.park .none)
    else .ok (s.addOp none (.send dst
      ⟨o.mod.inbox.val, b.word, b.b, s.cur.core, s.cur.thr, (s.taskOf s.cur.core s.cur.ctx).map (·.id), s.th.taskid⟩ false)))

/-- R127: an inbox that is not present takes the oldest waiting message for it. -/
def CoreCtx.refill (c : CoreCtx) (n : Nat) : CoreCtx :=
  if (c.readI n).st = .pending then
    match c.waiting.find? fun m => m.inbox == n with
    | some m => { (c.writeI n ⟨m.value, m.b, .present⟩) with waiting := c.waiting.erase m }
    | none => c
  else c

/-- R128: RECV takes the inbox, which becomes not present. -/
def execRecv (o : Fmt Unit) (s : State) : Host.Outcome State Fault Refusal :=
  s.slot o.pred (do
    let (a, _, _) ← s.sources o
    match o.a with
    | .i n => .ok ((s.setCc ((s.cc.writeI n.val inboxEmpty).refill n.val)).land o.d a.val a.b 1)
    | _ => .ok s)

/-! ## Messages on their way (R127, R321-R323) -/

/-- A core has a thread of a context that has not ended. -/
def State.hasThread (s : State) (ctx : Bool) (core : Nat) : Bool :=
  (List.range 8).any fun i =>
    let r := (s.thread ⟨core, ctx, i⟩).run
    r == .running || r == .stopped

/-- R322: does a core hold an unended thread of the task that sent a message? A cox core belongs to no task (R299): a
message to it, or from it, needs an unended thread of the context (log 90, DEDUCED). -/
def State.holdsThread (s : State) (m : Message) (ctx : Bool) (dst : Nat) : Bool :=
  (isCox dst || (match m.task with
      | some n => (s.task n).any fun t => t.stage == .placed && t.hasCore dst
      | none => true))
    && s.hasThread ctx dst

/-- R322, R323: a dead letter: it is dropped, counted and recorded. -/
def State.deadLetter (s : State) (ctx : Bool) (dst : Nat) (m : Message) : State :=
  let part := s.partOf m.core
  let p := s.pctx part ctx
  let s := s.setPctx part ctx { p with dead := p.dead + 1 }
  s.record (10000 + dst) part ctx false 0x33
    [(256, m.value.toNat), (224, m.taskid.toNat), (192, m.b.toNat), (176, dst), (168, m.inbox), (48, m.core), (45, m.thr)]

/-- R321: the record of a spilled message. -/
def spillRecord (dst : Nat) (m : Message) : List Byte :=
  natToBytes 16 (packFields
    [(64, m.value.toNat), (48, m.core), (45, m.thr), (18, 1), (17, m.b.toNat), (12, m.inbox), (0, dst)])

/-- R321: where the record of a spilled message stands in the save area of a context. -/
def PartCtx.spillAt (p : PartCtx) (i : Nat) : Nat := bits p.msgsave.toNat 4 36 * 16 + 16 * i

/-- R321: a message goes to the save area of its context, or is dropped where the area is full; where the area lies outside HBM
nothing reaches it (R70), and there is no room for a record either (log 49, DEDUCED). -/
def State.spill (s : State) (part : Nat) (ctx : Bool) (dst : Nat) (m : Message) : State :=
  let p := s.pctx part ctx
  if 256 * bits p.msgsave.toNat 48 16 ≤ p.spilled ∨ hbmEnd < p.spillAt p.spilled + 16 then s.deadLetter ctx dst m
  else
    ((s.ecc (p.spillAt p.spilled) 16).dramStore (p.spillAt p.spilled) (spillRecord dst m) false).setPctx part ctx
      { p with spilled := p.spilled + 1, spillers := p.spillers ++ [(m.task, m.taskid)] }

/-- R321: the messages that wait in a core's interface go to the save area of their context. -/
def State.spillWaiting (s : State) (part : Nat) (ctx : Bool) (core : Nat) : State :=
  let c := s.coreCtx core ctx
  c.waiting.foldl (fun s m => s.spill part ctx core m) (s.setCoreCtx core ctx { c with waiting := [] })

/-- R322: when the last thread of a core ends, the messages that wait in its interface are dead letters. -/
def State.dropWaiting (s : State) (core : Nat) (ctx : Bool) : State :=
  if s.hasThread ctx core then s
  else
    let c := s.coreCtx core ctx
    c.waiting.foldl (fun s m => s.deadLetter ctx core m) (s.setCoreCtx core ctx { c with waiting := [] })

/-- R127: a message is written to its inbox, or waits in the interface. -/
def CoreCtx.deliver (c : CoreCtx) (m : Message) : CoreCtx := { c with waiting := c.waiting ++ [m] }.refill m.inbox

/-- R127, R321, R322: a message reaches its core: it is written, waits, spills or is dropped; a full interface leaves it in
the network. Messages from one core to one inbox arrive in issue order; one that spills during a halt follows those that
wait in the interface. -/
def execMessageArrive (op : Nat) (s : State) : Host.Outcome State Fault Refusal :=
  match s.op op with
  | some o => match o.kind with
    | .send dst m false =>
      let earlier := s.ops.any fun p => decide (p.id < o.id) && p.core == o.core && (match p.kind with
        | .send d n false => d == dst && n.inbox == m.inbox
        | _ => false)
      let part := s.partOf o.core
      let arrived := fun (s : State) => s.setOp { o with kind := .send dst m true }
      let c := s.coreCtx dst o.ctx
      if earlier then .next s
      else if (s.part part).res != o.ctx || (s.part part).swapping then
        .next (arrived ((s.spillWaiting part o.ctx dst).spill part o.ctx dst m))
      else if !s.holdsThread m o.ctx dst then .next (arrived (s.deadLetter o.ctx dst m))
      else if (c.readI m.inbox).st ≠ .pending ∧ 32 ≤ c.waiting.length then .next s
      else .next (arrived (s.setCoreCtx dst o.ctx (c.deliver m)))
    | _ => .next s
  | none => .next s

/-- R128: the destination acknowledges a SEND that has arrived. -/
def execSendAck (op : Nat) (s : State) : Host.Outcome State Fault Refusal :=
  match s.op op with
  | some o => match o.kind with
    | .send _ _ true => .next (s.removeOp op)
    | _ => .next s
  | none => .next s

end Sys2Proof.Machine
end

