-- ==== Sys2Proof/Machine/Work.lean ====
section
/-!
DEFINITION. The families WORK (20) and DEQUE (21), with STEAL_PROBE.
-/
namespace Sys2Proof.Machine

/-! ## Ranks (R300-R303) -/

/-- R301, R306: the width of a field of the work identifier (log 29, DESIGN CHOICE). -/
def State.fieldWidth (s : State) (f : Nat) : Nat :=
  match s.taskOf s.cur.core s.cur.ctx with
  | some t => t.field (128 + 7 * f) 7
  | none => if isCox s.cur.core then Config.coxWidth s.cur.core f % 65 else 0

/-- R301: the boundary S_f. -/
def State.boundary (s : State) : Nat → Nat
  | 0 => 0
  | f + 1 => s.boundary f + s.fieldWidth f

/-- R303: WIDF. -/
def execWidf (o : Fmt Unit) (s : State) : Host.Outcome State Fault Refusal :=
  s.slot o.pred (do
    let _ ← s.sources o
    let f := o.imm.toNat % 8
    let v := s.th.rank.toNat / 2 ^ s.boundary f % 2 ^ s.fieldWidth f
    .ok (s.land o.d (BitVec.ofNat 256 (v % 2 ^ 64)) false 1))

/-- R239: a rectangle word. -/
def rectWord (x0 y0 x1 y1 : Nat) : Word := BitVec.ofNat 64 (packFields [(0, x0), (8, y0), (16, x1), (24, y1)])

/-- R303: the smallest rectangle that holds the cores with indices from i to j of a task (R300). -/
def Task.rectOf (t : Task) (i j : Nat) : Word :=
  let w := 4 * t.width
  if i / w = j / w then rectWord (t.x0 + i % w) (t.y0 + i / w) (t.x0 + j % w) (t.y0 + j / w)
  else rectWord t.x0 (t.y0 + i / w) t.x1 (t.y0 + j / w)

/-- R303: LVLRECT; a cox core lies in no rectangle (log 75, DEDUCED). -/
def execLvlrect (o : Fmt Unit) (s : State) : Host.Outcome State Fault Refusal :=
  s.slot o.pred (do
    let _ ← s.sources o
    let lvl := o.imm.toNat % 8
    match s.taskOf s.cur.core s.cur.ctx with
    | some t =>
      let n := 2 ^ s.boundary lvl
      let lo := s.th.rank.toNat / n * n
      let hi := min (lo + n - 1) (t.total - 1)
      .ok (s.land o.d ((t.rectOf (lo / t.threads) (hi / t.threads)).setWidth 256) false 1)
    | none => .error (.trap 51 (BitVec.ofNat 64 lvl)))

/-! ## Launch, trigger and end (R310) -/

/-- R310: what LAUNCH and TRIG wait for: the fence at DEVICE scope, and every bank command of the thread. -/
def State.beginLaunchFence (s : State) : State × FenceWait :=
  let (t, w) := s.beginFence 2
  (t, { w with ops := w.ops ++ t.bankPending t.cur fun _ => true })

/-- R310: the header as LAUNCH reads it. -/
def State.readHeader (s : State) (at_ : Nat) : BitVec 1024 := BitVec.ofNat 1024 (s.spadNat at_ 128)

/-- R310: LAUNCH. -/
def execLaunch (o : Fmt Unit) (s : State) : Host.Outcome State Fault Refusal :=
  s.slot o.pred (do
    let (a, _, _) ← s.sources o
    s.noBounded [a]
    let at_ := a.word
    failIf (decide (at_.toNat % 64 ≠ 0)) 4 at_
    failIf (decide (s.dataEnd < at_.toNat + 128)) 5 (BitVec.ofNat 64 (max at_.toNat s.dataEnd))
    s.spadEcc [at_] 128
    s.spadPoison [at_, at_ + 64]
    let s := s.watchAll false false [(at_.toNat, 128)]
    let n := s.nextTask
    let header := s.readHeader at_.toNat
    let task : Task := ⟨n, s.partOf s.cur.core, s.cur.ctx, some s.nextOp, .fencing, header, none, [], [], [], 0, 0, 0, 0, [], 0, false⟩
    let s := s.start o.d (.launch n)
    let s := { s with tasks := s.tasks ++ [task], nextTask := n + 1 }
    let (s, w) := s.beginLaunchFence
    .ok (s.setTh { s.th with wait := .fence w (.launch n) }))

/-- R310: TRIG. -/
def execTrig (o : Fmt Unit) (s : State) : Host.Outcome State Fault Refusal :=
  s.slot o.pred (
    let (s, w) := s.beginLaunchFence
    .ok (s.setTh { s.th with wait := .fence w .trigger }))

/-- R310, R185: a register of the current thread is pending, a bank command of it has not completed, or an MMV of it has not
resolved, though FMOVC moved its future. -/
def State.endBusy (s : State) : Bool :=
  s.th.x.any (fun p => p.2.st == .pending) || s.th.v.any (fun p => p.2.st == .pending)
    || !(s.bankPending s.cur fun _ => true).isEmpty
    || s.ops.any fun p => decide (p.owner = s.cur) && (match p.kind with
      | .matrix mmv => mmv
      | _ => false)

/-- R310: the thread counts toward the trigger, once. -/
def State.countTrigger (s : State) : State :=
  if s.th.triggered then s
  else
    let s := s.setTh { s.th with triggered := true }
    match s.taskOf s.cur.core s.cur.ctx with
    | some t => s.setTask { t with triggered := t.triggered + 1 }
    | none => s

/-- R310, R313: the thread has not counted toward a trigger that its task enables. -/
def State.owesTrigger (s : State) : Bool :=
  !s.th.triggered && (match s.taskOf s.cur.core s.cur.ctx with
    | some t => t.field 89 1 == 1
    | none => false)

/-- R310: END: empty groups until the landing buffer is empty, a wait until everything of the thread has resolved, and the
thread retires. One that still counts toward an enabled trigger performs TRIG's fence first, so that what it wrote
precedes what the trigger releases (R313; log 81, DEDUCED). -/
def execEnd (o : Fmt Unit) (s : State) : Host.Outcome State Fault Refusal :=
  s.slot o.pred (
    if s.iss.held ≠ 0 then .error (.hand s.emptyGroup)
    else if s.endBusy then .error (.park .none)
    else if s.owesTrigger then
      let (s, w) := s.beginLaunchFence
      .error (.hand (s.setTh { s.th with wait := .fence w .trigger }))
    else
      let s := (s.setCc (s.cc.publishAll s.cur.thr)).countTrigger
      .ok ((s.setTh { s.th with run := .ended }).dropWaiting s.cur.core s.cur.ctx))

/-! ## DEQUE (R324-R328) -/

def rangeLo (w : Word) : Nat := w.toNat % 2 ^ 32
def rangeHi (w : Word) : Nat := w.toNat / 2 ^ 32
def rangeOf (lo hi : Nat) : Word := BitVec.ofNat 64 (hi * 2 ^ 32 + lo)

/-- R326: DQPUSH. -/
def execDqpush (o : Fmt Unit) (s : State) : Host.Outcome State Fault Refusal :=
  s.slot o.pred (do
    let (a, _, _) ← s.sources o
    s.noBounded [a]
    let c := s.cc
    let ok := decide (rangeLo a.word < rangeHi a.word) && decide (c.deque.length + c.reserved < 16)
    let s := if ok then s.setCc { c with deque := c.deque ++ [a.word] } else s
    .ok (s.land o.d (BitVec.ofNat 256 ok.toNat) false 1))

/-- R326: DQPOP takes the bottom entry. -/
def execDqpop (o : Fmt Unit) (s : State) : Host.Outcome State Fault Refusal :=
  s.slot o.pred (do
    let _ ← s.sources o
    let c := s.cc
    let v := c.deque.getLast?.getD 0
    .ok ((s.setCc { c with deque := c.deque.dropLast }).land o.d (v.setWidth 256) false 1))

/-- R326: DQSPLIT takes the lower half of the bottom entry. -/
def execDqsplit (o : Fmt Unit) (s : State) : Host.Outcome State Fault Refusal :=
  s.slot o.pred (do
    let _ ← s.sources o
    let c := s.cc
    match c.deque.getLast? with
    | none => .ok (s.land o.d 0 false 1)
    | some w =>
      let k := rangeHi w - rangeLo w
      let m := rangeLo w + k / 2
      if k = 1 then .ok ((s.setCc { c with deque := c.deque.dropLast }).land o.d (w.setWidth 256) false 1)
      else
        let s := s.setCc { c with deque := c.deque.dropLast ++ [rangeOf m (rangeHi w)] }
        .ok (s.land o.d ((rangeOf (rangeLo w) m).setWidth 256) false 1))

/-- R327: the walk of victim -1: the thief's cluster from the next core on, then the task's other clusters on its die. -/
def State.stealWalk (s : State) : List Nat :=
  let core := s.cur.core
  let cl := clusterOf core
  let near := (List.range 7).map fun i => clusterCore cl ((coreInCluster core + 1 + i) % 8)
  match s.taskOf core s.cur.ctx with
  | some t =>
    let others := (List.range 255).map fun i => (cl + 1 + i) % 256
    near ++ (((others.filter fun k => t.clusters.contains k && k % 16 / 8 == cl % 16 / 8).map fun k =>
      (List.range 8).map fun w => clusterCore k w).flatten)
  | none => near

/-- R327: a victim that DQSTEAL may name; a cox core only itself. -/
def State.victimOk (s : State) (v : Word) : Bool :=
  if isCox s.cur.core then v.toNat == s.cur.core
  else v == BitVec.allOnes 64 || (match s.taskOf s.cur.core s.cur.ctx with
    | some t => decide (v.toNat < 2048) && t.hasCore v.toNat
    | none => false)

/-- R326: DQSTEAL (log 57, DEDUCED). -/
def execDqsteal (o : Fmt Unit) (s : State) : Host.Outcome State Fault Refusal :=
  s.slot o.pred (do
    let (a, _, _) ← s.sources o
    s.noBounded [a]
    failIf (!s.victimOk a.word) 54 a.word
    let c := s.cc
    if 16 ≤ c.deque.length + c.reserved then .ok (s.land o.d ((statusWord stBounds 0).setWidth 256) false 1)
    else
      let walk := a.word == BitVec.allOnes 64
      let s := s.setCc { c with reserved := c.reserved + 1 }
      .ok (s.start o.d (.steal walk (if walk then s.stealWalk else [a.word.toNat]) false
        ((s.taskOf s.cur.core s.cur.ctx).map (·.id)))))

/-- The thief's core still runs the task for which a steal reserved its entry. -/
def State.thiefStands (s : State) (o : Op) (task : Option Nat) : Bool := (s.taskOf o.core o.ctx).map (·.id) == task

/-- A steal ends: its reservation is released, and what it took goes to the bottom of the thief's deque, where that is still the deque
of its task. -/
def State.endSteal (s : State) (o : Op) (task : Option Nat) (got : Option Word) (code count : Nat) : State :=
  let c := s.coreCtx o.core o.ctx
  let s := if s.thiefStands o task then
      s.setCoreCtx o.core o.ctx { c with deque := c.deque ++ got.toList, reserved := c.reserved - 1 }
    else s
  s.resolveStatus o code count

/-- R326: the top entry of a victim's deque, halved: what stays, and what the thief takes. -/
def halveTop : List Word → Option (List Word × Word)
  | [] => none
  | w :: r =>
    let k := rangeHi w - rangeLo w
    let m := rangeLo w + k / 2
    if k = 1 then some (r, w) else some (rangeOf (rangeLo w) m :: r, rangeOf m (rangeHi w))

/-- R327: a core of the thief's task, as it stood at issue, with an unended thread. -/
def State.stealable (s : State) (o : Op) (task : Option Nat) (v : Nat) : Bool :=
  (match task with
    | some n => (s.task n).any fun t => t.stage == .placed && t.hasCore v
    | none => true) && s.hasThread o.ctx v

/-- R326, R327: a steal is performed at its next victim. One whose task has left the thief's core finds no victim any more (log 121,
DEDUCED). -/
def execStealProbe (op : Nat) (s : State) : Host.Outcome State Fault Refusal :=
  match s.op op with
  | some o => match o.kind with
    | .steal walk victims probed task =>
      if o.cancelled && !probed then .next (s.endSteal o task none stCancelled 0)
      else if !s.thiefStands o task then .next (s.endSteal o task none stOk 0)
      else match victims with
        | [] => .next (s.endSteal o task none stOk 0)
        | v :: r =>
          if walk && !s.stealable o task v then .next (s.setOp { o with kind := .steal walk r probed task })
          else
            let c := s.coreCtx v o.ctx
            match halveTop c.deque with
            | some (rest, got) =>
              .next ((s.setCoreCtx v o.ctx { c with deque := rest }).endSteal o task (some got) stOk (rangeHi got - rangeLo got))
            | none => .next (s.setOp { o with kind := .steal walk r true task })
    | _ => .next s
  | none => .next s

end Sys2Proof.Machine
end

