-- ==== Sys2Proof/Machine/Xbar.lean ====
section
/-!
DEFINITION. Pewter crossbar arrays (14): the XBAR family, the commands of an array, and the error bound of a product.
-/
namespace Sys2Proof.Machine

def arrayOf : OpKind → Option ArrayCmd
  | .array c => some c
  | _ => none

/-- R200: a command that came later goes before another in the queue of their array: both wait, one clk issued them, and its core
comes first in the quad. A clk for which CYCLE stands still (R378) counts as one with the clk before it (log 120, DEDUCED). -/
def arrayBefore (a b : Op × ArrayCmd) : Bool :=
  !b.2.started && a.2.clk == b.2.clk && decide (coreInQuad a.1.core < coreInQuad b.1.core)

/-- A command comes to a queue that stands with its last command first. -/
def joinArray (p : Op × ArrayCmd) : List (Op × ArrayCmd) → List (Op × ArrayCmd)
  | [] => [p]
  | q :: r => if arrayBefore p q then q :: joinArray p r else p :: q :: r

/-- R200: the commands of an array that have not completed, in the order of its queue. -/
def State.arrayQueue (s : State) (arr : Nat) : List (Op × ArrayCmd) :=
  ((s.ops.filterMap fun o => (arrayOf o.kind).bind fun c => if c.arr = arr then some (o, c) else none).foldl
    (fun l p => joinArray p l) []).reverse

/-! ## The checks at issue (R207, R208) -/

def xbN (imm : BitVec 32) : Nat := bits imm.toNat 0 10
def xbRow (imm : BitVec 32) : Nat := bits imm.toNat 10 9

/-- R208: the ranges of a command: read, and written. -/
def xbRanges (fn a b n : Nat) : List (Nat × Nat) × List (Nat × Nat) :=
  match fn with
  | 0 => ([(a, n)], [(b, 1024)])
  | 1 => ([(a, 256 * n)], [])
  | 2 => ([], [(a, 256 * n)])
  | 3 => ([], [])
  | 4 => ([], [(a, 2176)])
  | _ => ([(a, 2176)], [])

/-- R206: an XBMV on the watched array counts XBINJ down; the one that brings N to 0 is marked. -/
def State.countInjection (s : State) (fn sel : Nat) : State × Bool :=
  let w := s.th.xbinj
  let n := bits w.toNat 0 16
  if fn = 0 ∧ w.getLsbD 31 = true ∧ bits w.toNat 16 2 = sel then
    (s.setTh { s.th with xbinj := BitVec.ofNat 64 (packFields
      [(31, (decide (n ≠ 1)).toNat), (16, sel), (0, n - 1)]) }, n == 1)
  else (s, false)

/-- R200: a command of the current core's quad finds the queue of the selected array full. -/
def State.arrayFull (s : State) (c : Src) : Bool :=
  decide (c.word.toNat ≤ 3 ∧ 8 ≤ (s.arrayQueue (quadOf s.cur.core * 4 + c.word.toNat)).length)

/-- R207: the N and the ROW0 of a command. -/
def xbShapeOk (fn : Nat) (imm : BitVec 32) : Bool :=
  let n := xbN imm
  let max := if fn = 0 then 512 else if fn ≤ 2 then 64 else 0
  decide (n ≤ max ∧ (n = 0 ↔ max = 0) ∧ xbRow imm + n ≤ 512) && (decide (fn ≤ 2) || xbRow imm == 0)

/-- R200, R208: an XBAR command parks on a full queue and makes its checks when it issues. -/
def State.sendArray (s : State) (fn : Nat) (all : Bool) (o : Fmt Unit) : Host.Outcome State Fault Refusal :=
  s.slot o.pred (do
    let (a, b, c) ← s.sources o
    if s.arrayFull c then .error (.park .none)
    s.noBounded [a, b, c]
    failIf (!xbShapeOk fn o.imm) 2 s.iss.pc
    failIf (decide (3 < c.word.toNat)) 30 c.word
    let n := xbN o.imm
    let (rd, wr) := xbRanges fn a.word.toNat b.word.toNat n
    alignCheck 4 (rd.map fun r => (r.1, 64))
    alignCheck 6 (wr.map fun r => (r.1, 64))
    s.dataRange 5 rd
    s.dataRange 7 wr
    let arr := quadOf s.cur.core * 4 + c.word.toNat
    failIf (decide (fn ≤ 2) && !(s.array arr).calibrated) 48 c.word
    let (s, mark) := s.countInjection fn c.word.toNat
    .ok (s.start o.d (.array ⟨arr, fn, a.word.toNat, b.word.toNat, xbRow o.imm, n, all, mark, false, [], 0, [], none, s.cycle⟩)))

/-- R210: XBMV. -/
def execXbmv (o : Fmt Unit) (s : State) : Host.Outcome State Fault Refusal := s.sendArray 0 false o
/-- R211: XBPROG. -/
def execXbprog (o : Fmt Unit) (s : State) : Host.Outcome State Fault Refusal := s.sendArray 1 false o
/-- R212: XBVER. -/
def execXbver (o : Fmt Unit) (s : State) : Host.Outcome State Fault Refusal := s.sendArray 2 false o
/-- R213: XBCAL. -/
def execXbcal (o : Fmt Unit) (s : State) : Host.Outcome State Fault Refusal := s.sendArray 3 false o
/-- R214: XBRD. -/
def execXbrd (o : Fmt Unit) (s : State) : Host.Outcome State Fault Refusal := s.sendArray 4 false o
/-- R214: XBWR. -/
def execXbwr (o : Fmt Bool) (s : State) : Host.Outcome State Fault Refusal :=
  s.sendArray 5 o.mod ⟨o.pred, o.d, o.a, o.b, o.c, (), o.imm⟩

/-! ## The array (R198-R205) -/

def PewterArray.weight (p : PewterArray) (i j : Nat) : Int := SMap.get 0 p.w (256 * i + j)
def PewterArray.scaleOf (p : PewterArray) (j : Nat) : BitVec 16 := SMap.get 0 p.scale j
/-- R198: the weight of row i in reference column r. -/
def refWeight (i r : Nat) : Int := if i % 8 = r then 15 else if i % 8 = (r + 4) % 8 then -15 else 0

/-- R210: the input of row i: the bytes of a command drive the rows from ROW0 on. -/
def ArrayCmd.input (c : ArrayCmd) (i : Nat) : Int :=
  if c.row0 ≤ i then match c.data[i - c.row0]? with
    | some b => b.toInt
    | none => 0
  else 0

/-- The exact sum of a column and the sum of its magnitudes, over the rows that are driven. -/
def ArrayCmd.sums (c : ArrayCmd) (w : Nat → Int) : Int × Nat :=
  (List.range c.data.length).foldl (fun a k =>
    let i := c.row0 + k
    (a.1 + w i * c.input i, a.2 + (w i).natAbs * (c.input i).natAbs)) (0, 0)

/-- R201: does an FP32 code lie within the bound of a column? -/
def withinBound (scale : FVal) (sum : Int) (mag : Nat) (code : Nat) : Bool :=
  match fp32.decode code with
  | .fin n m e =>
    let centre := (scale.mul (.ofInt sum)).1
    let off := (FVal.add .rne (.fin n m e) centre.neg).1
    let radius := ((scale.mul (.ofInt (mag + 8))).1).scale (-6)
    let lo : FVal := match off with
      | .fin _ m e => .fin false m e
      | v => v
    let hi : FVal := match radius with
      | .fin _ m e => .fin false m e
      | v => v
    !hi.lt lo
  | _ => false

/-- R201: the output of a column of a product that resolves OK: any code within the bound (log 9, DESIGN CHOICE). -/
def productCode (free : Int) (scale : FVal) (sum : Int) (mag : Nat) : Nat :=
  let k := (free % 2 ^ 32).toNat
  if withinBound scale sum mag k then k else (fp32.round .rne (scale.mul (.ofInt sum)).1).1

/-- R202: the error of reference column r, in parts of 1/512 of its allowance (log 9, DESIGN CHOICE). -/
def State.refError (s : State) (r : Nat) : Nat := (Config.arrayOutput s.tick (256 + r)).natAbs

/-- R202: the largest error of the reference columns and the lowest column that attains it. -/
def State.worstRef (s : State) : Nat × Nat :=
  (List.range 8).foldl (fun a r => if a.1 < s.refError r then (s.refError r, r) else a) (s.refError 0, 0)

/-- R203, R204: the temperature that an array's sensor shows now (log 12, DESIGN CHOICE). -/
def State.tnow (s : State) (arr : Nat) : BitVec 16 := BitVec.ofInt 16 (Config.arrayTemperature s.tick arr)

/-! ## The start of a command (R209-R211, R214) -/

/-- R209: what is wrong with a source block; an uncorrectable word comes before the tag POISON, and that before B (log 53, DEDUCED); a
word of the block that the command does not read counts too (log 127, DESIGN CHOICE). -/
def CoreCtx.sourceFault (c : CoreCtx) (fn a : Nat) : Option Nat :=
  let t := c.tag a
  if c.badWords.any fun w => decide (a ≤ w * 8 ∧ w * 8 < a + 64) then some 28
  else if tagPoison t then some 29
  else if tagB t && fn != 0 then some 26
  else if !(tagFmt t == 0 && tagScale t == 0) && !(tagFmt t == 1 && tagScale t == 0) && !(tagZero t && tagScale t == 0)
    && !tagConst t then some 30
  else none

/-- R209: the source bytes, as INT8. -/
def CoreCtx.sourceByte (c : CoreCtx) (a : Nat) : Byte :=
  let t := c.tag a
  if tagZero t then 0 else if tagConst t then BitVec.ofNat 8 (tagScale t) else c.byte a

/-- R214: the first field of a calibration state block that XBWR refuses. -/
def badState (l : List Byte) : Option Nat :=
  if bytesToNat (l.take 2) ≠ 1 then some 0
  else (List.range 256).findSome? fun c =>
    let k := bytesToNat ((l.drop (64 + 8 * c)).take 2)
    if k / 2 ^ 10 % 32 = 31 then some (64 + 8 * c) else none

/-- A command begins its service with its source bytes. -/
def State.beginArray (s : State) (o : Op) (c : ArrayCmd) (l : List Byte) : State :=
  s.setOp { o with kind := .array { c with started := true, data := l } }

/-- R209, R211, R214: the source of a command is read; the lowest bad block decides. -/
def State.readSource (s : State) (o : Op) (c : ArrayCmd) : State :=
  let n := match c.fn with | 0 => c.n | 1 => 256 * c.n | _ => 2176
  let cc := s.coreCtx o.core o.ctx
  match (blocksOf c.a n).findSome? fun a => (cc.sourceFault c.fn a).map fun k => (k, a) with
  | some (29, a) => s.resolveStatus o stPoison (a - c.a)
  | some (k, a) =>
    let s := if k = 28 then s.spadScrubFor (o.reader 28) o.core o.ctx a 64 else s
    s.resolveFault o k (BitVec.ofNat 64 a)
  | none =>
    let l := (List.range n).map fun i => cc.sourceByte (c.a + i)
    let bad : Option Nat := match c.fn with
      | 1 => (List.range n).find? fun i => decide (15 < (cc.sourceByte (c.a + i)).toInt.natAbs)
      | 5 => badState l
      | _ => none
    match bad with
    | some i => s.resolveFault o 30 (BitVec.ofNat 64 (c.a + i))
    | none => s.beginArray o c l

/-- R203: the distance of the temperature from the last calibration. -/
def tooFar (a b : BitVec 16) : Bool := decide (32 < (a.toInt - b.toInt).natAbs)

/-- R200, R202, R203, R209, R210: an array starts the first of its commands. -/
def execArrayCommandStart (arr : Nat) (s : State) : Host.Outcome State Fault Refusal :=
  match s.arrayQueue arr with
  | [] => .next s
  | (o, c) :: _ =>
    let p := s.array arr
    if c.started then .next s
    else if o.cancelled then .next (s.resolveStatus o stCancelled 0)
    else match c.fn with
      | 0 =>
        if !p.calibrated then .next (s.resolveStatus o stDrift 0)
        else if tooFar (s.tnow arr) p.tcal then
          .next ((s.setArray arr { p with calibrated := false }).resolveStatus o stDrift 0)
        else .next (s.readSource o c)
      | 1 => .next (s.readSource o c)
      | 5 => .next (s.readSource o c)
      | _ => .next (s.beginArray o c [])

/-! ## The end of a command (R202, R210, R212-R214) -/

/-- The tag that a command gives the blocks it writes (R210, R212, R214). -/
def ArrayCmd.tag (c : ArrayCmd) : BitVec 16 := if c.fn = 0 then 0x8500 else if c.fn = 2 then 0x0100 else rawTag

/-- R210: a command has been performed: it writes its outputs word by word, and then answers. -/
def State.arrayAnswer (s : State) (o : Op) (c : ArrayCmd) (a : Nat) (l : List Byte) (w : Word) : State :=
  s.setOp { o with kind := .array { c with outs := wordStores o.core a l (some c.tag), answer := some w } }

/-- R210: some words of the outputs are written; a POISON block keeps its tag, but for XBRD (R214). -/
def State.arrayWrite (s : State) (o : Op) (c : ArrayCmd) : State :=
  let (l, rest) := s.someOf c.outs
  let s := l.foldl (fun (s : State) w => s.setCoreCtx o.core o.ctx ((s.coreCtx o.core o.ctx).unitStore (c.fn != 4) w)) s
  s.setOp { o with kind := .array { c with outs := rest } }

/-- R201, R202, R210: a product ends: within the bound, or with a drift that nothing bounds. -/
def State.endProduct (s : State) (o : Op) (c : ArrayCmd) : State :=
  let p := s.array c.arr
  let (e, r) := s.worstRef
  let drift := c.marked || decide (512 < e)
  let out := fun (j : Nat) =>
    let free := Config.arrayOutput s.tick j
    if drift then (free % 2 ^ 32).toNat
    else
      let (sum, mag) := c.sums fun i => p.weight i j
      productCode free (fp16.decode (p.scaleOf j).toNat) sum mag
  let l := ((List.range 256).map fun j => natToBytes 4 (out j)).flatten
  if drift then
    (s.setArray c.arr { p with
      calibrated := false
      drift := if c.marked then 0xFFFF else BitVec.ofNat 16 (min 0xFFFF (e / 2))
      driftcol := if c.marked then 8 else BitVec.ofNat 16 r }).arrayAnswer o c c.b l (statusWord stDrift 256)
  else s.arrayAnswer o c c.b l (statusWord stOk 256)

/-- R211, R213, R359: an array has a lasting fault, and its record names the command. -/
def State.arrayFault (s : State) (o : Op) (c : ArrayCmd) (event detail : Nat) : State :=
  s.errorWith (.array c.arr) event c.a detail fun s n lasts =>
    s.hwError (s.partOf o.core) o.ctx 5 event c.arr c.a detail o.pc.toNat 0 o.thr n lasts

/-- R213: a calibration ends. One that fails leaves GAIN and OFFSET as free values, and TCAL and DRIFT as they stood (log 13, DESIGN
CHOICE). -/
def State.endCalibration (s : State) (o : Op) (c : ArrayCmd) : State :=
  let p := s.array c.arr
  let col := fun (f : Nat → Nat → BitVec 16) => (List.range 264).foldl (fun m j => SMap.set (0 : BitVec 16) m j (f s.tick j)) []
  let p := { p with gain := col Config.calibratedGain, offset := col Config.calibratedOffset }
  if Config.calibrates (2048 * s.tick + c.arr) then
    (s.setArray c.arr { p with tcal := s.tnow c.arr, drift := 0, calibrated := true }).resolveStatus o stOk 264
  else ((s.setArray c.arr { p with calibrated := false }).arrayFault o c 4 0).resolveStatus o stDrift 0

/-- R204, R205: the calibration state block. -/
def State.stateBlock (s : State) (arr : Nat) : List Byte :=
  let p := s.array arr
  let head := natToBytes 64 (packFields [(0, 1), (16, if p.calibrated then 1 else 2), (32, p.tcal.toNat), (48, (s.tnow arr).toNat),
    (64, p.drift.toNat), (80, p.driftcol.toNat), (96, p.endur.toNat), (128, p.maxrow.toNat)])
  head ++ ((List.range 264).map fun c => natToBytes 8 (packFields
    [(0, if c < 256 then (p.scaleOf c).toNat else 0x3C00), (16, (SMap.get (0 : BitVec 16) p.gain c).toNat),
     (32, (SMap.get (0 : BitVec 16) p.offset c).toNat)])).flatten

/-- R214: XBWR. -/
def PewterArray.restore (p : PewterArray) (all : Bool) (l : List Byte) : PewterArray :=
  let field := fun (c at_ : Nat) => BitVec.ofNat 16 (bytesToNat ((l.drop (64 + 8 * c + at_)).take 2))
  let col := fun (m : SMap (BitVec 16)) (n at_ : Nat) => (List.range n).foldl (fun m c => SMap.set 0 m c (field c at_)) m
  let p := { p with scale := col p.scale 256 0 }
  if all then
    { p with
      gain := col p.gain 264 2
      offset := col p.offset 264 4
      tcal := BitVec.ofNat 16 (bytesToNat ((l.drop 4).take 2))
      calibrated := false }
  else p

/-- R211-R214: the command in service is performed. -/
def State.arrayPerform (s : State) (o : Op) (c : ArrayCmd) : State :=
  let p := s.array c.arr
  match c.fn with
  | 0 => s.endProduct o c
  | 1 => if c.n ≤ c.rows then s.resolveStatus o stOk c.n else s
  | 2 =>
    let l := ((List.range c.n).map fun k => (List.range 256).map fun j => BitVec.ofInt 8 (p.weight (c.row0 + k) j)).flatten
    s.arrayAnswer o c c.a l (statusWord stOk c.n)
  | 3 => s.endCalibration o c
  | 4 => s.arrayAnswer o c c.a (s.stateBlock c.arr) (statusWord stOk 2176)
  | _ => (s.setArray c.arr (p.restore c.all c.data)).resolveStatus o stOk 2176

/-- R200, R210: the command in service goes on: it is performed, writes some of its outputs, and completes after the last of
them (log 30, DEDUCED). -/
def execArrayCommandDone (arr : Nat) (s : State) : Host.Outcome State Fault Refusal :=
  match s.arrayQueue arr with
  | [] => .next s
  | (o, c) :: _ =>
    .next (if !c.started then s
      else match c.answer with
        | none => s.arrayPerform o c
        | some w => if c.outs.isEmpty then s.resolve o (w.setWidth 256) false .present else s.arrayWrite o c)

/-- R211: the weights of a row, and the counts of one more programming. -/
def PewterArray.programRow (p : PewterArray) (row : Nat) (w : Nat → Int) : PewterArray :=
  let n := SMap.get 0 p.rowCount row + 1
  { p with
    w := (List.range 256).foldl (fun m j => SMap.set 0 m (256 * row + j) (w j)) p.w
    endur := p.endur + 1
    rowCount := SMap.set 0 p.rowCount row n
    maxrow := if p.maxrow.toNat < n then BitVec.ofNat 32 n else p.maxrow }

/-- R209, R211, R215: a row is programmed and verified, or fails: it then holds weights that nothing fixes (log 13, DESIGN
CHOICE). A cancel and a swap stop the command at the end of the row. -/
def execRowProgram (arr : Nat) (s : State) : Host.Outcome State Fault Refusal :=
  match s.arrayQueue arr with
  | [] => .next s
  | (o, c) :: _ =>
    if !c.started || c.fn != 1 || decide (c.n ≤ c.rows) then .next s
    else
      let p := s.array arr
      let row := c.row0 + c.rows
      if Config.rowVerifies s.tick c.rows then
        let w := fun (j : Nat) => match c.data[256 * c.rows + j]? with
          | some b => b.toInt
          | none => 0
        let s := s.setArray arr (p.programRow row w)
        .next (if o.cancelled then s.resolveStatus o stCancelled (c.rows + 1)
          else s.setOp { o with kind := .array { c with rows := c.rows + 1 } })
      else
        let w := fun (j : Nat) => clampInt (-15) 15 (Config.rowCode s.tick j)
        .next (((s.setArray arr (p.programRow row w)).arrayFault o c 3 c.rows).resolveStatus o stPoison c.rows)

end Sys2Proof.Machine
end

