-- ==== Sys2Proof/Machine/Tasks.lean ====
section
/-!
DEFINITION. Tasks (20), partitions and launch units (21), and the checksums of their outputs (26): LAUNCH_READ,
PLACEMENT_EVALUATE, TASK_RETIRE, CHECKSUM, TASK_REMOVE, PARTCFG_WRITE and LPORT_WRITE.
-/
namespace Sys2Proof.Machine

/-! ## A task and its header (R306) -/

def Task.prio (t : Task) : Nat := t.field 86 2
def Task.pinned (t : Task) : Bool := t.field 74 1 == 1
def Task.px (t : Task) : Nat := t.field 75 4
def Task.py (t : Task) : Nat := t.field 79 4
def Task.nrec (t : Task) : Nat := t.field 90 5
def Task.nreg (t : Task) : Nat := t.field 95 4
def Task.ndep (t : Task) : Nat := t.field 99 3
def Task.spadLen (t : Task) : Nat := t.field 640 18
def Task.ref64 (t : Task) (lo : Nat) : Word := BitVec.ofNat 64 (t.field lo 64)
def Task.sobj (t : Task) (die : Nat) : Nat := if die = 0 then t.field 192 13 else t.field 208 13
/-- The barrier ids that a header configures, with their counts. -/
def Task.barcnt (t : Task) : List (Nat × Nat) :=
  ((List.range 16).map fun b => (b, t.field (256 + 16 * b) 16)).filter fun p => p.2 != 0

/-- A task that the launch unit has queued and that has not retired (R315). -/
def Task.known (t : Task) : Bool := t.stage != .fencing && t.stage != .intake && t.stage != .reading
/-- A task that has reached the launch unit and waits to be read (R316). -/
def Task.unread (t : Task) : Bool := t.stage == .intake || t.stage == .reading
/-- A task that holds its clusters (R299, R311). -/
def Task.onCores (t : Task) : Bool := t.stage == .placed || t.stage == .retiring || t.stage == .summed

/-- R310, R317, R323: a launch ends: its record, its future, and the task is gone. -/
def State.endLaunch (s : State) (t : Task) (tag code count : Nat) : State :=
  let die := (s.part t.part).x0.toNat / 8
  let s := s.record (60000 + die) t.part t.ctx false 0x34 [(256, (statusWord code count).toNat), (224, tag)]
  let s := { s with tasks := s.tasks.filter fun u => u.id != t.id }
  match t.op.bind s.op with
  | some o => s.resolveStatus o code count
  | none => s

/-- R310: FCANCEL took effect on a launch that is not placed. -/
def State.launchCancelled (s : State) (t : Task) : Bool :=
  !t.onCores && t.stage != .fencing && (match t.op.bind s.op with | some o => o.cancelled | none => false)

/-! ## LAUNCH_READ (R307) -/

/-- R307, R85, R89: a reference that reaches n bytes which may be read. -/
def State.refOk (s : State) (part : Nat) (ctx : Bool) (w : Word) (n : Nat) : Bool :=
  match s.resolveHandle part ctx w with
  | some e => heRd e && handleOff w % 8 == 0 && decide (handleOff w + n ≤ heLen e)
  | none => false

/-- R82: a reference's entry is read with its codeword. -/
def State.entryEcc (s : State) (part : Nat) (ctx : Bool) (w : Word) : State := s.ecc (s.handlePlace part ctx w) 16

/-- R82, R89: what a read of n bytes behind a reference finds: first in its handle's entry, and then in the bytes, which nothing
touches where they leave the handle. -/
def State.refEcc (s : State) (part : Nat) (ctx : Bool) (w : Word) (n : Nat) : State :=
  let s := s.entryEcc part ctx w
  match s.resolveHandle part ctx w with
  | some e => if heCls e = 2 || !s.refOk part ctx w n then s else s.ecc (heBase e + handleOff w) n
  | none => s

/-- The 2 MiB frames that n bytes from an address touch. -/
def framesOf (a n : Nat) : List Nat :=
  if n = 0 then [] else (List.range ((a + n - 1) / 2 ^ 21 - a / 2 ^ 21 + 1)).map (a / 2 ^ 21 + ·)

/-- R285, R295: a reference, or the n bytes behind it, cannot be read now: its entry or its bytes lie behind a pseudo-channel that
does not take the read. -/
def State.refHeld (s : State) (part : Nat) (ctx : Bool) (w : Word) (n : Nat) : Bool :=
  s.entryHeld part ctx w || (s.refOk part ctx w n && (match s.resolveHandle part ctx w with
    | some e =>
      let a := heBase e + handleOff w
      if heCls e = 0 then s.reserved a n
      else decide (heCls e = 1) && (framesOf a n).any fun f => s.channelBusy (s.pchOf (f * 2 ^ 21))
    | none => false))

/-- The bytes behind a reference, with the tags of their blocks. -/
def State.refRead (s : State) (part : Nat) (ctx : Bool) (w : Word) (n : Nat) : List (Byte × BitVec 16) :=
  let e := s.handleEntry part ctx w
  (List.range n).map fun i => s.handleRead e (heBase e + handleOff w + i)

/-- The lowest of the offsets whose condition holds. -/
def lowest (l : List (Bool × Nat)) : Option Nat :=
  (l.filter (·.1)).foldl (fun m p => some (match m with
    | some n => min n p.2
    | none => p.2)) none

/-- R307, first row: the header's own fields; a launch that came later does not count against the TAG (log 95, DEDUCED). -/
def State.headerFault (s : State) (t : Task) : Option Nat :=
  let f := t.field
  let p := s.part t.part
  let wd := (List.range 6).map fun i => f (128 + 7 * i) 7
  let cols := p.x1.toNat - p.x0.toNat + 1
  let rows := p.y1.toNat - p.y0.toNat + 1
  let badSize := decide (t.width = 0 ∨ 16 < t.width ∨ t.height = 0 ∨ 16 < t.height)
  let twin := (s.tasks.takeWhile fun u => u.id != t.id).any fun u => u.stage != .fencing && u.part == t.part && u.tag == t.tag
  lowest ([
    (f 102 26 != 0 || badSize || decide (16 < t.nrec ∨ 8 < t.nreg ∨ 4 < t.ndep)
      || (t.pinned && decide (16 < t.px + t.width ∨ 16 < t.py + t.height))
      || decide (cols < t.width ∨ rows < t.height) || (f 88 1 == 0 && p.split), 0x08),
    (f 170 22 != 0 || wd.any (fun w => decide (64 < w)) || decide (64 < wd.sum), 0x10),
    (f 221 3 != 0 || f 205 3 != 0 || decide (4096 < t.sobj 0 ∨ 4096 < t.sobj 1) || t.tag == 0 || twin, 0x18),
    (f 658 46 != 0 || t.spadLen % 64 != 0 || decide ((if f 88 1 = 1 then 0x17000 else 0x2F000) < t.spadLen), 0x50)]
    ++ (List.range (min t.ndep 4)).map fun k => (f (768 + 64 * k + 33) 31 != 0, 0x60 + 8 * k))

/-- The references that a header's counts need: offset, reference, bytes. -/
def Task.refs (t : Task) : List (Nat × Word × Nat) :=
  [(0x40, t.ref64 512, 128 * t.nrec), (0x48, t.ref64 576, t.spadLen), (0x58, t.ref64 704, 32 * t.nreg)].filter
    fun r => r.2.2 != 0

/-- R307, second row. -/
def State.refFault (s : State) (t : Task) : Option Nat :=
  lowest (t.refs.map fun r => (!s.refOk t.part t.ctx r.2.1 r.2.2, r.1))

/-- The region entries that a header names: id and record; an entry of a POISON block is not judged. -/
def State.readRegions (s : State) (t : Task) : List (Nat × BitVec 128 × Bool) :=
  let l := s.refRead t.part t.ctx (t.ref64 704) (32 * t.nreg)
  (List.range t.nreg).map fun i =>
    let b := (l.drop (32 * i)).take 32
    let n := bytesToNat (b.map (·.1))
    (bits n 128 8, BitVec.ofNat 128 n, b.any fun p => tagPoison p.2)

/-- R266, R307: an RGSET on a context's behalf passes, but for the census. -/
def State.regionAllowed (s : State) (part : Nat) (ctx : Bool) (id : Nat) (r : BitVec 128) : Bool :=
  id != 0 && (s.pctx part ctx).own.getLsbD id && regLegal r

/-- R100: the `.spad` image as blocks with their tags (log 59, DEDUCED). -/
def State.readImage (s : State) (t : Task) : List (List Byte × BitVec 16) :=
  let w := t.ref64 576
  let l := s.refRead t.part t.ctx w t.spadLen
  (List.range (t.spadLen / 64)).map fun i =>
    let b := (l.drop (64 * i)).take 64
    (b.map (·.1), copyTag (handleOff w % 64 == 0) false false rawTag (b.map (·.2)).eraseDups)

/-- R316: the launch unit of a partition: that of the die that holds its bottom-left cluster. -/
def State.launchDie (s : State) (part : Nat) : Nat := (s.part part).x0.toNat / 8

/-- R316: the queue of a task is full. -/
def State.queueFull (s : State) (t : Task) : Bool :=
  decide (64 ≤ (s.tasks.filter fun u => u.stage == .queued && u.part == t.part && u.ctx == t.ctx && u.prio == t.prio).length)

/-- R316, R320: what a launch unit reads next: the launch that it is reading, or the first to have come whose queue has room;
one that finds its queue full waits at the intake (log 95, DEDUCED). -/
def State.unitNext (s : State) (die : Nat) : Option Task :=
  let mine := s.tasks.filter fun t => t.unread && s.launchDie t.part == die
  (mine.find? fun t => t.stage == .reading).orElse fun _ => mine.find? fun t => !s.queueFull t

/-- R295: an entry of the references that a header needs cannot be read now. -/
def State.refsHeld (s : State) (t : Task) : Bool := t.refs.any fun r => s.entryHeld t.part t.ctx r.2.1

/-- R307: the header of a launch is checked, and the unit turns to the data that it names. -/
def State.headerRead (s : State) (t : Task) : State :=
  let s := t.refs.foldl (fun (s : State) r => s.entryEcc t.part t.ctx r.2.1) s
  match (s.headerFault t).orElse fun _ => s.refFault t with
  | some n => s.endLaunch t t.tag stBounds n
  | none => s.setTask { t with stage := .reading }

/-- R307: the header behind a reference of LPORT; where the entries that it needs cannot be read yet (R295) it waits. One that cannot be read ends its launch with a COUNT and a TAG that the spec
does not give (log 36, DESIGN CHOICE). -/
def State.fetchHeader (s : State) (t : Task) (w : Word) : State :=
  let s := s.refEcc t.part t.ctx w 128
  let free := Config.outcome s.tick
  let l := s.refRead t.part t.ctx w 128
  if !s.refOk t.part t.ctx w 128 then s.endLaunch t (free / 2 ^ 32 % 2 ^ 32) stBounds free
  else if l.any fun p => tagPoison p.2 then s.endLaunch t (free / 2 ^ 32 % 2 ^ 32) stPoison free
  else
    let t := { t with header := BitVec.ofNat 1024 (bytesToNat (l.map (·.1))), ref := none }
    if s.refsHeld t then s.setTask t else s.headerRead t

/-- R307: the data that a header names is read, as far as its handles still stand, and the rest of the table decides. -/
def State.readData (s : State) (t : Task) : State :=
  let s := t.refs.foldl (fun (s : State) r => s.refEcc t.part t.ctx r.2.1 r.2.2) s
  let live := t.refs.filter fun r => s.handleLive t.part t.ctx r.2.1
  let gone := lowest (t.refs.map fun r => (!s.handleLive t.part t.ctx r.2.1, r.1))
  let regions := s.readRegions t
  let refused := (live.any fun r => r.1 == 0x58) && regions.any fun r => !r.2.2 && !s.regionAllowed t.part t.ctx r.1 r.2.1
  let poisoned := lowest (live.map fun r => ((s.refRead t.part t.ctx r.2.1 r.2.2).any fun p => tagPoison p.2, r.1))
  if refused then s.endLaunch t t.tag stBounds 0x58
  else match poisoned, gone with
    | some n, _ => s.endLaunch t t.tag stPoison n
    | _, some n => s.endLaunch t t.tag stRevoked n
    | _, _ => s.setTask { t with
        stage := .queued
        shape := (s.refRead t.part t.ctx (t.ref64 512) (128 * t.nrec)).map (·.1)
        spad := s.readImage t
        regions := regions.map fun r => (r.1, r.2.1) }

/-- R285, R295: what the launch unit reads next of a launch cannot be read now: the header behind a reference of LPORT, the entries
that a header needs, or the data. -/
def State.launchHeld (s : State) (t : Task) : Bool :=
  match t.stage, t.ref with
  | .intake, some w => s.refHeld t.part t.ctx w 128
  | .intake, none => s.refsHeld t
  | _, _ => t.refs.any fun r => s.refHeld t.part t.ctx r.2.1 r.2.2

/-- R307, R310, R316: a launch unit reads a launch, header and data, and queues the task or ends the launch; one that FCANCEL
named leaves at once. -/
def execLaunchRead (task : Nat) (s : State) : Host.Outcome State Fault Refusal :=
  match s.task task with
  | none => .next s
  | some t =>
    if s.launchCancelled t then .next (s.endLaunch t t.tag stCancelled 0)
    else if (s.unitNext (s.launchDie t.part)).map (·.id) != some task || s.launchHeld t then .next s
    else match t.stage, t.ref with
      | .intake, some w => .next (s.fetchHeader t w)
      | .intake, none => .next (s.headerRead t)
      | _, _ => .next (s.readData t)

/-! ## PLACEMENT_EVALUATE (R308, R312, R318, R319) -/

/-- R312: every dependence of a task has fired; one on its own TAG never does, and one on a launch that the unit has not read yet has not (log 95, DEDUCED). -/
def State.depsFired (s : State) (t : Task) : Bool :=
  (List.range t.ndep).all fun k =>
    let tag := t.field (768 + 64 * k) 32
    s.tasks.all fun u => u.part != t.part || u.tag != tag
      || (t.field (768 + 64 * k + 32) 1 == 1 && u.fired)

/-- R308: the runs of sync objects of a die that tasks hold: first object and length. -/
def State.heldRuns (s : State) (die : Nat) : List (Nat × Nat) :=
  (s.tasks.filter Task.onCores).map fun u => (if die = 0 then u.sync0 else u.sync1, u.sobj die)

/-- R308: the lowest run of free sync objects of a die, which holds 65,536 (R241): it begins at 0 or where a held run ends. -/
def State.freeRun (s : State) (die n : Nat) : Option Nat :=
  let held := s.heldRuns die
  if n = 0 then some 0
  else (lowest ((0 :: held.map fun r => r.1 + r.2).map fun b =>
    (decide (b + n ≤ 65536) && held.all fun r => decide (r.2 = 0 ∨ r.1 + r.2 ≤ b ∨ b + n ≤ r.1), b)))

/-- R248: the die that holds a task's barriers, for a rectangle that begins at a cluster column. -/
def barrierDie (x : Nat) : Nat := if x < 8 then 0 else 1

/-- R248, R377: how many objects of a die the domain barriers take: those with a count, on die 0. -/
def State.domainBarriers (s : State) (die : Nat) : Nat := if die = 0 then s.dbarcnt.length else 0

/-- The free barrier objects of a die, which holds 4,096 (R248). -/
def State.freeBarriers (s : State) (die : Nat) : List Nat :=
  let held := (((s.tasks.filter Task.onCores).map fun u => u.barriers.map (·.2)).flatten).filter fun k => k / 4096 == die
  (((List.range 4096).map fun n => die * 4096 + n).filter fun k => !held.contains k).take
    (4096 - s.domainBarriers die - held.length)

/-- R248: at the launch of a task every configured domain barrier stands at phase 0 without arrivals; what other devices have
reported of its first phase stays (log 97, DEDUCED). A phase that has reached AGE has its record first (R251). -/
def State.launchDomain (s : State) : State :=
  s.dbarcnt.foldl (fun (s : State) p =>
    let id := 512 + p.1
    let obj := domainObject id
    let s := s.tellAge obj
    s.setBarrier obj (if SMap.get 0 s.domReports id = 0 then { Barrier.initial with id := id }
      else { s.barrier obj with phase := 0, arrived := 0, payloads := [] })) s

/-- R319: a cluster is free for a context. -/
def State.clusterFree (s : State) (ctx : Bool) (cluster : Nat) : Bool :=
  (s.tasks.all fun u => !u.onCores || u.ctx != ctx || !u.clusters.contains cluster)
    && (List.range 8).all fun w => !s.outCores.contains (clusterCore cluster w)

/-- R318, R319: a rectangle of clusters gives room to a task. -/
def State.roomAt (s : State) (t : Task) (x y : Nat) : Bool :=
  let u := { t with x := x, y := y }
  (u.clusters.all fun c => s.clusterFree t.ctx c && (s.part t.part).holds c)
    && decide (t.barcnt.length ≤ (s.freeBarriers (barrierDie x)).length)

/-- R319: the corner that a task takes. -/
def State.roomFor (s : State) (t : Task) : Option (Nat × Nat) :=
  let p := s.part t.part
  if t.pinned then (if s.roomAt t t.px t.py then some (t.px, t.py) else none)
  else
    let rows := (List.range (p.y1.toNat + 1 - p.y0.toNat)).map (p.y0.toNat + ·)
    let cols := (List.range (p.x1.toNat + 1 - p.x0.toNat)).map (p.x0.toNat + ·)
    ((rows.map fun y => cols.map fun x => (x, y)).flatten).find? fun c =>
      decide (c.1 + t.width ≤ p.x1.toNat + 1 ∧ c.2 + t.height ≤ p.y1.toNat + 1) && s.roomAt t c.1 c.2

/-- R319: a pinned rectangle that does not lie inside the partition. -/
def State.pinOutside (s : State) (t : Task) : Bool :=
  t.pinned && !({ t with x := t.px, y := t.py } : Task).clusters.all (s.part t.part).holds

/-- R307: what the census says of a region entry: it stands already, or no entry of the region is left. -/
def State.regionClear (s : State) (id : Nat) (r : BitVec 128) : Bool :=
  s.region id == (r.setWidth 64).setWidth 128
    || (!s.census id && (match s.regionLock with | some (k, _, _) => k != id | none => true))

/-- How far the region entries of a head come (R307). -/
inductive RegionsEnd where
  | applied | census | refused
deriving DecidableEq, Repr

/-- R307: the region entries, in order, up to the first that fails or whose census finds entries. -/
def State.applyRegions (s : State) (t : Task) : List (Nat × BitVec 128) → State × RegionsEnd
  | [] => (s, .applied)
  | (id, r) :: l =>
    if !s.regionAllowed t.part t.ctx id r then (s, .refused)
    else if !s.regionClear id r then (s, .census)
    else (s.setRegion id ((r.setWidth 64).setWidth 128)).applyRegions t l

/-- R318: a head is ready, but for its region entries. -/
def State.headReady (s : State) (t : Task) : Bool :=
  s.depsFired t && (s.freeRun 0 (t.sobj 0)).isSome && (s.freeRun 1 (t.sobj 1)).isSome

/-- R100, R305: the scratchpad of a core at launch. -/
def Task.launchCtx (t : Task) : CoreCtx :=
  let bytes := ((t.spad.zipIdx).foldl (fun (m : SMap Byte × Nat) b =>
    ((b.1.1.zipIdx).foldl (fun m p => SMap.set (0 : Byte) m (64 * b.2 + p.2) p.1) m.1, m.2)) ([], 0)).1
  let bytes := (t.shape.zipIdx).foldl (fun m p => SMap.set (0 : Byte) m (0x2F800 + p.2) p.1) bytes
  { CoreCtx.initial with
    spad := bytes
    tags := (t.spad.zipIdx).foldl (fun m b => SMap.set (0 : BitVec 16) m b.2 b.1.2) [] }

/-- R299, R300: the launch of a thread; it keeps the release numbers that the domain knows it by (R376) (log 78, DEDUCED). -/
def Task.launchThread (t : Task) (old : Thread) (index thr : Nat) : Thread :=
  let th := { Thread.initial with
    rank := BitVec.ofNat 64 (thr + t.threads * index)
    taskid := BitVec.ofNat 32 t.tag
    relSeq := old.relSeq }
  if thr < t.threads then { (th.startAt (t.ref64 0)) with run := .running } else { th with relSeq := old.relSeq }

/-- The launch of a core (log 80, DEDUCED). A register that still waits for an operation of a retired or removed task (a c register, or
an x or v register of a removed thread) is present and 0, and the old operation writes it when it resolves (log 116, DESIGN CHOICE). -/
def State.launchCore (s : State) (t : Task) (index core : Nat) : State :=
  let s := s.setCoreCtx core t.ctx t.launchCtx
  (List.range 8).foldl (fun (s : State) i =>
    let id : ThreadId := ⟨core, t.ctx, i⟩
    s.setThread id (t.launchThread (s.thread id) index i)) s

/-- R299, R308: a task is placed with its objects, and all its threads start. -/
def State.place (s : State) (t : Task) (x y : Nat) : State :=
  let bars := t.barcnt.zip (s.freeBarriers (barrierDie x))
  let t := { t with
    stage := .placed
    x := x
    y := y
    sync0 := (s.freeRun 0 (t.sobj 0)).getD 0
    sync1 := (s.freeRun 1 (t.sobj 1)).getD 0
    barriers := bars.map fun p => (p.1.1, p.2) }
  let s := (s.setTask t).launchDomain
  let s := (List.range (t.sobj 0)).foldl (fun (s : State) i => s.setSync (t.sync0 + i) SyncObject.initial) s
  let s := (List.range (t.sobj 1)).foldl (fun (s : State) i => s.setSync (65536 + t.sync1 + i) SyncObject.initial) s
  let s := bars.foldl (fun (s : State) p =>
    s.setBarrier p.2 { Barrier.initial with id := p.1.1, count := p.1.2, part := t.part, ctx := t.ctx }) s
  (t.cores.zipIdx).foldl (fun (s : State) c => s.launchCore t c.2 c.1) s

/-- The head of a queue (R316). -/
def State.queueHead (s : State) (part : Nat) (ctx : Bool) (prio : Nat) : Option Task :=
  s.tasks.find? fun t => t.stage == .queued && t.part == part && t.ctx == ctx && t.prio == prio

/-- R307, R318: the heads from a priority downward. The region entries of a head are applied at its placement, so where there is
room for it; one whose entries cannot be applied is not ready, and is passed over. -/
def State.evaluate (s : State) (part : Nat) (ctx : Bool) : Nat → State
  | 0 => s
  | n + 1 => match s.queueHead part ctx n with
    | none => s.evaluate part ctx n
    | some t =>
      if s.launchCancelled t then s.endLaunch t t.tag stCancelled 0
      else if s.pinOutside t then s.endLaunch t t.tag stBounds 0x08
      else if !s.headReady t then s.evaluate part ctx n
      else match s.applyRegions t t.regions, s.roomFor t with
        | (_, .census), none => s.evaluate part ctx n
        | (_, .refused), none => s.evaluate part ctx n
        | (u, .census), some _ => u.evaluate part ctx n
        | (_, .applied), none => s
        | (u, .refused), some _ => u.endLaunch t t.tag stBounds 0x58
        | (u, .applied), some (x, y) => u.place t x y

/-- R318: the launch unit looks at the queues of the resident context. -/
def execPlacementEvaluate (part : Nat) (s : State) : Host.Outcome State Fault Refusal :=
  let p := s.part part
  .next (if p.v && !p.swapping then s.evaluate part p.res 4 else s)

/-! ## TASK_RETIRE and CHECKSUM (R311, R385) -/

/-- The threads of a placed task. -/
def Task.threadIds (t : Task) : List ThreadId :=
  (t.cores.map fun c => (List.range t.threads).map fun i => (⟨c, t.ctx, i⟩ : ThreadId)).flatten

/-- R311: the entries of a task's context that its cores and clusters still hold. -/
def State.taskRuns (s : State) (t : Task) : Bool :=
  (t.cores.any fun c => let k := s.coreCtx c t.ctx; !k.l0.isEmpty || !k.port.isEmpty)
    || t.clusters.any fun c => (s.cluster c).l1.any fun e => e.ctx == t.ctx

/-- R311: every L0 of the task's cores, and its context's entries in their L1, move out. -/
def State.drainTask (s : State) (t : Task) : State :=
  let s := t.cores.foldl (fun (s : State) c => (s.drain c t.ctx true fun _ => true).1) s
  t.clusters.foldl (fun (s : State) c => s.l1MoveAll c t.ctx fun _ => true) s

/-- An operation of a task that is still in flight. -/
def State.taskHas (s : State) (t : Task) (sel : OpKind → Bool) : Bool := s.ops.any fun o => o.ctx == t.ctx && t.hasCore o.core && sel o.kind

/-- R311: the moves have committed, and the remote updates are acknowledged. -/
def State.taskQuiet (s : State) (t : Task) : Bool :=
  (s.paths.all fun p => !t.clusters.contains p.src || p.item.isLoad) && !s.taskHas t OpKind.isRemote

/-- R285, R311: the all-bank modes that the task's cores hold. -/
def State.taskModes (s : State) (t : Task) : List Nat :=
  (s.pchs.filter fun p => match p.2.mode with
    | some (_, core, ctx) => ctx == t.ctx && t.hasCore core
    | none => false).map (·.1)

/-- R311: the end of a retirement: the objects are free, the future resolves, and the cores are free. -/
def State.finishTask (s : State) (t : Task) : State :=
  let s := (List.range (t.sobj 0)).foldl (fun (s : State) i => s.setSync (t.sync0 + i) SyncObject.initial) s
  let s := (List.range (t.sobj 1)).foldl (fun (s : State) i => s.setSync (65536 + t.sync1 + i) SyncObject.initial) s
  let s := t.barriers.foldl (fun (s : State) p => (s.tellAge p.2).setBarrier p.2 Barrier.initial) s
  let s := t.threadIds.foldl (fun (s : State) id => s.setThread id { s.thread id with run := .idle }) s
  s.endLaunch t t.tag (if t.removed then stCancelled else stOk) (if t.removed then 0 else t.total)

/-- R311: a task whose threads have all ended is drained, waits, turns its modes off once its BANK commands have completed (R285),
waits for the plain stores that those held back (R313), has its outputs summed, and retires. -/
def execTaskRetire (task : Nat) (s : State) : Host.Outcome State Fault Refusal :=
  match s.task task with
  | none => .next s
  | some t =>
    match t.stage with
    | .placed =>
      if !t.threadIds.all fun id => (s.thread id).run == .ended then .next s
      else if s.taskRuns t then .next (s.drainTask t)
      else if !s.taskQuiet t then .next s
      else match s.taskModes t with
        | n :: r => .next (if s.taskHas t OpKind.isBank then s
            else (n :: r).foldl (fun (s : State) k => s.setPch k (s.pch k).turnOff) s)
        | [] => .next (if s.taskHas t OpKind.isStore then s
            else if (s.pctx t.part t.ctx).ckcnt = 0 then s.finishTask t else s.setTask { t with stage := .retiring })
    | .summed => .next (s.finishTask t)
    | _ => .next s

/-- R385: CRC-64, reflected, over bytes (log 20, PRESUMED). -/
def crcBit (c : Nat) : Nat := if c % 2 = 1 then (c / 2) ^^^ 0xC96C5795D7870F42 else c / 2
def crcByte (c : Nat) (b : Byte) : Nat := (List.range 8).foldl (fun c _ => crcBit c) (c ^^^ b.toNat)
def crc64 (l : List Byte) : Nat := l.foldl crcByte (2 ^ 64 - 1) ^^^ (2 ^ 64 - 1)

/-- R89, R385: where entry i of a list lies: at an offset past the last of its handle there is none. -/
def listPlace (list : Word) (i : Nat) : Option Word :=
  if handleOff list + 16 * i + 16 ≤ 2 ^ 40 then some (list + BitVec.ofNat 64 (16 * i)) else none

/-- R385: the reference and the length that an entry of a checksum list holds. -/
def State.listEntry (s : State) (t : Task) (at_ : Word) : Word × Nat :=
  let e := bytesToNat ((s.refRead t.part t.ctx at_ 16).map (·.1))
  (BitVec.ofNat 64 (e % 2 ^ 64), e / 2 ^ 64)

/-- R285, R295: what the checksum of an entry reads cannot be read now. -/
def State.checksumHeld (s : State) (t : Task) (i : Nat) : Bool :=
  match listPlace (s.pctx t.part t.ctx).cklist i with
  | none => false
  | some at_ =>
    let (w, n) := s.listEntry t at_
    s.refHeld t.part t.ctx at_ 16 || (s.refOk t.part t.ctx at_ 16 && s.refHeld t.part t.ctx w n)

/-- R385: the checksum record of an entry; the range of an entry that does not stand is not read (R89). -/
def State.checksumRecord (s : State) (t : Task) (i : Nat) : State :=
  let p := s.pctx t.part t.ctx
  let unit := 40000 + t.clusters.headD 0
  let (s, crc) : State × Option Nat := match listPlace p.cklist i with
    | none => (s, none)
    | some at_ =>
      let s := s.refEcc t.part t.ctx at_ 16
      if !s.refOk t.part t.ctx at_ 16 then (s, none)
      else
        let (w, n) := s.listEntry t at_
        let s := s.refEcc t.part t.ctx w n
        (s, if s.refOk t.part t.ctx w n then some (crc64 ((s.refRead t.part t.ctx w n).map (·.1))) else none)
  s.record unit t.part t.ctx false 0x37 [(224, t.tag), (208, i), (212, crc.isNone.toNat), (256, crc.getD 0)]

/-- R385: the outputs of a task that has been drained are summed, once every range can be read (R285, R295). -/
def execChecksum (task : Nat) (s : State) : Host.Outcome State Fault Refusal :=
  match s.task task with
  | some t =>
    let n := (s.pctx t.part t.ctx).ckcnt.toNat % 32
    if t.stage == .retiring && !(List.range n).any (s.checksumHeld t) then
      .next (((List.range n).foldl (fun (s : State) i => s.checksumRecord t i) s).setTask { t with stage := .summed })
    else .next s
  | none => .next s

/-! ## The steward's side (R310, R315, R317, R357) -/

/-- R310, R357: the steward removes a task: one that is not placed leaves at once; the threads of a placed one end, and its
retirement resolves CANCELLED (log 60, DEDUCED). -/
def execTaskRemove (task : Nat) (s : State) : Host.Outcome State Fault Refusal :=
  match s.task task with
  | none => .next s
  | some t =>
    if t.stage == .placed then
      let s := t.threadIds.foldl (fun (s : State) id =>
        let s := s.releaseHeld id
        s.setThread id { s.thread id with run := .ended, wait := .none, pause := .none }) s
      .next ((t.cores.foldl (fun (s : State) c => s.dropWaiting c t.ctx) s).setTask { t with removed := true })
    else if t.onCores || t.stage == .fencing then .next s
    else .next (s.endLaunch t t.tag stCancelled 0)

/-- R14, R359: the cores that a lasting fault takes out of service. -/
def faultyCores : ErrSource → List Nat
  | .bank core _ => [core]
  | .array n => (List.range 4).map fun w => quadCore (n / 4) w
  | _ => []

/-- R198: every weight of an array is programmed to 0. -/
def PewterArray.zeroed (p : PewterArray) : PewterArray :=
  (List.range 512).foldl (fun (p : PewterArray) i => p.programRow i fun _ => 0) p

/-- R198: an array as the steward hands it to a partition, and as bring-up leaves it: weights 0, scales 1.0, and calibrated (log 13, DESIGN CHOICE,
DESIGN CHOICE). -/
def State.bringUp (s : State) (arr : Nat) : State :=
  let col := fun (f : Nat → Nat → BitVec 16) => (List.range 264).foldl (fun m j => SMap.set (0 : BitVec 16) m j (f s.tick j)) []
  s.setArray arr { (s.array arr).zeroed with
    scale := (List.range 256).foldl (fun m j => SMap.set (0 : BitVec 16) m j 0x3C00) []
    gain := col Config.calibratedGain
    offset := col Config.calibratedOffset
    tcal := s.tnow arr
    drift := 0
    calibrated := true }

/-- R315: the fields that a write to PARTCFG gives a partition. -/
def Partition.written (p : Partition) (w : Word) : Partition :=
  { p with
    v := w.getLsbD 18
    split := w.getLsbD 16
    y1 := BitVec.ofNat 4 (bits w.toNat 12 4)
    x1 := BitVec.ofNat 4 (bits w.toNat 8 4)
    y0 := BitVec.ofNat 4 (bits w.toNat 4 4)
    x0 := BitVec.ofNat 4 (bits w.toNat 0 4)
    err := p.err && !w.getLsbD 62 }

/-- R315: a write that is refused. -/
def State.partRefused (s : State) (part : Nat) (q : Partition) : Bool :=
  let p := s.part part
  let busy := s.tasks.any fun t => t.part == part && t.known
  let clash := q.v && (List.range 256).any fun c => q.holds c && (List.range 16).any fun n =>
    n != part && (s.part n).holds c
  clash || decide (q.x1 < q.x0 ∨ q.y1 < q.y0)
    || (busy && (p.v != q.v || p.split != q.split || p.x0 != q.x0 || p.y0 != q.y0 || p.x1 != q.x1 || p.y1 != q.y1))

/-- R315: PARTCFG; cores with a lasting fault leave service (R14), and arrays that come to the partition are brought up (R198) (log 79, DEDUCED). -/
def execPartcfgWrite (part : Nat) (value : Word) (s : State) : Host.Outcome State Fault Refusal :=
  let p := s.part part
  let q := p.written value
  if s.partRefused part q then .next (s.setPart part { p with err := true })
  else
    let mine := fun (core : Nat) => if isCox core then s.partOf core == part
      else p.holds (clusterOf core) || q.holds (clusterOf core)
    let out := (s.lasting.map faultyCores).flatten.filter fun c => mine c && !s.outCores.contains c
    let fresh := (List.range 512).filter fun k => q.holds (quadCluster k) && !p.holds (quadCluster k)
    let s := { (s.setPart part q) with outCores := s.outCores ++ out.eraseDups }
    .next (fresh.foldl (fun (s : State) k => (List.range 4).foldl (fun (s : State) i => s.bringUp (4 * k + i)) s) s)

/-- R317: LPORT: one launch, or a refusal that sets OVF. -/
def execLportWrite (part : Nat) (ctx : Bool) (value : Word) (s : State) : Host.Outcome State Fault Refusal :=
  let refused := fun (s : State) => s.setPctx part ctx { s.pctx part ctx with ovf := true }
  if handleOff value % 64 ≠ 0 ∨ (ctx = true ∧ (s.part part).split = false) then .next (refused s)
  else
    let s := s.refEcc part ctx value 128
    let ok := s.refOk part ctx value 128
    let head : BitVec 1024 := if ok then BitVec.ofNat 1024 (bytesToNat ((s.refRead part ctx value 128).map (·.1))) else 0
    let n := s.nextTask
    let t : Task := ⟨n, part, ctx, none, .intake, head, some value, [], [], [], 0, 0, 0, 0, [], 0, false⟩
    .next (if ok && s.queueFull t then refused s else { s with tasks := s.tasks ++ [t], nextTask := n + 1 })

end Sys2Proof.Machine
end

