-- ==== Sys2Proof/Machine/Swap.lean ====
section
/-!
DEFINITION. Pre-emption and context swap (24), and the doorbell (R344): SWAP_GO, SWAP_EXCHANGE, PREEMPT and DOORBELL. A core
context holds its own registers whether it is resident or not, so the exchange of R362 is the change of residence.
-/
namespace Sys2Proof.Machine

/-- The cores that run a partition's threads: those of its rectangle and the cox cores that serve it. -/
def State.partCores (s : State) (part : Nat) : List Nat :=
  (List.range 2144).filter fun c => s.partOf c == part && (isCox c || (s.part part).holds (clusterOf c))

/-- R361, R365: a thread stands where it stands: a walk it waits for is abandoned, its line is fetched and checked again,
and a saved queue needs no TGT (R24). -/
def Thread.halt (t : Thread) : Thread :=
  { t.abandonWalk with
    line := none
    q0 := { t.q0 with tgt := false }
    q1 := { t.q1 with tgt := false }
    q2 := { t.q2 with tgt := false } }

/-- R361, R363: a thread is halted: a group that has not issued stays in Q[0], and so does one whose matrix operation is
withdrawn; one that its judge has passed issues after the resume (R234, R270); an arrival goes on and commits its group when
it counts (R249). -/
def State.haltThread (s : State) (t : ThreadId) : State :=
  let s := match (s.thread t).wait with
    | .arrive _ _ => s
    | _ => if (s.thread t).passed then s else s.releaseHeld t
  s.setThread t (s.thread t).halt

/-- R190, R363: the operations that wait in a core's dispatch queue are withdrawn: a synchronous one issues again. The
stream buffer keeps its contents. -/
def State.withdrawMatrix (s : State) (core : Nat) (ctx : Bool) : State :=
  let c := s.coreCtx core ctx
  let s := s.setCoreCtx core ctx { c with dispatch := [] }
  c.dispatch.foldl (fun (s : State) q =>
    match q.op with
    | some n =>
      let u := s.quad (quadOf core)
      let s := if u.filled = some n then s.setQuad (quadOf core) { u with filled := none } else s
      match s.op n with
      | some o => s.resolveStatus o stCancelled 0
      | none => s
    | none => s) s

/-- R361: a core stops issuing. -/
def State.haltCore (s : State) (ctx : Bool) (core : Nat) : State :=
  let s := s.setCore core { s.core core with out := true }
  let s := s.withdrawMatrix core ctx
  ((List.range 8).foldl (fun (s : State) i => s.haltThread ⟨core, ctx, i⟩) s).abandonWalks

/-- R215, R326, R335, R363: what a swap does to an operation in flight of the outgoing context. -/
def State.haltOp (s : State) (o : Op) : State :=
  match o.kind with
  | .array c => if !c.started then s.resolveStatus o stCancelled 0
    else if c.fn = 1 then s.setOp { o with cancelled := true } else s
  | .steal _ _ probed task => if probed then s else s.endSteal o task none stCancelled 0
  | .gqr _ _ _ => s.resolveStatus o stCancelled 0
  | _ => s

/-- R360, R361: GO: a refusal, or the halt of the resident context begins. -/
def execSwapGo (part : Nat) (s : State) : Host.Outcome State Fault Refusal :=
  let p := s.part part
  if 16 ≤ part then .next s
  else if !p.v || !p.split || p.swapping then .next (s.setPart part { p with swapErr := true })
  else
    let cores := s.partCores part
    let ops := s.ops.filter fun o => o.ctx == p.res && cores.contains o.core
    let s := s.setPart part { p with swapping := true }
    let s := cores.foldl (State.haltCore · p.res) s
    .next (ops.foldl State.haltOp s)

/-- R361: the halt is over: no operation of the partition's quads is in service, and every insertion port has finished. -/
def State.haltDone (s : State) (part : Nat) : Bool :=
  let p := s.part part
  p.swapping && (s.partCores part).all fun k =>
    let c := s.coreCtx k p.res
    c.port.isEmpty && !c.merging && (isCox k || (s.quad (quadOf k)).service.isNone)

/-- R321, R322: a spilled record comes back: it is written to its inbox, waits, or is a dead letter (log 49, DEDUCED). One whose
sender's task has retired has no destination left (R322), whatever task stands on its core by now. -/
def State.unspill (s : State) (ctx : Bool) (record : Nat) (sender : Option Nat × BitVec 32) : State :=
  let dst := bits record 0 12
  let m : Message :=
    ⟨bits record 12 5, BitVec.ofNat 64 (bits record 64 64), bits record 17 1 == 1, bits record 48 16, bits record 45 3, sender.1, sender.2⟩
  if bits record 18 1 = 0 then s
  else if s.holdsThread m ctx dst then s.setCoreCtx dst ctx ((s.coreCtx dst ctx).deliver m)
  else s.deadLetter ctx dst m

/-- R321: every spilled record of a context comes back, in spill order; nothing is read where no HBM is (R70). -/
def State.unspillAll (s : State) (part : Nat) (ctx : Bool) : State :=
  let p := s.pctx part ctx
  let s := s.ecc (p.spillAt 0) (16 * p.spilled)
  let records := p.spillers.zipIdx.map fun m =>
    (if p.spillAt m.2 + 16 ≤ hbmEnd then s.dramNat (p.spillAt m.2) 16 else 0, m.1)
  records.foldl (fun s r => s.unspill ctx r.1 r.2) (s.setPctx part ctx { p with spilled := 0, spillers := [] })

/-- R360, R362: once the halt is over the other context becomes resident, and its threads may issue. HALTCLK and MOVECLK
hold times within their bounds (log 2, DESIGN CHOICE). -/
def execSwapExchange (part : Nat) (s : State) : Host.Outcome State Fault Refusal :=
  if !s.haltDone part then .next s
  else
    let cores := s.partCores part
    let p := s.part part
    let s := cores.foldl (fun s k => s.spillWaiting part p.res k) s
    let s := s.setPart part { s.part part with
      res := !p.res
      swapping := false
      haltclk := BitVec.ofNat 16 (Config.delay (64 * s.tick) % 601)
      moveclk := BitVec.ofNat 16 (Config.delay (64 * s.tick + 1) % 1901) }
    let s := s.unspillAll part (!p.res)
    .next (cores.foldl (fun (s : State) k => s.setCore k { s.core k with out := false }) s)

/-- R366: a write to PREEMPT sets IPEND.PRQ in the named threads of a core's resident context (log 38, DEDUCED). -/
def execPreempt (value : Word) (s : State) : Host.Outcome State Fault Refusal :=
  let core := bits value.toNat 0 12
  if bits value.toNat 24 40 ≠ 0 ∨ bits value.toNat 12 4 ≠ 0 ∨ 2144 ≤ core then .next s
  else .next ((List.range 8).foldl (fun (s : State) i =>
    let t := s.residentThread core i
    if value.getLsbD (16 + i) then s.setThread t { s.thread t with ipPrq := true } else s) s)

/-- R344: the steward rings a thread of a core's resident context (log 38, DEDUCED). -/
def execDoorbell (core : Nat) (thr : Nat) (value : Word) (s : State) : Host.Outcome State Fault Refusal :=
  if 2144 ≤ core ∨ 8 ≤ thr then .next s
  else
    let t := s.residentThread core thr
    let th := s.thread t
    .next (s.setThread t { th with dbval := value, ipDb := true, ipDbo := th.ipDbo || th.ipDb })

end Sys2Proof.Machine
end

