-- ==== Sys2Proof/Machine/Debug.lean ====
section
/-!
DEFINITION. Debug and trace (26): DBGCTL_HALT, DBGCTL_SOFT, DBGCTL_RESUME, DBGVAL_WRITE, TRACE_FUNNEL_WRITE, TRACE_TIMESTAMP and
TRACE_LOSS.
-/
namespace Sys2Proof.Machine

/-! ## The debug block (R379, R380) -/

/-- R380: HALT. -/
def execDbgctlHalt (core : Nat) (s : State) : Host.Outcome State Fault Refusal :=
  .next (if core < 2144 then s.hardHalt core else s)

/-- R379: SOFT: interrupt 11 becomes pending in the named threads of a core's resident context (log 38, DEDUCED). -/
def execDbgctlSoft (core : Nat) (threads : BitVec 8) (s : State) : Host.Outcome State Fault Refusal :=
  if 2144 ≤ core then .next s
  else .next ((List.range 8).foldl (fun (s : State) i =>
    let t := s.residentThread core i
    if threads.getLsbD i then s.setThread t { s.thread t with ipDbg := true } else s) s)

/-- R342, R380: a thread at RESUME: IPEND.DBG is clear, and a thread that interrupt 11 holds goes on. -/
def Thread.resume (t : Thread) : Thread :=
  { t with
    ipDbg := false
    wait := match t.wait with
      | .held => .none
      | w => w }

/-- R380: RESUME. -/
def execDbgctlResume (core : Nat) (s : State) : Host.Outcome State Fault Refusal :=
  if 2144 ≤ core then .next s
  else
    let c := s.core core
    let s := s.setCore core { c with dbg := { c.dbg with halted := false } }
    .next ([false, true].foldl (fun (s : State) ctx => (List.range 8).foldl (fun (s : State) i =>
      s.setThread ⟨core, ctx, i⟩ (s.thread ⟨core, ctx, i⟩).resume) s) s)

/-- R379: the thread and the register that DBGSEL selects, and the word of a v register. -/
def selThread (w : Word) : Nat := bits w.toNat 8 3
def selReg (w : Word) : Option Reg := Reg.ofCode (bits w.toNat 0 8)
def selWord (w : Word) : Nat := bits w.toNat 11 2

/-- A 256-bit value with one of its 64-bit words replaced. -/
def putWord (v : VWord) (i : Nat) (w : Word) : VWord :=
  BitVec.ofNat 256 (v.toNat - bits v.toNat (64 * i) 64 * 2 ^ (64 * i) + w.toNat * 2 ^ (64 * i))

/-- R342, R379: a thread is halted: its core is, or interrupt 11 holds it. -/
def State.threadHalted (s : State) (t : ThreadId) : Bool := (s.core t.core).dbg.halted || (s.thread t).wait == .held

/-- R380: a halted thread's register becomes present with a value and B 0; a pending one stays. -/
def execDbgvalWrite (core : Nat) (value : Word) (s : State) : Host.Outcome State Fault Refusal :=
  let sel := (s.core core).dbg.dbgsel
  let t := s.residentThread core (selThread sel)
  if 2144 ≤ core ∨ s.threadHalted t = false then .next s
  else match selReg sel with
    | some (.x n) => .next (if s.isPending t (.x n) then s else s.writeReg t (.x n) (value.setWidth 256) false .present)
    | some (.v n) => .next (if s.isPending t (.v n) then s
        else s.writeReg t (.v n) (putWord ((s.thread t).readV n).val (selWord sel) value) false .present)
    | some (.c n) =>
      if s.isPending t (.c n) then .next s
      else
        let c := s.coreCtx t.core t.ctx
        let s := s.setCoreCtx t.core t.ctx { c with cnew := c.cnew.filter fun w => w.reg != n }
        .next (s.writeReg t (.c n) (value.setWidth 256) false .present)
    | _ => .next s

/-! ## Trace (R382, R383) -/

/-- R383: the ring of a funnel: its capacity in messages, and the messages written since EN was set. -/
def Cluster.ringCap (k : Cluster) : Nat := 2 ^ (bits k.trcbase.toNat 48 4 + 10)
def Cluster.ringTail (k : Cluster) : Nat := bits k.trcctl.toNat 0 32
/-- TAIL after one more message; WRAP where it overwrote the oldest one. -/
def Cluster.ringNext (k : Cluster) : Cluster :=
  let ctl := k.trcctl.toNat - k.ringTail + (k.ringTail + 1) % 2 ^ 32
  let wrap : Word := if k.ringCap ≤ k.ringTail then 0x8000000000000000 else 0
  { k with trcctl := BitVec.ofNat 64 ctl ||| wrap }

/-- The cores of a cluster with a message in their encoder, after the one that the funnel took last. -/
def State.tracing (s : State) (cluster : Nat) : List Nat :=
  ((List.range 8).map fun w => clusterCore cluster (((s.cluster cluster).trcLast + 1 + w) % 8)).filter
    fun c => !(s.core c).trace.isEmpty

/-- R383: the funnel takes the next message, round robin over its cores, and writes it straight to DRAM; a reserved
pseudo-channel keeps it waiting (R295). -/
def execTraceFunnelWrite (cluster : Nat) (s : State) : Host.Outcome State Fault Refusal :=
  let k := s.cluster cluster
  let at_ := bits k.trcbase.toNat 6 34 * 64 + 16 * (k.ringTail % k.ringCap)
  if !k.trcbase.getLsbD 0 || s.reserved at_ 16 then .next s
  else match s.tracing cluster with
    | [] => .next s
    | c :: _ => match (s.core c).trace with
      | [] => .next s
      | m :: r =>
        let s := s.setCore c { s.core c with trace := r }
        let s := if at_ + 16 ≤ hbmEnd then (s.ecc at_ 16).dramStore at_ (natToBytes 16 m.toNat) false else s
        .next (s.setCluster cluster { k.ringNext with trcLast := coreInCluster c })

/-- R383: the clk between two timestamps of a cluster's cores; one is due where CYCLE has passed a multiple of them since the
last. -/
def Cluster.stampClk (k : Cluster) : Nat := 2 ^ (bits k.trcctl.toNat 32 4 + 8)
def State.stampDue (s : State) (core : Nat) : Bool :=
  let n := (s.cluster (clusterOf core)).stampClk
  decide (core < 2048) && s.cycle.toNat / n != (s.core core).stamped.toNat / n

/-- R383: a timestamp of a traced core. -/
def execTraceTimestamp (core : Nat) (s : State) : Host.Outcome State Fault Refusal :=
  .next (if s.stampDue core then
      (s.setCore core { s.core core with stamped := s.cycle }).emit (s.residentThread core 0) 5 s.cycle
    else s)

/-- R383: space has returned to an encoder, and it says how many messages it dropped. -/
def execTraceLoss (core : Nat) (s : State) : Host.Outcome State Fault Refusal :=
  .next (s.setCore core ((s.core core).tellLoss (s.residentThread core 0) s.cycle))

end Sys2Proof.Machine
end

