-- ==== Sys2Proof/Machine/Lanes.lean ====
section
/-!
DEFINITION. Records and lanes (R353-R356), and the counting of error events (R82, R83, R359): LANE_RECORD, PATROL_SCRUB,
ERROR_EVENT_LOG, ERROR_EVENT_EXPIRE and FRAME_RETIRE.
-/
namespace Sys2Proof.Machine

/-! ## LANE_RECORD (R353-R355, R370) -/

/-- A record at the head of its unit's way to its lane: the first of its unit and lane, and a replayable one only where no
fatal record waits in the unit (R355). -/
def State.recordHead (s : State) (r : Record) : Bool :=
  (match s.records.find? fun q => q.unit == r.unit && q.part == r.part && q.ctx == r.ctx && q.fatal == r.fatal with
    | some q => decide (q = r)
    | none => false)
    && (r.fatal || !s.records.any fun q => q.unit == r.unit && q.fatal)

/-- R354: the ring of a lane and its indices. -/
def PartCtx.lane (p : PartCtx) (fatal : Bool) : Word × Word := if fatal then (p.flane, p.fidx) else (p.rlane, p.ridx)
def PartCtx.setIdx (p : PartCtx) (fatal : Bool) (w : Word) : PartCtx := if fatal then { p with fidx := w } else { p with ridx := w }
def laneCap (lane : Word) : Nat := 2 ^ bits lane.toNat 48 4
def laneTail (idx : Word) : Nat := bits idx.toNat 0 16
def laneHead (idx : Word) : Nat := bits idx.toNat 16 16
def laneOcc (idx : Word) : Nat := (laneTail idx + 2 ^ 16 - laneHead idx) % 2 ^ 16

/-- R354: where the next record of a lane goes. -/
def laneAt (lane idx : Word) : Nat := bits lane.toNat 6 34 * 64 + 64 * (laneTail idx % laneCap lane)

/-- R355: a lane accepts a record of a type. -/
def laneAccepts (lane idx : Word) (fatal : Bool) (type : Nat) : Bool :=
  lane.getLsbD 0 && (if fatal && type == 0x20 then decide (laneOcc idx + 64 < laneCap lane)
    else decide (laneOcc idx < laneCap lane))

/-- R354: an index register of its fields. -/
def laneIdx (ovf : Bool) (drop head tail : Nat) : Word :=
  BitVec.ofNat 64 (packFields [(0, tail % 2 ^ 16), (16, head % 2 ^ 16), (32, drop % 2 ^ 16), (63, ovf.toNat)])
def laneDrop (idx : Word) : Nat := bits idx.toNat 32 16
def laneOvf (idx : Word) : Bool := idx.getLsbD 63

/-- R370: a launch record, or the record of a lasting fault: it raises its interrupt also where its lane does not take it. -/
def urgent (bits_ : BitVec 512) : Bool :=
  bits bits_.toNat 0 8 == 0x34 || (bits bits_.toNat 0 8 == 0x21 && bits bits_.toNat 16 1 == 1)
def State.signal (s : State) (r : Record) : State :=
  if urgent r.bits then s.interrupt (laneSource r.part r.ctx r.fatal) else s

/-- R355: a record reaches a lane that exists: it lands in DRAM and TAIL advances, or it is dropped and logged (log 51, DESIGN CHOICE). -/
def State.laneTake (s : State) (r : Record) : State :=
  let p := s.pctx r.part r.ctx
  let (lane, idx) := p.lane r.fatal
  if laneAccepts lane idx r.fatal (bits r.bits.toNat 0 8) then
    let at_ := laneAt lane idx
    let s := if at_ + 64 ≤ hbmEnd then (s.ecc at_ 64).putBlock at_ (natToBytes 64 r.bits.toNat) rawTag else s
    (s.setPctx r.part r.ctx (p.setIdx r.fatal (laneIdx (laneOvf idx) (laneDrop idx) (laneHead idx) (laneTail idx + 1)))).interrupt
      (laneSource r.part r.ctx r.fatal)
  else
    let s := s.setPctx r.part r.ctx (p.setIdx r.fatal (laneIdx true (laneDrop idx + 1) (laneHead idx) (laneTail idx)))
    { s with stewardLog := s.stewardLog ++ [r.bits] }.signal r

/-- R353, R355: a record leaves its unit for its lane, unless the ring's pseudo-channel is reserved (R295), or for the steward log where its partition context is gone. -/
def execLaneRecord (part : Nat) (ctx : Bool) (fatal : Bool) (record : BitVec 512) (s : State) :
    Host.Outcome State Fault Refusal :=
  match s.records.find? fun r => r.part == part && r.ctx == ctx && r.fatal == fatal && r.bits == record && s.recordHead r with
  | none => .next s
  | some r =>
    let t := { s with records := s.records.erase r }
    let (lane, idx) := (s.pctx part ctx).lane fatal
    .next (if !s.ctxExists part ctx then { t with stewardLog := s.stewardLog ++ [r.bits] }.signal r
      else if s.reserved (laneAt lane idx) 64 then s else t.laneTake r)

/-! ## Errors (R82, R83, R359) -/

/-- R82: a patrol scrub reads a block, given by its number, and finds an error in it. -/
def execPatrolScrub (block : Nat) (uncorrectable : Bool) (syndrome : Word) (s : State) : Host.Outcome State Fault Refusal :=
  let pa := 64 * block
  .next (if hbmEnd ≤ pa then s else s.foundError pa uncorrectable syndrome.toNat noReader)

/-- R359: a unit reports an event that no other event of the model makes, firmware counts it, at a time in microseconds, and
judges whether the fault of its source is lasting (log 39, DEDUCED). -/
def execErrorEventLog (source : ErrSource) (time : Nat) (s : State) : Host.Outcome State Fault Refusal :=
  .next (s.errorEvent source time (s.errorPlace source).2.2 (Config.syndrome s.tick))

/-- R83, R359: an event whose window has passed is forgotten. -/
def execErrorEventExpire (source : ErrSource) (time : Nat) (s : State) : Host.Outcome State Fault Refusal :=
  .next (if time + (errorLimit source).2 < s.now then { s with errors := s.errors.erase (source, time) } else s)

/-! ## FRAME_RETIRE (R83) -/

/-- The entries of a map whose keys lie in [from_, from_ + n), as keys at the same distance from dest. -/
def movedRange {α : Type} [DecidableEq α] (d : α) (m : SMap α) (from_ dest n : Nat) : SMap α :=
  let inside := m.filter fun p => decide (from_ ≤ p.1 ∧ p.1 < from_ + n)
  let clear := m.filter fun p => !decide (dest ≤ p.1 ∧ p.1 < dest + n)
  inside.foldl (fun m p => SMap.set d m (p.1 - from_ + dest) p.2) clear

/-- A 64 KiB leaf of this device that maps a page of a frame, so that it maps the same page of another. -/
def remapped (e frame target : Nat) : Nat :=
  if bits e 0 1 = 1 ∧ bits e 1 1 = 1 ∧ bits e 2 2 ≤ 1 ∧ bits e 16 24 / 32 = frame then
    e - bits e 16 24 * 2 ^ 16 + (target * 32 + bits e 16 24 % 32) * 2 ^ 16
  else e

/-- The tables that the valid entries of a table point to. -/
def State.subTables (s : State) (n table : Nat) : List Nat :=
  (List.range n).filterMap fun i =>
    let e := s.dramNat (table + 8 * i) 8
    if bits e 0 1 = 1 ∧ bits e 1 1 = 0 ∧ bits e 16 24 * 2 ^ 16 < hbmEnd then some (bits e 16 24 * 2 ^ 16) else none

/-- An entry of a level-2 table whose leaf of 512 MiB holds a frame of this device (R78). -/
def wideLeaf (e frame : Nat) : Bool := bits e 0 2 == 3 && bits e 2 2 == 0 && bits e 16 24 / 8192 == frame / 256

/-- R83: a table of 64 KiB leaves takes the place of a leaf of 512 MiB; only the pages of the frame map the target. -/
def State.splitLeaf (s : State) (frame target at_ table : Nat) : State :=
  let s := s.eccAll [(at_, 8), (table, 2 ^ 16)]
  let e := s.dramNat at_ 8
  let s := (List.range 8192).foldl (fun (s : State) i =>
    s.dramStore (table + 8 * i) (natToBytes 8 (remapped (e + i * 2 ^ 16) frame target)) false) s
  s.dramStore at_ (natToBytes 8 (1 + table)) false

/-- The places of the entries of some level-2 tables that need a split. -/
def State.wideLeaves (s : State) (frame : Nat) (l2 : List Nat) : List Nat :=
  (l2.map fun t => ((List.range 8192).map fun i => t + 8 * i).filter fun a => wideLeaf (s.dramNat a 8) frame).flatten

/-- The level-2 tables of the partition contexts that exist. -/
def State.midTables (s : State) : List Nat :=
  ((s.contexts.map fun c => s.subTables 64 (s.rootTable c.1 c.2)).flatten).eraseDups

/-- R83: the leaves that map a frame map the target instead; a leaf of 512 MiB takes one of the tables that the steward
gives. The controllers read the codewords of the tables (R82). -/
def State.remap (s : State) (frame target : Nat) (tables : List Nat) : State :=
  let s := s.eccAll (s.contexts.map fun c => (s.rootTable c.1 c.2, 512))
  let mid := s.midTables
  let s := s.eccAll (mid.map fun t => (t, 2 ^ 16))
  let s := ((s.wideLeaves frame mid).zip tables).foldl (fun (s : State) p => s.splitLeaf frame target p.1 p.2) s
  let last := ((mid.map fun t => s.subTables 8192 t).flatten).eraseDups
  let s := s.eccAll (last.map fun t => (t, 2 ^ 16))
  last.foldl (fun (s : State) t => (List.range 8192).foldl (fun (s : State) i =>
    let at_ := t + 8 * i
    let e := s.dramNat at_ 8
    let e' := remapped e frame target
    if e' = e then s else s.dramStore at_ (natToBytes 8 e') false) s) s

/-- R241: a range of a bound object, where part of it lies in a frame that moves. -/
def movedPieces (frame target : Nat) (r : Nat × Nat × Option Nat) : List (Nat × Nat × Option Nat) :=
  let a := frame * 2 ^ 21
  let lo := max r.1 a
  let hi := min (r.1 + r.2.1) (a + 2 ^ 21)
  if r.2.2.isSome || decide (hi ≤ lo) then [r]
  else [(r.1, lo - r.1, none), (lo - a + target * 2 ^ 21, hi - lo, none), (hi, r.1 + r.2.1 - hi, none)].filter fun p => p.2.1 != 0

/-- R241: the bound objects follow the frame. -/
def State.moveRanges (s : State) (frame target : Nat) : State :=
  { s with syncs := s.syncs.map fun p => (p.1, { p.2 with ranges := (p.2.ranges.map (movedPieces frame target)).flatten }) }

/-- What the slices still hold of a frame, poisoned elements, follows it. -/
def State.moveEntries (s : State) (frame target : Nat) : State :=
  let mine := s.l2.filter fun p => p.1 * 4 / 2 ^ 21 == frame
  let rest := { s with l2 := s.l2.filter fun p => p.1 * 4 / 2 ^ 21 != frame }
  mine.foldl (fun (s : State) p =>
    let key := p.1 - frame * 2 ^ 19 + target * 2 ^ 19
    { s with l2 := SMap.put s.l2 key ⟨{ p.2.entry with key := key }, p.2.folded⟩ }) rest

/-- An update of an element of a frame is on its way to a slice. -/
def State.frameBusy (s : State) (frame : Nat) : Bool :=
  let has := fun (l : List RunEntry) => l.any fun e => e.key * 4 / 2 ^ 21 == frame
  s.ctxs.any (fun p => has p.2.l0 || has p.2.port) || s.clusters.any (fun p => has p.2.l1)
    || s.paths.any (fun p => match p.item with
      | .entries es => has es
      | .resolve _ es => has es
      | .load _ _ => false)

/-- R83: no context that uses a frame stands on its cores with a task: each has been swapped out, or its tasks have ended. -/
def State.frameFree (s : State) (frame : Nat) : Bool :=
  (s.users (.frame frame)).all fun c => (s.part c.1).res != c.2
    || s.tasks.all fun t => t.part != c.1 || t.ctx != c.2 || !(t.stage == .placed || t.stage == .retiring || t.stage == .summed)

/-- R84: every TLB drops the entries that a condition names. -/
def State.tlbDrop (s : State) (gone : TlbEntry → Bool) : State :=
  { s with
    cores := (s.cores.map (·.1)).foldl (fun m k => SMap.set Core.initial m k
      { SMap.get Core.initial m k with tlb := (SMap.get Core.initial m k).tlb.filter fun e => !gone e }) s.cores
    clusters := (s.clusters.map (·.1)).foldl (fun m k => SMap.set Cluster.initial m k
      { SMap.get Cluster.initial m k with tlb := (SMap.get Cluster.initial m k).tlb.filter fun e => !gone e }) s.clusters }

/-- R83: a frame with a lasting fault that no running context uses is copied to a frame of its zone that none uses, tags included, the
pages that map it are remapped, the objects bound to it follow (R241), their translations are invalidated, and the frame
leaves service (log 40, DEDUCED). Handle entries stand as they are: one that is pinned into the frame goes on naming it, and so do
PTROOT, table pointers and HTBASE where the frame holds page tables or a handle table, which the spec does not settle (log 113, DESIGN
CHOICE). What the slices hold of the frame is written back first. `pages` gives the number of the free
frame, and after it the addresses of free tables for the leaves of 512 MiB that must be split. -/
def execFrameRetire (frame : Nat) (pages : List Nat) (s : State) : Host.Outcome State Fault Refusal :=
  let target := pages.headD frame
  let tables := pages.drop 1
  let a := frame * 2 ^ 21
  let b := target * 2 ^ 21
  let ok : Bool := s.lasting.contains (.frame frame) && !s.retired.contains frame && !s.retired.contains target
    && !s.lasting.contains (.frame target) && frame != target && decide (a < hbmEnd ∧ b < hbmEnd)
    && s.interleaved a == s.interleaved b && (s.users (.frame target)).isEmpty && s.frameFree frame && !s.frameBusy frame
    && tables.all (fun t => t % 2 ^ 16 == 0 && decide (t + 2 ^ 16 ≤ hbmEnd))
    && decide ((s.wideLeaves frame s.midTables).length ≤ tables.length)
  if !ok then .next s
  else
    let keys := (s.l2.map (·.1) ++ s.wbuf.map (·.1)).eraseDups.filter fun k => k * 4 / 2 ^ 21 == frame
    let s := keys.foldl State.writeBackNow (s.eccAll [(a, 2 ^ 21), (b, 2 ^ 21)])
    let s := { s with
      hbm := movedRange 0 s.hbm a b (2 ^ 21)
      blockTags := movedRange zeroTag s.blockTags (a / 64) (b / 64) (2 ^ 15)
      retired := s.retired ++ [frame] }
    let s := ((s.moveEntries frame target).moveRanges frame target).remap frame target tables
    .next (s.tlbDrop fun e => decide (e.cls ≤ 1 ∧ e.pa / 2 ^ 21 ≤ frame ∧ frame * 2 ^ 21 < e.pa + e.size))

end Sys2Proof.Machine
end

