-- ==== Sys2Proof/Machine/Mmio.lean ====
section
/-!
DEFINITION. The registers that the steward reaches through MMIO (R70, R368): where each lies, what it reads as, and what a
write does to those that have no row of their own in the opcode table.
-/
namespace Sys2Proof.Machine

/-- The registers of the MMIO range; `zero` is a reserved word of a block that has registers. `p` is a partition and `c` its
context. -/
inductive Mmio where
  | memcfg | tlbinv | tlbinva | hrevoke | barage
  | ptroot (p : Nat) (c : Bool) | htbase (p : Nat) (c : Bool) | htcount (p : Nat) (c : Bool)
  | own (p : Nat) (c : Bool) (w : Nat)
  | regcfg (id : Nat) (high : Bool)
  | bkctx (pch : Nat)
  | partcfg (p : Nat)
  | lport (p : Nat) (c : Bool) | lstat (p : Nat) (c : Bool) | msgsave (p : Nat) (c : Bool) | msgcnt (p : Nat) (c : Bool)
  | gqcfg (n : Nat)
  | swapctl (p : Nat)
  | preempt
  | lane (p : Nat) (c fatal : Bool) | index (p : Nat) (c fatal : Bool)
  | klstat (port : Nat) | domid
  | meas (k w : Nat) | digest (n : Nat) | mextgo | mextstat
  | dbarcnt (id : Nat)
  | pwrstat
  | dbgctl (core : Nat) | dbp (core n : Nat) | dwp (core n : Nat) | dbgsel (core : Nat) | dbgval (core : Nat)
  | doorbell (core thr : Nat)
  | zero
  | trcbase (cluster : Nat) | trcctl (cluster : Nat)
  | cklist (p : Nat) (c : Bool) | ckcnt (p : Nat) (c : Bool)
deriving DecidableEq, Repr

/-- The partition context and the register of a block of 0x40 bytes per partition and 0x20 per context. -/
def ctxBlock (o : Nat) : Nat × Bool × Nat := (o / 0x40, o / 0x20 % 2 == 1, o % 0x20 / 8)

/-- R379: a register of the debug blocks. -/
def debugReg (o : Nat) : Option Mmio :=
  let core := o / 0x100
  let r := o % 0x100 / 8
  if 2144 ≤ core then none
  else if r = 0 then some (.dbgctl core)
  else if r < 5 then some (.dbp core (r - 1))
  else if r < 9 then some (.dwp core (r - 5))
  else if r = 9 then some (.dbgsel core)
  else if r = 10 then some (.dbgval core)
  else none

/-- The register at an offset from the start of the MMIO range. The debug blocks of cores 768 to 1303 and the doorbells lie
at the same addresses; such an address names the debug register, where there is one (log 44, DESIGN CHOICE). -/
def mmioAt (o : Nat) : Option Mmio :=
  if o % 8 ≠ 0 then none
  else if o = 0x10000 then some .memcfg
  else if o = 0x10010 then some .tlbinv
  else if o = 0x10018 then some .tlbinva
  else if o = 0x10020 then some .hrevoke
  else if o = 0x10028 then some .barage
  else if 0x11000 ≤ o ∧ o < 0x11400 then
    let (p, c, r) := ctxBlock (o - 0x11000)
    if r = 0 then some (.ptroot p c) else if r = 1 then some (.htbase p c) else if r = 2 then some (.htcount p c) else some .zero
  else if 0x12000 ≤ o ∧ o < 0x12400 then
    let (p, c, r) := ctxBlock (o - 0x12000)
    some (.own p c r)
  else if 0x13000 ≤ o ∧ o < 0x14000 then some (.regcfg ((o - 0x13000) / 16) (o % 16 == 8))
  else if 0x14000 ≤ o ∧ o < 0x15800 then some (.bkctx ((o - 0x14000) / 8))
  else if 0x15800 ≤ o ∧ o < 0x15880 then some (.partcfg ((o - 0x15800) / 8))
  else if 0x16000 ≤ o ∧ o < 0x16400 then
    let (p, c, r) := ctxBlock (o - 0x16000)
    if r = 0 then some (.lport p c) else if r = 1 then some (.lstat p c) else if r = 2 then some (.msgsave p c)
    else some (.msgcnt p c)
  else if 0x17000 ≤ o ∧ o < 0x18800 then some (.gqcfg ((o - 0x17000) / 8))
  else if 0x18800 ≤ o ∧ o < 0x18880 then some (.swapctl ((o - 0x18800) / 8))
  else if o = 0x18880 then some .preempt
  else if 0x19000 ≤ o ∧ o < 0x19400 then
    let (p, c, r) := ctxBlock (o - 0x19000)
    if r = 0 then some (.lane p c true) else if r = 1 then some (.index p c true) else if r = 2 then some (.lane p c false)
    else some (.index p c false)
  else if 0x20000 ≤ o ∧ o < 0x20090 then some (.klstat ((o - 0x20000) / 8))
  else if o = 0x20100 then some .domid
  else if 0x21000 ≤ o ∧ o < 0x21180 then some (.meas ((o - 0x21000) / 48) ((o - 0x21000) % 48 / 8))
  else if 0x21180 ≤ o ∧ o < 0x211B0 then some (.digest ((o - 0x21180) / 8))
  else if o = 0x211B0 then some .mextgo
  else if o = 0x211B8 then some .mextstat
  else if 0x22000 ≤ o ∧ o < 0x29000 then some (.dbarcnt (512 + (o - 0x22000) / 8))
  else if o = 0x29000 then some .pwrstat
  else if 0xC0000 ≤ o ∧ o < 0xC1000 then some (if o % 16 = 0 then .trcbase ((o - 0xC0000) / 16) else .trcctl ((o - 0xC0000) / 16))
  else if 0xD0000 ≤ o ∧ o < 0xD0400 then
    let (p, c, r) := ctxBlock (o - 0xD0000)
    if r = 0 then some (.cklist p c) else if r = 1 then some (.ckcnt p c) else some .zero
  else
    let bell : Option Mmio :=
      if 0x60000 ≤ o ∧ o < 0x81800 then some (.doorbell ((o - 0x60000) / 64) ((o - 0x60000) % 64 / 8)) else none
    (if 0x30000 ≤ o then debugReg (o - 0x30000) else none).orElse fun _ => bell

/-! ## What a register reads as -/

/-- A word of fields. -/
def fieldWord (l : List (Nat × Nat)) : Word := BitVec.ofNat 64 (packFields l)

/-- R379, R380: DBGVAL. -/
def State.debugValue (s : State) (core : Nat) : Word :=
  let d := (s.core core).dbg
  let t := s.residentThread core (selThread d.dbgsel)
  if !s.threadHalted t then 0
  else match selReg d.dbgsel with
    | some (.x n) => if s.isPending t (.x n) then 0 else ((s.thread t).readX n).val
    | some (.v n) => if s.isPending t (.v n) then 0
      else BitVec.ofNat 64 (bits ((s.thread t).readV n).val.toNat (64 * selWord d.dbgsel) 64)
    | some (.c n) => if s.isPending t (.c n) then 0 else ((s.coreCtx core t.ctx).readCOf t.thr n).val
    | _ => 0

/-- R317: how many tasks wait in a queue, and how many are placed. -/
def State.queuedTasks (s : State) (p : Nat) (c : Bool) (prio : Nat) : Nat :=
  (s.tasks.filter fun t => t.part == p && t.ctx == c && t.stage == .queued && t.prio == prio).length
def State.placedTasks (s : State) (p : Nat) (c : Bool) : Nat :=
  (s.tasks.filter fun t => t.part == p && t.ctx == c && t.onCores).length

/-- What a load of a register returns to the steward. -/
def State.mmioRead (s : State) : Mmio → Word
  | .memcfg => s.memcfg
  | .tlbinv => s.tlbinv
  | .tlbinva => s.tlbinva
  | .hrevoke => s.hrevoke
  | .barage => s.barage
  | .ptroot p c => (s.pctx p c).ptroot
  | .htbase p c => (s.pctx p c).htbase
  | .htcount p c => (s.pctx p c).htcount
  | .own p c w => BitVec.ofNat 64 (bits (s.pctx p c).own.toNat (64 * w) 64)
  | .regcfg id high => if high then 0 else (s.region id).setWidth 64
  | .bkctx n =>
    let p := s.pch n
    fieldWord [(63, p.busy.toNat), (62, p.err.toNat), (59, p.rsv.toNat), (6, p.area)]
  | .partcfg n =>
    let p := s.part n
    fieldWord [(62, p.err.toNat), (18, p.v.toNat), (17, p.res.toNat), (16, p.split.toNat), (12, p.y1.toNat), (8, p.x1.toNat),
      (4, p.y0.toNat), (0, p.x0.toNat)]
  | .lport _ _ => 0
  | .lstat p c => fieldWord [(63, (s.pctx p c).ovf.toNat), (32, s.placedTasks p c), (24, s.queuedTasks p c 3),
      (16, s.queuedTasks p c 2), (8, s.queuedTasks p c 1), (0, s.queuedTasks p c 0)]
  | .msgsave p c => (s.pctx p c).msgsave
  | .msgcnt p c => fieldWord [(32, (s.pctx p c).spilled % 2 ^ 32), (0, (s.pctx p c).dead.toNat)]
  | .gqcfg n => SMap.get 0 s.gqcfg n
  | .swapctl n =>
    let p := s.part n
    fieldWord [(63, p.swapping.toNat), (62, p.swapErr.toNat), (32, p.haltclk.toNat), (16, p.moveclk.toNat)]
  | .preempt => 0
  | .lane p c fatal => ((s.pctx p c).lane fatal).1
  | .index p c fatal => ((s.pctx p c).lane fatal).2
  | .klstat n =>
    let p := s.port n
    fieldWord [(63, p.up.toNat), (62, p.lasting.toNat), (32, min (s.windowCount (.port n) s.now) 65535), (0, p.en.toNat)]
  | .domid => s.domid
  | .meas k w => BitVec.ofNat 64 (bits (SMap.get (0 : BitVec 384) s.meas k).toNat (64 * w) 64)
  | .digest _ => 0
  | .mextgo => 0
  | .mextstat => fieldWord [(63, s.mext.isSome.toNat)]
  | .dbarcnt id => (SMap.get (0 : BitVec 32) s.dbarcnt (id - 512)).setWidth 64
  | .pwrstat => fieldWord [(48, s.hot.toNat), (32, s.pwr.toNat), (16, s.tdie1.toNat), (0, s.tdie0.toNat)]
  | .dbgctl core =>
    let halted := packFields ((List.range 8).map fun i => (i, (s.threadHalted (s.residentThread core i)).toNat))
    fieldWord [(16, halted), (0, (halted != 0).toNat)]
  | .zero => 0
  | .dbp core n => SMap.get 0 (s.core core).dbg.dbp n
  | .dwp core n => SMap.get 0 (s.core core).dbg.dwp n
  | .dbgsel core => (s.core core).dbg.dbgsel
  | .dbgval core => s.debugValue core
  | .doorbell _ _ => 0
  | .trcbase n => (s.cluster n).trcbase
  | .trcctl n => (s.cluster n).trcctl
  | .cklist p c => (s.pctx p c).cklist
  | .ckcnt p c => (s.pctx p c).ckcnt

/-! ## What a write does -/

/-- R354: a write of FIDX or RIDX: OVF is cleared by 1, DROP and HEAD are written; a HEAD past TAIL leaves the lane as it
stood (log 45, DEDUCED). -/
def indexWritten (old w : Word) : Word :=
  if laneOcc old < (laneHead w + 2 ^ 16 - laneHead old) % 2 ^ 16 then old
  else laneIdx (laneOvf old && !laneOvf w) (laneDrop w) (laneHead w) (laneTail old)

/-- R383: a write of TRCBASE; TAIL counts from the write that sets EN. -/
def Cluster.setBase (k : Cluster) (w : Word) : Cluster :=
  let w := w &&& 0x000F00FFFFFFFFC1
  { k with
    trcbase := w
    trcctl := if w.getLsbD 0 && !k.trcbase.getLsbD 0 then k.trcctl &&& 0xFFFFFFFF00000000 else k.trcctl }

/-- R383: a write of TRCCTL: WRAP is cleared by 1, TAIL stands. -/
def Cluster.setCtl (k : Cluster) (w : Word) : Cluster :=
  let wrap : Word := if w.getLsbD 63 then 0 else k.trcctl &&& 0x8000000000000000
  { k with trcctl := wrap ||| (w &&& 0x0000FF0F00000000) ||| (k.trcctl &&& 0x00000000FFFFFFFF) }

/-- A write to a register that has no row of its own in the opcode table; to any other nothing happens here. HTCOUNT keeps what its
field can hold, above 65,536 too (log 43, DESIGN CHOICE), and a region mask takes a region that another context owns, which both own
then (log 126, DESIGN CHOICE). -/
def State.mmioWrite (s : State) (r : Mmio) (w : Word) : State :=
  match r with
  | .tlbinva => { s with tlbinva := w &&& 0x0000FFFFFFFF0000 }
  | .ptroot p c => s.setPctx p c { s.pctx p c with ptroot := w &&& 0x000000FFFFFFFE00 }
  | .htbase p c => s.setPctx p c { s.pctx p c with htbase := w &&& 0x000000FFFFFFFFF0 }
  | .htcount p c => s.setPctx p c { s.pctx p c with htcount := w &&& 0x000000000001FFFF }
  | .own p c n =>
    let old := (s.pctx p c).own.toNat
    let v := if n = 0 then w.toNat / 2 * 2 else w.toNat
    s.setPctx p c { s.pctx p c with own := BitVec.ofNat 256 (old - bits old (64 * n) 64 * 2 ^ (64 * n) + v * 2 ^ (64 * n)) }
  | .bkctx n =>
    let p := s.pch n
    if p.busy || bits w.toNat 60 2 == 1 || bits w.toNat 60 2 == 2 then s else s.setPch n { p with area := bits w.toNat 6 34 }
  | .lstat p c => s.setPctx p c { s.pctx p c with ovf := (s.pctx p c).ovf && !w.getLsbD 63 }
  | .msgsave p c => s.setPctx p c { s.pctx p c with msgsave := w &&& 0xFFFF00FFFFFFFFF0 }
  | .msgcnt p c => s.setPctx p c { s.pctx p c with dead := w.setWidth 32 }
  | .gqcfg n => { s with gqcfg := SMap.set 0 s.gqcfg n (w &&& 0x83E0FF) }
  | .swapctl n => s.setPart n { s.part n with swapErr := (s.part n).swapErr && !w.getLsbD 62 }
  | .lane p c fatal =>
    let v := w &&& 0x000F00FFFFFFFFC1
    s.setPctx p c (if fatal then { s.pctx p c with flane := v } else { s.pctx p c with rlane := v })
  | .index p c fatal => s.setPctx p c ((s.pctx p c).setIdx fatal (indexWritten ((s.pctx p c).lane fatal).2 w))
  | .digest n => if s.mext.isSome then s else { s with digest := SMap.set 0 s.digest n w }
  | .dbarcnt id => { s with dbarcnt := SMap.set 0 s.dbarcnt (id - 512) (w.setWidth 32) }
  | .pwrstat => { s with hot := s.hot && !w.getLsbD 48 }
  | .dbp core n =>
    let c := s.core core
    s.setCore core { c with dbg := { c.dbg with dbp := SMap.set 0 c.dbg.dbp n (w &&& 0xC0FFFFFFFFFFFFFF) } }
  | .dwp core n =>
    let c := s.core core
    s.setCore core { c with dbg := { c.dbg with dwp := SMap.set 0 c.dbg.dwp n (w &&& 0xF8FFF0FFFFFFFFFF) } }
  | .dbgsel core =>
    let c := s.core core
    s.setCore core { c with dbg := { c.dbg with dbgsel := w &&& 0x1FFF } }
  | .trcbase n => s.setCluster n ((s.cluster n).setBase w)
  | .trcctl n => s.setCluster n ((s.cluster n).setCtl w)
  | .cklist p c => s.setPctx p c { s.pctx p c with cklist := w }
  | .ckcnt p c => s.setPctx p c { s.pctx p c with ckcnt := BitVec.ofNat 64 (min 16 (w.toNat % 32)) }
  | .memcfg | .tlbinv | .hrevoke | .barage | .regcfg _ _ | .partcfg _ | .lport _ _ | .preempt | .klstat _ | .domid
  | .meas _ _ | .mextgo | .mextstat | .dbgctl _ | .dbgval _ | .doorbell _ _ | .zero => s

end Sys2Proof.Machine
end

