-- ==== Sys2Proof/Machine/Boot.lean ====
section
/-!
DEFINITION. The boot chain (R371-R373): the images in NOR and UFS, what accepts them, how a measurement register is extended, and
the stages.
-/
namespace Sys2Proof.Machine

/-! ## Measurement (R373) -/

/-- R373: the SHA-384 of a measurement register and a digest. -/
def extended (old : BitVec 384) (digest : List Byte) : BitVec 384 :=
  BitVec.ofNat 384 (bytesToNat (sha384 (natToBytes 48 old.toNat ++ digest)))

def State.extend (s : State) (k : Nat) (digest : List Byte) : State :=
  { s with meas := SMap.set 0 s.meas k (extended (SMap.get 0 s.meas k) digest) }

/-- The six DIGEST words as bytes. -/
def State.digestBytes (s : State) : List Byte :=
  ((List.range 6).map fun n => natToBytes 8 (SMap.get (0 : Word) s.digest n).toNat).flatten

/-- R373: a boot stage extends a register through MEXT: it writes the DIGEST words, which keep their values. -/
def State.measure (s : State) (k : Nat) (image : List Byte) : State :=
  let d := sha384 image
  ({ s with
    digest := (List.range 6).foldl (fun m n => SMap.set 0 m n (BitVec.ofNat 64 (bytesToNat ((d.drop (8 * n)).take 8)))) s.digest }
    ).extend k d

/-! ## Images (R372) -/

/-- R13: the bytes of the NOR flash, 256 MiB, and of the UFS device, 256 GB. -/
def norSize : Nat := 256 * 2 ^ 20
def ufsSize : Nat := 256 * 10 ^ 9

/-- A byte of the NOR flash or of the UFS device; what nothing has programmed, and what lies past its end, is free (log 19, DESIGN
CHOICE). -/
def State.norByte (s : State) (a : Nat) : Byte := ((SMap.find s.nor a).filter fun _ => a < norSize).getD (Config.flashByte a)
def State.ufsByte (s : State) (a : Nat) : Byte := ((SMap.find s.ufs a).filter fun _ => a < ufsSize).getD (Config.storageByte a)
def State.stored (s : State) (ufs : Bool) (a n : Nat) : List Byte :=
  (List.range n).map fun i => if ufs then s.ufsByte (a + i) else s.norByte (a + i)

/-- The fields of an image's header. -/
def imageField (head : List Byte) (lo w : Nat) : Nat := bits (bytesToNat head) lo w
/-- Some bytes of it as a big-endian number. -/
def imageNumber (head : List Byte) (at_ n : Nat) : Nat := bytesToNat ((head.drop at_).take n).reverse

/-- R372: the header and the body of the image at a place. -/
def State.imageAt (s : State) (ufs : Bool) (a : Nat) : List Byte × List Byte :=
  let head := s.stored ufs a 320
  (head, s.stored ufs (a + 320) (imageField head 64 32))

/-- R372: an image is accepted for a stage. -/
def imageAccepted (stage : Nat) (head body : List Byte) : Bool :=
  let pub := (head.drop 64).take 97
  imageField head 0 32 == 0x574E4D31 && imageField head 32 16 == 1
    && imageField head 97 415 == 0 && imageField head 1288 248 == 0 && imageField head 2304 256 == 0
    && bytesToNat (sha384 pub) == (Config.fusedKey stage).toNat && decide (Config.fusedVersion stage ≤ imageField head 48 16)
    && pub.head? == some 4
    && verifies (imageNumber head 65 48) (imageNumber head 113 48) (bytesToNat (sha384 (head.take 192 ++ body)).reverse)
        (imageNumber head 192 48) (imageNumber head 240 48)

/-- R13, R371: the first image of a list of places that a stage accepts; an image lies in its device whole. -/
def State.bootImage (s : State) (stage : Nat) (ufs : Bool) (places : List Nat) : Option (List Byte × List Byte) :=
  let size := if ufs then ufsSize else norSize
  ((places.filter fun a => a + 320 ≤ size).findSome? fun a =>
    let p := s.imageAt ufs a
    if a + 320 + p.2.length ≤ size ∧ imageAccepted stage p.1 p.2 = true then some p else none)

/-! ## Attestation (R373) -/

/-- R373: an attestation report: the nonce, MEAS0 to MEAS7, the SVNs of stages 1 and 2, the domain device number; in the order
of the rule, each number little-endian in two bytes (log 111, DESIGN CHOICE). -/
def State.attestation (s : State) (nonce : BitVec 384) : List Byte :=
  natToBytes 48 nonce.toNat ++ ((List.range 8).map fun k => natToBytes 48 (SMap.get (0 : BitVec 384) s.meas k).toNat).flatten
    ++ natToBytes 2 (SMap.get 0 s.svns 1) ++ natToBytes 2 (SMap.get 0 s.svns 2) ++ natToBytes 2 s.dev

/-- R373: steward firmware signs a report with the device identity key. -/
def State.attest (s : State) (nonce : BitVec 384) : State :=
  let r := s.attestation nonce
  { s with attested := some (r, sign Config.identityKey (bytesToNat (sha384 r).reverse) (Config.signatureNonce s.tick)) }

/-! ## Stages (R371) -/

/-- R371: boot fails at its stage: the module stops with BOOTSTAT set; which error code a stage gives is free, in 8 bits (log 19, DESIGN CHOICE,
DESIGN CHOICE). Stage 2 verifies as stage 1 does. -/
def State.bootFail (s : State) : State :=
  { s with bootFailed := true
           bootErr := if s.bootStage ≤ 2 then 1 + Config.bootError s.tick 1 % 3 else Config.bootError s.tick s.bootStage % 256 }

/-- Boot has brought the module as far as the steward firmware, which runs from stage 3 on. -/
def State.firmware (s : State) : Bool := decide (3 ≤ s.bootStage) && !s.bootFailed

/-- R198: compute-mesh bring-up. -/
def State.bringUpAll (s : State) : State := (List.range 2048).foldl State.bringUp s

/-- R371, R374: the Kamelm ports and the four Ethernet ports are trained; one that fails stays down (log 42, DESIGN CHOICE). -/
def State.trainPorts (s : State) : State :=
  let t := (List.range 18).foldl (fun (s : State) i =>
    let p := s.port i
    s.setPort i { p with up := p.en && !p.lasting && (Config.outcome s.tick).testBit i }) s
  { t with etherUp := (List.range 4).filter fun i => (Config.outcome s.tick).testBit (18 + i) }

/-- R372, R373: the security version of the image that a stage accepted. -/
def State.accept (s : State) (stage : Nat) (head : List Byte) : State :=
  { s with svns := SMap.set 0 s.svns stage (imageField head 48 16) }

/-- R371: the module boots one stage further, or fails there. The boot ROM takes slot A or B; where the images of the steward
firmware and of the OS lie, and whether training, the OS's load or its bring-up fails, is free (log 19, DESIGN CHOICE). Stage 3 ends
once MEMCFG is locked, and the rest of it and of stage 5 is the steward's own writes. -/
def State.bootStep (s : State) : State :=
  if s.bootStage = 1 then match s.bootImage 1 false [0, 0x8000000] with
    | some (h, b) => { (s.measure 0 (h ++ b)).accept 1 h with rootPort := imageField h 96 1 == 1, bootStage := 2 }
    | none => s.bootFail
  else if s.bootStage = 2 then match s.bootImage 2 false [Config.imagePlace 2 0, Config.imagePlace 2 1] with
    | some (h, b) => { (s.measure 1 (h ++ b)).accept 2 h with bootStage := 3 }
    | none => s.bootFail
  else if s.bootStage = 3 then
    if Config.bootFails s.tick then s.bootFail
    else if s.memcfg.getLsbD 7 then { s.trainPorts.measure 1 (Config.measured 3 s.tick) with bootStage := 4 } else s
  else if s.bootStage = 4 then match s.bootImage 4 true [Config.imagePlace 4 0] with
    | some (h, b) => { s.measure 2 (h ++ b) with bootStage := 5 }
    | none => s.bootFail
  else if s.bootStage = 5 then
    if Config.bootFails s.tick then s.bootFail else { s.bringUpAll.measure 3 (Config.measured 5 s.tick) with bootStage := 6 }
  else s

/-- R373: an extension in progress ends with the DIGEST words, which no write has changed since MEXTGO, and BUSY clears. -/
def State.mextEnd (s : State) : State :=
  match s.mext with
  | some k => { (s.extend k s.digestBytes) with mext := none }
  | none => s

/-- R371, R373: each stage extends its register before it passes control, and MEXT takes no write while BUSY: an extension in
progress ends first. -/
def State.bootNext (s : State) : State := if s.mext.isSome then s.mextEnd else s.bootStep

end Sys2Proof.Machine
end

