-- ==== Sys2Proof/Machine/Link.lean ====
section
/-!
DEFINITION. The Kamelm Link and the time of the domain (R374-R378): REMOTE_ACK, FLAG_RESEND, FLIT_RECEIVE, FLAG_RECEIVE,
PORT_DOWN, KLSTAT_WRITE, DOMID_WRITE, TIME_BEAT and TLOCK_LOSS.
-/
namespace Sys2Proof.Machine

/-! ## What other devices acknowledge (R375, R376) -/

/-- R375, R376: the owning device acknowledges an update, an MRESOLVE (whose COUNT it found, log 41, DESIGN CHOICE), or one of a release's
flags; with no path to it nothing comes back, and an MRESOLVE resolves LINK_DOWN (log 68, DEDUCED). -/
def execRemoteAck (op : Nat) (s : State) : Host.Outcome State Fault Refusal :=
  match s.op op with
  | some o => match o.kind with
    | .remoteUpdate rdev _ _ _ _ => .next (if s.pathTo rdev then s.removeOp op else s)
    | .resolve (some rdev) _ =>
      .next (if s.pathTo rdev then s.resolveStatus o stOk (Config.outcome s.tick % 2)
        else if s.ackAwaited op then s else s.resolveStatus o stLinkDown 0)
    | .rel r =>
      if r.stage = .flags then
        match s.pick (r.flags.filter fun f => s.pathTo f.1) with
        | some f => .next (s.setOp { o with kind := .rel { r with flags := r.flags.erase f } })
        | none => .next s
      else .next s
    | _ => .next s
  | none => .next s

/-- R376: a flag without an acknowledgement is sent again, with the same number: on this device nothing changes. -/
def execFlagResend (_op : Nat) (_dev : Nat) (s : State) : Host.Outcome State Fault Refusal := .next s

/-! ## What arrives (R374-R376) -/

/-- R375: a packet that has been seen is a duplicate. -/
def State.seen (s : State) (src tag : Nat) : Bool := s.packetsSeen.contains (src, tag)
def State.markSeen (s : State) (src tag : Nat) : State := { s with packetsSeen := s.packetsSeen ++ [(src, tag)] }

/-- The bytes of a keyed update's or a store's place can take it: the interleaved zone at the slice, the linear zone at a
controller that is open. -/
def State.takes (s : State) (pa : Nat) : Bool := s.interleaved pa || (s.linear pa && s.pchOpen (s.pchOf pa))

/-- R229, R235, R375: the answer to one element of a load of this device (a merge fault's TVAL is the key's byte address), sent only after every earlier REMOTE update of its thread
to that device has been acknowledged. -/
def State.answerLane (s : State) (op i cause : Nat) (bounded : Bool) (value : List Byte) : State :=
  match s.op op with
  | some o => match o.kind with
    | .load fmt lanes => match lanes[i]? with
      | some l =>
        let early := s.ops.any fun p => decide (p.id < o.id) && decide (p.owner = o.owner) && (match p.kind with
          | .remoteUpdate rdev _ _ _ _ => rdev == l.rdev
          | _ => false)
        if l.cls != 2 || l.decided || early then s
        else
          let r : LaneResult := if cause = 0 then .value (regOfBits (s.region l.region) (bytesToNat value)) bounded
            else .fault cause (BitVec.ofNat 64 (if cause = 49 then l.pa / 4 * 4 else l.va))
          s.setOp { o with kind := .load fmt (lanes.modify i fun l => { l with result := r, fixL := regL (s.region l.region) }) }
      | none => s
    | _ => s
  | none => s

/-- R75: the owning device refuses an update or an MRESOLVE of this device, and the access fault comes back to its issuer: the
register of an MRESOLVE holds it (log 96, DEDUCED), and an update, which has none, is over with a hardware-error record that names
its thread, cause 7, its place and the device (log 112, DESIGN CHOICE). -/
def State.refuseUpdate (s : State) (port op cause : Nat) : State :=
  match s.op op with
  | some o => match o.kind with
    | .remoteUpdate rdev pa _ _ _ =>
      if cause = 0 then s
      else (s.hwError (s.partOf o.core) o.ctx 7 0 port pa rdev o.pc.toNat 7 o.thr 0 false).removeOp op
    | .resolve (some _) va => if cause = 0 then s else s.resolveFault o cause va
    | _ => s
  | none => s

/-- R375: what another device sends with a sequence tag takes effect once, where its place can take it. -/
def State.once (s : State) (src tag pa : Nat) (takes : Bool) (f : State → State) : State :=
  if s.seen src tag || !takes || s.reserved pa 1 then s else (f s).markSeen src tag

/-- R75: a plain store from outside, at the slice or at the controller. -/
def State.storeOnce (s : State) (src tag pa : Nat) (bytes : List Byte) : State :=
  s.once src tag pa (s.takes pa) fun s =>
    let s := s.ecc pa bytes.length
    (if s.interleaved pa then s.sliceWrite pa bytes else s).dramStore pa bytes false

/-- R341: the causes that are produced, and 0 for an answer that holds none; a reply with another one is nothing that a device
sends, and has no effect (log 118, DEDUCED). -/
def causeListed (c : Nat) : Bool := c < 64 && !([9, 10, 11, 14, 27].contains c || (16 ≤ c && c ≤ 23) || (32 ≤ c && c ≤ 47) || 58 ≤ c)

/-- R75, R375: a packet takes effect at its owner, with the class that the PA has there: the SET of a BANK page is a plain store. A PA outside the zone that its kind needs gets an access fault for an answer,
and nothing here changes. A load whose newest SET stands in the slice reads no DRAM (R229). The entry of a keyed update belongs to no partition context of this device (number 16; log 97, DEDUCED,
DEDUCED). -/
def State.receive (s : State) (port : Nat) (p : Packet) : State :=
  match p with
  | .update src tag pa set value region =>
    let e : RunEntry := ⟨pa / 4, if set then .set else .combine, value, region, 16, false, 0⟩
    if set && s.linear pa then
      let r := s.region region
      s.storeOnce src tag pa (natToBytes (regBytes r) (value % (2 : Int) ^ (8 * regBytes r)).toNat)
    else s.once src tag pa (s.interleaved pa) fun s => (s.makeRoom (sliceOf pa) e.key).l2Fold 0 [e]
  | .resolve src tag pa value region =>
    let e : RunEntry := ⟨pa / 4, .set, value, region, 16, false, 0⟩
    s.once src tag pa (s.interleaved pa) fun s => (s.makeRoom (sliceOf pa) e.key).l2Put e
  | .store src tag pa bytes => s.storeOnce src tag pa bytes
  | .copy src tag pieces =>
    let pa := match pieces with | [] => 0 | q :: _ => q.lo
    s.once src tag pa (s.takes pa) fun s => s.memoryPieces noReader (s.interleaved pa) false pieces
  | .load _ _ pa bytes => if s.interleaved pa && hasSet (s.beyond (pa / 4)) then s else s.ecc pa bytes
  | .reply op i cause bounded value =>
    if causeListed cause then (s.answerLane op i cause bounded value).refuseUpdate port op cause else s
  | .reach rdev ok =>
    let q := s.port port
    let rest := q.lost.filter fun d => d != rdev
    s.setPort port { q with lost := if ok then rest else rest ++ [rdev] }

/-- R374, R359: a flit arrives at a port: one that fails its CRC is retried and counted in the window of 1 ms, and takes the
port down at the limit. -/
def execFlitReceive (port : Nat) (crcOk : Bool) (packet : Packet) (s : State) : Host.Outcome State Fault Refusal :=
  .next (if 18 ≤ port ∨ (s.port port).up = false then s
    else if crcOk then s.receive port packet
    else s.errorEvent (.port port) s.now port 0)

/-- R376: a release flag counts SEQ of the object with its die and index, if its number is higher than any from its thread (log 72, DEDUCED). -/
def execFlagReceive (dev : Nat) (core : Nat) (thr : Nat) (seq : BitVec 32) (obj : Nat) (s : State) :
    Host.Outcome State Fault Refusal :=
  let k := (dev * 4096 + core) * 8 + thr
  if (SMap.get (0 : BitVec 32) s.flagsSeen k) < seq then
    .next ({ s with flagsSeen := SMap.set 0 s.flagsSeen k seq }.countSeq obj)
  else .next s

/-! ## Ports and the domain number (R374, R375) -/

/-- R375: a port loses its link. -/
def execPortDown (port : Nat) (s : State) : Host.Outcome State Fault Refusal :=
  .next (if port < 18 then s.setPort port { s.port port with up := false, lost := [] } else s)

/-- R374: EN of a port: 0 takes it down whole; 1 trains it, unless a lasting fault holds it down, and training may fail
(log 42, DESIGN CHOICE). -/
def execKlstatWrite (port : Nat) (value : Word) (s : State) : Host.Outcome State Fault Refusal :=
  let q := s.port port
  let en := value.getLsbD 0
  let up := en && !q.lasting && (q.up || Config.outcome s.tick % 2 == 0)
  .next (if port < 18 then s.setPort port { q with en := en, up := up, lost := if up then q.lost else [] } else s)

/-- R374: DOMID: once LOCK stands, DEV and SIZE ignore writes. -/
def execDomidWrite (value : Word) (s : State) : Host.Outcome State Fault Refusal :=
  .next (if s.domid.getLsbD 24 then s
    else { s with domid := (s.domid &&& 0x2000000) ||| (value &&& 0x1FFFFFF) })

/-! ## Time (R378) -/

/-- 10 ms, in clk. -/
def beatLimit : Nat := 19000000

/-- R378: no beat has come for 10 ms: TLOCK clears, and CYCLE runs free. -/
def State.loseLock (s : State) : State :=
  if beatLimit ≤ s.sinceBeat then { s with domid := s.domid &&& 0xFFFFFFFFFDFFFFFF, timeOff := 0 } else s

/-- R378: a time beat: another device than 0 learns how far its CYCLE lies from device 0's, and is locked while that is no more
than 16 clk (log 108, DEDUCED); `State.correct` works the difference off. -/
def execTimeBeat (time : Word) (s : State) : Host.Outcome State Fault Refusal :=
  if s.dev = 0 then .next s
  else
    let off : Int := (time.toNat : Int) - s.cycle.toNat
    let near := decide (off.natAbs ≤ 16)
    .next { s with
      timeOff := off
      sinceBeat := 0
      domid := if near then s.domid ||| 0x2000000 else s.domid &&& 0xFFFFFFFFFDFFFFFF }

/-- R378: TLOCK clears where no beat has come for 10 ms. -/
def execTlockLoss (s : State) : Host.Outcome State Fault Refusal := .next s.loseLock

/-- R378: CYCLE after n clk: it advances by 2 in one clk, or holds for one, towards device 0's, at most once in every 1,024 clk:
`sinceFix` counts the clk since the last time. -/
def State.correct (s : State) (n : Nat) : State :=
  let since := min 1023 s.sinceFix
  let k := min (min s.timeOff.natAbs ((since + n) / 1024)) n
  let up := decide (0 < s.timeOff)
  { s with
    cycle := s.cycle + BitVec.ofNat 64 (if up then n + k else n - k)
    timeOff := if up then s.timeOff - k else s.timeOff + k
    sinceFix := min 1023 (since + n - 1024 * k)
    sinceBeat := s.sinceBeat + n }.loseLock

end Sys2Proof.Machine
end

