-- ==== Sys2Proof/Machine/Steward.lean ====
section
/-!
DEFINITION. The steward's writes and accesses (R72, R84, R86, R266, R368, R373), and the module's power (R388-R391): MEMCFG_WRITE,
TLBINV, TLBINV_DONE, HREVOKE, HREVOKE_DONE, REGCFG_WRITE, MEXT_EXTEND, MEXT_COMPLETE, THERMAL_HOT, THERMAL_TRIP, POWER_UP, RAIL_FAIL,
REGISTER_WRITE and STEWARD_ACCESS.
-/
namespace Sys2Proof.Machine

/-! ## Configuration -/

/-- R81: the controllers write every block of some bytes of HBM with tag ZERO: they read each codeword (R82), and then no payload is
left, and nothing in the slices that a load would compose with it. -/
def State.zeroBlocks (s : State) (pa n : Nat) : State :=
  let inside := fun (a : Nat) => decide (pa ≤ a ∧ a < pa + n)
  let s := s.eccAll ((s.weak.filter fun w => inside (w.1 * 64)).map fun w => (w.1 * 64, 64))
  { s with
    hbm := s.hbm.filter fun p => !inside p.1
    blockTags := s.blockTags.filter fun p => !inside (p.1 * 64)
    l2 := s.l2.filter fun p => !inside (p.1 * 4)
    wbuf := s.wbuf.filter fun p => !inside (p.1 * 4) }

/-- R72, R81: once LOCK stands, MEMCFG ignores every write; the write that sets it has every block of HBM written with tag
ZERO. -/
def execMemcfgWrite (value : Word) (s : State) : Host.Outcome State Fault Refusal :=
  .next (if s.memcfg.getLsbD 7 then s
    else
      let t := { s with memcfg := value &&& 0xFF }
      if value.getLsbD 7 then t.zeroBlocks 0 hbmEnd else t)

/-- R84: an invalidation starts, unless one is in progress. -/
def execTlbinv (value : Word) (s : State) : Host.Outcome State Fault Refusal :=
  .next (if s.tlbinv.getLsbD 63 then s else { s with tlbinv := 0x8000000000000000 ||| (value &&& 0xFF0F) })

/-- R84: an entry that an invalidation names. -/
def State.invalidates (s : State) (e : TlbEntry) : Bool :=
  let w := s.tlbinv.toNat
  let logsz := bits w 10 6
  e.part == bits w 0 4 && e.ctx == s.tlbinv.getLsbD 8
    && (s.tlbinv.getLsbD 9 || decide (32 ≤ logsz)
      || decide (e.va < s.tlbinva.toNat + 2 ^ (16 + logsz) ∧ s.tlbinva.toNat < e.va + e.size))

/-- R84: every TLB drops the entries, by TLBINVA as it stands then (log 101, DESIGN CHOICE), and BUSY clears. -/
def execTlbinvDone (s : State) : Host.Outcome State Fault Refusal :=
  .next (if s.tlbinv.getLsbD 63 then
    { (s.tlbDrop s.invalidates) with tlbinv := s.tlbinv &&& 0x7FFFFFFFFFFFFFFF } else s)

/-- R86: a revocation starts, unless one is in progress. -/
def execHrevoke (value : Word) (s : State) : Host.Outcome State Fault Refusal :=
  .next (if s.hrevoke.getLsbD 63 then s else { s with hrevoke := 0x8000000000000000 ||| (value &&& 0xFFFFFF010F) })

/-- R86: a transfer through the handle that is being revoked is under way. -/
def State.revoking (s : State) : Bool :=
  let w := s.hrevoke.toNat
  s.ops.any fun o => match o.kind with
    | .copy c => c.busy && c.fn != 4 && handleIdx c.handle == bits w 16 24 && o.ctx == s.hrevoke.getLsbD 8
      && s.partOf o.core == bits w 0 4
    | _ => false

/-- R86: every engine has seen the entry as it stands now, once no transfer through the handle is under way, and BUSY clears. -/
def execHrevokeDone (s : State) : Host.Outcome State Fault Refusal :=
  .next (if s.revoking then s else { s with hrevoke := s.hrevoke &&& 0x7FFFFFFFFFFFFFFF })

/-- R266: a region record, under the census of RGSET: one that the census does not pass changes nothing (log 48, DEDUCED). -/
def execRegcfgWrite (id : Nat) (record : BitVec 128) (s : State) : Host.Outcome State Fault Refusal :=
  let locked := match s.regionLock with | some (n, _, _) => n == id | none => false
  .next (if id < 256 ∧ locked = false ∧ s.regionFree id record = true then s.setRegion id record else s)

/-! ## Measurement (R373) -/

/-- R373: an extension starts, unless one is in progress. -/
def execMextExtend (k : Word) (s : State) : Host.Outcome State Fault Refusal :=
  .next (if s.mext.isSome then s else { s with mext := some (k.toNat % 8) })

/-- R373: an extension ends. -/
def execMextComplete (s : State) : Host.Outcome State Fault Refusal := .next s.mextEnd

/-! ## Power and heat (R388-R391) -/

/-- R391: what a Pewter array keeps without power. -/
def PewterArray.unpowered (p : PewterArray) : PewterArray := { p with calibrated := false, drift := 0, driftcol := 0 }

/-- R388, R391: every rail drops: no state survives but the arrays', the NOR flash and the UFS contents, and nothing runs. -/
def State.powerOff (s : State) : State :=
  { State.reset with
    arrays := (s.arrays.map (·.1)).foldl (fun m k => SMap.set PewterArray.initial m k (s.array k).unpowered) []
    powered := false
    nor := s.nor
    ufs := s.ufs
    inputs := s.inputs
    tick := s.tick }

/-- R390: the hottest point of a die reaches 100 °C: HOT, and a record in the steward log; at 110 °C the rails drop. -/
def execThermalHot (die : Nat) (code : BitVec 16) (s : State) : Host.Outcome State Fault Refusal :=
  let s := if die = 0 then { s with tdie0 := code } else { s with tdie1 := code }
  if code.toInt < 400 then .next s
  else if 440 ≤ code.toInt then .next s.powerOff
  else .next ({ s with hot := true }.recordFor [] fun s part ctx => s.hwError part ctx 9 7 die 0 code.toNat 0 0 0 0 false)

/-- R390: a die reaches 110 °C. -/
def execThermalTrip (s : State) : Host.Outcome State Fault Refusal := .next s.powerOff

/-- R388: a rail leaves regulation. -/
def execRailFail (s : State) : Host.Outcome State Fault Refusal := .next s.powerOff

/-- R388: the rails rise, module reset is released, and boot begins at stage 1. -/
def execPowerUp (s : State) : Host.Outcome State Fault Refusal :=
  .next (if s.powered then s else { s with powered := true, bootStage := 1, bootErr := 0, bootFailed := false })

/-! ## Registers and memory (R368) -/

/-- R368: the steward writes a register that has no row of its own. -/
def execRegisterWrite (pa : Nat) (value : Word) (s : State) : Host.Outcome State Fault Refusal :=
  .next (if pa < mmioBase then s
    else match mmioAt (pa - mmioBase) with
      | some r => s.mmioWrite r value
      | none => s)

/-- What a store of the steward to a register does: the row of the opcode table that the register has, or the plain write. -/
def storeRegister (r : Mmio) (w : Word) (s : State) : Host.Outcome State Fault Refusal :=
  match r with
  | .memcfg => execMemcfgWrite w s
  | .tlbinv => execTlbinv w s
  | .hrevoke => execHrevoke w s
  | .barage => execBarageWrite w s
  | .regcfg id high => if high then .next s else execRegcfgWrite id (w.setWidth 128) s
  | .bkctx pch =>
    let op := bits w.toNat 60 2
    if op = 1 then execBkctxSave pch w s else if op = 2 then execBkctxRestore pch w s
    else if op = 3 then execBkctxDiscard pch (s.mmioWrite r w) else .next (s.mmioWrite r w)
  | .partcfg p => execPartcfgWrite p w s
  | .lport p c => execLportWrite p c w s
  | .swapctl p => if w.getLsbD 0 then execSwapGo p (s.mmioWrite r w) else .next (s.mmioWrite r w)
  | .preempt => execPreempt w s
  | .klstat p => execKlstatWrite p w s
  | .domid => execDomidWrite w s
  | .mextgo => execMextExtend w s
  | .dbgctl core =>
    let go := fun (b : Bool) (f : State → Host.Outcome State Fault Refusal) (o : Host.Outcome State Fault Refusal) =>
      match o with
      | .next t => if b then f t else .next t
      | o => o
    go (w.getLsbD 0) (execDbgctlHalt core) (go (w.getLsbD 1) (execDbgctlResume core)
      (execDbgctlSoft core (BitVec.ofNat 8 (bits w.toNat 8 8)) s))
  | .dbgval core => execDbgvalWrite core w s
  | .doorbell core thr => execDoorbell core thr w s
  | _ => .next (s.mmioWrite r w)

/-- The thread in whose name a plain access of the steward stands among the operations in flight: no core has its number. -/
def stewardThread : ThreadId := ⟨4096, false, 0⟩

/-- R368: some bytes of the interleaved zone as the steward loads them. -/
def State.stewardRead (s : State) (pa n : Nat) : Answer :=
  if (List.range n).any fun i => tagPoison (s.blockTag (pa + i)) then .fault
  else match ((List.range n).map fun i => s.sliceByte (pa + i)).foldr
      (fun x a => x.bind fun b => a.map fun l => b :: l) (some []) with
    | some l => .data (BitVec.ofNat 64 (bytesToNat l))
    | none => .fault

/-- R369: a store of the steward has not been performed yet; every other effect of the steward stands at once. -/
def State.stewardStores (s : State) : List Nat :=
  s.ops.filterMap fun o => match o.kind with
    | .bankStore _ _ _ true => if o.owner = stewardThread then some o.id else none
    | _ => none

/-- R368: bytes that a steward core stores to the interleaved zone: they commit at their slice. -/
def State.stewardPut (s : State) (pa : Nat) (l : List Byte) : State := (s.sliceWrite pa l).dramStore pa l false

/-- R70, R368: a load of a steward core, or an atomic memory operation. A place that is not there faults, and so does MMIO without a
register and an atomic operation on MMIO (log 99, DESIGN CHOICE). -/
def State.stewardLoad (s : State) (hart : Nat) (l : HartLoad) (pa : Nat) : State :=
  if mmioBase ≤ pa ∧ pa < 2 ^ 40 then
    match (if l.amo.isSome then none else mmioAt ((pa - mmioBase) / 8 * 8)) with
    | some r => s.answerAt hart pa l (.data (BitVec.ofNat 64 (bits (s.mmioRead r).toNat (8 * (pa % 8)) (8 * l.size))))
    | none => s.hartLoadFault hart pa l
  else if hbmEnd < pa + l.size then s.hartLoadFault hart pa l
  else if s.interleaved pa then
    let s := s.ecc pa l.size
    let a := s.stewardRead pa l.size
    let s := match amoStores l a with
      | some w => s.stewardPut pa (natToBytes l.size w.toNat)
      | none => s
    s.answerAt hart pa l a
  else (s.answerHart hart .nothing).addOpOf stewardThread none (.stewardLoad hart l pa)

/-- R70, R368: a store of a steward core; a place that is not there faults. To MMIO it is 8 bytes wide, and where no register is it
changes nothing (log 99, DESIGN CHOICE). -/
def State.stewardStore (s : State) (hart size pa : Nat) (value : Word) (length : Nat) : Host.Outcome State Fault Refusal :=
  let t := s.hartGo hart length
  if mmioBase ≤ pa ∧ pa < 2 ^ 40 then
    match mmioAt (pa - mmioBase) with
    | some r => if size = 8 then storeRegister r value t else .next t
    | none => .next t
  else if hbmEnd < pa + size then .next (s.hartStoreFault hart pa)
  else if s.interleaved pa then
    .next ((t.ecc pa size).stewardPut pa (natToBytes size value.toNat))
  else .next (t.addOpOf stewardThread none (.bankStore size [⟨0, pa, pa, value⟩] false true))

/-- R13: bytes programmed into NOR or UFS from a place on, as far as its last byte. -/
def programmed (size place : Nat) (bytes : List Byte) (m : SMap Byte) : SMap Byte :=
  (bytes.zipIdx).foldl (fun m p => if place + p.2 < size then SMap.put m (place + p.2) p.1 else m) m

/-- R81, R368-R370, R373: one of the 16 steward cores loads or stores 1, 2, 4 or 8 bytes at a multiple of their number, runs an atomic memory operation, executes a
`fence ow, ow`, claims an interrupt, has a frame written with tag ZERO, programs NOR or UFS, or makes an attestation report. Another
size or place is no access of the device (log 99, DESIGN CHOICE). What it does within itself is as the RISC-V architecture has it
(log 110, PRESUMED). -/
def execStewardAccess (hart : Nat) (place : Nat) (op : StewardOp) (s : State) : Host.Outcome State Fault Refusal :=
  let fits := fun (size length : Nat) => [1, 2, 4, 8].contains size && place % size == 0 && [0, 2, 4].contains length
  let h := s.hart hart
  if 16 ≤ hart then .next s
  else match op with
  | .load l => .next (if fits l.size l.length && (l.amo.isNone || decide (4 ≤ l.size)) then s.stewardLoad hart l place else s)
  | .store size value length => if fits size length then s.stewardStore hart size place value length else .next s
  | .fence => .next { s.hartGo hart 4 with fenced := s.fenced ++ s.stewardStores.filter fun i => !s.fenced.contains i }
  | .claim => .next { s with interrupts := s.interrupts.filter fun i => i != place }
  | .clear => .next (s.zeroBlocks (place * 2 ^ 21) (2 ^ 21))
  | .program ufs bytes =>
    .next (if ufs then { s with ufs := programmed ufsSize place bytes s.ufs } else { s with nor := programmed norSize place bytes s.nor })
  | .attest nonce => .next (if s.firmware then s.attest nonce else s)
  | .own pc x f v csr => .next (s.setHart hart (h.leave pc x f v csr))
  | .csr rd value => .next (s.setHart hart (h.csrAccess hart place rd value))
  | .raise cause tval => .next (s.setHart hart (h.takeTrap (if 8 ≤ cause ∧ cause ≤ 11 then 8 + h.priv else cause % 64) tval.toNat))
  | .ret supervisor => .next (s.setHart hart (h.returns supervisor))
  | .pend cause on => .next (s.setHart hart (h.pend cause on))
  | .interrupt cause =>
    .next (if h.takesInt (!s.interrupts.isEmpty) cause then s.setHart hart (h.enter (h.handsDown cause) true cause 0) else s)

/-! ## When the steward's accesses are taken (R369, R295) -/

/-- The register that an input writes, as far as the order of inputs asks for it, and the value. -/
def workOf : Instr → Option (Mmio × Word)
  | .lportWrite p c w => some (.lport p c, w)
  | .doorbell core thr w => some (.doorbell core thr, w)
  | .preempt w => some (.preempt, w)
  | .swapGo p => some (.swapctl p, 1)
  | .stewardAccess _ pa (.store 8 w _) => if mmioBase ≤ pa then (mmioAt (pa - mmioBase)).map fun r => (r, w) else none
  | _ => none

/-- A write of LPORT, DOORBELL, PREEMPT or SWAPCTL. -/
def startsWork (i : Instr) : Bool :=
  match workOf i with
  | some (.lport _ _, _) => true
  | some (.doorbell _ _, _) => true
  | some (.preempt, _) => true
  | some (.swapctl _, _) => true
  | _ => false

/-- R285, R295, R317: a write of LPORT, which reads the header behind it, waits where the header cannot be read now. -/
def State.lportHeld (s : State) (i : Instr) : Bool :=
  match workOf i with
  | some (.lport p c, w) => s.refHeld p c w 128
  | _ => false

/-- R285, R295: a steward access of some bytes cannot reach memory yet: the interleaved zone's pseudo-channel is reserved. -/
def State.stewardHeld (s : State) (pa size : Nat) : Bool :=
  decide (pa + size ≤ hbmEnd) && s.interleaved pa && s.reserved pa size

/-- R285, R295: the blocks of a frame cannot be written now; one of the linear zone lies in one pseudo-channel. -/
def State.clearHeld (s : State) (frame : Nat) : Bool :=
  let pa := frame * 2 ^ 21
  s.stewardHeld pa (2 ^ 21) || (s.linear pa && s.channelBusy (s.pchOf pa))

/-- A load of the steward core has no answer yet; the core waits for it (log 110, PRESUMED). -/
def State.hartLoads (s : State) (hart : Nat) : Bool :=
  s.ops.any fun o => match o.kind with
    | .stewardLoad h _ _ => h == hart
    | _ => false

/-- R369, R295: an input cannot be taken yet: a write that starts work stands behind a fenced store, an access or the header behind LPORT
meets a closed pseudo-channel, or its steward core waits for a load. -/
def State.inputHeld (s : State) (i : Instr) : Bool :=
  (startsWork i && !s.fenced.isEmpty) || s.lportHeld i
    || (match i with
      | .stewardAccess hart pa op => s.hartLoads hart || (match op with
        | .load l => s.stewardHeld pa l.size
        | .store size _ _ => s.stewardHeld pa size
        | .clear => s.clearHeld pa
        | _ => false)
      | _ => false)

/-- The steward core that an input names. -/
def hartOf : Instr → Option Nat
  | .stewardAccess hart _ _ => some hart
  | _ => none

/-- R369: a steward core's fence. -/
def isFence : Instr → Bool
  | .stewardAccess _ _ .fence => true
  | _ => false

/-- The first input that can be taken, and the rest: what one steward core does keeps its order, and a write that starts work stands
behind a fence that is held (R369); `fences` says that one is. -/
def State.takeInput (s : State) (fences : Bool) : List Nat → List Instr → Option (Instr × List Instr)
  | _, [] => none
  | held, i :: r =>
    let behind := (hartOf i).any fun h => held.contains h
    if s.inputHeld i || behind || (fences && startsWork i) then
      (s.takeInput (fences || isFence i) ((hartOf i).toList ++ held) r).map fun p => (p.1, i :: p.2)
    else some (i, r)

end Sys2Proof.Machine
end

