-- ==== Sys2Proof/Machine/ThreadEvents.lean ====
section
/-!
DEFINITION. The events of a thread's turn and of its fetch: landing, empty and annulled groups, line fetches and page walks,
interrupts and the traps that come before a group (R36, R80, R116, R140, R148, R185).
-/
namespace Sys2Proof.Machine

/-- R116: what is due lands. -/
def execLanding (s : State) : Host.Outcome State Fault Refusal := .next (landDue s s.cur)

/-- R117: an empty group. -/
def execEmptyGroup (s : State) : Host.Outcome State Fault Refusal := .next s.emptyGroup

/-- R141: the annulled entry in Q[0] issues as an empty group that counts in ICOUNT. -/
def execAnnulledGroup (s : State) : Host.Outcome State Fault Refusal :=
  .next (if s.th.q0.an then { s with iss := .initial }.finishGroup else s)

/-- R349, R97: the 64 bytes of a line as memory and its slice give them; none where the block is poisoned. -/
def State.lineBytes (s : State) (pa : Nat) : Option (List Byte) :=
  if tagPoison (s.blockTag pa) then none
  else ((List.range 64).map fun i => s.sliceByte (pa + i)).foldr
    (fun x a => x.bind fun b => a.map fun l => b :: l) (some [])

/-- R140: the line ahead of any thread of a core context may have arrived. -/
def State.refreshQueues (s : State) (core : Nat) (ctx : Bool) : State :=
  let t := (List.range 8).foldl (fun (u : State) i => { u with cur := ⟨core, ctx, i⟩ }.refreshQueue) s
  { t with cur := s.cur }

/-- R140, R349: a line arrives for a thread, from the shared cache or from memory; a line that memory gives poisoned is a
fetch fault where the thread stands at it (R36, R140). The thread issues from it where Q[0] stands in it. -/
def execLineFetch (t : ThreadId) (va : Nat) (s : State) : Host.Outcome State Fault Refusal :=
  let line := va / 64 * 64
  match s.tlbLookup t.core (s.partOf t.core) t.ctx line with
  | none => .next s
  | some e =>
    if !e.ex then .next s
    else
      let pa := e.paOf line
      let k := sharedCache t.core
      let shared := cacheFind (s.cluster k).icache pa
      if shared.isNone && s.reserved pa 64 then .next s
      else
        let q := (s.thread t).q0.pc
        let here := decide (pcLine q = line)
        let reader : Reader := if here then ⟨q.toNat, 29, t.thr⟩ else noReader
        let s := if shared.isSome then s else s.eccFor reader pa 64
        let th := s.thread t
        let wait := if th.wait = .line then .none else th.wait
        match shared.orElse fun _ => s.lineBytes pa with
        | none => .next (s.setThread t { (if here || th.wait = .line then th.found line .fetch (some 29) else th) with wait := wait })
        | some b =>
          let c := s.core t.core
          let s := s.setCore t.core { c with icache := cachePut coreLines (Config.victim s.tick) c.icache pa b }
          let u := s.cluster k
          let s := s.setCluster k { u with icache := cachePut sharedLines (Config.victim s.tick) u.icache pa b }
          let th := if here then { th with line := some ⟨line, b, false⟩ } else th
          .next ((s.setThread t { th with wait := wait }).refreshQueues t.core t.ctx)

/-- R82: a walk reads the codewords of the table blocks on its way; `fuel` is the number of levels left. -/
def State.walkEcc (s : State) (r : Reader) (va : Nat) : Nat → Nat → State
  | 0, _ => s
  | fuel + 1, table =>
    let pa := table + 8 * vaIndex (3 - fuel) va
    if hbmEnd ≤ pa then s
    else
      let s := s.eccFor r pa 8
      let e := s.dramNat pa 8
      if tagPoison (s.blockTag pa) || bits e 0 2 != 1 then s else s.walkEcc r va fuel (bits e 16 24 * 2 ^ 16)

/-- R80: one of the 16 walkers of its die has the walk: the misses before it do not fill them. -/
def State.walkerHas (s : State) (k : Walk) : Bool :=
  ((s.walks.filter fun w => dieOf w.owner.core == dieOf k.owner.core).take 16).contains k

/-- R80: a walk ends, for every thread that waits for its page: the leaf enters the TLBs, or each finds the fault of R79. A
poisoned table block sends one record to the fatal lane; this one and that of a block found bad on the way name the thread that missed
(R356). -/
def execPageWalkEnd (t : ThreadId) (s : State) : Host.Outcome State Fault Refusal :=
  match s.walks.find? fun k => k.owner == t && s.walkerHas k with
  | none => .next s
  | some k =>
    if s.walkReserved k.va 3 (s.rootTable k.part t.ctx) then .next s
    else
      let waiting := s.walkers k
      let s := { s with walks := s.walks.erase k }
      let cause := ((waiting.find? fun q => q.1 == t).map fun q => q.2.2.accessCause).getD 0
      let pc := (s.thread t).q0.pc.toNat
      let s := s.walkEcc ⟨pc, cause, t.thr⟩ k.va 3 (s.rootTable k.part t.ctx)
      let ready := fun (s : State) (f : Access → Option Nat) => waiting.foldl (fun (s : State) q =>
        s.setThread q.1 { (s.thread q.1).found q.2.1 q.2.2 (f q.2.2) with wait := .none }) s
      let failed := fun (cause : Access → Nat) => ready s fun kind => some (cause kind)
      match s.walk k.part t.ctx k.va with
      | .ok e => .next ((t.core :: waiting.map fun q => q.1.core).eraseDups.foldl (fun s c => s.tlbFill c e)
          (ready s fun _ => none))
      | .error .page => .next (failed Access.pageCause)
      | .error .access => .next (failed Access.accessCause)
      | .error (.poison pa) =>
        .next ((failed Access.accessCause).unitError k.part t.ctx 2 1 (dieOf t.core) pa 0 pc cause t.thr 0)

/-- R150, R152: the interrupt is taken at an honoured stop. -/
def execInterruptEntry (code : Nat) (s : State) : Host.Outcome State Fault Refusal :=
  .next (if s.th.stopHonoured && s.interruptOf s.th == some code then s.enterHandler s.cur true code 0 else s)

/-- R148: cause 25. -/
def execStopSpacingFault (s : State) : Host.Outcome State Fault Refusal :=
  .next (if !s.th.hm && !s.th.stopHonoured && s.th.stop == s.th.stopmax.toNat then s.trapThread s.cur 25 0 else s)

/-- The lowest counter set with a crossing due. -/
def lowestDue : List (Nat × Nat) → Option (Nat × Nat)
  | [] => none
  | p :: r => match lowestDue r with
    | some q => if q.1 < p.1 then some q else some p
    | none => some p

/-- R185, R352: cause 31 for the lowest set that is due; the others stay due. -/
def execMatrixThresholdTrap (s : State) : Host.Outcome State Fault Refusal :=
  match lowestDue s.th.thresholds with
  | some (set, counters) =>
    if s.th.hm then .next s
    else
      let s := s.setTh { s.th with thresholds := s.th.thresholds.filter fun p => p.1 != set }
      .next (s.trapThread s.cur 31 (BitVec.ofNat 64 (set + 16 * counters)))
  | none => .next s

/-- R146: a YIELD is over. -/
def execYieldExpire (t : ThreadId) (s : State) : Host.Outcome State Fault Refusal :=
  let th := s.thread t
  .next (if th.pause = .yield then s.setThread t { th with pause := .none } else s)

/-- R381: a breakpoint matches the group in Q[0]: the core halts, or interrupt 11 is requested. -/
def execBreakpointMatch (bp : Nat) (s : State) : Host.Outcome State Fault Refusal :=
  if s.breakpoint = some bp then
    let c := s.core s.cur.core
    if (SMap.get (0 : Word) c.dbg.dbp bp).getLsbD 62 then .next (s.setTh { s.th with ipDbg := true })
    else .next ((s.setTh { s.th with resumed := true }).hardHalt s.cur.core)
  else .next s

/-- R147: interrupt 5 is pending from here on, and a thread that waits for it in WFI becomes ready. -/
def execCycleCompareMatch (t : ThreadId) (s : State) : Host.Outcome State Fault Refusal :=
  let th := s.thread t
  .next (if s.pendingInt th 5 && th.ien.getLsbD 5 && th.pause = .wfi then s.setThread t { th with pause := .none } else s)

/-- R35: cause 2. -/
def execUnassignedEncoding (pc : Word) (s : State) : Host.Outcome State Fault Refusal := .next (s.trapThread s.cur 2 pc)

/-- R36, R79: causes 1, 12 and 29 of a fetch. -/
def execInstructionFetchFault (cause : Nat) (va : Word) (s : State) : Host.Outcome State Fault Refusal :=
  .next (s.trapThread s.cur cause va)

end Sys2Proof.Machine
end

