-- ==== Sys2Proof/Machine/Agenda.lean ====
section
/-!
DEFINITION. What can happen next without an instruction or an input: the events of the device that are due, the cached entries
that may be given up, and the c-register writes that the other threads may come to see.
-/
namespace Sys2Proof.Machine

/-! ## Threads -/

/-- A thread runs, its context is resident, and its core is neither halted nor held by a swap. -/
def State.onCore (s : State) (t : ThreadId) : Bool :=
  decide ((s.thread t).run = .running) && (s.part (s.partOf t.core)).res == t.ctx
    && !(s.core t.core).dbg.halted && !(s.core t.core).out && !s.coxOut t.core

/-- R80, R140: the line of a queue entry can be fetched, and the thread does not have it at hand. -/
def State.wantsLine (s : State) (t : ThreadId) (pc : Word) : Bool :=
  let line := pcLine pc
  let th := s.thread t
  (match th.line with | some l => l.va != line | none => true)
    && (th.faultOf line .fetch).isNone
    && (match s.tlbLookup t.core (s.partOf t.core) t.ctx line with
      | some e => e.ex && (cacheFind (s.core t.core).icache (e.paOf line)).isNone
      | none => false)

/-- The events of one thread. -/
def State.threadEvents (s : State) (t : ThreadId) : List Instr :=
  let th := s.thread t
  (match th.wait with
    | .arrive _ _ => [.barrierArrive t]
    | _ => [])
    ++ (match th.pause with
      | .yield => [.yieldExpire t]
      | .wfi => if s.pendingInt th 5 && th.ien.getLsbD 5 then [.cycleCompareMatch t] else []
      | .none => [])
    ++ (if s.onCore t then
        ((([th.q0, th.q1, th.q2].map fun e => e.pc).filter (s.wantsLine t)).map pcLine).eraseDups.map fun va => .lineFetch t va
      else [])

/-! ## Operations in flight -/

/-- The events of one operation. -/
def State.opEvents (s : State) (o : Op) : List Instr :=
  match o.kind with
  | .load _ lanes =>
    (if lanes.all LaneReq.decided || !(s.servable o.id).isEmpty then [.loadServe o.id] else [])
      ++ (if lanes.any fun l => l.cls == 1 && !l.decided then [.bankAccessPerform o.id] else [])
  | .bankStore _ _ _ _ => [.bankAccessPerform o.id]
  | .remoteUpdate _ _ _ _ _ => [.remoteAck o.id]
  | .resolve (some _) _ => [.remoteAck o.id]
  | .resolve none _ => []
  | .copy c => if c.moving then [.copyTransfer o.id] else [.copyResolve o.id]
  | .matrix _ => if (s.nextStream (quadOf o.core)).map (·.1) = some o.id then [.streamBufferFill o.id] else []
  | .array _ => []
  | .stack _ none => [.stackCommandPerform o.id]
  | .stack _ (some _) => [.namorResolve o.id]
  | .bank _ => [.bankCommandPerform o.id]
  | .rel r => .relCount o.id :: (if r.stage = .flags then .remoteAck o.id :: r.flags.map fun f => .flagResend o.id f.1 else [])
  | .mdrain _ _ _ _ _ => [.mdrainComplete o.id]
  | .mdrainRegion _ _ _ => [.mdrainComplete o.id]
  | .rgget _ => [.rggetResolve o.id]
  | .barr _ _ => []
  | .launch _ => []
  | .gqw _ _ _ _ _ => [.tileArrive o.id]
  | .gqr _ _ _ => [.tileMatch o.id]
  | .delivery _ _ _ _ => [.tileMatch o.id]
  | .steal _ _ _ _ => [.stealProbe o.id]
  | .send _ _ false => [.messageArrive o.id]
  | .send _ _ true => [.sendAck o.id]
  | .stewardLoad _ _ _ => [.bankAccessPerform o.id]

/-- The arrays that have a command. -/
def State.busyArrays (s : State) : List Nat := (s.ops.filterMap fun o => (arrayOf o.kind).map fun c => c.arr).eraseDups

/-- The events of an array. -/
def State.arrayEvents (s : State) (arr : Nat) : List Instr :=
  match s.arrayQueue arr with
  | [] => []
  | (_, c) :: _ =>
    if !c.started then [.arrayCommandStart arr]
    else if c.fn = 1 ∧ c.rows < c.n then [.rowProgram arr]
    else [.arrayCommandDone arr]

/-! ## Memory -/

/-- The heads of the paths to the slices. -/
def State.pathEvents (s : State) : List Instr :=
  (s.paths.filter fun e => s.pathHead e && !e.item.isLoad).map fun e => .l2Fold e.src e.slice

/-- Merges, moves and write-backs. -/
def State.mergeEvents (s : State) : List Instr :=
  ((s.ctxs.filter fun p => p.2.merging).map fun p => .l0MergeCommit (p.1 / 2) (p.1 % 2 == 1))
    ++ (s.clusters.map fun p => p.2.l1.map fun e => .l1Move p.1 e.key e.ctx).flatten
    ++ s.pathEvents
    ++ ((s.l2.filter fun p => p.2.entry.kind != .poison && (SMap.find s.wbuf p.1).isNone).map fun p => .writeBack p.1)
    ++ s.wbuf.map fun p => .writeBackCommit p.1

/-! ## Units -/

/-- The quads with an operation that waits or is in service. -/
def State.busyQuads (s : State) : List Nat :=
  ((s.ctxs.filter fun p => !p.2.dispatch.isEmpty).map fun p => quadOf (p.1 / 2)).eraseDups

/-- Matrix units, arrays and pseudo-channels. -/
def State.unitEvents (s : State) : List Instr :=
  ((s.busyQuads.filter fun q => (s.quad q).service.isNone && (s.nextMatrix q).isSome).map fun q => .matrixDispatch q)
    ++ ((s.quads.filter fun p => p.2.service.isSome).map fun p => .matrixOpDone p.1)
    ++ (s.busyArrays.map s.arrayEvents).flatten
    ++ (s.pchs.map fun p => (if p.2.busy then [.bkctxComplete p.1] else [])
      ++ (if p.2.mode.isSome then (List.range 16).map (.refresh p.1 ·) else [])).flatten

/-- Tasks, partitions and barriers. -/
def State.taskEvents (s : State) : List Instr :=
  (s.tasks.map fun t =>
      (if (s.unitNext (s.launchDie t.part)).map (·.id) == some t.id || s.launchCancelled t then [.launchRead t.id] else [])
      ++ (if t.stage == .placed || t.stage == .summed then [.taskRetire t.id] else [])
      ++ (if t.stage == .retiring then [.checksum t.id] else [])).flatten
    ++ ((List.range 16).map fun p =>
      (if s.tasks.any fun t => t.part == p && t.stage == .queued then [.placementEvaluate p] else [])
      ++ (if s.haltDone p then [.swapExchange p] else [])).flatten
    ++ ((s.barriers.filter fun p => s.tooOld p.1).map fun p => .barrierAgeRecord p.1)
    ++ (match s.regionLock with | some (_, _, t) => [.regionCensus t] | none => [])

/-- The steward's side: invalidations, records, trace and measurement. -/
def State.stewardEvents (s : State) : List Instr :=
  (if s.tlbinv.getLsbD 63 then [.tlbinvDone] else [])
    ++ (if s.hrevoke.getLsbD 63 then [.hrevokeDone] else [])
    ++ (if s.mext.isSome then [.mextComplete] else [])
    ++ ((s.records.filter s.recordHead).map fun r => .laneRecord r.part r.ctx r.fatal r.bits)
    ++ (s.clusters.map fun p => if p.2.trcbase.getLsbD 0 then
        (if (s.tracing p.1).isEmpty then [] else [.traceFunnelWrite p.1])
          ++ (((List.range 8).filter fun w => p.2.trcctl.getLsbD (40 + w) && s.stampDue (clusterCore p.1 w)).map
            fun w => .traceTimestamp (clusterCore p.1 w))
      else []).flatten
    ++ ((s.cores.filter fun p => p.2.traceLost != 0 && decide (p.2.trace.length < 64)).map fun p => .traceLoss p.1)

/-- The internal events whose conditions hold. -/
def State.agenda (s : State) : List Instr :=
  (s.threads.map fun p => s.threadEvents (threadOfKey p.1)).flatten
    ++ ((s.walks.filter s.walkerHas).map fun k => .pageWalkEnd k.owner)
    ++ (s.ops.map s.opEvents).flatten ++ s.mergeEvents ++ s.unitEvents ++ s.taskEvents ++ s.stewardEvents

/-- A cached translation or line may be given up at any time (logs 15 and 16, DESIGN CHOICE). -/
def State.evictions (s : State) : List State :=
  (s.cores.map fun p => (List.range p.2.tlb.length).map fun i =>
      s.setCore p.1 { p.2 with tlb := p.2.tlb.eraseIdx i }).flatten
    ++ (s.cores.map fun p => (List.range p.2.icache.length).map fun i =>
      s.setCore p.1 { p.2 with icache := p.2.icache.eraseIdx i }).flatten
    ++ (s.clusters.map fun p => (List.range p.2.tlb.length).map fun i =>
      s.setCluster p.1 { p.2 with tlb := p.2.tlb.eraseIdx i }).flatten
    ++ (s.clusters.map fun p => (List.range p.2.icache.length).map fun i =>
      s.setCluster p.1 { p.2 with icache := p.2.icache.eraseIdx i }).flatten

/-- R124: a thread's earliest c-register write that the other threads do not see yet becomes seen. -/
def State.publications (s : State) : List State :=
  (s.ctxs.map fun p => (p.2.cnew.map (·.thr)).eraseDups.map fun thr =>
    s.setCoreCtx (p.1 / 2) (p.1 % 2 == 1) (p.2.publishC thr)).flatten

end Sys2Proof.Machine
end

