-- ==== Sys2Proof/Machine/Control.lean ====
section
/-!
DEFINITION. The families BRANCH and FLOW (10).
-/
namespace Sys2Proof.Machine

/-- R140: the group holds a taken branch. -/
def State.transfer (s : State) (target : Word) : State := { s with iss := { s.iss with redirect := some target } }
/-- R140: the group's branch annuls its delay slots. -/
def State.annulSlots (s : State) : State := { s with iss := { s.iss with annul := true } }

/-- R144: BR. -/
def execBr (o : Fmt Unit) (s : State) : Host.Outcome State Fault Refusal :=
  s.slot o.pred (.ok ((s.transfer (branchTarget s.iss.pc o.imm)).emit s.cur 1 s.iss.pc))

/-- A conditional branch that was judged: its target if it is taken, and the annulling of its form in that outcome. -/
def State.branchOutcome (s : State) (annul : Option Bool) (imm : BitVec 32) (taken : Bool) : State :=
  let t := if taken then s.transfer (branchTarget s.iss.pc imm) else s
  let t := if annul = some taken then t.annulSlots else t
  t.emit s.cur (if taken then 1 else 2) s.iss.pc

/-- R141, R143, R144: a conditional branch; `annul` is the outcome in which its form annuls. A predicated-off one is not
taken (log 24, DEDUCED). -/
def State.condBranch (s : State) (o : Fmt CondMod) (annul : Option Bool) : Host.Outcome State Fault Refusal :=
  if s.predOn o.pred then
    s.slot o.pred (do
      let (a, b, _) ← s.sources o
      s.noBounded [a, b]
      .ok (s.branchOutcome annul o.imm (compare o.mod.cond o.mod.h a.word b.word)))
  else .next (s.branchOutcome annul o.imm false)

/-- R144: BRC never annuls. -/
def execBrc (o : Fmt CondMod) (s : State) : Host.Outcome State Fault Refusal := s.condBranch o none
/-- R141: BRCA annuls when it is not taken. -/
def execBrca (o : Fmt CondMod) (s : State) : Host.Outcome State Fault Refusal := s.condBranch o (some false)
/-- R141: BRCT annuls when it is taken. -/
def execBrct (o : Fmt CondMod) (s : State) : Host.Outcome State Fault Refusal := s.condBranch o (some true)

/-- R144: JMP. -/
def execJmp (o : Fmt Unit) (s : State) : Host.Outcome State Fault Refusal :=
  s.slot o.pred (do
    let (a, _, _) ← s.sources o
    s.noBounded [a]
    .ok ((s.transfer a.word).emit s.cur 3 a.word))

/-- The PAIR bits of the line of a PC for a link: the group waits until the line is at hand; a line that cannot be fetched
counts as one without pairs, as in R140 (log 23, DEDUCED). -/
def State.linkPairs (s : State) (pc : Word) : Except Stop Nat :=
  match s.pairsAt pc with
  | some p => .ok p
  | none => match s.fetch (pcLine pc) with
    | .fault _ => .ok 0
    | .walk => .error (.park (.walk (pcLine pc) .fetch))
    | _ => .error (.park .line)

/-- R144: the link: Seq of Q[2], as it stands now. -/
def State.linkNow (s : State) : Except Stop Word := do
  let pc2 ← if s.th.q2.sq then (do .ok (seqPc (← s.linkPairs s.th.q1.pc) s.th.q1.pc)) else .ok s.th.q2.pc
  .ok (seqPc (← s.linkPairs pc2) pc2)

/-- R22, R144: the link: what a group that another unit judged saved of it when it issued, and else as it stands now. -/
def State.link (s : State) : Except Stop Word :=
  match s.th.group.bind (·.link) with
  | some l => .ok l
  | none => s.linkNow

/-- R144: what both forms of CALL do: the link lands in x31 after one group. -/
def State.callTo (s : State) (target : Word) (kind : Nat) (value : Word) : Except Stop State :=
  if s.isPending s.cur (.x 31) then .error (.park .none)
  else do
    let l ← s.link
    .ok (((s.transfer target).emit s.cur kind value).land (.x 31) (l.setWidth 256) false 1)

/-- R144: CALL by displacement. -/
def execCall (o : Fmt Unit) (s : State) : Host.Outcome State Fault Refusal :=
  s.slot o.pred (s.callTo (branchTarget s.iss.pc o.imm) 1 s.iss.pc)
/-- R144: CALL through a register; a pending x31 parks it before its target is judged (R112). -/
def execCallIndirect (o : Fmt Unit) (s : State) : Host.Outcome State Fault Refusal :=
  s.slot o.pred (do
    if s.isPending s.cur (.x 31) then .error (.park .none)
    let (a, _, _) ← s.sources o
    s.noBounded [a]
    s.callTo a.word 3 a.word)

/-- The words of TSAVE that ERET reads back: reading one that is uncorrectable traps like any read (R103, R359; log 89, DEDUCED,
DEDUCED). -/
def State.savedWords (s : State) : List Word :=
  let n := s.th.lbn.toNat
  if n ≤ 4 then (List.range (8 * n)).map fun i => BitVec.ofNat 64 (tsave s.cur.thr + 8 * i) else []

/-- R381: the words that ERET reads are an access of its thread. -/
def State.watchSaved (s : State) : State := s.watchAll false false (s.savedWords.map fun a => (a.toNat, 8))
/-- R145, R382: the return with the entries that ERET read, and its trace entry. -/
def State.comeBack (s : State) (l : List Landing) : State :=
  let t := s.returnWith l
  t.emit s.cur 3 t.th.q0.pc

/-- R145: ERET: a mode violation in task mode; empty groups until the landing buffer is empty; then the return. One whose
group a MATRIX instruction held has read TSAVE (R22). -/
def execEret (o : Fmt Unit) (s : State) : Host.Outcome State Fault Refusal :=
  s.slot o.pred (
    if !s.th.hm then s.pcTrap 2
    else if s.iss.held ≠ 0 then .error (.hand s.emptyGroup)
    else match s.th.reload with
      | some l => .ok (s.watchSaved.comeBack l)
      | none => do
        s.spadEcc s.savedWords 8
        match s.savedEntries with
        | none => s.pcTrap 2
        | some l => .ok (s.watchSaved.comeBack l))

/-! ## FLOW (R146) -/

/-- R146: YIELD. -/
def execYield (o : Fmt Unit) (s : State) : Host.Outcome State Fault Refusal :=
  s.slot o.pred (.ok (s.setTh { s.th with pause := .yield }))
/-- R146: WAITT parks until CYCLE reaches the value. -/
def execWaitt (o : Fmt Unit) (s : State) : Host.Outcome State Fault Refusal :=
  s.slot o.pred (do
    let (a, _, _) ← s.sources o
    s.noBounded [a]
    if s.cycle.toNat < a.word.toNat then .error (.park .none) else .ok s)
/-- R146: WFI. -/
def execWfi (o : Fmt Unit) (s : State) : Host.Outcome State Fault Refusal :=
  s.slot o.pred (.ok (s.setTh { s.th with pause := .wfi }))

end Sys2Proof.Machine
end

