-- ==== Sys2Proof/Machine/Scalar.lean ====
section
/-!
DEFINITION. The families INT, BIT, CONST and PRED (09), and NOP (R33).
-/
namespace Sys2Proof.Machine

/-- R33: NOP changes no state. -/
def execNop (s : State) : Host.Outcome State Fault Refusal := .next s

/-! ## INT (R133, R134) -/

/-- An INT instruction of latency l whose N-bit result is a function of its two operands (R131, R132). -/
def State.intOp (s : State) (o : Fmt IntMod) (l : Nat) (f : Word → Word → Int) : Host.Outcome State Fault Refusal :=
  s.slot o.pred (do
    let (a, b, _) ← s.sources o
    .ok ((s.pops o).land o.d ((narrow o.mod.h (f a.word b.word)).setWidth 256) (a.b || b.b) l))

/-- R134: ADD. -/
def execAdd (o : Fmt IntMod) (s : State) : Host.Outcome State Fault Refusal :=
  s.intOp o 1 fun a b => satOf o.mod.ov o.mod.h (exOf o.mod.ov o.mod.h a + exOf o.mod.ov o.mod.h b)
/-- R134: SUB. -/
def execSub (o : Fmt IntMod) (s : State) : Host.Outcome State Fault Refusal :=
  s.intOp o 1 fun a b => satOf o.mod.ov o.mod.h (exOf o.mod.ov o.mod.h a - exOf o.mod.ov o.mod.h b)
/-- R134: MUL. -/
def execMul (o : Fmt IntMod) (s : State) : Host.Outcome State Fault Refusal :=
  s.intOp o 3 fun a b => satOf o.mod.ov o.mod.h (exOf o.mod.ov o.mod.h a * exOf o.mod.ov o.mod.h b)
/-- R134: MULH. -/
def execMulh (o : Fmt IntMod) (s : State) : Host.Outcome State Fault Refusal :=
  s.intOp o 3 fun a b => lowS o.mod.h a * lowS o.mod.h b / (2 : Int) ^ opWidth o.mod.h
/-- R134: MULHU. -/
def execMulhu (o : Fmt IntMod) (s : State) : Host.Outcome State Fault Refusal :=
  s.intOp o 3 fun a b => ((lowU o.mod.h a * lowU o.mod.h b / 2 ^ opWidth o.mod.h : Nat) : Int)
/-- R134: DIV, rounded toward zero; the overflow case wraps to the dividend. -/
def execDiv (o : Fmt IntMod) (s : State) : Host.Outcome State Fault Refusal :=
  s.intOp o 12 fun a b =>
    let x := lowS o.mod.h a
    let y := lowS o.mod.h b
    if y = 0 then -1
    else if x = intMin true (opWidth o.mod.h) ∧ y = -1 then x
    else x.tdiv y
/-- R134: DIVU. -/
def execDivu (o : Fmt IntMod) (s : State) : Host.Outcome State Fault Refusal :=
  s.intOp o 12 fun a b =>
    let x := lowU o.mod.h a
    let y := lowU o.mod.h b
    if y = 0 then intMax false (opWidth o.mod.h) else ((x / y : Nat) : Int)
/-- R134: REM, with the sign of the dividend. -/
def execRem (o : Fmt IntMod) (s : State) : Host.Outcome State Fault Refusal :=
  s.intOp o 12 fun a b =>
    let x := lowS o.mod.h a
    let y := lowS o.mod.h b
    if y = 0 then x
    else if x = intMin true (opWidth o.mod.h) ∧ y = -1 then 0
    else x - y * x.tdiv y
/-- R134: REMU. -/
def execRemu (o : Fmt IntMod) (s : State) : Host.Outcome State Fault Refusal :=
  s.intOp o 12 fun a b =>
    let x := lowU o.mod.h a
    let y := lowU o.mod.h b
    if y = 0 then (x : Int) else ((x - y * (x / y) : Nat) : Int)
/-- R134: AND. -/
def execAnd (o : Fmt IntMod) (s : State) : Host.Outcome State Fault Refusal :=
  s.intOp o 1 fun a b => ((a &&& b).toNat : Int)
/-- R134: OR. -/
def execOr (o : Fmt IntMod) (s : State) : Host.Outcome State Fault Refusal :=
  s.intOp o 1 fun a b => ((a ||| b).toNat : Int)
/-- R134: XOR. -/
def execXor (o : Fmt IntMod) (s : State) : Host.Outcome State Fault Refusal :=
  s.intOp o 1 fun a b => ((a ^^^ b).toNat : Int)
/-- R134: SHL by the low bits of b. -/
def execShl (o : Fmt IntMod) (s : State) : Host.Outcome State Fault Refusal :=
  s.intOp o 1 fun a b => ((lowU o.mod.h a * 2 ^ (lowU o.mod.h b % opWidth o.mod.h) : Nat) : Int)
/-- R134: SHR, logical. -/
def execShr (o : Fmt IntMod) (s : State) : Host.Outcome State Fault Refusal :=
  s.intOp o 1 fun a b => ((lowU o.mod.h a / 2 ^ (lowU o.mod.h b % opWidth o.mod.h) : Nat) : Int)
/-- R134: SRA, arithmetic. -/
def execSra (o : Fmt IntMod) (s : State) : Host.Outcome State Fault Refusal :=
  s.intOp o 1 fun a b => lowS o.mod.h a / (2 : Int) ^ (lowU o.mod.h b % opWidth o.mod.h)
/-- R134: MIN. -/
def execMin (o : Fmt IntMod) (s : State) : Host.Outcome State Fault Refusal :=
  s.intOp o 1 fun a b => min (lowS o.mod.h a) (lowS o.mod.h b)
/-- R134: MAX. -/
def execMax (o : Fmt IntMod) (s : State) : Host.Outcome State Fault Refusal :=
  s.intOp o 1 fun a b => max (lowS o.mod.h a) (lowS o.mod.h b)
/-- R134: MINU. -/
def execMinu (o : Fmt IntMod) (s : State) : Host.Outcome State Fault Refusal :=
  s.intOp o 1 fun a b => ((min (lowU o.mod.h a) (lowU o.mod.h b) : Nat) : Int)
/-- R134: MAXU. -/
def execMaxu (o : Fmt IntMod) (s : State) : Host.Outcome State Fault Refusal :=
  s.intOp o 1 fun a b => ((max (lowU o.mod.h a) (lowU o.mod.h b) : Nat) : Int)

/-! ## BIT (R135, R136) -/

/-- A BIT instruction of one group whose result is a function of its three operands. -/
def State.bitOp {M : Type} (s : State) (o : Fmt M) (f : Word → Word → Word → Word) : Host.Outcome State Fault Refusal :=
  s.slot o.pred (do
    let (a, b, c) ← s.sources o
    .ok ((s.pops o).land o.d ((f a.word b.word c.word).setWidth 256) (a.b || b.b || c.b) 1))

/-- The zero bits above the highest one bit of the low n bits, and below the lowest. -/
def leadingZeros (n v : Nat) : Nat := if v = 0 then n else n - 1 - Nat.log2 v
def trailingZeros (v : Nat) : Nat → Nat
  | 0 => 0
  | n + 1 => if v % 2 = 1 then 0 else trailingZeros (v / 2) n + 1
def onesOf (v : Nat) : Nat → Nat
  | 0 => 0
  | n + 1 => v % 2 + onesOf (v / 2) n

/-- R136: CLZ. -/
def execClz (o : Fmt Bool) (s : State) : Host.Outcome State Fault Refusal :=
  s.bitOp o fun a _ _ => BitVec.ofNat 64 (leadingZeros (opWidth o.mod) (lowU o.mod a))
/-- R136: CTZ. -/
def execCtz (o : Fmt Bool) (s : State) : Host.Outcome State Fault Refusal :=
  s.bitOp o fun a _ _ => BitVec.ofNat 64 (trailingZeros (lowU o.mod a) (opWidth o.mod))
/-- R136: POPC. -/
def execPopc (o : Fmt Bool) (s : State) : Host.Outcome State Fault Refusal :=
  s.bitOp o fun a _ _ => BitVec.ofNat 64 (onesOf (lowU o.mod a) (opWidth o.mod))

/-- R136: pos and the effective length of a bit-field control. -/
def fieldPos (c : Word) : Nat := c.toNat % 64
def fieldLen (c : Word) : Nat := min (bits c.toNat 8 7) (64 - fieldPos c)

/-- R136: BFX. -/
def execBfx (o : Fmt Bool) (s : State) : Host.Outcome State Fault Refusal :=
  s.bitOp o fun a c _ =>
    let n := fieldLen c
    let f := bits a.toNat (fieldPos c) n
    if n = 0 then 0
    else if o.mod && decide (2 ^ (n - 1) ≤ f) then BitVec.ofInt 64 ((f : Int) - 2 ^ n) else BitVec.ofNat 64 f
/-- R136: BFI. -/
def execBfi (o : Fmt Unit) (s : State) : Host.Outcome State Fault Refusal :=
  s.bitOp o fun a b c =>
    let n := fieldLen c
    let p := fieldPos c
    BitVec.ofNat 64 (a.toNat % 2 ^ p + b.toNat % 2 ^ n * 2 ^ p + a.toNat / 2 ^ (p + n) * 2 ^ (p + n))
/-- R136: LEA. -/
def execLea (o : Fmt LeaMod) (s : State) : Host.Outcome State Fault Refusal :=
  s.bitOp o fun a b _ =>
    let i := if o.mod.x32 then (b.setWidth 32).signExtend 64 else b
    a + (i <<< o.mod.s.val) + immWord o.imm
/-- R136, R132: SEL takes the value and the B bit of the chosen source. -/
def execSel (o : Fmt Unit) (s : State) : Host.Outcome State Fault Refusal :=
  s.slot o.pred (do
    let (a, b, c) ← s.sources o
    let r := if a.val.getLsbD 0 then b else c
    .ok ((s.pops o).land o.d (r.word.setWidth 256) r.b 1))

/-! ## MOVI (R137) -/

/-- R137: MOVI parks while its destination is pending and reads nothing. -/
def execMovi (p : Pred) (d : Fin 32) (imm : BitVec 64) (s : State) : Host.Outcome State Fault Refusal :=
  s.slot p (if s.destBusy (.x d) [] then .error (.park .none) else .ok (s.land (.x d) (imm.setWidth 256) false 1))

/-! ## PRED (R138, R139) -/

/-- A PRED instruction that writes a predicate from predicates. -/
def State.predOp (s : State) (o : Fmt Unit) (f : Bool → Bool → Bool) : Host.Outcome State Fault Refusal :=
  s.slot o.pred (do
    let (a, b, _) ← s.sources o
    .ok (s.land o.d (BitVec.ofNat 256 (f (predOf o.a a) (predOf o.b b)).toNat) false 1))

/-- R139: CMP; a bounded source faults with cause 26, behind a recorded fault of either source (log 104, DEDUCED). -/
def execCmp (o : Fmt CondMod) (s : State) : Host.Outcome State Fault Refusal :=
  s.slot o.pred (do
    let (a, b, _) ← s.sources o
    s.noBounded [a, b]
    .ok ((s.pops o).land o.d (BitVec.ofNat 256 (compare o.mod.cond o.mod.h a.word b.word).toNat) false 1))
/-- R138: PAND. -/
def execPand (o : Fmt Unit) (s : State) : Host.Outcome State Fault Refusal := s.predOp o fun a b => a && b
/-- R138: POR. -/
def execPor (o : Fmt Unit) (s : State) : Host.Outcome State Fault Refusal := s.predOp o fun a b => a || b
/-- R138: PXOR. -/
def execPxor (o : Fmt Unit) (s : State) : Host.Outcome State Fault Refusal := s.predOp o fun a b => a != b
/-- R138: PNOT. -/
def execPnot (o : Fmt Unit) (s : State) : Host.Outcome State Fault Refusal := s.predOp o fun a _ => !a
/-- R138: PMOV. -/
def execPmov (o : Fmt Unit) (s : State) : Host.Outcome State Fault Refusal := s.predOp o fun a _ => a
/-- R138: PMOV.tox packs p7 to p0. -/
def execPmovTox (o : Fmt Unit) (s : State) : Host.Outcome State Fault Refusal :=
  s.slot o.pred (do
    let _ ← s.sources o
    let v := packFields ((List.range 8).map fun i => (i, (s.th.readP (Fin.ofNat 8 i)).toNat))
    .ok (s.land o.d (BitVec.ofNat 256 v) false 1))
/-- R138: PMOV.fromx writes p1 to p7; a bounded source faults with cause 26. -/
def execPmovFromx (o : Fmt Unit) (s : State) : Host.Outcome State Fault Refusal :=
  s.slot o.pred (do
    let (a, _, _) ← s.sources o
    s.noBounded [a]
    .ok ((List.range 7).foldl (fun t i =>
      t.land (.p (Fin.ofNat 8 (i + 1))) (BitVec.ofNat 256 (a.val.getLsbD (i + 1)).toNat) false 1) (s.pops o)))

end Sys2Proof.Machine
end

