-- ==== Sys2Proof/Machine/Sys.lean ====
section
/-!
DEFINITION. The SYS family: CSRs (08 R129, R130; 23 R346 and the field maps it names), TRAP, BRK and FENCEI (23 R347-R349).
-/
namespace Sys2Proof.Machine

/-! ## Reading a CSR -/

/-- R153: TSTAT. -/
def Thread.tstat (t : Thread) : Word :=
  BitVec.ofNat 64 (packFields
    [(0, t.hm.toNat), (1, t.phm.toNat), (2, t.ie.toNat), (3, t.pie.toNat), (4, t.lbn.toNat), (32, t.ien.toNat)])

/-- R343: IPEND. -/
def State.ipend (s : State) (t : Thread) : Word :=
  BitVec.ofNat 64 (packFields
    [(1, t.ipDb.toNat), (2, t.ipDbo.toNat), (5, (s.pendingInt t 5).toNat), (7, (s.pendingInt t 7).toNat),
     (9, t.ipPrq.toNat), (11, t.ipDbg.toNat)])

/-- R346: what a CSR reads as in the current mode; none where the number is unassigned or the mode has no access. -/
def State.csrRead (s : State) (n : Nat) : Option Word :=
  let t := s.th
  if !t.hm && decide (2 ≤ n ∧ n ≤ 6) then none
  else if 0x060 ≤ n ∧ n ≤ 0x06B then some (SMap.get 0 t.dly (n - 0x060))
  else match n with
    | 0x000 => some t.tstat
    | 0x001 => some t.tvec
    | 0x002 => some t.tcause
    | 0x003 => some t.tval
    | 0x004 => some t.tepc0
    | 0x005 => some t.tepc1
    | 0x006 => some t.tepc2
    | 0x007 => some (BitVec.ofNat 64 (tsave s.cur.thr))
    | 0x008 => some (t.stopmax.setWidth 64)
    | 0x009 => some t.icount
    | 0x00A => some t.icmp
    | 0x00B => some (s.ipend t)
    | 0x00C => some t.dbval
    | 0x010 => some (t.fpflags.setWidth 64)
    | 0x020 => some t.rank
    | 0x021 => some (BitVec.ofNat 64 s.cur.core)
    | 0x022 => some (BitVec.ofNat 64 s.cur.thr)
    | 0x023 => some (t.taskid.setWidth 64)
    | 0x030 => some s.cycle
    | 0x031 => some t.cyccmp
    | 0x040 => some t.accepts
    | 0x050 => some t.xbinj
    | 0x06C => some t.ndly
    | _ => none

/-! ## Writing a CSR -/

/-- R153: a write of TSTAT: bits of undefined interrupts and the read-only ones stand; task mode reaches IEN and IE. -/
def Thread.writeTstat (t : Thread) (v : Word) : Thread :=
  let t := { t with ien := (v >>> 32).setWidth 16 &&& 0x00A2 ||| 0x0A00, ie := v.getLsbD 2 }
  if t.hm then { t with lbn := (v >>> 4).setWidth 3, pie := v.getLsbD 3, phm := v.getLsbD 1 } else t

/-- R206: a write of XBINJ; ARM with N 0 leaves ARM 0. -/
def xbinjOf (v : Word) : Word :=
  let n := v.toNat % 2 ^ 16
  BitVec.ofNat 64 (packFields [(0, n), (16, bits v.toNat 16 2), (31, if n = 0 then 0 else bits v.toNat 31 1)])

/-- R346: the thread after a write; none where the CSR is read-only in the current mode. -/
def Thread.csrWrite (t : Thread) (n : Nat) (v : Word) : Option Thread :=
  if n = 0 then some (t.writeTstat v)
  else if n = 1 then some { t with tvec := v >>> 6 <<< 6 }
  else if n = 0x009 then some { t with icount := v }
  else if n = 0x00A then some { t with icmp := v }
  else if n = 0x010 then some { t with fpflags := v.setWidth 5 }
  else if n = 0x031 then some { t with cyccmp := v }
  else if n = 0x050 then some { t with xbinj := xbinjOf v }
  else if !t.hm then none
  else if 0x060 ≤ n ∧ n ≤ 0x06B then some { t with dly := SMap.set 0 t.dly (n - 0x060) v }
  else match n with
    | 0x002 => some { t with tcause := v &&& 0x800000000000003F }
    | 0x003 => some { t with tval := v }
    | 0x004 => some { t with tepc0 := v &&& ~~~ 0x20 }
    | 0x005 => some { t with tepc1 := v &&& ~~~ 0x20 }
    | 0x006 => some { t with tepc2 := v &&& ~~~ 0x20 }
    | 0x008 => some (if v.toNat % 2 ^ 12 = 0 then t else { t with stopmax := v.setWidth 12 })
    | 0x00B => some { t with
        ipDb := t.ipDb && !v.getLsbD 1, ipDbo := t.ipDbo && !v.getLsbD 2, ipPrq := t.ipPrq && !v.getLsbD 9 }
    | 0x040 => some { t with accepts := v }
    | 0x06C => some { t with ndly := v }
    | _ => none

/-- R151: a write to ICOUNT replaces the count that its own group adds. -/
def State.csrStore (s : State) (n : Nat) (v : Word) : Option State :=
  (s.th.csrWrite n v).map fun t =>
    let s := s.setTh t
    if n = 0x009 then { s with iss := { s.iss with keepCount := true } } else s

/-- R129: the CSR number. -/
def csrNumber (imm : BitVec 32) : Nat := imm.toNat % 2 ^ 12

/-- R129: CSRR (log 18, DEDUCED). -/
def execCsrr (o : Fmt Unit) (s : State) : Host.Outcome State Fault Refusal :=
  s.slot o.pred (do
    let _ ← s.sources o
    match s.csrRead (csrNumber o.imm) with
    | some v => .ok (s.land o.d (v.setWidth 256) false 1)
    | none => s.pcTrap 2)

/-- R129: CSRW (log 17, DEDUCED; log 18, DEDUCED). -/
def execCsrw (o : Fmt Unit) (s : State) : Host.Outcome State Fault Refusal :=
  s.slot o.pred (do
    let (a, _, _) ← s.sources o
    match s.csrStore (csrNumber o.imm) a.word with
    | some t => do
      s.noBounded [a]
      .ok t
    | none => s.pcTrap 2)

/-- R129: CSRX reads the old value and writes in one step (log 17, DEDUCED; log 18, DEDUCED). -/
def execCsrx (o : Fmt Unit) (s : State) : Host.Outcome State Fault Refusal :=
  s.slot o.pred (do
    let (a, _, _) ← s.sources o
    match s.csrRead (csrNumber o.imm), s.csrStore (csrNumber o.imm) a.word with
    | some v, some t => do
      s.noBounded [a]
      .ok (t.land o.d (v.setWidth 256) false 1)
    | _, _ => s.pcTrap 2)

/-! ## TRAP, BRK, FENCEI -/

/-- R348: the group issues, and trap entry follows at once (log 73, DEDUCED). -/
def State.trapAfter (s : State) (cause : Nat) (tval : Word) : State :=
  let t := s.finishGroup.trapThread s.cur cause tval
  { t with iss := { t.iss with status := .trapped } }

/-- R348: TRAP: cause 8 in task mode; in handler mode a double trap of cause 2. -/
def execTrap (o : Fmt Unit) (s : State) : Host.Outcome State Fault Refusal :=
  if s.predOn o.pred then
    .next (if s.th.hm then s.trapAfter 2 s.iss.pc else s.trapAfter 8 (o.imm.setWidth 64))
  else .next s

/-- R348: BRK. -/
def execBrk (o : Fmt Unit) (s : State) : Host.Outcome State Fault Refusal :=
  if s.predOn o.pred then .next (s.trapAfter 3 s.iss.pc) else .next s

/-- R349: FENCEI: the fence at DEVICE scope; the lines go when it is complete. -/
def execFencei (o : Fmt Unit) (s : State) : Host.Outcome State Fault Refusal :=
  s.slot o.pred (
    let (s, w) := s.beginFence 2
    .ok (s.setTh { s.th with wait := .fence w .invalidate }))

end Sys2Proof.Machine
end

