-- ==== Sys2Proof/Machine/Vector.lean ====
section
/-!
DEFINITION. The vector families (11): VARITH, VLOGIC, VCONV, VCMPSEL, VLANE, VRED and MASK; and BOUND (R219).
-/
namespace Sys2Proof.Machine

/-- A vector instruction of latency l that writes vd lane by lane from the lanes of its sources (R156, R157, R159). -/
def State.laneOp (s : State) (o : Fmt VecMod) (l : Nat) (f : Nat → Nat → Nat → Nat × Flags) :
    Host.Outcome State Fault Refusal :=
  s.slot o.pred (do
    let v ← s.vecSources o (readsOld o.mod)
    let w := o.mod.type.bytes
    let (r, fl) := vecLanes o.mod v fun i => f (lane w v.a i) (lane w v.b i) (lane w v.c i)
    .ok ((s.raise fl).land o.d r v.bounded l))

/-! ## VARITH (R158, R160, R161) -/

/-- R161: an exact integer result as its lane holds it. -/
def intLane (m : VecMod) (e : Int) : Nat × Flags :=
  let t := m.type
  (laneBits t (if m.sat then clampInt (intMin (isSigned t) (8 * t.bytes)) (intMax (isSigned t) (8 * t.bytes)) e else e),
    .none)

/-- A VARITH instruction: integer lanes by an exact function, floating lanes by another, with their latencies (R157). -/
def State.arith (s : State) (o : Fmt VecMod) (fi : Int → Int → Int → Int) (ff : Nat → Nat → Nat → Nat × Flags) :
    Host.Outcome State Fault Refusal :=
  let t := o.mod.type
  s.laneOp o (if t.isInteger then 2 else 4) fun a b c =>
    if t.isInteger then intLane o.mod (fi (laneInt t a) (laneInt t b) (laneInt t c)) else ff a b c

/-- R161: VADD. -/
def execVadd (o : Fmt VecMod) (s : State) : Host.Outcome State Fault Refusal :=
  let t := o.mod.type
  s.arith o (fun a b _ => a + b) fun a b _ => floatAdd t o.mod.rnd (laneVal t a) (laneVal t b)
/-- R161: VSUB. -/
def execVsub (o : Fmt VecMod) (s : State) : Host.Outcome State Fault Refusal :=
  let t := o.mod.type
  s.arith o (fun a b _ => a - b) fun a b _ => floatAdd t o.mod.rnd (laneVal t a) (laneVal t b).neg
/-- R161: VMUL. -/
def execVmul (o : Fmt VecMod) (s : State) : Host.Outcome State Fault Refusal :=
  let t := o.mod.type
  s.arith o (fun a b _ => a * b) fun a b _ => floatMul t o.mod.rnd (laneVal t a) (laneVal t b)
/-- R161: VFMA. -/
def execVfma (o : Fmt VecMod) (s : State) : Host.Outcome State Fault Refusal :=
  let t := o.mod.type
  s.arith o (fun a b c => a * b + c) fun a b c => floatFma t o.mod.rnd (laneVal t a) (laneVal t b) (laneVal t c)
/-- R161: VFMS. -/
def execVfms (o : Fmt VecMod) (s : State) : Host.Outcome State Fault Refusal :=
  let t := o.mod.type
  s.arith o (fun a b c => a * b - c) fun a b c => floatFma t o.mod.rnd (laneVal t a) (laneVal t b) (laneVal t c).neg
/-- R161: VMIN. -/
def execVmin (o : Fmt VecMod) (s : State) : Host.Outcome State Fault Refusal :=
  s.arith o (fun a b _ => min a b) fun a b _ => floatPick o.mod.type false a b
/-- R161: VMAX. -/
def execVmax (o : Fmt VecMod) (s : State) : Host.Outcome State Fault Refusal :=
  s.arith o (fun a b _ => max a b) fun a b _ => floatPick o.mod.type true a b
/-- R161: VABS. -/
def execVabs (o : Fmt VecMod) (s : State) : Host.Outcome State Fault Refusal :=
  s.arith o (fun a _ _ => (a.natAbs : Int)) fun a _ _ => floatAbs o.mod.type a
/-- R161: VNEG. -/
def execVneg (o : Fmt VecMod) (s : State) : Host.Outcome State Fault Refusal :=
  s.arith o (fun a _ _ => -a) fun a _ _ => floatNeg o.mod.type a
/-- R158: VDIV. -/
def execVdiv (o : Fmt VecMod) (s : State) : Host.Outcome State Fault Refusal :=
  let t := o.mod.type
  s.laneOp o 16 fun a b _ => floatDiv t o.mod.rnd (laneVal t a) (laneVal t b)
/-- R158: VSQRT. -/
def execVsqrt (o : Fmt VecMod) (s : State) : Host.Outcome State Fault Refusal :=
  let t := o.mod.type
  s.laneOp o 16 fun a _ _ => floatSqrt t o.mod.rnd (laneVal t a)

/-! ## VLOGIC (R162) -/

/-- R162: VAND. -/
def execVand (o : Fmt VecMod) (s : State) : Host.Outcome State Fault Refusal :=
  s.laneOp o 2 fun a b _ => (a &&& b, .none)
/-- R162: VOR. -/
def execVor (o : Fmt VecMod) (s : State) : Host.Outcome State Fault Refusal :=
  s.laneOp o 2 fun a b _ => (a ||| b, .none)
/-- R162: VXOR. -/
def execVxor (o : Fmt VecMod) (s : State) : Host.Outcome State Fault Refusal :=
  s.laneOp o 2 fun a b _ => (a ^^^ b, .none)
/-- R162: VSHL. -/
def execVshl (o : Fmt VecMod) (s : State) : Host.Outcome State Fault Refusal :=
  s.laneOp o 2 fun a b _ => (laneBits o.mod.type ((a * 2 ^ (b % (8 * o.mod.type.bytes)) : Nat) : Int), .none)
/-- R162: VSHR. -/
def execVshr (o : Fmt VecMod) (s : State) : Host.Outcome State Fault Refusal :=
  s.laneOp o 2 fun a b _ => (a / 2 ^ (b % (8 * o.mod.type.bytes)), .none)
/-- R162: VSRA. -/
def execVsra (o : Fmt VecMod) (s : State) : Host.Outcome State Fault Refusal :=
  s.laneOp o 2 fun a b _ =>
    (laneBits o.mod.type (signedLane o.mod.type.bytes a / (2 : Int) ^ (b % (8 * o.mod.type.bytes))), .none)

/-! ## VCVT (R163, R164) -/

/-- R66: Convert. -/
def convertLane (src dst : ElType) (m : Rnd) (n : Nat) : Nat × Flags :=
  if src.isInteger && dst.isInteger then
    (laneBits dst (clampInt (intMin (isSigned dst) (8 * dst.bytes)) (intMax (isSigned dst) (8 * dst.bytes)) (laneInt src n)),
      .none)
  else roundLane dst m (laneVal src n)

/-- R163: the fields of VCVT's control. -/
def cvtSrc (imm : BitVec 32) : ElType := (ElType.ofCode (bits imm.toNat 0 4)).getD .int8
def cvtScale (imm : BitVec 32) : Int := (BitVec.ofNat 8 (bits imm.toNat 8 8)).toInt
def cvtPart (imm : BitVec 32) : Nat := bits imm.toNat 16 3

/-- R164: VCVT; destination lanes outside the part follow R156 as inactive ones do. -/
def execVcvt (o : Fmt VecMod) (s : State) : Host.Outcome State Fault Refusal :=
  s.slot o.pred (do
    let src := cvtSrc o.imm
    let dst := o.mod.type
    let v ← s.vecSources o (readsOld o.mod || src.bytes != dst.bytes)
    let n := 32 / max src.bytes dst.bytes
    let part := cvtPart o.imm
    let (r, fl) := vecLanes
      o.mod
      { v with mask := if dst.bytes < src.bytes then
          BitVec.ofNat 32 (packFields ((List.range n).map fun i =>
            ((part * n + i) * dst.bytes, (active v.mask dst.bytes (part * n + i)).toNat)))
        else v.mask }
      fun di =>
        let i := if dst.bytes < src.bytes then di - part * n else di
        let si := if src.bytes < dst.bytes then part * n + i else i
        let x := lane src.bytes v.a si
        if cvtScale o.imm = 0 then convertLane src dst o.mod.rnd x
        else roundLane dst o.mod.rnd ((laneVal src x).scale (cvtScale o.imm))
    .ok ((s.raise fl).land o.d r v.bounded 4))

/-! ## VCMPSEL (R165, R166) -/

/-- R165: one lane's comparison and its flags. -/
def compareLane (t : ElType) (c : Nat) (a b : Nat) : Bool × Flags :=
  let x := laneVal t a
  let y := laneVal t b
  let f : Flags := if t.isInteger then .none else ⟨x.isSignalling || y.isSignalling, false, false, false, false⟩
  let nan := x.isNan || y.isNan
  match c with
  | 0 => (x.eq y, f)
  | 1 => (!x.eq y, f)
  | 2 => (x.lt y, f)
  | 3 => (!nan && !x.lt y, f)
  | 4 => (decide (a < b), f)
  | _ => (decide (b ≤ a), f)

/-- R165: VCMP writes all the mask bits of a lane. -/
def execVcmp (o : Fmt VecMod) (s : State) : Host.Outcome State Fault Refusal :=
  s.slot o.pred (do
    let (a, b, _) ← s.sources o
    s.noBounded [a, b]
    let t := o.mod.type
    let w := t.bytes
    let mask := s.th.readM o.mod.mask
    let old := maskOf (s.read o.imm o.d)
    let l := (List.range (laneCount t)).map fun i =>
      if active mask w i then
        let (r, f) := compareLane t (bits o.imm.toNat 0 3) (lane w a.val i) (lane w b.val i)
        (if r then 2 ^ w - 1 else 0, f)
      else (if o.mod.zm then 0 else bits old.toNat (i * w) w, Flags.none)
    let m := packFields ((List.range (laneCount t)).zipWith (fun i x => (i * w, x.1)) l)
    .ok ((s.raise (orFlags (l.map (·.2)))).land o.d (BitVec.ofNat 256 m) false 1))

/-- R166: VSEL writes every lane. -/
def execVsel (o : Fmt VecMod) (s : State) : Host.Outcome State Fault Refusal :=
  s.slot o.pred (do
    let v ← s.vecSources o false
    let w := o.mod.type.bytes
    let l := (List.range (laneCount o.mod.type)).map fun i => if active v.mask w i then lane w v.a i else lane w v.b i
    .ok (s.land o.d (packLanes w l) v.bounded 2))

/-! ## VLANE (R167-R169) -/

/-- R168: VBCAST. -/
def execVbcast (o : Fmt VecMod) (s : State) : Host.Outcome State Fault Refusal :=
  s.slot o.pred (do
    let (a, _, _) ← s.sources o
    let v ← s.vecSources o (readsOld o.mod)
    let (r, _) := vecLanes o.mod v fun _ => (a.word.toNat % 2 ^ (8 * o.mod.type.bytes), .none)
    .ok (s.land o.d r v.bounded 2))
/-- R168: VEXT; a bounded index faults with cause 26 (log 70, DEDUCED). -/
def execVext (o : Fmt VecMod) (s : State) : Host.Outcome State Fault Refusal :=
  s.slot o.pred (do
    let (a, b, _) ← s.sources o
    s.noBounded [b]
    let t := o.mod.type
    let e := lane t.bytes a.val (b.word.toNat % laneCount t)
    let r := if isSigned t then BitVec.ofInt 64 (laneInt t e) else BitVec.ofNat 64 e
    .ok (s.land o.d (r.setWidth 256) a.b 2))
/-- R168: VINS; a bounded index faults with cause 26, behind a recorded fault of A or B and before one of the old vd (log 104, DEDUCED,
DEDUCED); the other lanes stay. -/
def execVins (o : Fmt VecMod) (s : State) : Host.Outcome State Fault Refusal :=
  s.slot o.pred (do
    let (a, b, _) ← s.sources o
    s.noBounded [b]
    let v ← s.vecSources o true
    let w := o.mod.type.bytes
    let n := laneCount o.mod.type
    let l := (lanesOf w v.d).set (b.word.toNat % n) (a.word.toNat % 2 ^ (8 * w))
    .ok (s.land o.d (packLanes w l) v.bounded 2))
/-- R168: VPERM; a bounded index register faults with cause 26, behind a recorded fault of A or B and before one of the old vd
(log 104, DEDUCED). -/
def execVperm (o : Fmt VecMod) (s : State) : Host.Outcome State Fault Refusal :=
  s.slot o.pred (do
    let (_, b, _) ← s.sources o
    s.noBounded [b]
    let v ← s.vecSources o (readsOld o.mod)
    let w := o.mod.type.bytes
    let (r, _) := vecLanes o.mod v fun i => (lane w v.a (lane w v.b i % laneCount o.mod.type), .none)
    .ok (s.land o.d r v.bounded 2))
/-- R168: VSLIDE. -/
def execVslide (o : Fmt VecMod) (s : State) : Host.Outcome State Fault Refusal :=
  s.slot o.pred (do
    let v ← s.vecSources o (readsOld o.mod)
    let w := o.mod.type.bytes
    let n : Int := (laneCount o.mod.type : Nat)
    let (r, _) := vecLanes o.mod v fun i =>
      let j : Int := (i : Int) + o.imm.toInt
      (if 0 ≤ j ∧ j < n then lane w v.a j.toNat
        else if o.b = .none then 0 else lane w v.b (if n ≤ j then j - n else j + n).toNat, .none)
    .ok (s.land o.d r v.bounded 2))

/-- The rank of lane i among the active lanes. -/
def rankOf (m : BitVec 32) (w i : Nat) : Nat := ((List.range i).filter fun k => active m w k).length

/-- R168: VIOTA. -/
def execViota (o : Fmt VecMod) (s : State) : Host.Outcome State Fault Refusal :=
  s.slot o.pred (do
    let v ← s.vecSources o (readsOld o.mod)
    let w := o.mod.type.bytes
    let (r, _) := vecLanes o.mod v fun i => (rankOf v.mask w i % 2 ^ (8 * w), .none)
    .ok (s.land o.d r v.bounded 2))

/-- R169: the order of keys: integers by the type's signedness, floating values with every NaN above +infinity. -/
def keyLess (t : ElType) (a b : Nat) : Bool :=
  let x := laneVal t a
  let y := laneVal t b
  if x.isNan then false else if y.isNan then true else x.lt y

/-- A pair goes behind every pair whose key is not above its own: the sort is stable. -/
def insertKey (t : ElType) (p : Nat × Nat) : List (Nat × Nat) → List (Nat × Nat)
  | [] => [p]
  | q :: r => if keyLess t p.1 q.1 then p :: q :: r else q :: insertKey t p r
def sortKeys (t : ElType) (l : List (Nat × Nat)) : List (Nat × Nat) := l.foldl (fun a p => insertKey t p a) []

/-- The register after a v register. -/
def nextV (d : Reg) : Reg := match d with | .v n => .v (n + 1) | r => r

/-- R169: VSORTKV; bounded keys fault with cause 26, and the second destination parks the group while it is pending. -/
def execVsortkv (o : Fmt VecMod) (s : State) : Host.Outcome State Fault Refusal :=
  s.slot o.pred (
    if s.isPending s.cur (nextV o.d) then .error (.park .none)
    else do
      let (a, b, _) ← s.sources o
      s.noBounded [a]
      let t := o.mod.type
      let w := t.bytes
      let mask := s.th.readM o.mod.mask
      let pairs := (List.range (laneCount t)).map fun i => (active mask w i, lane w a.val i, lane w b.val i)
      let front := sortKeys t ((pairs.filter (·.1)).map (·.2))
      let back := ((pairs.filter (!·.1)).map (·.2)).map fun p => if o.mod.zm then (0, 0) else p
      let l := front ++ back
      .ok ((s.land o.d (packLanes w (l.map (·.1))) false 6).land (nextV o.d) (packLanes w (l.map (·.2))) b.b 6))

/-! ## VRED (R170, R171) -/

/-- R171: Comb: an absent operand costs nothing. -/
def comb (f : Nat → Nat → Nat × Flags) (x y : Option Nat) : Option Nat × Flags :=
  match x, y with
  | none, y => (y, .none)
  | x, none => (x, .none)
  | some a, some b => let (r, g) := f a b; (some r, g)

/-- R171: one level of the tree. -/
def treeLevel (f : Nat → Nat → Nat × Flags) : List (Option Nat) → List (Option Nat) × Flags
  | x :: y :: r =>
    let (z, g) := comb f x y
    let (l, h) := treeLevel f r
    (z :: l, g.or h)
  | l => (l, .none)

/-- R171: the tree; 32 lanes have five levels. -/
def tree (f : Nat → Nat → Nat × Flags) : Nat → List (Option Nat) → Option Nat × Flags
  | 0, l => (l.headD none, .none)
  | n + 1, l =>
    if l.length ≤ 1 then (l.headD none, .none)
    else
      let (m, g) := treeLevel f l
      let (r, h) := tree f n m
      (r, g.or h)

/-- R170: a result of the type as a scalar register holds it. -/
def redWord (t : ElType) (n : Nat) : Word := if isSigned t then BitVec.ofInt 64 (laneInt t n) else BitVec.ofNat 64 n

/-- A reduction by a lane operation through the tree, and then the initial value (log 70, DEDUCED). -/
def State.reduce (s : State) (o : Fmt VecMod) (f : Nat → Nat → Nat × Flags) : Host.Outcome State Fault Refusal :=
  s.slot o.pred (do
    let (a, b, _) ← s.sources o
    let t := o.mod.type
    let w := t.bytes
    let mask := s.th.readM o.mod.mask
    let l := (List.range (laneCount t)).map fun i => if active mask w i then some (lane w a.val i) else none
    let (r, g) := tree f 5 l
    let init := if o.b = .none then none else some (b.word.toNat % 2 ^ (8 * w))
    let (r, h) := comb f r init
    .ok ((s.raise (g.or h)).land o.d ((redWord t (r.getD 0)).setWidth 256) (a.b || b.b) 6))

/-- R171: VREDADD; integers are summed exactly. -/
def execVredadd (o : Fmt VecMod) (s : State) : Host.Outcome State Fault Refusal :=
  let t := o.mod.type
  if t.isInteger then
    s.slot o.pred (do
      let (a, b, _) ← s.sources o
      let w := t.bytes
      let mask := s.th.readM o.mod.mask
      let e := ((List.range (laneCount t)).filter fun i => active mask w i).foldl
        (fun x i => x + laneInt t (lane w a.val i)) 0
      let init := if o.b = .none then 0 else laneInt t (b.word.toNat % 2 ^ (8 * w))
      let (r, _) := intLane o.mod (e + init)
      .ok (s.land o.d ((redWord t r).setWidth 256) (a.b || b.b) 6))
  else s.reduce o fun x y => floatAdd t o.mod.rnd (laneVal t x) (laneVal t y)
/-- MIN or MAX of two lanes. -/
def pickLane (t : ElType) (max : Bool) (a b : Nat) : Nat × Flags :=
  if t.isInteger then
    (if max then (if laneInt t a < laneInt t b then b else a) else (if laneInt t b < laneInt t a then b else a), .none)
  else floatPick t max a b
/-- R171: VREDMIN. -/
def execVredmin (o : Fmt VecMod) (s : State) : Host.Outcome State Fault Refusal := s.reduce o (pickLane o.mod.type false)
/-- R171: VREDMAX. -/
def execVredmax (o : Fmt VecMod) (s : State) : Host.Outcome State Fault Refusal := s.reduce o (pickLane o.mod.type true)
/-- R170: VPOPM. -/
def execVpopm (o : Fmt VecMod) (s : State) : Host.Outcome State Fault Refusal :=
  s.slot o.pred (do
    let (a, _, _) ← s.sources o
    let n := ((List.range (laneCount o.mod.type)).filter fun i => active (maskOf a) o.mod.type.bytes i).length
    .ok (s.land o.d (BitVec.ofNat 256 n) false 6))

/-! ## MASK (R172) -/

/-- A MASK instruction that writes an m register. -/
def State.maskOp (s : State) (o : Fmt VecMod) (f : BitVec 32 → BitVec 32 → BitVec 32) :
    Host.Outcome State Fault Refusal :=
  s.slot o.pred (do
    let (a, b, _) ← s.sources o
    .ok (s.land o.d ((f (maskOf a) (maskOf b)).setWidth 256) false 1))

/-- R172: MAND. -/
def execMand (o : Fmt VecMod) (s : State) : Host.Outcome State Fault Refusal := s.maskOp o fun a b => a &&& b
/-- R172: MOR. -/
def execMor (o : Fmt VecMod) (s : State) : Host.Outcome State Fault Refusal := s.maskOp o fun a b => a ||| b
/-- R172: MXOR. -/
def execMxor (o : Fmt VecMod) (s : State) : Host.Outcome State Fault Refusal := s.maskOp o fun a b => a ^^^ b
/-- R172: MNOT. -/
def execMnot (o : Fmt VecMod) (s : State) : Host.Outcome State Fault Refusal := s.maskOp o fun a _ => ~~~a
/-- R172: MFIRST. -/
def execMfirst (o : Fmt VecMod) (s : State) : Host.Outcome State Fault Refusal :=
  s.slot o.pred (do
    let (a, _, _) ← s.sources o
    let r : Word := match (List.range (laneCount o.mod.type)).find? fun i => active (maskOf a) o.mod.type.bytes i with
      | some i => BitVec.ofNat 64 i
      | none => BitVec.allOnes 64
    .ok (s.land o.d (r.setWidth 256) false 2))

/-! ## BOUND (R219, R220) -/

/-- R219: ACPT clears B, and counts it in ACCEPTS where it was set. -/
def execAcpt (o : Fmt Unit) (s : State) : Host.Outcome State Fault Refusal :=
  s.slot o.pred (do
    let (a, _, _) ← s.sources o
    let s := if a.b then s.setTh { s.th with accepts := s.th.accepts + 1 } else s
    .ok (s.land o.d a.val false 1))
/-- R219: BTEST. -/
def execBtest (o : Fmt Unit) (s : State) : Host.Outcome State Fault Refusal :=
  s.slot o.pred (do
    let (a, _, _) ← s.sources o
    .ok (s.land o.d (BitVec.ofNat 256 a.b.toNat) false 1))

end Sys2Proof.Machine
end

