-- ==== Sys2Proof/Machine/Dispatch.lean ====
section
/-!
DEFINITION. The dispatch: one arm per constructor of `Instr`, each a direct call of that instruction's meaning.
-/
namespace Sys2Proof.Machine

/-- The effect of one instruction as a slot of the current group, or of one event of the device. -/
def exec (i : Instr) (s : State) : Host.Outcome State Fault Refusal :=
  match i with
  | .nop => Sys2Proof.Machine.execNop s
  | .add o => Sys2Proof.Machine.execAdd o s
  | .sub o => Sys2Proof.Machine.execSub o s
  | .mul o => Sys2Proof.Machine.execMul o s
  | .mulh o => Sys2Proof.Machine.execMulh o s
  | .mulhu o => Sys2Proof.Machine.execMulhu o s
  | .div o => Sys2Proof.Machine.execDiv o s
  | .divu o => Sys2Proof.Machine.execDivu o s
  | .rem o => Sys2Proof.Machine.execRem o s
  | .remu o => Sys2Proof.Machine.execRemu o s
  | .and o => Sys2Proof.Machine.execAnd o s
  | .or o => Sys2Proof.Machine.execOr o s
  | .xor o => Sys2Proof.Machine.execXor o s
  | .shl o => Sys2Proof.Machine.execShl o s
  | .shr o => Sys2Proof.Machine.execShr o s
  | .sra o => Sys2Proof.Machine.execSra o s
  | .min o => Sys2Proof.Machine.execMin o s
  | .max o => Sys2Proof.Machine.execMax o s
  | .minu o => Sys2Proof.Machine.execMinu o s
  | .maxu o => Sys2Proof.Machine.execMaxu o s
  | .clz o => Sys2Proof.Machine.execClz o s
  | .ctz o => Sys2Proof.Machine.execCtz o s
  | .popc o => Sys2Proof.Machine.execPopc o s
  | .bfx o => Sys2Proof.Machine.execBfx o s
  | .bfi o => Sys2Proof.Machine.execBfi o s
  | .lea o => Sys2Proof.Machine.execLea o s
  | .sel o => Sys2Proof.Machine.execSel o s
  | .movi p d imm => Sys2Proof.Machine.execMovi p d imm s
  | .cmp o => Sys2Proof.Machine.execCmp o s
  | .pand o => Sys2Proof.Machine.execPand o s
  | .por o => Sys2Proof.Machine.execPor o s
  | .pxor o => Sys2Proof.Machine.execPxor o s
  | .pnot o => Sys2Proof.Machine.execPnot o s
  | .pmov o => Sys2Proof.Machine.execPmov o s
  | .pmovTox o => Sys2Proof.Machine.execPmovTox o s
  | .pmovFromx o => Sys2Proof.Machine.execPmovFromx o s
  | .br o => Sys2Proof.Machine.execBr o s
  | .brc o => Sys2Proof.Machine.execBrc o s
  | .brca o => Sys2Proof.Machine.execBrca o s
  | .brct o => Sys2Proof.Machine.execBrct o s
  | .jmp o => Sys2Proof.Machine.execJmp o s
  | .call o => Sys2Proof.Machine.execCall o s
  | .callIndirect o => Sys2Proof.Machine.execCallIndirect o s
  | .eret o => Sys2Proof.Machine.execEret o s
  | .yield o => Sys2Proof.Machine.execYield o s
  | .waitt o => Sys2Proof.Machine.execWaitt o s
  | .wfi o => Sys2Proof.Machine.execWfi o s
  | .lds o => Sys2Proof.Machine.execLds o s
  | .sts o => Sys2Proof.Machine.execSts o s
  | .ldsv o => Sys2Proof.Machine.execLdsv o s
  | .stsv o => Sys2Proof.Machine.execStsv o s
  | .vgaths o => Sys2Proof.Machine.execVgaths o s
  | .vscats o => Sys2Proof.Machine.execVscats o s
  | .ldt o => Sys2Proof.Machine.execLdt o s
  | .stt o => Sys2Proof.Machine.execStt o s
  | .samo o => Sys2Proof.Machine.execSamo o s
  | .samon o => Sys2Proof.Machine.execSamon o s
  | .ldg o => Sys2Proof.Machine.execLdg o s
  | .ldgv o => Sys2Proof.Machine.execLdgv o s
  | .ldgx o => Sys2Proof.Machine.execLdgx o s
  | .stg o => Sys2Proof.Machine.execStg o s
  | .stgv o => Sys2Proof.Machine.execStgv o s
  | .stgx o => Sys2Proof.Machine.execStgx o s
  | .cmb o => Sys2Proof.Machine.execCmb o s
  | .cmbv o => Sys2Proof.Machine.execCmbv o s
  | .cmbx o => Sys2Proof.Machine.execCmbx o s
  | .mdrain o => Sys2Proof.Machine.execMdrain o s
  | .mdrainRegion o => Sys2Proof.Machine.execMdrainRegion o s
  | .mresolve o => Sys2Proof.Machine.execMresolve o s
  | .rgset o => Sys2Proof.Machine.execRgset o s
  | .rgget o => Sys2Proof.Machine.execRgget o s
  | .bind o => Sys2Proof.Machine.execBind o s
  | .acq o => Sys2Proof.Machine.execAcq o s
  | .rel o => Sys2Proof.Machine.execRel o s
  | .fence o => Sys2Proof.Machine.execFence o s
  | .bfence o => Sys2Proof.Machine.execBfence o s
  | .bar o => Sys2Proof.Machine.execBar o s
  | .bara o => Sys2Proof.Machine.execBara o s
  | .barw o => Sys2Proof.Machine.execBarw o s
  | .barr o => Sys2Proof.Machine.execBarr o s
  | .ftest o => Sys2Proof.Machine.execFtest o s
  | .fcancel o => Sys2Proof.Machine.execFcancel o s
  | .fwait o => Sys2Proof.Machine.execFwait o s
  | .fmovc o => Sys2Proof.Machine.execFmovc o s
  | .send o => Sys2Proof.Machine.execSend o s
  | .recv o => Sys2Proof.Machine.execRecv o s
  | .dqpush o => Sys2Proof.Machine.execDqpush o s
  | .dqpop o => Sys2Proof.Machine.execDqpop o s
  | .dqsplit o => Sys2Proof.Machine.execDqsplit o s
  | .dqsteal o => Sys2Proof.Machine.execDqsteal o s
  | .widf o => Sys2Proof.Machine.execWidf o s
  | .lvlrect o => Sys2Proof.Machine.execLvlrect o s
  | .launch o => Sys2Proof.Machine.execLaunch o s
  | .trig o => Sys2Proof.Machine.execTrig o s
  | .end_ o => Sys2Proof.Machine.execEnd o s
  | .trap o => Sys2Proof.Machine.execTrap o s
  | .brk o => Sys2Proof.Machine.execBrk o s
  | .csrr o => Sys2Proof.Machine.execCsrr o s
  | .csrw o => Sys2Proof.Machine.execCsrw o s
  | .csrx o => Sys2Proof.Machine.execCsrx o s
  | .fencei o => Sys2Proof.Machine.execFencei o s
  | .vadd o => Sys2Proof.Machine.execVadd o s
  | .vsub o => Sys2Proof.Machine.execVsub o s
  | .vmul o => Sys2Proof.Machine.execVmul o s
  | .vfma o => Sys2Proof.Machine.execVfma o s
  | .vfms o => Sys2Proof.Machine.execVfms o s
  | .vmin o => Sys2Proof.Machine.execVmin o s
  | .vmax o => Sys2Proof.Machine.execVmax o s
  | .vabs o => Sys2Proof.Machine.execVabs o s
  | .vneg o => Sys2Proof.Machine.execVneg o s
  | .vdiv o => Sys2Proof.Machine.execVdiv o s
  | .vsqrt o => Sys2Proof.Machine.execVsqrt o s
  | .vand o => Sys2Proof.Machine.execVand o s
  | .vor o => Sys2Proof.Machine.execVor o s
  | .vxor o => Sys2Proof.Machine.execVxor o s
  | .vshl o => Sys2Proof.Machine.execVshl o s
  | .vshr o => Sys2Proof.Machine.execVshr o s
  | .vsra o => Sys2Proof.Machine.execVsra o s
  | .vcvt o => Sys2Proof.Machine.execVcvt o s
  | .vcmp o => Sys2Proof.Machine.execVcmp o s
  | .vsel o => Sys2Proof.Machine.execVsel o s
  | .vbcast o => Sys2Proof.Machine.execVbcast o s
  | .vext o => Sys2Proof.Machine.execVext o s
  | .vins o => Sys2Proof.Machine.execVins o s
  | .vperm o => Sys2Proof.Machine.execVperm o s
  | .vslide o => Sys2Proof.Machine.execVslide o s
  | .viota o => Sys2Proof.Machine.execViota o s
  | .vsortkv o => Sys2Proof.Machine.execVsortkv o s
  | .vredadd o => Sys2Proof.Machine.execVredadd o s
  | .vredmin o => Sys2Proof.Machine.execVredmin o s
  | .vredmax o => Sys2Proof.Machine.execVredmax o s
  | .vpopm o => Sys2Proof.Machine.execVpopm o s
  | .mand o => Sys2Proof.Machine.execMand o s
  | .mor o => Sys2Proof.Machine.execMor o s
  | .mxor o => Sys2Proof.Machine.execMxor o s
  | .mnot o => Sys2Proof.Machine.execMnot o s
  | .mfirst o => Sys2Proof.Machine.execMfirst o s
  | .mma o => Sys2Proof.Machine.execMma o s
  | .mmv o => Sys2Proof.Machine.execMmv o s
  | .acz o => Sys2Proof.Machine.execAcz o s
  | .acld o => Sys2Proof.Machine.execAcld o s
  | .acst o => Sys2Proof.Machine.execAcst o s
  | .mxseed o => Sys2Proof.Machine.execMxseed o s
  | .mxstat o => Sys2Proof.Machine.execMxstat o s
  | .mxthr o => Sys2Proof.Machine.execMxthr o s
  | .topkc o => Sys2Proof.Machine.execTopkc o s
  | .xbmv o => Sys2Proof.Machine.execXbmv o s
  | .xbprog o => Sys2Proof.Machine.execXbprog o s
  | .xbver o => Sys2Proof.Machine.execXbver o s
  | .xbcal o => Sys2Proof.Machine.execXbcal o s
  | .xbrd o => Sys2Proof.Machine.execXbrd o s
  | .xbwr o => Sys2Proof.Machine.execXbwr o s
  | .acpt o => Sys2Proof.Machine.execAcpt o s
  | .btest o => Sys2Proof.Machine.execBtest o s
  | .namo o => Sys2Proof.Machine.execNamo o s
  | .namov o => Sys2Proof.Machine.execNamov o s
  | .namor o => Sys2Proof.Machine.execNamor o s
  | .bkmodeOn o => Sys2Proof.Machine.execBkmodeOn o s
  | .bkmodeOff o => Sys2Proof.Machine.execBkmodeOff o s
  | .bkldr o => Sys2Proof.Machine.execBkldr o s
  | .bkmac o => Sys2Proof.Machine.execBkmac o s
  | .bkrd o => Sys2Proof.Machine.execBkrd o s
  | .cpyIn o => Sys2Proof.Machine.execCpyIn o s
  | .cpyOut o => Sys2Proof.Machine.execCpyOut o s
  | .cpy2In o => Sys2Proof.Machine.execCpy2In o s
  | .cpy2Out o => Sys2Proof.Machine.execCpy2Out o s
  | .cpyg o => Sys2Proof.Machine.execCpyg o s
  | .cpys o => Sys2Proof.Machine.execCpys o s
  | .cpyr o => Sys2Proof.Machine.execCpyr o s
  | .gqw o => Sys2Proof.Machine.execGqw o s
  | .gqr o => Sys2Proof.Machine.execGqr o s
  | .oupd o => Sys2Proof.Machine.execOupd o s
  | .landing => Sys2Proof.Machine.execLanding s
  | .emptyGroup => Sys2Proof.Machine.execEmptyGroup s
  | .annulledGroup => Sys2Proof.Machine.execAnnulledGroup s
  | .lineFetch t va => Sys2Proof.Machine.execLineFetch t va s
  | .pageWalkEnd t => Sys2Proof.Machine.execPageWalkEnd t s
  | .interruptEntry code => Sys2Proof.Machine.execInterruptEntry code s
  | .stopSpacingFault => Sys2Proof.Machine.execStopSpacingFault s
  | .matrixThresholdTrap => Sys2Proof.Machine.execMatrixThresholdTrap s
  | .yieldExpire t => Sys2Proof.Machine.execYieldExpire t s
  | .breakpointMatch bp => Sys2Proof.Machine.execBreakpointMatch bp s
  | .copyTransfer op => Sys2Proof.Machine.execCopyTransfer op s
  | .copyResolve op => Sys2Proof.Machine.execCopyResolve op s
  | .loadServe op => Sys2Proof.Machine.execLoadServe op s
  | .l0MergeCommit core ctx => Sys2Proof.Machine.execL0MergeCommit core ctx s
  | .l1Move cluster key ctx => Sys2Proof.Machine.execL1Move cluster key ctx s
  | .l2Fold path slice => Sys2Proof.Machine.execL2Fold path slice s
  | .writeBack key => Sys2Proof.Machine.execWriteBack key s
  | .writeBackCommit key => Sys2Proof.Machine.execWriteBackCommit key s
  | .relCount op => Sys2Proof.Machine.execRelCount op s
  | .mdrainComplete op => Sys2Proof.Machine.execMdrainComplete op s
  | .regionCensus t => Sys2Proof.Machine.execRegionCensus t s
  | .rggetResolve op => Sys2Proof.Machine.execRggetResolve op s
  | .barrierArrive t => Sys2Proof.Machine.execBarrierArrive t s
  | .barrierAgeRecord obj => Sys2Proof.Machine.execBarrierAgeRecord obj s
  | .domainBarrierReport id arrivals reduce payloads => Sys2Proof.Machine.execDomainBarrierReport id arrivals reduce payloads s
  | .domainBarrierComplete id payloads => Sys2Proof.Machine.execDomainBarrierComplete id payloads s
  | .matrixDispatch quad => Sys2Proof.Machine.execMatrixDispatch quad s
  | .matrixOpDone quad => Sys2Proof.Machine.execMatrixOpDone quad s
  | .streamBufferFill op => Sys2Proof.Machine.execStreamBufferFill op s
  | .arrayCommandStart arr => Sys2Proof.Machine.execArrayCommandStart arr s
  | .arrayCommandDone arr => Sys2Proof.Machine.execArrayCommandDone arr s
  | .rowProgram arr => Sys2Proof.Machine.execRowProgram arr s
  | .stackCommandPerform op => Sys2Proof.Machine.execStackCommandPerform op s
  | .namorResolve op => Sys2Proof.Machine.execNamorResolve op s
  | .bankCommandPerform op => Sys2Proof.Machine.execBankCommandPerform op s
  | .bankAccessPerform op => Sys2Proof.Machine.execBankAccessPerform op s
  | .refresh pch bank => Sys2Proof.Machine.execRefresh pch bank s
  | .tlbinvDone => Sys2Proof.Machine.execTlbinvDone s
  | .hrevokeDone => Sys2Proof.Machine.execHrevokeDone s
  | .launchRead task => Sys2Proof.Machine.execLaunchRead task s
  | .placementEvaluate part => Sys2Proof.Machine.execPlacementEvaluate part s
  | .taskRetire task => Sys2Proof.Machine.execTaskRetire task s
  | .checksum task => Sys2Proof.Machine.execChecksum task s
  | .messageArrive op => Sys2Proof.Machine.execMessageArrive op s
  | .sendAck op => Sys2Proof.Machine.execSendAck op s
  | .stealProbe op => Sys2Proof.Machine.execStealProbe op s
  | .tileArrive op => Sys2Proof.Machine.execTileArrive op s
  | .tileMatch op => Sys2Proof.Machine.execTileMatch op s
  | .swapExchange part => Sys2Proof.Machine.execSwapExchange part s
  | .bkctxComplete pch => Sys2Proof.Machine.execBkctxComplete pch s
  | .laneRecord part ctx fatal record => Sys2Proof.Machine.execLaneRecord part ctx fatal record s
  | .traceFunnelWrite cluster => Sys2Proof.Machine.execTraceFunnelWrite cluster s
  | .traceTimestamp core => Sys2Proof.Machine.execTraceTimestamp core s
  | .traceLoss core => Sys2Proof.Machine.execTraceLoss core s
  | .remoteAck op => Sys2Proof.Machine.execRemoteAck op s
  | .flagResend op dev => Sys2Proof.Machine.execFlagResend op dev s
  | .cycleCompareMatch t => Sys2Proof.Machine.execCycleCompareMatch t s
  | .mextComplete => Sys2Proof.Machine.execMextComplete s
  | .unassignedEncoding pc => Sys2Proof.Machine.execUnassignedEncoding pc s
  | .instructionFetchFault cause va => Sys2Proof.Machine.execInstructionFetchFault cause va s
  | .patrolScrub block uncorrectable syndrome => Sys2Proof.Machine.execPatrolScrub block uncorrectable syndrome s
  | .errorEventLog source time => Sys2Proof.Machine.execErrorEventLog source time s
  | .errorEventExpire source time => Sys2Proof.Machine.execErrorEventExpire source time s
  | .frameRetire frame pages => Sys2Proof.Machine.execFrameRetire frame pages s
  | .memcfgWrite value => Sys2Proof.Machine.execMemcfgWrite value s
  | .tlbinv value => Sys2Proof.Machine.execTlbinv value s
  | .hrevoke value => Sys2Proof.Machine.execHrevoke value s
  | .regcfgWrite id record => Sys2Proof.Machine.execRegcfgWrite id record s
  | .barageWrite value => Sys2Proof.Machine.execBarageWrite value s
  | .partcfgWrite part value => Sys2Proof.Machine.execPartcfgWrite part value s
  | .lportWrite part ctx value => Sys2Proof.Machine.execLportWrite part ctx value s
  | .swapGo part => Sys2Proof.Machine.execSwapGo part s
  | .preempt value => Sys2Proof.Machine.execPreempt value s
  | .doorbell core thr value => Sys2Proof.Machine.execDoorbell core thr value s
  | .bkctxSave pch area => Sys2Proof.Machine.execBkctxSave pch area s
  | .bkctxRestore pch area => Sys2Proof.Machine.execBkctxRestore pch area s
  | .bkctxDiscard pch => Sys2Proof.Machine.execBkctxDiscard pch s
  | .dbgctlHalt core => Sys2Proof.Machine.execDbgctlHalt core s
  | .dbgctlSoft core threads => Sys2Proof.Machine.execDbgctlSoft core threads s
  | .dbgctlResume core => Sys2Proof.Machine.execDbgctlResume core s
  | .dbgvalWrite core value => Sys2Proof.Machine.execDbgvalWrite core value s
  | .mextExtend k => Sys2Proof.Machine.execMextExtend k s
  | .domidWrite value => Sys2Proof.Machine.execDomidWrite value s
  | .klstatWrite port value => Sys2Proof.Machine.execKlstatWrite port value s
  | .flitReceive port crcOk packet => Sys2Proof.Machine.execFlitReceive port crcOk packet s
  | .flagReceive dev core thr seq obj => Sys2Proof.Machine.execFlagReceive dev core thr seq obj s
  | .timeBeat time => Sys2Proof.Machine.execTimeBeat time s
  | .tlockLoss => Sys2Proof.Machine.execTlockLoss s
  | .thermalHot die code => Sys2Proof.Machine.execThermalHot die code s
  | .thermalTrip => Sys2Proof.Machine.execThermalTrip s
  | .powerUp => Sys2Proof.Machine.execPowerUp s
  | .railFail => Sys2Proof.Machine.execRailFail s
  | .registerWrite pa value => Sys2Proof.Machine.execRegisterWrite pa value s
  | .stewardAccess hart place op => Sys2Proof.Machine.execStewardAccess hart place op s
  | .portDown port => Sys2Proof.Machine.execPortDown port s
  | .taskRemove task => Sys2Proof.Machine.execTaskRemove task s

end Sys2Proof.Machine
end

