-- ==== Sys2Proof/Machine/Turn.lean ====
section
/-!
DEFINITION. The turns of the threads, the candidates for the next step, and the passing of time. Where more than one thing can
happen, `Config.choice` picks (log 1, DESIGN CHOICE).
-/
namespace Sys2Proof.Machine

/-- The state with an issue record for a group that begins at a PC. -/
def State.issueAt (s : State) (pc : Word) : State := { s with iss := { Issue.initial with pc := pc, held := s.th.landing.length } }

/-- R117: the group's writes do not fit: an empty group issues before it. -/
def State.emptyFirst (s : State) : State :=
  let t := s.emptyGroup
  { t with iss := { t.iss with status := .queued } }

/-- A slot asks for an empty group before its own. -/
def State.wantsEmpty (s : State) : Bool := s.iss.status == .queued && s.th.verdict.isNone && s.th.copyHeld.isNone

/-- The two slots of a pair (R22): both are judged as the group stood at issue; a slot that parks holds the group, then the
lower trap is taken, whichever step of R36 found it and before a higher one that an earlier step finds; where the higher slot traps
and another unit judges the lower one, that judgement comes first, and has no effect (`doomed`); then empty groups come first, then
work handed to another unit waits, and else both commit (log 26, DEDUCED). -/
def pairOutcome (i j : Instr) (s : State) (pc : Word) : Host.Outcome State Fault Refusal :=
  let hi := exec j (s.issueAt (pc + 1))
  match exec i (s.issueAt pc), hi with
  | .next a, .next b =>
    if a.iss.status = .parked then .next a
    else if b.iss.status = .parked then .next b
    else if a.iss.status = .trapped then .next a
    else if b.iss.status = .trapped then .next (if a.iss.status = .queued ∧ a.th.verdict.isSome = true
      then { a with iss := { a.iss with doomed := true } } else b)
    else if a.wantsEmpty then .next a
    else if b.wantsEmpty then .next b
    else if a.iss.status = .queued then .next (if landingFull s.th b.th then s.emptyFirst else a)
    else if b.iss.status = .queued then .next (if landingFull s.th a.th then s.emptyFirst else b)
    else exec j { a with iss := { a.iss with pc := pc + 1 } }
  | .next _, o => o
  | o, _ => o

/-- The execution of a group. -/
def runGroup (h : Held) (s : State) : Host.Outcome State Fault Refusal :=
  match h.hi with
  | none => exec h.lo (s.issueAt s.th.q0.pc)
  | some j => pairOutcome h.lo j s s.th.q0.pc

/-- What a turn came to for the issue slot (R111): none of it is used, a group issued, or a trap was entered. -/
inductive TurnEnd where
  | parked | issued | trapped
deriving DecidableEq, Repr

/-- An ERET is the second slot of the group; or a CALL is. -/
def Held.returns (h : Held) : Bool := match h.hi with | some (.eret _) => true | _ => false
def Held.calls (h : Held) : Bool :=
  match h.hi with
  | some (.call _) => true
  | some (.callIndirect _) => true
  | _ => false

/-- R22, R125: the current thread's group is with another unit, and has read what it reads: the x, c and q registers as they
stand, the queues popped, the link of a CALL (R144), and TSAVE for an ERET. -/
def State.handOver (s : State) (h : Held) : State :=
  let on := h.named.filter fun q => s.predOn q.1
  let taken := ((on.filter fun q => !q.2.1).map fun q => (q.2.2, s.read 0 q.2.2)).eraseDups
  let rooms := on.filterMap fun q => match q.2.2 with | .q n => some n.val | _ => none
  let link := if h.calls then s.link.toOption else none
  let s := taken.foldl (fun (s : State) q => match q.1 with
    | .q n => s.setCc (s.cc.writeQ n (s.cc.readQ n).tail)
    | _ => s) s
  s.setTh { s.th with group := some { h with
    taken := taken, rooms := rooms, link := link, reload := if h.returns && s.th.hm then s.savedEntries else none } }

/-- A turn that only parks leaves the thread as it stood (R112). -/
def State.stoodStill (u : State) (stood : Thread) : Bool :=
  decide (u.th.wait = stood.wait ∧ u.th.q1 = stood.q1 ∧ u.th.q2 = stood.q2)

/-- The end of an issue turn, by the status of its group; `stood` is the thread as it stood before the turn. A group that
parks keeps its place behind step 7 of R36; none where nothing changes (R112). One whose writes do not fit (R117) parks or traps first
where it would, and its empty groups come only once it would pass (log 115, DEDUCED). An ERET with a write before it brings back
what TSAVE holds, and all of it stands (log 102, DESIGN CHOICE). A group whose unit only judged, since its other slot trapped,
issues anew where that slot traps no more (R22). -/
def settle (h : Held) (stood : Thread) (before : State) (o : Host.Outcome State Fault Refusal) :
    Option (Host.Outcome State Fault Refusal × TurnEnd) :=
  match o with
  | .next t =>
    let u := { t with iss := .initial }
    match t.iss.status with
    | .running => if h.doomed then some (.next (before.releaseHeld before.cur), .parked)
        else some (.next (if !t.iss.noAdvance && landingFull before.th t.th then before.emptyGroup else t.finishGroup), .issued)
    | .trapped => some (.next u, .trapped)
    | .parked => if stood.group = some h ∧ u.stoodStill stood = true then none
        else some (.next (u.setTh { u.th with group := some h }), .parked)
    | .queued =>
      if u.th.verdict.isSome then some (.next (u.handOver { h with doomed := t.iss.doomed }), if u.th.wait = .judged then .parked else .issued)
      else if u.th.copyHeld.isSome then some (.next (u.setTh { u.th with group := some h }), .parked)
      else some (.next u, .issued)
  | o => some (o, .issued)

/-- An event that takes the place of a group: an annulled group issues, a breakpoint leaves the slot free, and the rest are
trap entries. -/
def eventEnd (i : Instr) : TurnEnd :=
  match i with
  | .annulledGroup => .issued
  | .breakpointMatch _ => .parked
  | _ => .trapped

/-- One turn of the current thread; none where it cannot move (R112). -/
def turn (s : State) : Option (Host.Outcome State Fault Refusal × TurnEnd) :=
  match s.prepare with
  | .idle => none
  | .wait t w => if (t.waitFor w).stoodStill s.th then none else some (.next (t.waitFor w), .parked)
  | .event t i => some (exec i t, eventEnd i)
  | .trap t c v => some (.next { t.takeTrap c v with iss := .initial }, .trapped)
  | .group t h => settle h s.th t (runGroup h t)

/-- R111: a thread used its core's issue slot: first in a clk, or (R10) second. -/
def State.issuedLast (s : State) (core thr : Nat) : State :=
  s.setCore core { s.core core with last := thr % 8, issued := [thr % 8], issuedAt := s.cycle }
def State.issuedToo (s : State) (core thr : Nat) : State :=
  s.setCore core { s.core core with last := thr % 8, issued := (s.core core).issued ++ [thr % 8] }

/-- R10: the second group of a clk on a cox core: of the first of some threads, but for those of a list, that is ready with a
light one. A trap that it takes is its turn. -/
def secondTurn (s : State) (core : Nat) (skip : List Nat) : Nat → Nat → State
  | 0, _ => s
  | n + 1, thr =>
    let t := { s with cur := s.residentThread core thr }
    match if t.nextLight && !skip.contains (thr % 8) then turn t else none with
    | some (.next v, .issued) => v.issuedToo core thr
    | some (.next v, .trapped) => v.issuedToo core thr
    | _ => secondTurn s core skip n (thr + 1)

/-- R10, R111: what the end of a thread's turn leaves to its core: a group or a trap entry used the issue slot, and behind a
group a cox core may issue a second one. -/
def slotUsed (core thr : Nat) (skip : List Nat) (r : Host.Outcome State Fault Refusal × TurnEnd) :
    Host.Outcome State Fault Refusal :=
  match r with
  | (.next t, .parked) => .next t
  | (.next t, .trapped) => .next (t.issuedLast core thr)
  | (.next t, .issued) =>
    let t := t.issuedLast core thr
    .next (if isCox core then secondTurn t core skip 7 (thr + 1) else t)
  | (o, _) => o

/-- R111: the threads of a core, but for those of a list, in round-robin order after the one that issued last; the first that
can move takes the turn. One that parks uses no slot. -/
def coreTurnFrom (s : State) (core : Nat) (skip : List Nat) : Nat → Nat → Option (Host.Outcome State Fault Refusal)
  | 0, _ => none
  | n + 1, thr =>
    match if skip.contains (thr % 8) then none else turn { s with cur := s.residentThread core thr } with
    | some r => some (slotUsed core (thr % 8) skip r)
    | none => coreTurnFrom s core skip n (thr + 1)

/-- R111: the threads that do not issue in this clk: those that issued in the last one (or in this, where CYCLE stands still). -/
def State.barred (s : State) (core : Nat) : List Nat :=
  let c := s.core core
  if s.cycle.toNat < c.issuedAt.toNat + 2 then c.issued else []

/-- R111: no thread is chosen: a clk passes with its slot empty, and in the one after it every thread may be chosen. -/
def State.slotEmpty (s : State) (core : Nat) : State := s.setCore core { s.core core with issued := [] }

/-- R111: the turn of a core: of the first thread, in round-robin order, that can move and may issue in this clk; where only
such may move as issued in the last one, the slot stays empty. -/
def coreTurn (s : State) (core : Nat) : Option (Host.Outcome State Fault Refusal) :=
  let r := coreTurnFrom s core (s.barred core) 8 ((s.core core).last + 1)
  if r.isNone && !(s.barred core).isEmpty then some (.next (s.slotEmpty core)) else r

/-! ## Groups that another unit has judged, and fences (R22, R186, R245) -/

/-- The judgement on a group that has issued stands, or its fence is complete: what follows needs no turn. -/
def State.threadDue (s : State) (t : ThreadId) : Bool :=
  let th := s.thread t
  match th.verdict with
  | some .waiting => false
  | some _ => decide (th.wait ≠ .judged)
  | none => match th.wait with
    | .fence f _ => s.fenceDone f
    | _ => false

/-- The first thread with something due. -/
def State.due (s : State) : Option ThreadId :=
  (s.threads.find? fun p => s.threadDue (threadOfKey p.1)).map fun p => threadOfKey p.1

/-- What is due: a judged group commits or traps at once, whatever its core does (R22, R361), and what follows a fence
happens. One whose unit only judged issues anew where its other slot does not trap any more. -/
def State.complete (s : State) (t : ThreadId) : Host.Outcome State Fault Refusal :=
  let s := { s with cur := t }.refreshQueue
  match s.th.verdict, s.th.group with
  | none, _ => .next s.endFence
  | some _, none => .next (s.releaseHeld t)
  | some _, some h => match runGroup h s with
    | .next u => match u.iss.status with
      | .running => .next (if h.doomed then s.releaseHeld t else u.finishGroup)
      | .trapped => .next { u with iss := .initial }
      | _ => .next (s.releaseHeld t)
    | o => o

/-- The cores with a thread that runs. -/
def State.liveCores (s : State) : List Nat :=
  ((s.threads.filter fun p => decide (p.2.run = .running)).map fun p => p.1 / 16).eraseDups

/-- R371: the boot goes on behind what the steward firmware and the OS do themselves. -/
def State.booting (s : State) : List State := if s.bootStage < 6 then [s.bootNext] else []

/-- Everything that can happen next. -/
def candidates (s : State) : List (Host.Outcome State Fault Refusal) :=
  s.agenda.map (fun i => exec i s) ++ (s.evictions ++ s.publications ++ s.booting).map (fun t => .next t) ++ s.liveCores.filterMap (coreTurn s)

/-- R103: the core contexts once a scratchpad word may have become uncorrectable (log 14, DESIGN CHOICE). -/
def upset (ctxs : SMap CoreCtx) (w : Option (Nat × Bool × Nat)) : SMap CoreCtx :=
  match w with
  | some (core, ctx, n) =>
    let c := SMap.get CoreCtx.initial ctxs (ctxKey core ctx)
    if core < 2144 ∧ n < 0x6000 ∧ c.badWords.contains n = false then
      SMap.set CoreCtx.initial ctxs (ctxKey core ctx) { c with badWords := c.badWords ++ [n] }
    else ctxs
  | none => ctxs

/-- R82: the blocks whose codeword holds an error that nothing has read yet, once one more may (log 87, DESIGN CHOICE). -/
def weaken (l : List (Nat × Bool × Nat)) (w : Option (Nat × Bool × Nat)) : List (Nat × Bool × Nat) :=
  match w with
  | some (b, u, n) => if b < hbmEnd / 64 then (b, u, n) :: l.filter fun x => x.1 != b else l
  | none => l

/-- R390: what a die's sensor shows next: below 100 °C any temperature; one that reached it was reported, and stands until the next
report (log 12, DESIGN CHOICE). -/
def dieShows (old now : BitVec 16) : BitVec 16 := if 400 ≤ old.toInt then old else if 400 ≤ now.toInt then 399 else now

/-- Time passes (log 2, DESIGN CHOICE), the free values of the next step are new ones, and the sensors of R390 show what they measure; a module
without power keeps still. -/
def State.elapse (s : State) : State :=
  if s.powered then
    let s := s.correct (Config.elapsed s.tick)
    { s with
      ctxs := upset s.ctxs (Config.upset s.tick)
      weak := weaken s.weak (Config.flaw s.tick)
      pwr := BitVec.ofNat 16 (Config.modulePower s.tick % 2801)
      tdie0 := dieShows s.tdie0 (Config.dieTemperature s.tick 0)
      tdie1 := dieShows s.tdie1 (Config.dieTemperature s.tick 1)
      tick := s.tick + 1 }
  else { s with tick := s.tick + 1 }

def elapsed (o : Host.Outcome State Fault Refusal) : Host.Outcome State Fault Refusal :=
  match o with
  | .next t => .next t.elapse
  | o => o

/-- The events that another agent than the device begins: the steward, another device, the environment. Without power only
POWER_UP does anything (R388), and a module whose boot failed is stopped (R371): only its power goes. -/
def fromOutside (powered stopped : Bool) (i : Instr) : Bool :=
  match i with
  | .patrolScrub _ _ _ => !stopped
  | .errorEventLog _ _ => !stopped
  | .errorEventExpire _ _ => !stopped
  | .frameRetire _ _ => !stopped
  | .memcfgWrite _ => !stopped
  | .tlbinv _ => !stopped
  | .hrevoke _ => !stopped
  | .regcfgWrite _ _ => !stopped
  | .barageWrite _ => !stopped
  | .partcfgWrite _ _ => !stopped
  | .lportWrite _ _ _ => !stopped
  | .swapGo _ => !stopped
  | .preempt _ => !stopped
  | .doorbell _ _ _ => !stopped
  | .bkctxSave _ _ => !stopped
  | .bkctxRestore _ _ => !stopped
  | .bkctxDiscard _ => !stopped
  | .dbgctlHalt _ => !stopped
  | .dbgctlSoft _ _ => !stopped
  | .dbgctlResume _ => !stopped
  | .dbgvalWrite _ _ => !stopped
  | .mextExtend _ => !stopped
  | .domidWrite _ => !stopped
  | .klstatWrite _ _ => !stopped
  | .flitReceive _ _ _ => !stopped
  | .flagReceive _ _ _ _ _ => !stopped
  | .timeBeat _ => !stopped
  | .tlockLoss => !stopped
  | .thermalHot _ _ => !stopped
  | .thermalTrip => powered
  | .railFail => powered
  | .registerWrite _ _ => !stopped
  | .stewardAccess _ _ _ => !stopped
  | .portDown _ => !stopped
  | .taskRemove _ => !stopped
  | .domainBarrierReport _ _ _ _ => !stopped
  | .domainBarrierComplete _ _ => !stopped
  | .powerUp => true
  | _ => false

/-- What happens where no input is taken: one of the candidates, or nothing but time. -/
def State.proceed (s : State) : Host.Outcome State Fault Refusal :=
  match candidates s with
  | [] => .next s
  | [o] => o
  | o :: l => (o :: l).getD (Config.choice s.tick % (l.length + 1)) o

/-- R371, R388: nothing on the module runs: it has no power, or its boot has failed. -/
def State.stopped (s : State) : Bool := !s.powered || s.bootFailed
/-- R371: the boot ROM or the stage-one firmware runs, and nothing else yet. -/
def State.inRom (s : State) : Bool := !s.stopped && decide (s.bootStage < 3)

/-- An input is taken, or dropped where its agent does not act. -/
def State.input (s : State) (i : Instr) : Host.Outcome State Fault Refusal :=
  if fromOutside s.powered s.stopped i then exec i s else .next s

/-- What needs no turn and lets nothing come before it: what a thread has due, and a release whose moves are complete. -/
def State.atOnce (s : State) : Option (Host.Outcome State Fault Refusal) :=
  match s.due with
  | some t => some (s.complete t)
  | none => s.dueRel.map fun n => exec (.relCount n) s

/-- What a step does before time passes: what is due, the boot of the module, an input that can be taken, or what happens
without one. -/
def State.advance (s : State) : Host.Outcome State Fault Refusal :=
  match (if s.stopped then none else s.atOnce) with
  | some o => o
  | none =>
    if s.inRom then .next s.bootNext
    else match s.takeInput false [] s.inputs with
      | some (i, r) => { s with inputs := r }.input i
      | none => if s.stopped then .next s else s.proceed

/-- The line that the host's word stands in: the word in slot 0, NOPs behind it, slot 0 a legal target. -/
def fetchLine (nbits w : Nat) : List Byte :=
  let body := natToBytes 60 (w % 2 ^ nbits)
  let par := body.foldl (· ^^^ ·) (0 : Byte)
  natToBytes 4 (1 + par.toNat * 2 ^ 16) ++ body

end Sys2Proof.Machine
end

