-- ==== Sys2Proof/Machine/Step.lean ====
section
/-!
DEFINITION. One step of the machine, and the state in which the host's instruction is the next to run.
-/
namespace Sys2Proof.Machine

/-- One step, and the time it takes. -/
def step (s : State) : Host.Outcome State Fault Refusal := elapsed s.advance

/-- The state in which thread 0 of core 0 stands at an instruction (log 3, DESIGN CHOICE): boot is over, the thread runs, its queue holds the first
three slots of a line, and the line is the one it issues from. -/
def State.withFetchWord (s : State) (nbits w : Nat) : State :=
  let t : ThreadId := ⟨0, false, 0⟩
  let th := s.thread t
  { s.setThread t { th with
    run := .running
    wait := .none
    pause := .none
    group := none
    verdict := none
    q0 := ⟨0x400000, false, false, true⟩
    q1 := ⟨0x400001, false, false, false⟩
    q2 := ⟨0x400002, false, false, false⟩
    line := some ⟨0x400000, fetchLine nbits w, false⟩ } with bootStage := 6 }

end Sys2Proof.Machine
end

