-- ==== Sys2Proof/Safety.lean ====
section
/-!
DEFINITION. What counts as a safe run, and the words that the statements about instructions are made of: when a slot issues, what
it reads, what it leaves as it was.
-/
namespace Sys2Proof.Machine

/-- A step that neither faults nor is refused. -/
def State.goesOn (s : State) : Prop := ∃ t, step s = .next t

/-- A run of n steps in which each answers a next state. -/
def State.safeFor (s : State) : Nat → Prop
  | 0 => True
  | n + 1 => ∃ t, step s = .next t ∧ t.safeFor n

/-! ## When a slot issues (R22, R28, R36) -/

/-- The slot executes: its predicate is true, its three sources are present and its destination is free. -/
structure State.Issues {M : Type} (s : State) (o : Fmt M) : Prop where
  on : s.predOn o.pred = true
  a : (s.read o.imm o.a).st = .present
  b : (s.read o.imm o.b).st = .present
  c : (s.read o.imm o.c).st = .present
  free : s.destBusy o.d [o.a, o.b, o.c] = false

/-- What the three source fields read, as words and as 256 bits, and the OR of their B bits. -/
def State.opA {M : Type} (s : State) (o : Fmt M) : Word := (s.read o.imm o.a).word
def State.opB {M : Type} (s : State) (o : Fmt M) : Word := (s.read o.imm o.b).word
def State.opC {M : Type} (s : State) (o : Fmt M) : Word := (s.read o.imm o.c).word
def State.bitA {M : Type} (s : State) (o : Fmt M) : Bool := (s.read o.imm o.a).b
def State.bitB {M : Type} (s : State) (o : Fmt M) : Bool := (s.read o.imm o.b).b
def State.bitC {M : Type} (s : State) (o : Fmt M) : Bool := (s.read o.imm o.c).b

/-- The next state of a slot that pops the queues it names and produces one word of latency l. -/
def State.produced {M : Type} (s : State) (o : Fmt M) (r : Word) (b : Bool) (l : Nat) : State :=
  (s.pops o).land o.d (r.setWidth 256) b l

/-- The next state of a slot that starts an operation on its x register: the operation is the last in flight, and the register
is to become pending when the group commits (R119). -/
def State.started {M : Type} (s : State) (o : Fmt M) (k : OpKind) : State :=
  { s with
    ops := s.ops ++ [⟨s.nextOp, s.cur.core, s.cur.ctx, s.cur.thr, some o.d, false, s.iss.pc, k⟩]
    nextOp := s.nextOp + 1
    iss := { s.iss with post := s.iss.post ++ [.pend o.d] } }

/-! ## What stays as it was -/

/-- Every byte and every tag of HBM reads as before. -/
def SameMemory (s t : State) : Prop := (∀ a, t.dramByte a = s.dramByte a) ∧ ∀ a, t.blockTag a = s.blockTag a

/-- Every scratchpad byte and tag reads as before, in every core and context. -/
def SameScratch (s t : State) : Prop :=
  (∀ core ctx a, (t.coreCtx core ctx).byte a = (s.coreCtx core ctx).byte a)
    ∧ ∀ core ctx a, (t.coreCtx core ctx).tag a = (s.coreCtx core ctx).tag a

/-- Nothing but threads, core contexts and the issue record changed. -/
def SameDevice (s t : State) : Prop := t = { s with threads := t.threads, ctxs := t.ctxs, iss := t.iss }

/-- Every thread but the current one is as before. -/
def SameOthers (s t : State) : Prop := ∀ u : ThreadId, threadKey u ≠ threadKey s.cur → t.thread u = s.thread u

end Sys2Proof.Machine
end

