-- ==== Sys2Proof/Certificates/Slice0/Obligations.lean ====
section
/-!
DEFINITION. The statements for the provers. Each says what a rule of spec/ says; each names in its docstring the rules it
formalises. `Issues` says that a slot executes: its predicate holds, its sources are present, its destination is free.
-/

/-! ## Slots (02 R22, R28, R29, R36) -/

namespace Sys2Proof.Claims
open Sys2Proof.Machine

/-- The operand fields of an encoded instruction of format G (R25). -/
def fieldsOf : Instr → Option (Fmt Unit)
  | .add o => some (o.withMod ())
  | .sub o => some (o.withMod ())
  | .mul o => some (o.withMod ())
  | .mulh o => some (o.withMod ())
  | .mulhu o => some (o.withMod ())
  | .div o => some (o.withMod ())
  | .divu o => some (o.withMod ())
  | .rem o => some (o.withMod ())
  | .remu o => some (o.withMod ())
  | .and o => some (o.withMod ())
  | .or o => some (o.withMod ())
  | .xor o => some (o.withMod ())
  | .shl o => some (o.withMod ())
  | .shr o => some (o.withMod ())
  | .sra o => some (o.withMod ())
  | .min o => some (o.withMod ())
  | .max o => some (o.withMod ())
  | .minu o => some (o.withMod ())
  | .maxu o => some (o.withMod ())
  | .clz o => some (o.withMod ())
  | .ctz o => some (o.withMod ())
  | .popc o => some (o.withMod ())
  | .bfx o => some (o.withMod ())
  | .bfi o => some (o.withMod ())
  | .lea o => some (o.withMod ())
  | .sel o => some (o.withMod ())
  | .cmp o => some (o.withMod ())
  | .pand o => some (o.withMod ())
  | .por o => some (o.withMod ())
  | .pxor o => some (o.withMod ())
  | .pnot o => some (o.withMod ())
  | .pmov o => some (o.withMod ())
  | .pmovTox o => some (o.withMod ())
  | .pmovFromx o => some (o.withMod ())
  | .br o => some (o.withMod ())
  | .brc o => some (o.withMod ())
  | .brca o => some (o.withMod ())
  | .brct o => some (o.withMod ())
  | .jmp o => some (o.withMod ())
  | .call o => some (o.withMod ())
  | .callIndirect o => some (o.withMod ())
  | .eret o => some (o.withMod ())
  | .yield o => some (o.withMod ())
  | .waitt o => some (o.withMod ())
  | .wfi o => some (o.withMod ())
  | .lds o => some (o.withMod ())
  | .sts o => some (o.withMod ())
  | .ldsv o => some (o.withMod ())
  | .stsv o => some (o.withMod ())
  | .vgaths o => some (o.withMod ())
  | .vscats o => some (o.withMod ())
  | .ldt o => some (o.withMod ())
  | .stt o => some (o.withMod ())
  | .samo o => some (o.withMod ())
  | .samon o => some (o.withMod ())
  | .ldg o => some (o.withMod ())
  | .ldgv o => some (o.withMod ())
  | .ldgx o => some (o.withMod ())
  | .stg o => some (o.withMod ())
  | .stgv o => some (o.withMod ())
  | .stgx o => some (o.withMod ())
  | .cmb o => some (o.withMod ())
  | .cmbv o => some (o.withMod ())
  | .cmbx o => some (o.withMod ())
  | .mdrain o => some (o.withMod ())
  | .mdrainRegion o => some (o.withMod ())
  | .mresolve o => some (o.withMod ())
  | .rgset o => some (o.withMod ())
  | .rgget o => some (o.withMod ())
  | .bind o => some (o.withMod ())
  | .acq o => some (o.withMod ())
  | .rel o => some (o.withMod ())
  | .fence o => some (o.withMod ())
  | .bfence o => some (o.withMod ())
  | .bar o => some (o.withMod ())
  | .bara o => some (o.withMod ())
  | .barw o => some (o.withMod ())
  | .barr o => some (o.withMod ())
  | .ftest o => some (o.withMod ())
  | .fcancel o => some (o.withMod ())
  | .fwait o => some (o.withMod ())
  | .fmovc o => some (o.withMod ())
  | .send o => some (o.withMod ())
  | .recv o => some (o.withMod ())
  | .dqpush o => some (o.withMod ())
  | .dqpop o => some (o.withMod ())
  | .dqsplit o => some (o.withMod ())
  | .dqsteal o => some (o.withMod ())
  | .widf o => some (o.withMod ())
  | .lvlrect o => some (o.withMod ())
  | .launch o => some (o.withMod ())
  | .trig o => some (o.withMod ())
  | .end_ o => some (o.withMod ())
  | .trap o => some (o.withMod ())
  | .brk o => some (o.withMod ())
  | .csrr o => some (o.withMod ())
  | .csrw o => some (o.withMod ())
  | .csrx o => some (o.withMod ())
  | .fencei o => some (o.withMod ())
  | .vadd o => some (o.withMod ())
  | .vsub o => some (o.withMod ())
  | .vmul o => some (o.withMod ())
  | .vfma o => some (o.withMod ())
  | .vfms o => some (o.withMod ())
  | .vmin o => some (o.withMod ())
  | .vmax o => some (o.withMod ())
  | .vabs o => some (o.withMod ())
  | .vneg o => some (o.withMod ())
  | .vdiv o => some (o.withMod ())
  | .vsqrt o => some (o.withMod ())
  | .vand o => some (o.withMod ())
  | .vor o => some (o.withMod ())
  | .vxor o => some (o.withMod ())
  | .vshl o => some (o.withMod ())
  | .vshr o => some (o.withMod ())
  | .vsra o => some (o.withMod ())
  | .vcvt o => some (o.withMod ())
  | .vcmp o => some (o.withMod ())
  | .vsel o => some (o.withMod ())
  | .vbcast o => some (o.withMod ())
  | .vext o => some (o.withMod ())
  | .vins o => some (o.withMod ())
  | .vperm o => some (o.withMod ())
  | .vslide o => some (o.withMod ())
  | .viota o => some (o.withMod ())
  | .vsortkv o => some (o.withMod ())
  | .vredadd o => some (o.withMod ())
  | .vredmin o => some (o.withMod ())
  | .vredmax o => some (o.withMod ())
  | .vpopm o => some (o.withMod ())
  | .mand o => some (o.withMod ())
  | .mor o => some (o.withMod ())
  | .mxor o => some (o.withMod ())
  | .mnot o => some (o.withMod ())
  | .mfirst o => some (o.withMod ())
  | .mma o => some (o.withMod ())
  | .mmv o => some (o.withMod ())
  | .acz o => some (o.withMod ())
  | .acld o => some (o.withMod ())
  | .acst o => some (o.withMod ())
  | .mxseed o => some (o.withMod ())
  | .mxstat o => some (o.withMod ())
  | .mxthr o => some (o.withMod ())
  | .topkc o => some (o.withMod ())
  | .xbmv o => some (o.withMod ())
  | .xbprog o => some (o.withMod ())
  | .xbver o => some (o.withMod ())
  | .xbcal o => some (o.withMod ())
  | .xbrd o => some (o.withMod ())
  | .xbwr o => some (o.withMod ())
  | .acpt o => some (o.withMod ())
  | .btest o => some (o.withMod ())
  | .namo o => some (o.withMod ())
  | .namov o => some (o.withMod ())
  | .namor o => some (o.withMod ())
  | .bkmodeOn o => some (o.withMod ())
  | .bkmodeOff o => some (o.withMod ())
  | .bkldr o => some (o.withMod ())
  | .bkmac o => some (o.withMod ())
  | .bkrd o => some (o.withMod ())
  | .cpyIn o => some (o.withMod ())
  | .cpyOut o => some (o.withMod ())
  | .cpy2In o => some (o.withMod ())
  | .cpy2Out o => some (o.withMod ())
  | .cpyg o => some (o.withMod ())
  | .cpys o => some (o.withMod ())
  | .cpyr o => some (o.withMod ())
  | .gqw o => some (o.withMod ())
  | .gqr o => some (o.withMod ())
  | .oupd o => some (o.withMod ())
  | _ => none

/-- The conditional branches, which a false predicate makes not taken (R141). -/
def isCondBranch : Instr → Bool
  | .brc _ => true
  | .brca _ => true
  | .brct _ => true
  | _ => false

/-- The instructions whose first act is to read their three sources and their destination: the scalar, predicate, scratchpad,
vector and mask families. -/
def readsFirst : Instr → Bool
  | .add _ => true
  | .sub _ => true
  | .mul _ => true
  | .mulh _ => true
  | .mulhu _ => true
  | .div _ => true
  | .divu _ => true
  | .rem _ => true
  | .remu _ => true
  | .and _ => true
  | .or _ => true
  | .xor _ => true
  | .shl _ => true
  | .shr _ => true
  | .sra _ => true
  | .min _ => true
  | .max _ => true
  | .minu _ => true
  | .maxu _ => true
  | .clz _ => true
  | .ctz _ => true
  | .popc _ => true
  | .bfx _ => true
  | .bfi _ => true
  | .lea _ => true
  | .sel _ => true
  | .cmp _ => true
  | .pand _ => true
  | .por _ => true
  | .pxor _ => true
  | .pnot _ => true
  | .pmov _ => true
  | .pmovTox _ => true
  | .pmovFromx _ => true
  | .lds _ => true
  | .sts _ => true
  | .ldsv _ => true
  | .stsv _ => true
  | .vgaths _ => true
  | .vscats _ => true
  | .ldt _ => true
  | .stt _ => true
  | .samo _ => true
  | .samon _ => true
  | .vadd _ => true
  | .vsub _ => true
  | .vmul _ => true
  | .vfma _ => true
  | .vfms _ => true
  | .vmin _ => true
  | .vmax _ => true
  | .vabs _ => true
  | .vneg _ => true
  | .vdiv _ => true
  | .vsqrt _ => true
  | .vand _ => true
  | .vor _ => true
  | .vxor _ => true
  | .vshl _ => true
  | .vshr _ => true
  | .vsra _ => true
  | .vcvt _ => true
  | .vcmp _ => true
  | .vsel _ => true
  | .vbcast _ => true
  | .vext _ => true
  | .vins _ => true
  | .vperm _ => true
  | .vslide _ => true
  | .viota _ => true
  | .vredadd _ => true
  | .vredmin _ => true
  | .vredmax _ => true
  | .vpopm _ => true
  | .mand _ => true
  | .mor _ => true
  | .mxor _ => true
  | .mnot _ => true
  | .mfirst _ => true
  | _ => false

end Sys2Proof.Claims

open Sys2Proof Sys2Proof.Machine Sys2Proof.Claims in
/-- R29: a predicated-off instruction of any family changes nothing, whatever its sources hold; the conditional branches, whose
predicate makes them not taken, stand apart. That a CSRR, CSRW or CSRX of a number that faults is among them is the model's reading (log 18,
DEDUCED). -/
def Sys2Proof.Claims.PredicatedOffChangesNothing : Prop := ∀ (i : Instr) (o : Fmt Unit) (s : State),
  fieldsOf i = some o → isCondBranch i = false → s.predOn o.pred = false → exec i s = .next s

open Sys2Proof Sys2Proof.Machine Sys2Proof.Claims in
/-- R22, R112, R125: a group with a pending source, a pending destination or a full queue as its destination parks: only the
thread's wait changes. -/
def Sys2Proof.Claims.PendingOperandParks : Prop := ∀ (i : Instr) (o : Fmt Unit) (s : State),
  fieldsOf i = some o → readsFirst i = true → s.predOn o.pred = true →
  ((s.read o.imm o.a).st = .pending ∨ (s.read o.imm o.b).st = .pending ∨ (s.read o.imm o.c).st = .pending
    ∨ s.destBusy o.d [o.a, o.b, o.c] = true) →
  ∃ t, exec i s = .next t ∧ t.iss.status = .parked ∧ t.th = { s.th with wait := .none }
    ∧ t = { s with threads := t.threads, iss := t.iss } ∧ SameOthers s t

open Sys2Proof Sys2Proof.Machine Sys2Proof.Claims in
/-- R115: where nothing is pending, the first faulted source in field order makes the instruction trap with the cause and TVAL
that the register recorded. Where another source is bounded and would bring cause 26 (CMP, PMOV.fromx, VCMP, VEXT, VINS, VPERM), that the
recorded fault comes first is the model's reading (log 104, DEDUCED). -/
def Sys2Proof.Claims.FaultedSourceTraps : Prop := ∀ (i : Instr) (o : Fmt Unit) (s : State) (cause : Nat) (tval : Word),
  fieldsOf i = some o → readsFirst i = true → s.predOn o.pred = true →
  (s.read o.imm o.a).st ≠ .pending → (s.read o.imm o.b).st ≠ .pending → (s.read o.imm o.c).st ≠ .pending →
  s.destBusy o.d [o.a, o.b, o.c] = false →
  ((s.read o.imm o.a).st = .faulted cause tval
    ∨ (s.read o.imm o.a).st = .present ∧ (s.read o.imm o.b).st = .faulted cause tval
    ∨ (s.read o.imm o.a).st = .present ∧ (s.read o.imm o.b).st = .present ∧ (s.read o.imm o.c).st = .faulted cause tval) →
  exec i s = .next (s.takeTrap cause tval)

open Sys2Proof Sys2Proof.Machine Sys2Proof.Claims in
/-- R22, R28, R29, R112, R115, R125: a group instruction that is predicated off changes nothing, one with an operand that is not there parks, and one
with a faulted source traps with the cause that the register recorded. That a recorded fault comes before cause 26 of another source, and that a
predicated-off CSRR, CSRW or CSRX of a number that faults changes nothing, is the model's reading. Clauses of it rest on the model's own reading or choice, log 18 and 104. -/
def Obligations.SlotReadiness : Prop := PredicatedOffChangesNothing ∧ PendingOperandParks ∧ FaultedSourceTraps

namespace Sys2Proof.Claims
open Sys2Proof.Machine

/-! ## Scalars (09) -/

/-- An operation of the 32-bit and of the 64-bit form (R133): the 32-bit one reads the low halves and extends its sign. -/
def byWidth (h : Bool) (f : BitVec 32 → BitVec 32 → BitVec 32) (g : Word → Word → Word) (a b : Word) : Word :=
  if h then (f (a.setWidth 32) (b.setWidth 32)).signExtend 64 else g a b

/-- R134: Sat and Ex around an exact operation: signed under SATS, unsigned under SATU. -/
def saturated (h signed : Bool) (f : Int → Int → Int) (a b : Word) : Word :=
  if h then
    let x := (a.setWidth 32).toInt
    let y := (b.setWidth 32).toInt
    (if signed then BitVec.ofInt 32 (max (-2147483648) (min 2147483647 (f x y)))
      else BitVec.ofInt 32 (max 0 (min 4294967295 (f (a.toNat % 4294967296) (b.toNat % 4294967296))))).signExtend 64
  else if signed then BitVec.ofInt 64 (max (-9223372036854775808) (min 9223372036854775807 (f a.toInt b.toInt)))
  else BitVec.ofInt 64 (max 0 (min 18446744073709551615 (f a.toNat b.toNat)))

/-- ADD, SUB and MUL by their modifier (R134). -/
def withOverflow (m : IntMod) (f : Int → Int → Int) (f32 : BitVec 32 → BitVec 32 → BitVec 32) (f64 : Word → Word → Word)
    (a b : Word) : Word :=
  match m.ov with
  | .wrap => byWidth m.h f32 f64 a b
  | .sats => saturated m.h true f a b
  | .satu => saturated m.h false f a b

/-- The high half of a product of two n-bit numbers, with or without sign (R134). -/
def highSigned {n : Nat} (a b : BitVec n) : BitVec n :=
  ((a.signExtend (2 * n) * b.signExtend (2 * n)) >>> n).setWidth n
def highUnsigned {n : Nat} (a b : BitVec n) : BitVec n :=
  ((a.setWidth (2 * n) * b.setWidth (2 * n)) >>> n).setWidth n

end Sys2Proof.Claims

open Sys2Proof Sys2Proof.Machine Sys2Proof.Claims in
/-- R133, R134, R116: ADD, SUB and MUL: the wrapped or saturated result, latencies 1, 1 and 3, B the OR of the sources' (R132). -/
def Sys2Proof.Claims.AddSubMulResult : Prop := ∀ (s : State) (o : Fmt IntMod), s.Issues o →
  exec (.add o) s = .next (s.produced o (withOverflow o.mod (· + ·) (· + ·) (· + ·) (s.opA o) (s.opB o)) (s.bitA o || s.bitB o) 1)
  ∧ exec (.sub o) s = .next (s.produced o (withOverflow o.mod (· - ·) (· - ·) (· - ·) (s.opA o) (s.opB o)) (s.bitA o || s.bitB o) 1)
  ∧ exec (.mul o) s = .next (s.produced o (withOverflow o.mod (· * ·) (· * ·) (· * ·) (s.opA o) (s.opB o)) (s.bitA o || s.bitB o) 3)

open Sys2Proof Sys2Proof.Machine Sys2Proof.Claims in
/-- R134: MULH and MULHU, latency 3; DIV, DIVU, REM and REMU, latency 12, with their results for a zero divisor and for
the quotient that overflows. -/
def Sys2Proof.Claims.MulhDivRemResult : Prop := ∀ (s : State) (o : Fmt IntMod), s.Issues o →
  exec (.mulh o) s = .next (s.produced o (byWidth o.mod.h highSigned highSigned (s.opA o) (s.opB o)) (s.bitA o || s.bitB o) 3)
  ∧ exec (.mulhu o) s = .next (s.produced o (byWidth o.mod.h highUnsigned highUnsigned (s.opA o) (s.opB o)) (s.bitA o || s.bitB o) 3)
  ∧ exec (.div o) s = .next (s.produced o (byWidth o.mod.h (fun a b => if b = 0 then BitVec.allOnes 32 else a.sdiv b)
      (fun a b => if b = 0 then BitVec.allOnes 64 else a.sdiv b) (s.opA o) (s.opB o)) (s.bitA o || s.bitB o) 12)
  ∧ exec (.divu o) s = .next (s.produced o (byWidth o.mod.h (fun a b => if b = 0 then BitVec.allOnes 32 else a / b)
      (fun a b => if b = 0 then BitVec.allOnes 64 else a / b) (s.opA o) (s.opB o)) (s.bitA o || s.bitB o) 12)
  ∧ exec (.rem o) s = .next (s.produced o (byWidth o.mod.h (fun a b => if b = 0 then a else a.srem b)
      (fun a b => if b = 0 then a else a.srem b) (s.opA o) (s.opB o)) (s.bitA o || s.bitB o) 12)
  ∧ exec (.remu o) s = .next (s.produced o (byWidth o.mod.h (fun a b => if b = 0 then a else a % b)
      (fun a b => if b = 0 then a else a % b) (s.opA o) (s.opB o)) (s.bitA o || s.bitB o) 12)

open Sys2Proof Sys2Proof.Machine Sys2Proof.Claims in
/-- R134: the logical operations, the shifts by the low 6 or 5 bits of b, and the minima and maxima, latency 1. -/
def Sys2Proof.Claims.LogicShiftMinMaxResult : Prop := ∀ (s : State) (o : Fmt IntMod), s.Issues o →
  exec (.and o) s = .next (s.produced o (byWidth o.mod.h (· &&& ·) (· &&& ·) (s.opA o) (s.opB o)) (s.bitA o || s.bitB o) 1)
  ∧ exec (.or o) s = .next (s.produced o (byWidth o.mod.h (· ||| ·) (· ||| ·) (s.opA o) (s.opB o)) (s.bitA o || s.bitB o) 1)
  ∧ exec (.xor o) s = .next (s.produced o (byWidth o.mod.h (· ^^^ ·) (· ^^^ ·) (s.opA o) (s.opB o)) (s.bitA o || s.bitB o) 1)
  ∧ exec (.shl o) s = .next (s.produced o (byWidth o.mod.h (fun a b => a <<< (b.toNat % 32)) (fun a b => a <<< (b.toNat % 64))
      (s.opA o) (s.opB o)) (s.bitA o || s.bitB o) 1)
  ∧ exec (.shr o) s = .next (s.produced o (byWidth o.mod.h (fun a b => a >>> (b.toNat % 32)) (fun a b => a >>> (b.toNat % 64))
      (s.opA o) (s.opB o)) (s.bitA o || s.bitB o) 1)
  ∧ exec (.sra o) s = .next (s.produced o (byWidth o.mod.h (fun a b => a.sshiftRight (b.toNat % 32))
      (fun a b => a.sshiftRight (b.toNat % 64)) (s.opA o) (s.opB o)) (s.bitA o || s.bitB o) 1)
  ∧ exec (.min o) s = .next (s.produced o (byWidth o.mod.h (fun a b => if a.slt b then a else b)
      (fun a b => if a.slt b then a else b) (s.opA o) (s.opB o)) (s.bitA o || s.bitB o) 1)
  ∧ exec (.max o) s = .next (s.produced o (byWidth o.mod.h (fun a b => if a.slt b then b else a)
      (fun a b => if a.slt b then b else a) (s.opA o) (s.opB o)) (s.bitA o || s.bitB o) 1)
  ∧ exec (.minu o) s = .next (s.produced o (byWidth o.mod.h (fun a b => if a.ult b then a else b)
      (fun a b => if a.ult b then a else b) (s.opA o) (s.opB o)) (s.bitA o || s.bitB o) 1)
  ∧ exec (.maxu o) s = .next (s.produced o (byWidth o.mod.h (fun a b => if a.ult b then b else a)
      (fun a b => if a.ult b then b else a) (s.opA o) (s.opB o)) (s.bitA o || s.bitB o) 1)

open Sys2Proof Sys2Proof.Machine Sys2Proof.Claims in
/-- R131-R134: the integer and logical operations complete with the result, the B bit and the latency that the tables give them. -/
def Obligations.IntegerResults : Prop := AddSubMulResult ∧ MulhDivRemResult ∧ LogicShiftMinMaxResult

namespace Sys2Proof.Claims
open Sys2Proof.Machine

/-- R136: pos and the effective length of a bit-field control. -/
def posOf (c : Word) : Nat := (c.setWidth 6).toNat
def lenOf (c : Word) : Nat := min ((c >>> 8).setWidth 7).toNat (64 - posOf c)
/-- The 64-bit mask of a field. -/
def fieldMask (c : Word) : Word := (BitVec.allOnes 64 >>> (64 - lenOf c)) <<< posOf c
/-- The field of a, at the bottom: shifted to the top, then down with zeros or with its sign. -/
def extracted (sx : Bool) (a c : Word) : Word :=
  if lenOf c = 0 then 0
  else
    let top := a <<< (64 - posOf c - lenOf c)
    if sx then top.sshiftRight (64 - lenOf c) else top >>> (64 - lenOf c)
/-- A count of the bits of a, or of its low half. -/
def counted (h : Bool) (f : BitVec 32 → BitVec 32) (g : Word → Word) (a : Word) : Word :=
  if h then (f (a.setWidth 32)).setWidth 64 else g a

end Sys2Proof.Claims

open Sys2Proof Sys2Proof.Machine Sys2Proof.Claims in
/-- R136: the counts, the bit fields and LEA; each takes B from every source (R132). -/
def Sys2Proof.Claims.BitFamilyResult : Prop := ∀ (s : State) (h : Fmt Bool) (u : Fmt Unit) (l : Fmt LeaMod),
  (s.Issues h →
    exec (.clz h) s = .next (s.produced h (counted h.mod BitVec.clz BitVec.clz (s.opA h)) (s.bitA h || s.bitB h || s.bitC h) 1)
    ∧ exec (.ctz h) s = .next (s.produced h (counted h.mod BitVec.ctz BitVec.ctz (s.opA h)) (s.bitA h || s.bitB h || s.bitC h) 1)
    ∧ exec (.popc h) s = .next (s.produced h (counted h.mod BitVec.cpop BitVec.cpop (s.opA h)) (s.bitA h || s.bitB h || s.bitC h) 1)
    ∧ exec (.bfx h) s = .next (s.produced h (extracted h.mod (s.opA h) (s.opB h)) (s.bitA h || s.bitB h || s.bitC h) 1))
  ∧ (s.Issues u →
    exec (.bfi u) s = .next (s.produced u ((s.opA u &&& ~~~ fieldMask (s.opC u)) ||| ((s.opB u <<< posOf (s.opC u)) &&& fieldMask (s.opC u)))
      (s.bitA u || s.bitB u || s.bitC u) 1))
  ∧ (s.Issues l →
    exec (.lea l) s = .next (s.produced l (s.opA l
        + (if l.mod.x32 then ((s.opB l).setWidth 32).signExtend 64 else s.opB l) * (1 <<< l.mod.s.val)
        + l.imm.signExtend 64) (s.bitA l || s.bitB l || s.bitC l) 1))

open Sys2Proof Sys2Proof.Machine in
/-- R136, R132: SEL takes the value and the B bit of the source that its predicate chooses, and only of that one. -/
def Sys2Proof.Claims.SelTakesTheChosenSource : Prop := ∀ (s : State) (o : Fmt Unit) (n : Fin 8), s.Issues o → o.a = .p n →
  exec (.sel o) s = .next (if s.th.readP n then s.produced o (s.opB o) (s.bitB o) 1 else s.produced o (s.opC o) (s.bitC o) 1)

open Sys2Proof Sys2Proof.Machine Sys2Proof.Claims in
/-- R132, R136: the bit-field instructions, LEA and SEL complete with the results that the spec gives them. -/
def Obligations.BitFieldAndSelectResults : Prop := BitFamilyResult ∧ SelTakesTheChosenSource

open Sys2Proof Sys2Proof.Machine in
/-- R33, R137: NOP changes nothing. MOVI writes its immediate with B 0 after one group (x0 discards it, R26), parks while its register is pending, and
writes nothing where it is predicated off. -/
def Sys2Proof.Claims.NopAndMovi : Prop := ∀ (s : State) (p : Pred) (d : Fin 32) (imm : BitVec 64),
  exec .nop s = .next s
  ∧ (s.predOn p = true → (s.th.readX d).st ≠ .pending →
    exec (.movi p d imm) s = .next (if d = 0 then s
      else s.setTh { s.th with landing := s.th.landing ++ [⟨.x d, imm.setWidth 256, false, 2⟩] }))
  ∧ (s.predOn p = true → (s.th.readX d).st = .pending → exec (.movi p d imm) s = .next (s.park .none))
  ∧ (s.predOn p = false → exec (.movi p d imm) s = .next s)

namespace Sys2Proof.Claims
open Sys2Proof.Machine

/-- R31, R139: a condition on two words of one width. -/
def holds {n : Nat} (c : Cond) (a b : BitVec n) : Bool :=
  match c with
  | .eq => a == b
  | .ne => a != b
  | .lt => a.slt b
  | .ge => b.sle a
  | .ltu => a.ult b
  | .geu => b.ule a
def holdsBy (m : CondMod) (a b : Word) : Bool :=
  if m.h then holds m.cond (a.setWidth 32) (b.setWidth 32) else holds m.cond a b

/-- The truth of a predicate source: a predicate, or an immediate that is not zero (R27). -/
def truth (s : State) (imm : BitVec 32) : Reg → Bool
  | .p n => s.th.readP n
  | .imm => imm != 0
  | _ => false

/-- A predicate that lands after one group. -/
def decided (s : State) {M : Type} (o : Fmt M) (r : Bool) : State := (s.pops o).land o.d (if r then 1 else 0) false 1

/-- The predicates that PMOV.fromx writes: p1 to p7 from bits 1 to 7, in rising order. -/
def seven (a : Word) : List Landing :=
  [1, 2, 3, 4, 5, 6, 7].map fun i : Fin 8 => ⟨.p i, if a.getLsbD i.val then 1 else 0, false, 2⟩

end Sys2Proof.Claims

open Sys2Proof Sys2Proof.Machine Sys2Proof.Claims in
/-- R138, R139: CMP of two words that are not bounded, and the operations on predicates and on immediates as predicates. -/
def Sys2Proof.Claims.PredicateFamilyResult : Prop := ∀ (s : State) (k : Fmt CondMod) (o : Fmt Unit),
  (s.Issues k → s.bitA k = false → s.bitB k = false →
    exec (.cmp k) s = .next (decided s k (holdsBy k.mod (s.opA k) (s.opB k))))
  ∧ (s.Issues o → isPImm o.a = true → isPImm o.b = true →
    exec (.pand o) s = .next (decided s o (truth s o.imm o.a && truth s o.imm o.b))
    ∧ exec (.por o) s = .next (decided s o (truth s o.imm o.a || truth s o.imm o.b))
    ∧ exec (.pxor o) s = .next (decided s o (truth s o.imm o.a ^^ truth s o.imm o.b)))
  ∧ (s.Issues o → isPImm o.a = true → isZero o.b = true → isZero o.c = true →
    exec (.pnot o) s = .next (decided s o (!truth s o.imm o.a))
    ∧ exec (.pmov o) s = .next (decided s o (truth s o.imm o.a)))
  ∧ (s.Issues o → isZero o.a = true → isZero o.b = true → isZero o.c = true →
    ∃ v : VWord, exec (.pmovTox o) s = .next (s.land o.d v false 1)
      ∧ (∀ i : Fin 8, v.getLsbD i.val = s.th.readP i) ∧ v.toNat < 256)
  ∧ (s.Issues o → s.bitA o = false →
    exec (.pmovFromx o) s = .next ((s.pops o).setTh { (s.pops o).th with landing := s.th.landing ++ seven (s.opA o) }))

open Sys2Proof Sys2Proof.Machine in
/-- R132: CMP and PMOV.fromx, which turn a value into a predicate, fault with cause 26 and the PC where one that they read is
bounded; so do the branches that compare or jump by a register (R143, R144). A CALL parks first where x31 is pending (R112). -/
def Sys2Proof.Claims.BoundedConditionFaults : Prop := ∀ (s : State) (k : Fmt CondMod) (o : Fmt Unit),
  (s.Issues k → (s.bitA k = true ∨ s.bitB k = true) →
    exec (.cmp k) s = .next (s.takeTrap 26 s.iss.pc)
    ∧ exec (.brc k) s = .next (s.takeTrap 26 s.iss.pc)
    ∧ exec (.brca k) s = .next (s.takeTrap 26 s.iss.pc)
    ∧ exec (.brct k) s = .next (s.takeTrap 26 s.iss.pc))
  ∧ (s.Issues o → s.bitA o = true →
    exec (.pmovFromx o) s = .next (s.takeTrap 26 s.iss.pc)
    ∧ exec (.jmp o) s = .next (s.takeTrap 26 s.iss.pc)
    ∧ ((s.th.readX 31).st ≠ .pending → exec (.callIndirect o) s = .next (s.takeTrap 26 s.iss.pc)))
  ∧ (s.predOn o.pred = true → (s.th.readX 31).st = .pending → exec (.callIndirect o) s = .next (s.park .none))

open Sys2Proof Sys2Proof.Machine Sys2Proof.Claims in
/-- R33, R132, R137-R139: CMP, PMOV and the predicate operations, NOP and MOVI complete with the results that the spec gives them; a
condition on a bounded value faults. -/
def Obligations.PredicatesNopAndMovi : Prop := PredicateFamilyResult ∧ NopAndMovi ∧ BoundedConditionFaults

/-! ## Registers, landing and traps (08, 10) -/

namespace Sys2Proof.Claims
open Sys2Proof.Machine

/-- The last of the thread's writes that are due, if one names the register. -/
def lastDue (l : List Landing) (r : Reg) : Option Landing :=
  (l.filter fun e => decide (e.rem ≤ 1)).reverse.find? fun e => decide (e.dest = r)

/-- The instructions whose results are registers: every register that they may write. -/
def registersOf : Instr → Option (List Reg)
  | .nop => some []
  | .add o => some [o.d]
  | .sub o => some [o.d]
  | .mul o => some [o.d]
  | .mulh o => some [o.d]
  | .mulhu o => some [o.d]
  | .div o => some [o.d]
  | .divu o => some [o.d]
  | .rem o => some [o.d]
  | .remu o => some [o.d]
  | .and o => some [o.d]
  | .or o => some [o.d]
  | .xor o => some [o.d]
  | .shl o => some [o.d]
  | .shr o => some [o.d]
  | .sra o => some [o.d]
  | .min o => some [o.d]
  | .max o => some [o.d]
  | .minu o => some [o.d]
  | .maxu o => some [o.d]
  | .clz o => some [o.d]
  | .ctz o => some [o.d]
  | .popc o => some [o.d]
  | .bfx o => some [o.d]
  | .bfi o => some [o.d]
  | .lea o => some [o.d]
  | .sel o => some [o.d]
  | .movi _ d _ => some [.x d]
  | .cmp o => some [o.d]
  | .pand o => some [o.d]
  | .por o => some [o.d]
  | .pxor o => some [o.d]
  | .pnot o => some [o.d]
  | .pmov o => some [o.d]
  | .pmovTox o => some [o.d]
  | .pmovFromx _ => some [.p 1, .p 2, .p 3, .p 4, .p 5, .p 6, .p 7]
  | .vadd o => some [o.d]
  | .vsub o => some [o.d]
  | .vmul o => some [o.d]
  | .vfma o => some [o.d]
  | .vfms o => some [o.d]
  | .vmin o => some [o.d]
  | .vmax o => some [o.d]
  | .vabs o => some [o.d]
  | .vneg o => some [o.d]
  | .vdiv o => some [o.d]
  | .vsqrt o => some [o.d]
  | .vand o => some [o.d]
  | .vor o => some [o.d]
  | .vxor o => some [o.d]
  | .vshl o => some [o.d]
  | .vshr o => some [o.d]
  | .vsra o => some [o.d]
  | .vcvt o => some [o.d]
  | .vcmp o => some [o.d]
  | .vsel o => some [o.d]
  | .vbcast o => some [o.d]
  | .vext o => some [o.d]
  | .vins o => some [o.d]
  | .vperm o => some [o.d]
  | .vslide o => some [o.d]
  | .viota o => some [o.d]
  | .vredadd o => some [o.d]
  | .vredmin o => some [o.d]
  | .vredmax o => some [o.d]
  | .vpopm o => some [o.d]
  | .mand o => some [o.d]
  | .mor o => some [o.d]
  | .mxor o => some [o.d]
  | .mnot o => some [o.d]
  | .mfirst o => some [o.d]
  | .acpt o => some [o.d]
  | .btest o => some [o.d]
  | .vsortkv o => some [o.d, nextV o.d]
  | _ => none

/-- The instructions that raise the events of FPFLAGS (R159). -/
def raises : Instr → Bool
  | .vadd _ => true
  | .vsub _ => true
  | .vmul _ => true
  | .vfma _ => true
  | .vfms _ => true
  | .vmin _ => true
  | .vmax _ => true
  | .vabs _ => true
  | .vneg _ => true
  | .vdiv _ => true
  | .vsqrt _ => true
  | .vcvt _ => true
  | .vcmp _ => true
  | .vredadd _ => true
  | .vredmin _ => true
  | .vredmax _ => true
  | _ => false

/-- The queues that may have gained or lost an entry; everything else of every core context is as before. -/
def OnlyQueues (s t : State) : Prop :=
  ∀ core ctx, t.coreCtx core ctx = { s.coreCtx core ctx with q := (t.coreCtx core ctx).q }

/-- The current thread is as before but for writes that wait to land, each to one of the given registers, for FPFLAGS where
the instruction raises events, and for the count of ACPT (R220). -/
def OnlyLandings (s t : State) (i : Instr) (ds : List Reg) : Prop :=
  (∃ new, t.th = { s.th with landing := s.th.landing ++ new, fpflags := t.th.fpflags, accepts := t.th.accepts }
    ∧ ∀ e ∈ new, e.dest ∈ ds)
  ∧ (raises i = false → t.th.fpflags = s.th.fpflags)
  ∧ ((∀ o, i ≠ .acpt o) → t.th.accepts = s.th.accepts)

end Sys2Proof.Claims

open Sys2Proof Sys2Proof.Machine Sys2Proof.Claims in
/-- R113, R131, R138, R157, R219: the frame of the scalar, predicate, vector and mask families: an instruction that issues changes no
register, special register, byte of memory or device; it leaves writes to its own destinations to land, pushes and pops queues, and
only the instructions that raise events touch FPFLAGS, only ACPT the count of accepts. -/
def Obligations.RegisterFrame : Prop := ∀ (i : Instr) (ds : List Reg) (s t : State),
  registersOf i = some ds → s.iss.status = .running → exec i s = .next t → t.iss.status = .running →
  OnlyLandings s t i ds ∧ OnlyQueues s t ∧ SameOthers s t ∧ SameMemory s t ∧ SameScratch s t ∧ SameDevice s t ∧ t.iss = s.iss

open Sys2Proof Sys2Proof.Machine Sys2Proof.Claims in
/-- R116, R118: what is due lands: each register holds the last write that names it, present, with its B bit; a register
that is pending, and one that no due write names, keeps what it held; x0, m0 and p0 never change; what is not due waits on. -/
def Sys2Proof.Claims.LandingWritesRegisters : Prop := ∀ s : State, ∃ t, exec .landing s = .next t
  ∧ t.th.landing = s.th.landing.filter (fun e => decide (1 < e.rem))
  ∧ (∀ n : Fin 32, t.th.readX n = if n = 0 ∨ (s.th.readX n).st = .pending then s.th.readX n
      else match lastDue s.th.landing (.x n) with
        | some e => ⟨e.value.setWidth 64, e.b, .present⟩
        | none => s.th.readX n)
  ∧ (∀ n : Fin 32, t.th.readV n = if (s.th.readV n).st = .pending then s.th.readV n
      else match lastDue s.th.landing (.v n) with
        | some e => ⟨e.value, e.b, .present⟩
        | none => s.th.readV n)
  ∧ (∀ n : Fin 8, t.th.readM n = if n = 0 then BitVec.allOnes 32
      else match lastDue s.th.landing (.m n) with
        | some e => e.value.setWidth 32
        | none => s.th.readM n)
  ∧ (∀ n : Fin 8, t.th.readP n = if n = 0 then true
      else match lastDue s.th.landing (.p n) with
        | some e => e.value.getLsbD 0
        | none => s.th.readP n)
  ∧ (∀ n : Fin 8, (t.cc).readC n = s.cc.readC n)
  ∧ SameOthers s t ∧ SameMemory s t ∧ SameScratch s t ∧ SameDevice s t

open Sys2Proof Sys2Proof.Machine in
/-- R116: a result of latency L is not seen by the thread's groups before the L-th after its producer, and that one sees it: a
register that waits for nothing else keeps its value while fewer than L groups have passed, and then holds the result. -/
def Sys2Proof.Claims.LatencyCountsGroups : Prop := ∀ (s : State) (n : Fin 32) (v : Word) (b : Bool) (l k : Nat),
  n ≠ 0 → 1 ≤ l → s.th.landing = [] → (s.th.readX n).st ≠ .pending →
  let after := fun k => (fun t => ageLanding t t.cur)^[k] (s.land (.x n) (v.setWidth 256) b l)
  (k < l → (after k).th.readX n = s.th.readX n) ∧ (after l).th.readX n = ⟨v, b, .present⟩ ∧ (after l).th.landing = []

open Sys2Proof Sys2Proof.Machine in
/-- R124: a write to a c register that lands is read by its own thread at once, and by the core's other threads only once it has been
published; publishing makes every thread read it. -/
def Sys2Proof.Claims.SharedRegisterWriteIsSeenByItsThreadFirst : Prop :=
  ∀ (s : State) (n : Fin 8) (v : Word) (b : Bool) (l : Landing),
  l.dest = .c n → l.value = v.setWidth 256 → l.b = b → (s.cc.readC n).st ≠ .pending →
  let t := landOne s.cur s l
  t.cc.readCOf s.cur.thr n = ⟨v, b, .present⟩
  ∧ (∀ u, u ≠ s.cur.thr → t.cc.readCOf u n = s.cc.readCOf u n)
  ∧ (s.cc.cnew = [] → ∀ u, (t.cc.publishC s.cur.thr).readCOf u n = ⟨v, b, .present⟩)

open Sys2Proof Sys2Proof.Machine Sys2Proof.Claims in
/-- R116, R118, R124: what is due lands, a result of latency L is seen by the L-th group after its producer and by none before, and a write to a c
register is seen by its own thread first. Clauses of it rest on the model's own reading or choice, log 77, 83 and 117. -/
def Obligations.LandingAndLatency : Prop := LandingWritesRegisters ∧ LatencyCountsGroups ∧ SharedRegisterWriteIsSeenByItsThreadFirst

open Sys2Proof Sys2Proof.Machine in
/-- R152: a synchronous trap in task mode saves the fetch queue in TEPC0-TEPC2 and the number of writes in flight in LBN, empties
the landing buffer, enters handler mode with interrupts off, records cause and TVAL, and goes on at TVEC; the registers, predicates
and masks of the thread, its pending operations and HBM stay as they were. A group that another unit had not judged yet is given up
with what it had asked for (R22, R234). -/
def Obligations.TrapEntrySavesAndEnters : Prop := ∀ (s : State) (cause : Nat) (tval : Word), s.th.hm = false → cause < 64 →
  let t := s.trapThread s.cur cause tval
  let u := t.th
  u.hm = true ∧ u.phm = false ∧ u.pie = s.th.ie ∧ u.ie = false
  ∧ u.tcause = BitVec.ofNat 64 cause ∧ u.tval = tval
  ∧ u.tepc0 = (s.th.q0.pc &&& ~~~ 63) + (if s.th.q0.an then 8 else 0) + (s.th.q0.pc &&& 7)
  ∧ u.tepc1 = (s.th.q1.pc &&& ~~~ 63) + (if s.th.q1.sq then 16 else 0) + (if s.th.q1.an then 8 else 0) + (s.th.q1.pc &&& 7)
  ∧ u.tepc2 = (s.th.q2.pc &&& ~~~ 63) + (if s.th.q2.sq then 16 else 0) + (if s.th.q2.an then 8 else 0) + (s.th.q2.pc &&& 7)
  ∧ u.lbn = BitVec.ofNat 3 s.th.landing.length ∧ u.landing = []
  ∧ u.q0.pc = s.th.tvec ∧ u.q0.an = false ∧ u.q0.tgt = true ∧ u.q1.an = false ∧ u.q2.an = false
  ∧ u.x = s.th.x ∧ u.v = s.th.v ∧ u.m = s.th.m ∧ u.p = s.th.p ∧ u.run = s.th.run
  ∧ u.ien = s.th.ien ∧ u.tvec = s.th.tvec ∧ u.stopmax = s.th.stopmax ∧ u.icount = s.th.icount ∧ u.icmp = s.th.icmp
  ∧ u.cyccmp = s.th.cyccmp ∧ u.dbval = s.th.dbval ∧ u.fpflags = s.th.fpflags ∧ u.accepts = s.th.accepts
  ∧ u.group = none ∧ u.verdict = none ∧ u.copyHeld = none ∧ u.wait = .none
  ∧ (s.th.verdict ≠ some .waiting → t.ops = s.ops) ∧ SameOthers s t ∧ SameMemory s t
  ∧ (s.th.landing = [] → SameScratch s t)

open Sys2Proof Sys2Proof.Machine in
/-- R154: a synchronous trap in handler mode stops the thread; its queue and registers stay as they were, and one record goes to
the fatal lane, of TYPE 0x20 with the fields of R357: the partition context, the cause and TVAL of the second trap, the thread, the
core, and TCAUSE, TEPC0 and TVAL as they stood. No interrupt is taken in handler mode. -/
def Obligations.DoubleTrapStopsTheThread : Prop := ∀ (s : State) (cause : Nat) (tval : Word), s.th.hm = true →
  let t := s.trapThread s.cur cause tval
  t.th = { s.th with run := .stopped, group := none, verdict := none, copyHeld := none,
                     wait := if s.th.verdict.isSome then .none else s.th.wait }
  ∧ (∃ r, t.records = s.records ++ [r] ∧ r.fatal = true ∧ r.part = s.partOf s.cur.core ∧ r.ctx = s.cur.ctx
    ∧ r.bits = BitVec.ofNat 512 (packFields [(0, 0x20), (40, s.partOf s.cur.core % 16), (44, s.cur.ctx.toNat),
        (320, s.cycle.toNat), (24, cause), (45, s.cur.thr), (48, s.cur.core), (128, s.th.tcause.toNat), (192, s.th.tepc0.toNat),
        (256, s.th.tval.toNat), (384, s.th.q0.pc.toNat), (448, tval.toNat)]))
  ∧ SameOthers s t ∧ SameMemory s t ∧ SameScratch s t
  ∧ (s.th.group = none → s.th.verdict ≠ some .waiting → t = { s with threads := t.threads, records := t.records })
  ∧ ∀ code, exec (.interruptEntry code) s = .next s

namespace Sys2Proof.Claims
open Sys2Proof.Machine

/-- A queue entry whose PC names a slot of a line (R23). -/
def goodPc (e : QEntry) : Prop := e.pc.toNat / 8 % 8 = 0
/-- A write in flight that TSAVE can hold (R153): a legal destination, and at most 16 groups. -/
def savable (l : Landing) : Prop :=
  1 ≤ l.rem ∧ l.rem ≤ 16 ∧ ((∃ n, n ≠ 0 ∧ l.dest = .x n) ∨ (∃ n, l.dest = .v n) ∨ ∃ n, l.dest = .c n)

/-- Writes in the order in which they land; those that land together in the order of their producers. -/
def inLandingOrder : List Landing → Prop
  | [] => True
  | [_] => True
  | a :: b :: r => a.rem ≤ b.rem ∧ inLandingOrder (b :: r)

end Sys2Proof.Claims

open Sys2Proof Sys2Proof.Machine Sys2Proof.Claims in
/-- R145, R152, R153: a trap and an ERET at once after it lose nothing: the fetch queue, the writes in flight with the groups
that remain to them (one more, because the ERET's own group ages them when it ends), the mode and IE come back; the registers were never touched.
R145 skips step 4 of R36 for the restored Q[0] alone; that Q[1] and Q[2] too come back with `tgt := false`, so that step 4 never
checks them, is the model's reading (log 103, DEDUCED). Clauses of it rest on the model's own reading or choice, log 103. -/
def Obligations.TrapThenReturnRestores : Prop := ∀ (s : State) (cause : Nat) (tval : Word),
  s.th.hm = false → s.cur.thr < 8 → s.th.landing.length ≤ 4 → (∀ l ∈ s.th.landing, savable l) → inLandingOrder s.th.landing →
  goodPc s.th.q0 → goodPc s.th.q1 → goodPc s.th.q2 → s.th.q0.sq = false →
  ∃ t, (s.trapThread s.cur cause tval).returnFrom = some t
    ∧ t.th.landing = s.th.landing.map (fun l => { l with rem := l.rem + 1 })
    ∧ t.th.q0 = { s.th.q0 with tgt := false } ∧ t.th.q1 = { s.th.q1 with tgt := false } ∧ t.th.q2 = { s.th.q2 with tgt := false }
    ∧ t.th.hm = false ∧ t.th.ie = s.th.ie ∧ t.th.x = s.th.x ∧ t.th.v = s.th.v ∧ t.th.m = s.th.m ∧ t.th.p = s.th.p
    ∧ (s.th.verdict ≠ some .waiting → t.ops = s.ops) ∧ SameOthers s t ∧ SameMemory s t

/-! ## Decoding and the step (02) -/

open Sys2Proof in
/-- R25, R32: encoding and then decoding a well-formed instruction gives it back, with every operand at every value that the
encoding admits. -/
def Obligations.EncodeThenDecode : Prop := ∀ (i : Instr) (bs : List Byte),
  WellFormed i = true → encode i = some bs → decodeBytes bs = some i

open Sys2Proof in
/-- R25, R32, R35: twelve bytes that decode are the encoding of what they decode to, and that instruction is well-formed: no bit is
ignored, and no two words mean the same instruction. -/
def Obligations.DecodeThenEncode : Prop := ∀ (i : Instr) (bs : List Byte),
  decodeBytes bs = some i → WellFormed i = true ∧ encode i = some bs

open Sys2Proof in
/-- R25, R26, R106, R134, R136, R232, R233, R347: words written out from the spec's encodings decode to the instructions they stand for; a
reserved regspec, and FC 3 of R232, decode to nothing. -/
def Obligations.WordsOfTheSpecDecode : Prop :=
  decodeTableWord 96 0x010010506070000200000000
      = some (.sub ⟨⟨false, 0⟩, .x 5, .x 6, .x 7, .x 0, ⟨false, .sats⟩, 0⟩)
  ∧ decodeTableWord 96 0x020050506070000400000010
      = some (.lea ⟨⟨false, 0⟩, .x 5, .x 6, .x 7, .x 0, ⟨false, 2⟩, 16⟩)
  ∧ decodeTableWord 96 0x020060762080900000000000
      = some (.sel ⟨⟨false, 0⟩, .x 7, .p 2, .x 8, .x 9, (), 0⟩)
  ∧ decodeTableWord 96 0x100000506000000600000010
      = some (.lds ⟨⟨false, 0⟩, .x 5, .x 6, .x 0, .x 0, ⟨.w32, true, 0, false⟩, 16⟩)
  ∧ decodeTableWord 96 0x1E0000000000000000000007 = some (.trap ⟨⟨false, 0⟩, .x 0, .x 0, .x 0, .x 0, (), 7⟩)
  ∧ decodeTableWord 96 0x010018806070000200000000 = none
  ∧ decodeTableWord 96 0x140000506000000300000000
      = some (.ldg ⟨⟨false, 0⟩, .x 5, .x 6, .x 0, .x 0, ⟨true, .f32, false, 0, false⟩, 0⟩)
  ∧ decodeTableWord 96 0x140000506000000600000000 = none

namespace Sys2Proof.Claims
open Sys2Proof.Machine

/-- The thread stands at a group that is a single instruction of the line in its line buffer, and nothing comes before it: no
wait, group that has parked, breakpoint, stop, trap due or check that fails (R36, steps 1 to 5). -/
structure StandsAt (s : State) (t : ThreadId) (l : LineBuf) : Prop where
  resident : (s.part (s.partOf t.core)).res = t.ctx
  runs : (s.thread t).run = .running
  waits : (s.thread t).wait = .none
  rests : (s.thread t).pause = .none
  fresh : (s.thread t).group = none
  judged : (s.thread t).verdict = none
  crossed : (s.thread t).thresholds = []
  halted : (s.core t.core).dbg.halted = false
  out : (s.core t.core).out = false
  serves : s.coxOut t.core = false
  breaks : (s.core t.core).dbg.dbp = []
  line : (s.thread t).line = some l
  here : l.va = pcLine (s.thread t).q0.pc
  good : l.checked = true ∨ lineOk l.bytes = true
  slot : pcSlot (s.thread t).q0.pc ≤ 4
  zeros : (s.thread t).q0.pc.toNat / 8 % 8 = 0
  short : (s.thread t).q0.pc.toNat < 2 ^ 48
  kept : (s.thread t).q0.an = false
  target : (s.thread t).q0.tgt = true → (lineTargets l.bytes).testBit (pcSlot (s.thread t).q0.pc) = true
  alone : (linePairs l.bytes).testBit (pcSlot (s.thread t).q0.pc) = false
  noStop : (lineStops l.bytes).testBit (pcSlot (s.thread t).q0.pc) = false
  spaced : (s.thread t).hm = true ∨ (s.thread t).stop ≠ (s.thread t).stopmax.toNat

/-- Nothing else can happen: the module has power and has booted, no input, no judged group, fence, release or event that is due,
no other thread that runs. -/
structure OnlyThread (s : State) (t : ThreadId) : Prop where
  thr : t.thr < 8
  works : s.stopped = false
  booted : 6 ≤ s.bootStage
  due : s.due = none
  moved : s.dueRel = none
  inputs : s.inputs = []
  agenda : s.agenda = []
  evictions : s.evictions = []
  publications : s.publications = []
  core : s.liveCores = [t.core]
  others : ∀ u, u < 8 → u ≠ t.thr → (s.thread ⟨t.core, t.ctx, u⟩).run ≠ .running

/-- The state in which the turn of a thread comes to its group: the thread is the current one and waits for nothing, its queue is
refreshed and its line checked. -/
def atGroup (s : State) (t : ThreadId) (l : LineBuf) : State :=
  let u := ({ s with cur := t }).refreshQueue.endWait
  u.setTh { u.th with line := some { l with checked := true } }

/-- The group that is a single instruction of a word. -/
def single (i : Instr) (w : Nat) : Held := ⟨i, none, wordNames w, wordLight w, [], [], none, none, false⟩

/-- R103, R68, R99: HBM, and its block tags, list only what differs from what an unlisted place reads as, in rising order. -/
def canonical (s : State) : Prop := Memory.wf s = true

end Sys2Proof.Claims

open Sys2Proof Sys2Proof.Machine Sys2Proof.Claims in
/-- R36, R345: where the bytes at the program counter decode to an instruction that the core executes, and nothing else can happen,
a step is that instruction's meaning on the state that its turn came to, then the end of its turn, then the passing of time; an
instruction that issues ends its group (R22) and uses the slot of its core (R111), one that traps has entered its handler, and one
that parks keeps its place. A thread that issued in the last clk leaves the slot empty first (R111). Clauses of it rest on the model's own reading or choice, log 1, 2 and 86. -/
def Obligations.StepRunsTheDecodedInstruction : Prop := ∀ (s : State) (t : ThreadId) (l : LineBuf) (i : Instr),
  let w := bytesToNat (lineSlot l.bytes (pcSlot (s.thread t).q0.pc))
  StandsAt s t l → OnlyThread s t → decodeBytes (lineSlot l.bytes (pcSlot (s.thread t).q0.pc)) = some i →
  foreign (isCox t.core) w = false → queueMisuse w = false →
  let g := atGroup s t l
  let u := g.issueAt (s.thread t).q0.pc
  let skip := s.barred t.core
  (skip.contains t.thr = true → step s = .next (s.slotEmpty t.core).elapse)
  ∧ (skip.contains t.thr = false →
  step s = elapsed (match settle (single i w) (s.thread t) g (exec i u) with
    | some r => slotUsed t.core t.thr skip r
    | none => .next (if skip = [] then s else s.slotEmpty t.core))
  ∧ (∀ v, exec i u = .next v → v.iss.status = .running → landingFull u.th v.th = false → isCox t.core = false →
    step s = .next (v.finishGroup.issuedLast t.core t.thr).elapse)
  ∧ (∀ v, exec i u = .next v → v.iss.status = .trapped →
    step s = .next (({ v with iss := .initial }).issuedLast t.core t.thr).elapse)
  ∧ (∀ v, exec i u = .next v → v.iss.status = .parked →
    step s = .next (({ v with iss := .initial }).setTh { v.th with group := some (single i w) }).elapse))

open Sys2Proof Sys2Proof.Machine in
/-- R72, R113, R149, R153, R159, R241, R285, R295, R315, R374: the state after reset: registers zero, present and not bounded, m0 all
ones and p0 true, queues empty and inboxes not present, IEN 0x0A00, STOPMAX 24, FPFLAGS 0, task mode, an empty landing buffer, the all-bank
mode off and no pseudo-channel reserved, no partition, objects unbound with SEQ 0, MEMCFG 0 and DOMID with SIZE 1. Clauses of it rest on the model's own reading or choice, log 5 and 6. -/
def Obligations.ResetState : Prop := ∀ (t : ThreadId) (core : Nat) (ctx : Bool),
  (∀ n, (State.reset.thread t).readX n = ⟨0, false, .present⟩) ∧ (∀ n, (State.reset.thread t).readV n = ⟨0, false, .present⟩)
  ∧ (∀ n, (State.reset.thread t).readM n = if n = 0 then BitVec.allOnes 32 else 0)
  ∧ (∀ n, (State.reset.thread t).readP n = decide (n = 0))
  ∧ (∀ n, (State.reset.coreCtx core ctx).readC n = ⟨0, false, .present⟩)
  ∧ (∀ n, (State.reset.coreCtx core ctx).readQ n = [])
  ∧ (∀ n, ((State.reset.coreCtx core ctx).readI n).st = .pending)
  ∧ (State.reset.thread t).ien = 0x0A00 ∧ (State.reset.thread t).stopmax = 24 ∧ (State.reset.thread t).hm = false
  ∧ (State.reset.thread t).ie = false ∧ (State.reset.thread t).landing = [] ∧ (State.reset.thread t).fpflags = 0
  ∧ (∀ n, (State.reset.sync n).bound = false ∧ (State.reset.sync n).seq = 0)
  ∧ (∀ n, (State.reset.part n).v = false) ∧ (∀ n, (State.reset.pch n).mode = none ∧ (State.reset.pch n).rsv = false)
  ∧ State.reset.memcfg = 0 ∧ State.reset.domid = 0x200

open Sys2Proof Sys2Proof.Machine Sys2Proof.Claims in
/-- The memory of the reset state is in canonical form. -/
def Obligations.ResetMemoryIsCanonical : Prop := canonical State.reset

open Sys2Proof Sys2Proof.Machine Sys2Proof.Claims in
/-- Every step keeps the memory in canonical form, from every state whose memory is: equal memories stay equal data. -/
def Obligations.StepKeepsMemoryCanonical : Prop := ∀ s t : State, canonical s → step s = .next t → canonical t

/-! ## Control flow (10) -/

namespace Sys2Proof.Claims
open Sys2Proof.Machine

/-- The linear index that a displacement leads to (R24). -/
def leadsTo (pc : Word) (d : BitVec 32) : Int := ((pc.toNat / 64 * 5 + pc.toNat % 8 : Nat) : Int) + d.toInt

/-- A PC names the slot of a linear index (R23, R24). -/
def namesIndex (pc : Word) (n : Int) : Prop :=
  pc.toNat % 8 ≤ 4 ∧ pc.toNat / 8 % 8 = 0 ∧ ((pc.toNat / 64 * 5 + pc.toNat % 8 : Nat) : Int) = n

/-- Nothing changed but the group's record, and the trace of the thread's core (R382). -/
def OnlyIssue (s t : State) : Prop := t = { s with iss := t.iss, cores := t.cores }

/-- The group's record with a redirect and an annulling asked for, or left as they were. -/
def branched (s : State) (target : Option Word) (annul : Bool) : Issue :=
  { s.iss with redirect := target.or s.iss.redirect, annul := annul || s.iss.annul }

/-- A conditional branch that is taken or not; `annul` is the outcome in which its form annuls (R141). -/
def BranchGoes (s : State) (o : Fmt CondMod) (annul : Option Bool) (taken : Bool) (r : Host.Outcome State Fault Refusal) : Prop :=
  ∃ t target, r = .next t ∧ OnlyIssue s t ∧ t.iss = branched s (if taken then some target else none) (annul == some taken)
    ∧ (0 ≤ leadsTo s.iss.pc o.imm → leadsTo s.iss.pc o.imm < 5 * 2 ^ 58 → namesIndex target (leadsTo s.iss.pc o.imm))

end Sys2Proof.Claims

open Sys2Proof Sys2Proof.Machine Sys2Proof.Claims in
/-- R24, R140, R141, R143, R144: BR is taken; BRC, BRCA and BRCT are taken where their condition holds on the words that their
width reads, and not where they are predicated off; BRCA annuls where it is not taken, BRCT where it is. A target counts instructions. -/
def Sys2Proof.Claims.BranchOutcome : Prop := ∀ (s : State) (u : Fmt Unit) (o : Fmt CondMod),
  (s.predOn u.pred = true → ∃ t target, exec (.br u) s = .next t ∧ OnlyIssue s t ∧ t.iss = branched s (some target) false
    ∧ (0 ≤ leadsTo s.iss.pc u.imm → leadsTo s.iss.pc u.imm < 5 * 2 ^ 58 → namesIndex target (leadsTo s.iss.pc u.imm)))
  ∧ (s.Issues o → s.bitA o = false → s.bitB o = false →
    BranchGoes s o none (holdsBy o.mod (s.opA o) (s.opB o)) (exec (.brc o) s)
    ∧ BranchGoes s o (some false) (holdsBy o.mod (s.opA o) (s.opB o)) (exec (.brca o) s)
    ∧ BranchGoes s o (some true) (holdsBy o.mod (s.opA o) (s.opB o)) (exec (.brct o) s))
  ∧ (s.predOn o.pred = false →
    BranchGoes s o none false (exec (.brc o) s)
    ∧ BranchGoes s o (some false) false (exec (.brca o) s)
    ∧ BranchGoes s o (some true) false (exec (.brct o) s))

open Sys2Proof Sys2Proof.Machine Sys2Proof.Claims in
/-- R144: JMP goes to the PC that its register holds. CALL goes to its displacement or its register and leaves in x31, after one
group, the group that follows Q[2]: the one after the two delay slots, by the PAIR bits of the line of Q[2], or what a group that another
unit judged read of it when it issued (R22). -/
def Sys2Proof.Claims.JumpAndCall : Prop := ∀ (s : State) (o : Fmt Unit) (pairs : Nat),
  (s.Issues o → s.bitA o = false → ∃ t, exec (.jmp o) s = .next t ∧ OnlyIssue s t ∧ t.iss = branched s (some (s.opA o)) false)
  ∧ (∀ link, (s.th.readX 31).st ≠ .pending →
    (match s.th.group.bind (·.link) with
      | some l => link = l
      | none => s.th.q2.sq = false ∧ s.pairsAt s.th.q2.pc = some pairs ∧ link = seqPc pairs s.th.q2.pc) →
    (s.predOn o.pred = true → ∃ t target, exec (.call o) s = .next t
      ∧ t = { s with iss := branched s (some target) false, cores := t.cores, threads := t.threads }
      ∧ t.th = { s.th with landing := s.th.landing ++ [⟨.x 31, link.setWidth 256, false, 2⟩] } ∧ SameOthers s t
      ∧ (0 ≤ leadsTo s.iss.pc o.imm → leadsTo s.iss.pc o.imm < 5 * 2 ^ 58 → namesIndex target (leadsTo s.iss.pc o.imm)))
    ∧ (s.Issues o → s.bitA o = false → ∃ t, exec (.callIndirect o) s = .next t
      ∧ t = { s with iss := branched s (some (s.opA o)) false, cores := t.cores, threads := t.threads }
      ∧ t.th = { s.th with landing := s.th.landing ++ [⟨.x 31, link.setWidth 256, false, 2⟩] } ∧ SameOthers s t))

open Sys2Proof Sys2Proof.Machine Sys2Proof.Claims in
/-- R24, R140, R141, R143, R144: BR and the conditional branches BRC, BRCA and BRCT, and JMP and CALL. Clauses of it rest on the model's own reading or choice, log 23 and 24. -/
def Obligations.TransfersOfControl : Prop := BranchOutcome ∧ JumpAndCall

open Sys2Proof Sys2Proof.Machine Sys2Proof.Claims in
/-- R140, R141, R148, R151: a group that issues moves the fetch queue on by one; a taken branch puts its target into Q[2], with the
TGT check due; an annulling one marks the two delay slots. In task mode the group counts toward the stop count and ICOUNT, in
handler mode toward neither. -/
def Obligations.GroupAdvancesTheQueue : Prop := ∀ s : State,
  s.iss.noAdvance = false → s.th.q1.sq = false → s.th.q2.sq = false →
  let t := s.finishGroup
  t.th.q0 = { s.th.q1 with an := s.iss.annul || s.th.q1.an }
  ∧ t.th.q1 = { s.th.q2 with an := s.iss.annul || s.th.q2.an }
  ∧ (∀ pc, s.iss.redirect = some pc → t.th.q2 = ⟨pc, false, false, true⟩)
  ∧ (∀ p, s.iss.redirect = none → s.th.pairs s.th.q2.pc = some p → t.th.q2 = ⟨seqPc p s.th.q2.pc, false, false, false⟩)
  ∧ t.th.stop = (if s.th.hm then s.th.stop else s.th.stop + 1)
  ∧ t.th.icount = (if s.th.hm ∨ s.iss.keepCount = true then s.th.icount else s.th.icount + 1)
  ∧ t.iss = .initial

open Sys2Proof Sys2Proof.Machine in
/-- R145: ERET faults with cause 2 in task mode; with a write still in flight it issues an empty group instead; with an empty
landing buffer it restores queue, saved writes, mode and IE; where TSAVE or LBN is refused it faults with cause 2; a saved entry
that holds an uncorrectable word traps like any read (R103; log 89), here in handler mode (R154); one whose group a MATRIX instruction
held has read TSAVE before (R22). -/
def Sys2Proof.Claims.EretReturns : Prop := ∀ (s : State) (o : Fmt Unit), s.predOn o.pred = true →
  let quiet := (s.core s.cur.core).dbg.dwp = []
  let back := fun (t u : State) => u = { t with cores := u.cores } ∧ u.th.hm = s.th.phm ∧ u.th.ie = s.th.pie ∧ u.th.stop = 0
    ∧ u.iss.noAdvance = true ∧ u.th.q0.pc = BitVec.ofNat 64 (pcLine s.th.tepc0 + pcSlot s.th.tepc0)
    ∧ u.th.q0.an = s.th.tepc0.getLsbD 3
  (s.th.hm = false → exec (.eret o) s = .next (s.takeTrap 2 s.iss.pc))
  ∧ (∀ l, s.th.hm = true → s.iss.held = 0 → s.th.reload = some l → quiet →
    ∃ u, exec (.eret o) s = .next u ∧ back (s.returnWith l) u)
  ∧ (s.th.hm = true → s.iss.held ≠ 0 →
    exec (.eret o) s = .next { s.emptyGroup with iss := { s.emptyGroup.iss with status := .queued } })
  ∧ (s.th.hm = true → s.iss.held = 0 → s.th.reload = none → (∃ a ∈ s.savedWords, s.cc.badIn [a.toNat] 8 ≠ []) →
    ∃ t, exec (.eret o) s = .next t ∧ t.iss.status = .trapped ∧ t.th.run = .stopped)
  ∧ (s.th.hm = true → s.iss.held = 0 → s.th.reload = none → (∀ a ∈ s.savedWords, s.cc.badIn [a.toNat] 8 = []) → s.returnFrom = none →
    exec (.eret o) s = .next (s.takeTrap 2 s.iss.pc))
  ∧ (∀ t, s.th.hm = true → s.iss.held = 0 → s.th.reload = none → (∀ a ∈ s.savedWords, s.cc.badIn [a.toNat] 8 = []) →
    s.returnFrom = some t → quiet → ∃ u, exec (.eret o) s = .next u ∧ back t u)

open Sys2Proof Sys2Proof.Machine in
/-- R146: YIELD makes the thread not ready after its group, until the 8 clk end; WFI until an enabled interrupt is pending;
WAITT parks before issue until CYCLE reaches its value, compared unsigned, and does nothing more; it faults on a bounded value. -/
def Sys2Proof.Claims.FlowWaits : Prop := ∀ (s : State) (o : Fmt Unit),
  (s.predOn o.pred = true → exec (.yield o) s = .next (s.setTh { s.th with pause := .yield })
    ∧ exec (.wfi o) s = .next (s.setTh { s.th with pause := .wfi }))
  ∧ (s.Issues o → s.bitA o = false → (s.opA o).toNat ≤ s.cycle.toNat → exec (.waitt o) s = .next s)
  ∧ (s.Issues o → s.bitA o = false → s.cycle.toNat < (s.opA o).toNat → exec (.waitt o) s = .next (s.park .none))
  ∧ (s.Issues o → s.bitA o = true → exec (.waitt o) s = .next (s.takeTrap 26 s.iss.pc))
  ∧ (s.th.pause = .yield → s.mayRun = false ∧ exec (.yieldExpire s.cur) s = .next (s.setTh { s.th with pause := .none }))
  ∧ (s.th.pause = .wfi → (∀ c ∈ [1, 5, 7, 9, 11], s.pendingInt s.th c = true → s.th.ien.getLsbD c = false) → s.mayRun = false)

open Sys2Proof Sys2Proof.Machine Sys2Proof.Claims in
/-- R145, R146: ERET, YIELD, WFI and WAITT. Clauses of it rest on the model's own reading or choice, log 89. -/
def Obligations.ReturnsAndWaits : Prop := EretReturns ∧ FlowWaits

namespace Sys2Proof.Claims
open Sys2Proof.Machine

/-- R150: an interrupt qualifies: 9 and 11 whenever pending, 1, 5 and 7 where pending, enabled and IE is 1. -/
def qualifies (s : State) (c : Nat) : Prop :=
  s.pendingInt s.th c = true ∧ (c = 9 ∨ c = 11 ∨ (c = 1 ∨ c = 5 ∨ c = 7) ∧ s.th.ie = true ∧ s.th.ien.getLsbD c = true)

end Sys2Proof.Claims

open Sys2Proof Sys2Proof.Machine Sys2Proof.Claims in
/-- R148, R150, R152: at a stop that is honoured a thread in task mode takes the highest interrupt that qualifies, entering its
handler with TVAL 0; in handler mode it takes none; where no stop is honoured the event does nothing. -/
def Sys2Proof.Claims.InterruptIsTakenAtAnHonouredStop : Prop := ∀ (s : State) (c : Nat),
  (s.th.hm = false → s.th.stopHonoured = true → qualifies s c → (∀ d, qualifies s d → d ≤ c) →
    exec (.interruptEntry c) s = .next (s.enterHandler s.cur true c 0)
    ∧ (s.enterHandler s.cur true c 0).th.tcause = BitVec.ofNat 64 (2 ^ 63 + c) ∧ (s.enterHandler s.cur true c 0).th.tval = 0)
  ∧ (s.th.hm = true → exec (.interruptEntry c) s = .next s)
  ∧ (s.th.stopHonoured = false → exec (.interruptEntry c) s = .next s)
  ∧ (s.th.stopHonoured = true → s.th.q0.an = false ∧ s.th.landing = [])

open Sys2Proof Sys2Proof.Machine in
/-- R117, R141, R148, R35, R79, R146, R147, R185: the events of a thread's turn: an empty group counts as a stop but not in ICOUNT and ages what
waits to land; an annulled entry issues as an empty group that counts in both; STOPMAX groups without an honoured stop trap with cause 25;
an unassigned encoding traps with cause 2 and a fetch fault with its own cause; CYCCMP wakes a thread from WFI. -/
def Sys2Proof.Claims.TurnEvents : Prop := ∀ s : State,
  (exec .emptyGroup s = .next s.emptyGroup ∧ s.emptyGroup.th.icount = s.th.icount
    ∧ s.emptyGroup.th.stop = (if s.th.hm then s.th.stop else s.th.stop + 1) ∧ s.emptyGroup.th.q0 = s.th.q0)
  ∧ (s.th.q0.an = true → s.th.q1.sq = false → ∃ t, exec .annulledGroup s = .next t ∧ t.th.q0 = s.th.q1
    ∧ t.th.icount = (if s.th.hm then s.th.icount else s.th.icount + 1) ∧ t.th.stop = (if s.th.hm then s.th.stop else s.th.stop + 1))
  ∧ (s.th.hm = false → s.th.stopHonoured = false → s.th.stop = s.th.stopmax.toNat →
    exec .stopSpacingFault s = .next (s.trapThread s.cur 25 0))
  ∧ (∀ pc, exec (.unassignedEncoding pc) s = .next (s.trapThread s.cur 2 pc))
  ∧ (∀ c va, exec (.instructionFetchFault c va) s = .next (s.trapThread s.cur c va))
  ∧ (s.th.pause = .wfi → s.th.ien.getLsbD 5 = true → s.th.cyccmp ≠ 0 → s.th.cyccmp.toNat ≤ s.cycle.toNat →
    exec (.cycleCompareMatch s.cur) s = .next (s.setTh { s.th with pause := .none }))
  ∧ (∀ n k, s.th.hm = false → s.th.thresholds = [(n, k)] →
    exec .matrixThresholdTrap s
      = .next ((s.setTh { s.th with thresholds := [] }).trapThread s.cur 31 (BitVec.ofNat 64 (n + 16 * k))))

open Sys2Proof Sys2Proof.Machine Sys2Proof.Claims in
/-- R117, R141, R147, R148, R150, R152, R185: interrupts at honoured stops, and the other events of a thread's turn. Clauses of it rest on the model's own reading or choice, log 1 and 66. -/
def Obligations.InterruptsAndTurns : Prop := InterruptIsTakenAtAnHonouredStop ∧ TurnEvents

/-! ## The scratchpad (07) -/

namespace Sys2Proof.Claims
open Sys2Proof.Machine

/-- R99: the current thread may make an access at an address. -/
def reaches (s : State) (a : Nat) (write : Bool) : Prop :=
  a < 0x17000 ∨ (a < 0x2F000 ∧ s.split2 s.cur.core = false) ∨ (0x2F000 ≤ a ∧ a < 0x2F800 ∧ s.th.hm = true)
    ∨ (0x2F800 ≤ a ∧ a < 0x30000 ∧ (write = false ∨ s.th.hm = true))

/-- R108: a load may read n bytes from an address: no word among them is uncorrectable, and its block is not POISON. -/
def sound (s : State) (a n : Nat) : Prop :=
  (∀ w ∈ s.cc.badWords, a + n ≤ w * 8 ∨ w * 8 + 8 ≤ a) ∧ tagPoison (s.cc.tag a) = false

/-- No watchpoint is set on the core (R379). -/
def unwatched (s : State) : Prop := (s.core s.cur.core).dbg.dwp = []

/-- R105: the effective address, and the address of lane i of an indexed form. -/
def eaOf {M : Type} (s : State) (o : Fmt M) : Word := s.opA o + s.opB o + o.imm.signExtend 64
def eaLane {M : Type} (s : State) (o : Fmt M) (w i : Nat) : Word :=
  s.opA o + o.imm.signExtend 64 + (((s.read o.imm o.b).val >>> (8 * w * i)).setWidth 32).signExtend 64 * BitVec.ofNat 64 w

/-- R103: the tag of a block after a store of data with B bit b: POISON stays, ZERO and CONST become RAW, and B is an OR. -/
def tagAfter (t : BitVec 16) (b : Bool) : BitVec 16 :=
  if (t >>> 8).setWidth 7 = 0x7F then t
  else if (t >>> 8).setWidth 7 = 0x10 ∨ (t >>> 8).setWidth 7 = 0x11 then (if t.msb || b then 0x8000 else 0)
  else if b then t ||| 0x8000 else t

/-- Only bytes, tags and marked words of the current core context may differ. -/
def OnlyScratch (s t : State) : Prop :=
  t.cc = { s.cc with spad := t.cc.spad, tags := t.cc.tags, badWords := t.cc.badWords }
  ∧ (∀ core ctx, ctxKey core ctx ≠ ctxKey s.cur.core s.cur.ctx → t.coreCtx core ctx = s.coreCtx core ctx)
  ∧ t = { s with ctxs := t.ctxs, threads := t.threads }

/-- R156: the register that a masked load keeps part of, as it stood: its value and its B bit, where the form reads it. -/
def keptV (s : State) (m : SpadMod) (d : Fin 32) : VWord × Bool :=
  if m.zm || m.mask == 0 then (0, false) else ((s.th.readV d).val, (s.th.readV d).b)
def keptPresent (s : State) (m : SpadMod) (d : Fin 32) : Prop :=
  (m.zm = false ∧ m.mask ≠ 0) → (s.th.readV d).st = .present

end Sys2Proof.Claims

open Sys2Proof Sys2Proof.Machine Sys2Proof.Claims in
/-- R105-R108, R116: LDS reads N bits from its address, zero- or sign-extends them and lands after 3 groups with the B bit of the
block; LDT reads the tag of the block, with B 0. -/
def Sys2Proof.Claims.ScratchScalarLoad : Prop := ∀ (s : State) (o : Fmt SpadMod) (u : Fmt Unit),
  (s.Issues o → s.bitA o = false → s.bitB o = false → unwatched s →
    (eaOf s o).toNat % Width.bytes o.mod.w = 0 → reaches s (eaOf s o).toNat false →
    sound s (eaOf s o).toNat (Width.bytes o.mod.w) →
    ∃ v : Word, exec (.lds o) s = .next (s.land o.d (v.setWidth 256) (s.cc.tag (eaOf s o).toNat).msb 3)
      ∧ ∀ i, i < 8 → (v >>> (8 * i)).setWidth 8 =
        if i < Width.bytes o.mod.w then s.cc.byte ((eaOf s o).toNat + i)
        else if o.mod.sx && (s.cc.byte ((eaOf s o).toNat + Width.bytes o.mod.w - 1)).msb then 0xFF else 0)
  ∧ (s.Issues u → s.bitA u = false → s.bitB u = false → reaches s (eaOf s u).toNat false →
    exec (.ldt u) s = .next (s.land u.d ((s.cc.tag (eaOf s u).toNat).setWidth 256) false 3))

open Sys2Proof Sys2Proof.Machine Sys2Proof.Claims in
/-- R103, R105-R107: STS stores the low N bits of its register, and the tag of the block changes as a store changes it; STT stores a
tag, and counts in ACCEPTS where it clears B. Every other byte and tag is as before. -/
def Sys2Proof.Claims.ScratchScalarStore : Prop := ∀ (s : State) (o : Fmt SpadMod) (u : Fmt Unit),
  (s.Issues o → s.bitA o = false → s.bitB o = false → unwatched s →
    (eaOf s o).toNat % Width.bytes o.mod.w = 0 → reaches s (eaOf s o).toNat true →
    ∃ t, exec (.sts o) s = .next t ∧ OnlyScratch s t ∧ t.threads = s.threads
      ∧ (∀ a, t.cc.byte a = if (eaOf s o).toNat ≤ a ∧ a < (eaOf s o).toNat + Width.bytes o.mod.w
          then (s.opC o >>> (8 * (a - (eaOf s o).toNat))).setWidth 8 else s.cc.byte a)
      ∧ (∀ a, t.cc.tag a = if a / 64 = (eaOf s o).toNat / 64 then tagAfter (s.cc.tag a) (s.bitC o) else s.cc.tag a))
  ∧ (s.Issues u → s.bitA u = false → s.bitB u = false → s.bitC u = false →
    (eaOf s u).toNat % 64 = 0 → reaches s (eaOf s u).toNat true →
    ∃ t, exec (.stt u) s = .next t ∧ OnlyScratch s t ∧ SameOthers s t
      ∧ (∀ a, t.cc.byte a = s.cc.byte a)
      ∧ (∀ a, t.cc.tag a = if a / 64 = (eaOf s u).toNat / 64 then (s.opC u).setWidth 16 else s.cc.tag a)
      ∧ t.th = { s.th with accepts := s.th.accepts
          + (if (s.cc.tag (eaOf s u).toNat).msb && !((s.opC u).setWidth 16).msb then 1 else 0) })

open Sys2Proof Sys2Proof.Machine Sys2Proof.Claims in
/-- R99, R103-R107: LDS, LDT, STS and STT. Clauses of it rest on the model's own reading or choice, log 63, 65 and 88. -/
def Obligations.ScratchScalarAccess : Prop := ScratchScalarLoad ∧ ScratchScalarStore

open Sys2Proof Sys2Proof.Machine Sys2Proof.Claims in
/-- R106-R108: LDSV reads the active bytes of 32 from an address aligned to 8; VGATHS reads the active elements at the addresses of
its index lanes; an inactive byte or lane is zero under ZM and as the register stood otherwise; B is the OR of what was read. -/
def Sys2Proof.Claims.ScratchVectorLoad : Prop := ∀ (s : State) (o : Fmt SpadMod) (d : Fin 32), o.d = .v d →
  s.Issues o → s.bitA o = false → s.bitB o = false → unwatched s → keptPresent s o.mod d →
  ((∀ j, j < 32 → (s.th.readM o.mod.mask).getLsbD j = true → (eaOf s o).toNat % 8 = 0
      ∧ reaches s (eaOf s o + BitVec.ofNat 64 j).toNat false ∧ sound s (eaOf s o + BitVec.ofNat 64 j).toNat 1) →
    ∃ v b, exec (.ldsv o) s = .next (s.land o.d v b 4)
      ∧ (∀ j, j < 32 → (v >>> (8 * j)).setWidth 8 =
        if (s.th.readM o.mod.mask).getLsbD j then s.cc.byte (eaOf s o + BitVec.ofNat 64 j).toNat else ((keptV s o.mod d).1 >>> (8 * j)).setWidth 8)
      ∧ (b = true ↔ (keptV s o.mod d).2 = true
        ∨ ∃ j, j < 32 ∧ (s.th.readM o.mod.mask).getLsbD j = true ∧ (s.cc.tag (eaOf s o + BitVec.ofNat 64 j).toNat).msb = true))
  ∧ (∀ w, w = Width.bytes o.mod.w → wideWidth o.mod.w = true →
    (∀ i, i < 32 / w → (s.th.readM o.mod.mask).getLsbD (i * w) = true → (eaLane s o w i).toNat % w = 0
      ∧ reaches s (eaLane s o w i).toNat false ∧ sound s (eaLane s o w i).toNat w) →
    ∃ v b, exec (.vgaths o) s = .next (s.land o.d v b 4)
      ∧ (∀ i k, i < 32 / w → k < w → (v >>> (8 * (w * i + k))).setWidth 8 =
        if (s.th.readM o.mod.mask).getLsbD (i * w) then s.cc.byte ((eaLane s o w i).toNat + k)
        else ((keptV s o.mod d).1 >>> (8 * (w * i + k))).setWidth 8)
      ∧ (b = true ↔ (keptV s o.mod d).2 = true
        ∨ ∃ i, i < 32 / w ∧ (s.th.readM o.mod.mask).getLsbD (i * w) = true ∧ (s.cc.tag (eaLane s o w i).toNat).msb = true))

open Sys2Proof Sys2Proof.Machine Sys2Proof.Claims in
/-- R106: STSV stores the active bytes of its register; VSCATS the active lanes at the addresses of its index lanes, the highest
lane last. Every byte outside them is as before, and the tag of a block that is stored to changes as R103 says, no other. -/
def Sys2Proof.Claims.ScratchVectorStore : Prop := ∀ (s : State) (o : Fmt SpadMod),
  s.Issues o → s.bitA o = false → s.bitB o = false → unwatched s →
  ((∀ j, j < 32 → (s.th.readM o.mod.mask).getLsbD j = true → (eaOf s o).toNat % 8 = 0
      ∧ reaches s (eaOf s o + BitVec.ofNat 64 j).toNat true) →
    ∃ t, exec (.stsv o) s = .next t ∧ OnlyScratch s t ∧ t.threads = s.threads
      ∧ (∀ j, j < 32 → (s.th.readM o.mod.mask).getLsbD j = true →
        t.cc.byte (eaOf s o + BitVec.ofNat 64 j).toNat = ((s.read o.imm o.c).val >>> (8 * j)).setWidth 8)
      ∧ (∀ a, (∀ j, j < 32 → (s.th.readM o.mod.mask).getLsbD j = true → a ≠ (eaOf s o + BitVec.ofNat 64 j).toNat) →
        t.cc.byte a = s.cc.byte a)
      ∧ ∀ a, let touched := ∃ j, j < 32 ∧ (s.th.readM o.mod.mask).getLsbD j = true ∧ (eaOf s o + BitVec.ofNat 64 j).toNat / 64 = a / 64
        (touched → t.cc.tag a = tagAfter (s.cc.tag a) (s.bitC o)) ∧ (¬ touched → t.cc.tag a = s.cc.tag a))
  ∧ (∀ w, w = Width.bytes o.mod.w → wideWidth o.mod.w = true →
    (∀ i, i < 32 / w → (s.th.readM o.mod.mask).getLsbD (i * w) = true → (eaLane s o w i).toNat % w = 0
      ∧ reaches s (eaLane s o w i).toNat true) →
    ∃ t, exec (.vscats o) s = .next t ∧ OnlyScratch s t ∧ t.threads = s.threads
      ∧ (∀ i k, i < 32 / w → k < w → (s.th.readM o.mod.mask).getLsbD (i * w) = true →
        (∀ j, i < j → j < 32 / w → (s.th.readM o.mod.mask).getLsbD (j * w) = true → eaLane s o w j ≠ eaLane s o w i) →
        t.cc.byte ((eaLane s o w i).toNat + k) = ((s.read o.imm o.c).val >>> (8 * (w * i + k))).setWidth 8)
      ∧ (∀ a, (∀ i, i < 32 / w → (s.th.readM o.mod.mask).getLsbD (i * w) = true →
          a < (eaLane s o w i).toNat ∨ (eaLane s o w i).toNat + w ≤ a) → t.cc.byte a = s.cc.byte a)
      ∧ ∀ a, let touched := ∃ i, i < 32 / w ∧ (s.th.readM o.mod.mask).getLsbD (i * w) = true ∧ (eaLane s o w i).toNat / 64 = a / 64
        (touched → t.cc.tag a = tagAfter (s.cc.tag a) (s.bitC o)) ∧ (¬ touched → t.cc.tag a = s.cc.tag a))

open Sys2Proof Sys2Proof.Machine Sys2Proof.Claims in
/-- R103, R106-R108: LDSV, VGATHS, STSV and VSCATS. Clauses of it rest on the model's own reading or choice, log 64, 65 and 88. -/
def Obligations.ScratchVectorAccess : Prop := ScratchVectorLoad ∧ ScratchVectorStore

namespace Sys2Proof.Claims
open Sys2Proof.Machine

/-- R109: the new value of an element, for the operations on integers and bits. -/
def atomicValue {n : Nat} (op : SamoOp) (old v cmp : BitVec n) : BitVec n :=
  match op with
  | .add => old + v
  | .and => old &&& v
  | .or => old ||| v
  | .xor => old ^^^ v
  | .min => if v.slt old then v else old
  | .max => if old.slt v then v else old
  | .minu => if v.ult old then v else old
  | .maxu => if old.ult v then v else old
  | .swap => v
  | .cas => if old = cmp then v else old
  | .fadd => BitVec.ofNat n (floatAdd .fp32 .rne (fp32.decode old.toNat) (fp32.decode v.toNat)).1

/-- The n bytes at an address as one number, the lowest first. -/
def elementAt (s : State) (a n : Nat) : BitVec (8 * n) := BitVec.ofNat (8 * n) (bytesToNat (s.cc.bytes a n))

end Sys2Proof.Claims

open Sys2Proof Sys2Proof.Machine Sys2Proof.Claims in
/-- R103, R109, R110: an atomic replaces the element at xa + IMM by its operation's value; SAMO lands the old value after 4 groups,
sign-extended but under fadd; SAMON lands nothing. Every other byte of the scratchpad is as before, and every tag but that the element's block is no ZERO or CONST any more. -/
def Obligations.ScratchAtomic : Prop := ∀ (s : State) (o : Fmt SamoMod) (n : Nat),
  s.Issues o → s.bitA o = false → s.bitB o = false → s.bitC o = false → unwatched s →
  n = Width.bytes o.mod.w → wideWidth o.mod.w = true → (o.mod.op = .fadd → o.mod.w = .w32) →
  let ea := s.opA o + o.imm.signExtend 64
  let old := elementAt s ea.toNat n
  ea.toNat % n = 0 → reaches s ea.toNat true → sound s ea.toNat n → (s.cc.tag ea.toNat).msb = false →
  ∃ t, exec (.samon o) s = .next t ∧ OnlyScratch s t ∧ SameOthers s t
    ∧ t.th = { s.th with fpflags := t.th.fpflags } ∧ (o.mod.op ≠ .fadd → t.th.fpflags = s.th.fpflags)
    ∧ elementAt t ea.toNat n = atomicValue o.mod.op old ((s.opC o).setWidth (8 * n)) ((s.opB o).setWidth (8 * n))
    ∧ (∀ a, a < ea.toNat ∨ ea.toNat + n ≤ a → t.cc.byte a = s.cc.byte a)
    ∧ (∀ a, t.cc.tag a = if a / 64 = ea.toNat / 64 then tagAfter (s.cc.tag a) false else s.cc.tag a)
    ∧ exec (.samo o) s
      = .next (t.land o.d ((if o.mod.op = .fadd then old.setWidth 64 else old.signExtend 64).setWidth 256) false 4)

open Sys2Proof Sys2Proof.Machine Sys2Proof.Claims in
/-- R108, R110: the first check that fails decides the trap: a bounded register 26 with the PC, a misaligned address 4 or 6, one out of
reach 5 or 7, a POISON block 29 for a load, a bounded target 26 for an atomic; the group has no other effect. Clauses of it rest on the model's own reading or choice, log 65. -/
def Obligations.ScratchChecks : Prop := ∀ (s : State) (o : Fmt SpadMod) (k : Fmt SamoMod),
  (s.Issues o → (s.bitA o = true ∨ s.bitB o = true) →
    exec (.lds o) s = .next (s.takeTrap 26 s.iss.pc) ∧ exec (.sts o) s = .next (s.takeTrap 26 s.iss.pc))
  ∧ (s.Issues o → s.bitA o = false → s.bitB o = false →
    ((eaOf s o).toNat % Width.bytes o.mod.w ≠ 0 →
      exec (.lds o) s = .next (s.takeTrap 4 (eaOf s o)) ∧ exec (.sts o) s = .next (s.takeTrap 6 (eaOf s o)))
    ∧ ((eaOf s o).toNat % Width.bytes o.mod.w = 0 → ¬ reaches s (eaOf s o).toNat false →
      exec (.lds o) s = .next (s.takeTrap 5 (eaOf s o)))
    ∧ ((eaOf s o).toNat % Width.bytes o.mod.w = 0 → ¬ reaches s (eaOf s o).toNat true →
      exec (.sts o) s = .next (s.takeTrap 7 (eaOf s o)))
    ∧ ((eaOf s o).toNat % Width.bytes o.mod.w = 0 → reaches s (eaOf s o).toNat false → s.cc.badWords = [] →
      tagPoison (s.cc.tag (eaOf s o).toNat) = true → exec (.lds o) s = .next (s.takeTrap 29 (eaOf s o))))
  ∧ (s.Issues k → s.bitA k = false → s.bitB k = false → s.bitC k = false → s.cc.badWords = [] →
    (s.opA k + k.imm.signExtend 64).toNat % Width.bytes k.mod.w = 0 → reaches s (s.opA k + k.imm.signExtend 64).toNat true →
    tagB (s.cc.tag (s.opA k + k.imm.signExtend 64).toNat) = true →
    exec (.samo k) s = .next (s.takeTrap 26 (s.opA k + k.imm.signExtend 64))
    ∧ exec (.samon k) s = .next (s.takeTrap 26 (s.opA k + k.imm.signExtend 64)))

/-! ## Global loads and stores (15) -/

namespace Sys2Proof.Claims
open Sys2Proof.Machine

/-- The active lanes of a vector form, and the address of each (R155, R233). -/
def lanesOn (s : State) (o : Fmt GlobMod) : List Nat :=
  (List.range (32 / globLw o.mod)).filter fun i => (s.th.readM o.mod.mask).getLsbD (i * globLw o.mod)
def contiguousAddr (s : State) (o : Fmt GlobMod) (i : Nat) : Word := eaOf s o + BitVec.ofNat 64 (i * globWm o.mod)
def indexedAddr (s : State) (o : Fmt GlobMod) (i : Nat) : Word :=
  s.opA o + o.imm.signExtend 64
    + (((s.read o.imm o.b).val >>> (8 * globLw o.mod * i)).setWidth 32).signExtend 64 * BitVec.ofNat 64 (globWm o.mod)
/-- Lane i of the data of a store. -/
def dataLane (s : State) (o : Fmt GlobMod) (i : Nat) : Nat :=
  ((s.read o.imm o.c).val >>> (8 * globLw o.mod * i)).toNat % 2 ^ (8 * globLw o.mod)

/-- A translated element that an access of its kind may make (R79, R234): aligned, mapped and permitted, of a class, its region not
locked (R270), and, but on a BANK page, a region that is valid and of the access's width. -/
structure Fits (s : State) (m : GlobMod) (k : Access) (cls : Nat) (ea : Word) (leaf : TlbEntry) : Prop where
  aligned : ea.toNat % globWm m = 0
  mapped : s.translate ea k = .ok leaf
  page : leaf.cls = cls
  free : cls ≠ 1 → ∀ l, s.regionLock = some l → l.1 ≠ leaf.region
  valid : cls ≠ 1 → regV (s.region leaf.region) = true
  width : cls ≠ 1 → regBytes (s.region leaf.region) = globWm m
  float : m.fc ≠ .none → cls ≠ 1 ∧ regType (s.region leaf.region) = 4

/-- The entry that an update of the current core inserts (R224). -/
def updateOf (s : State) (kind : EntryKind) (pa region : Nat) (v : Int) : RunEntry :=
  ⟨pa / 4, kind, v, region, s.partOf s.cur.core, s.cur.ctx, s.cur.core⟩

/-- The codewords of the blocks that n bytes from an address touch are free of errors (R82). -/
def flawless (s : State) (a n : Nat) : Prop := ∀ w ∈ s.weak, 64 * w.1 ∉ blocksOf a n

/-- The insertion port is free: its last group stands in L0 (R221). -/
def portFree (s : State) : Prop := s.cc.merging = false ∧ s.cc.port = []

/-- An operation with no register, last in flight. -/
def launched (s : State) (k : OpKind) : State :=
  { s with
    ops := s.ops ++ [⟨s.nextOp, s.cur.core, s.cur.ctx, s.cur.thr, none, false, s.iss.pc, k⟩]
    nextOp := s.nextOp + 1 }

end Sys2Proof.Claims

open Sys2Proof Sys2Proof.Machine Sys2Proof.Claims in
/-- R224, R233-R235: STG inserts a SET and CMB a COMBINE of its element into the core's L0 where the page is MERGE; a 64-bit STG of a
BITS32 region inserts two; a REMOTE page sends the update to its device; a BANK page is stored to plainly, and takes no CMB. -/
def Sys2Proof.Claims.GlobalScalarStore : Prop := ∀ (s : State) (o : Fmt GlobMod) (leaf : TlbEntry) (v : Int),
  s.Issues o → s.th.verdict = none → s.bitA o = false → s.bitB o = false → s.bitC o = false → unwatched s →
  let pa := leaf.paOf (eaOf s o).toNat
  let n := dataLane s o 0
  (portFree s → Fits s o.mod .store 0 (eaOf s o) leaf → globValue (s.region leaf.region) o.mod n = some v →
    exec (.stg o) s = .next (s.insert [updateOf s .set pa leaf.region v])
    ∧ (regOp (s.region leaf.region) ≠ 0 → exec (.cmb o) s = .next (s.insert [updateOf s .combine pa leaf.region v])))
  ∧ (portFree s → o.mod.w64 = true → o.mod.fc = .none → (eaOf s o).toNat % 8 = 0 → s.translate (eaOf s o) .store = .ok leaf →
    leaf.cls = 0 → s.regionLock = none → regV (s.region leaf.region) = true → regType (s.region leaf.region) = 6 →
    exec (.stg o) s = .next (s.insert [updateOf s .set pa leaf.region (n % 2 ^ 32 : Nat),
      updateOf s .set (pa + 4) leaf.region (n / 2 ^ 32 : Nat)]))
  ∧ (Fits s o.mod .store 2 (eaOf s o) leaf → globValue (s.region leaf.region) o.mod n = some v →
    exec (.stg o) s = .next (launched s (.remoteUpdate leaf.rdev pa .set v leaf.region))
    ∧ (regOp (s.region leaf.region) ≠ 0 →
      exec (.cmb o) s = .next (launched s (.remoteUpdate leaf.rdev pa .combine v leaf.region))))
  ∧ (Fits s o.mod .store 1 (eaOf s o) leaf →
    exec (.stg o) s = .next (launched s (.bankStore (globWm o.mod) [⟨0, pa, (eaOf s o).toNat, BitVec.ofNat 64 n⟩] false true))
    ∧ exec (.cmb o) s = .next (s.takeTrap 50 (eaOf s o)))
  ∧ (Fits s o.mod .store 0 (eaOf s o) leaf → globValue (s.region leaf.region) o.mod n = none →
    exec (.stg o) s = .next (s.takeTrap 30 (eaOf s o)))

open Sys2Proof Sys2Proof.Machine Sys2Proof.Claims in
/-- R233: STGV, STGX, CMBV and CMBX insert one entry for each active lane, in lane order, at the address of the lane; with no active
lane they do nothing. -/
def Sys2Proof.Claims.GlobalVectorStore : Prop := ∀ (s : State) (o : Fmt GlobMod) (leaf : Nat → TlbEntry) (v : Nat → Int),
  s.Issues o → s.th.verdict = none → s.bitA o = false → s.bitB o = false → s.bitC o = false → unwatched s → portFree s →
  (∀ i ∈ lanesOn s o, globValue (s.region (leaf i).region) o.mod (dataLane s o i) = some (v i)) →
  let entry := fun (kind : EntryKind) (addr : Nat → Word) i =>
    updateOf s kind ((leaf i).paOf (addr i).toNat) (leaf i).region (v i)
  let result := fun kind addr =>
    if lanesOn s o = [] then s else s.insert ((lanesOn s o).map (entry kind addr))
  ((∀ i ∈ lanesOn s o, Fits s o.mod .store 0 (contiguousAddr s o i) (leaf i)) →
    exec (.stgv o) s = .next (result .set (contiguousAddr s o))
    ∧ ((∀ i ∈ lanesOn s o, regOp (s.region (leaf i).region) ≠ 0) →
      exec (.cmbv o) s = .next (result .combine (contiguousAddr s o))))
  ∧ ((∀ i ∈ lanesOn s o, Fits s o.mod .store 0 (indexedAddr s o i) (leaf i)) →
    exec (.stgx o) s = .next (result .set (indexedAddr s o))
    ∧ ((∀ i ∈ lanesOn s o, regOp (s.region (leaf i).region) ≠ 0) →
      exec (.cmbx o) s = .next (result .combine (indexedAddr s o))))

open Sys2Proof Sys2Proof.Machine Sys2Proof.Claims in
/-- R226, R232, R233, R235: the scalar and the vector stores and combines to device memory. Clauses of it rest on the model's own reading or choice, log 76. -/
def Obligations.GlobalStores : Prop := GlobalScalarStore ∧ GlobalVectorStore

open Sys2Proof Sys2Proof.Machine Sys2Proof.Claims in
/-- R221, R259: an insertion leaves its entries in L0, which stays sorted by key, those of one key in the order of their insertion;
from the sixteenth on they wait in the port until the merge that starts there commits. Nothing else of the core, no thread and no byte
changes. -/
def Obligations.InsertionFillsTheFirstRun : Prop := ∀ (s : State) (es : List RunEntry), portFree s → s.cc.l0.length < 16 →
  s.cc.l0.Pairwise (fun e f => e.key ≤ f.key) →
  let t := s.insert es
  let n := min es.length (16 - s.cc.l0.length)
  t.cc.port = es.drop n
  ∧ t.cc.l0.Pairwise (fun e f => e.key ≤ f.key)
  ∧ (∀ k, t.cc.l0.filter (fun e => e.key == k) = (s.cc.l0 ++ es.take n).filter fun e => e.key == k)
  ∧ t.cc.l0.length = s.cc.l0.length + n
  ∧ t.cc.merging = decide (16 ≤ s.cc.l0.length + es.length)
  ∧ t.cc = { s.cc with l0 := t.cc.l0, port := t.cc.port, merging := t.cc.merging }
  ∧ t.threads = s.threads ∧ SameMemory s t ∧ SameScratch s t

namespace Sys2Proof.Claims
open Sys2Proof.Machine

/-- R222, R229: what a load asks of one element: the entries of L1 and L0 that it saw at issue; where their newest SET decides the
value, the lane is decided there and then. -/
def asked (s : State) (m : GlobMod) (i cls : Nat) (ea : Word) (leaf : TlbEntry) : LaneReq :=
  let pa := leaf.paOf ea.toNat
  let view := if cls = 0 then s.nearView s.cur.core s.cur.ctx (pa / 4) else []
  let l : LaneReq := ⟨i, 0, globWm m, pa, ea.toNat, cls, leaf.rdev, leaf.region, view, .waiting, regL (s.region leaf.region)⟩
  if view.any (fun e => decide (e.kind = .set)) then { l with result := s.laneResult l view } else l

/-- A half of a 64-bit element of a BITS32 region (R233). -/
def askedHalf (s : State) (cls : Nat) (ea : Word) (leaf : TlbEntry) (h : Nat) : LaneReq :=
  let pa := leaf.paOf ea.toNat + 4 * h
  let view := if cls = 0 then s.nearView s.cur.core s.cur.ctx (pa / 4) else []
  let l : LaneReq := ⟨0, h, 4, pa, ea.toNat, cls, leaf.rdev, leaf.region, view, .waiting, regL (s.region leaf.region)⟩
  if view.any (fun e => decide (e.kind = .set)) then { l with result := s.laneResult l view } else l

/-- A load under way: the operation with its lanes is the last in flight, its register is to become pending, and the lanes
that a slice decides are on the core's path (R261). -/
def LoadStarts (s : State) (o : Fmt GlobMod) (vec : Bool) (base : VWord) (baseB : Bool) (lanes : List LaneReq)
    (r : Host.Outcome State Fault Refusal) : Prop :=
  ∃ t, r = .next t
    ∧ t.ops = s.ops ++ [⟨s.nextOp, s.cur.core, s.cur.ctx, s.cur.thr, some o.d, false, s.iss.pc,
        .load ⟨vec, o.mod.w64, o.mod.fc, o.mod.sx, globLw o.mod, base, baseB⟩ lanes⟩]
    ∧ t.nextOp = s.nextOp + 1 ∧ t.iss = { s.iss with post := s.iss.post ++ [.pend o.d] }
    ∧ (∃ sent, t.paths = s.paths ++ sent
      ∧ sent.map (·.item) = ((lanes.zipIdx).filter fun p => p.1.cls == 0 && p.1.result == .waiting).map fun p => PathItem.load s.nextOp p.2)
    ∧ t = { s with ops := t.ops, nextOp := t.nextOp, iss := t.iss, paths := t.paths, serial := t.serial }

/-- The register that a masked vector load keeps the inactive lanes of (R156). -/
def keptBy (s : State) (m : GlobMod) (d : Fin 32) : VWord × Bool :=
  if m.zm || m.mask == 0 then (0, false) else ((s.th.readV d).val, (s.th.readV d).b)

end Sys2Proof.Claims

open Sys2Proof Sys2Proof.Machine Sys2Proof.Claims in
/-- R119, R222, R233: LDG, LDGV and LDGX start a load of their elements, each at its address, that makes their register pending; on
a MERGE page each element carries what L1 and L0 hold of its key; a 64-bit LDG of a BITS32 region asks for two elements. -/
def Obligations.GlobalLoadStarts : Prop := ∀ (s : State) (o : Fmt GlobMod) (cls : Nat) (leaf : Nat → TlbEntry),
  s.Issues o → s.bitA o = false → s.bitB o = false → unwatched s → (cls = 0 → portFree s) →
  (Fits s o.mod .load cls (eaOf s o) (leaf 0) →
    LoadStarts s o false 0 false [asked s o.mod 0 cls (eaOf s o) (leaf 0)] (exec (.ldg o) s))
  ∧ (o.mod.w64 = true → o.mod.fc = .none → cls ≠ 1 → (eaOf s o).toNat % 8 = 0 → s.translate (eaOf s o) .load = .ok (leaf 0) →
    (leaf 0).cls = cls → s.regionLock = none → regV (s.region (leaf 0).region) = true → regType (s.region (leaf 0).region) = 6 →
    LoadStarts s o false 0 false [askedHalf s cls (eaOf s o) (leaf 0) 0, askedHalf s cls (eaOf s o) (leaf 0) 1] (exec (.ldg o) s))
  ∧ (∀ d, o.d = .v d → ((o.mod.zm = false ∧ o.mod.mask ≠ 0) → (s.th.readV d).st = .present) →
    ((∀ i ∈ lanesOn s o, Fits s o.mod .load cls (contiguousAddr s o i) (leaf i)) →
      LoadStarts s o true (keptBy s o.mod d).1 (keptBy s o.mod d).2
        ((lanesOn s o).map fun i => asked s o.mod i cls (contiguousAddr s o i) (leaf i)) (exec (.ldgv o) s))
    ∧ ((∀ i ∈ lanesOn s o, Fits s o.mod .load cls (indexedAddr s o i) (leaf i)) →
      LoadStarts s o true (keptBy s o.mod d).1 (keptBy s o.mod d).2
        ((lanesOn s o).map fun i => asked s o.mod i cls (indexedAddr s o i) (leaf i)) (exec (.ldgx o) s)))

open Sys2Proof Sys2Proof.Machine Sys2Proof.Claims in
/-- R79, R217, R234, R270: what stops a global access, first check first: a bounded address or data register 26 with the PC, a misaligned
element 4 or 6, a translation fault its own cause, a region that is not valid 50; a locked region holds the group. A bounded store to a
BANK page stands before issue until its controller has judged it, and then passes or traps. Clauses of it rest on the model's own reading or choice, log 50. -/
def Obligations.GlobalChecks : Prop := ∀ (s : State) (o : Fmt GlobMod) (leaf : TlbEntry), s.Issues o →
  (∀ v, s.th.verdict = some (.pass v) → exec (.stg o) s = .next s)
  ∧ (∀ c v, s.th.verdict = some (.trap c v) → exec (.stg o) s = .next (s.takeTrap c v))
  ∧ (s.th.verdict = none → ((s.bitA o = true ∨ s.bitB o = true) →
    exec (.ldg o) s = .next (s.takeTrap 26 s.iss.pc) ∧ exec (.stg o) s = .next (s.takeTrap 26 s.iss.pc)
    ∧ exec (.cmb o) s = .next (s.takeTrap 26 s.iss.pc))
  ∧ (s.bitA o = false → s.bitB o = false →
    ((eaOf s o).toNat % globWm o.mod ≠ 0 →
      exec (.ldg o) s = .next (s.takeTrap 4 (eaOf s o)) ∧ exec (.stg o) s = .next (s.takeTrap 6 (eaOf s o)))
    ∧ ((eaOf s o).toNat % globWm o.mod = 0 →
      (∀ c, s.translate (eaOf s o) .load = .error (.trap c (eaOf s o)) → exec (.ldg o) s = .next (s.takeTrap c (eaOf s o)))
      ∧ (s.translate (eaOf s o) .load = .ok leaf → leaf.cls = 0 → s.regionLock = none → regV (s.region leaf.region) = false →
        exec (.ldg o) s = .next (s.takeTrap 50 (eaOf s o)))
      ∧ (∀ l, s.translate (eaOf s o) .load = .ok leaf → leaf.cls ≠ 1 → s.regionLock = some l → l.1 = leaf.region →
        exec (.ldg o) s = .next (s.park .none)))
    ∧ (s.bitC o = true → Fits s o.mod .store 0 (eaOf s o) leaf → exec (.stg o) s = .next (s.takeTrap 26 s.iss.pc))
    ∧ (s.bitC o = true → Fits s o.mod .store 1 (eaOf s o) leaf → ∃ t, exec (.stg o) s = .next t ∧ t.iss.status = .queued
      ∧ t.th = { s.th with wait := .judged, verdict := some .waiting } ∧ SameOthers s t ∧ SameMemory s t ∧ SameScratch s t
      ∧ t.ops = s.ops ++ [⟨s.nextOp, s.cur.core, s.cur.ctx, s.cur.thr, none, false, s.iss.pc, .bankStore (globWm o.mod)
          [⟨0, leaf.paOf (eaOf s o).toNat, (eaOf s o).toNat, BitVec.ofNat 64 (dataLane s o 0)⟩] true false⟩])))

open Sys2Proof Sys2Proof.Machine Sys2Proof.Claims in
/-- R229: what a slice decides of a lane from the entries of its key, oldest first: a POISON block faults with cause 29; with no entry the
element of DRAM; a SET its value; a COMBINE the region's operator on the DRAM element; entries of two regions, and a result that does
not fit, fault with cause 49. -/
def Sys2Proof.Claims.LoadComposesTheLevels : Prop := ∀ (s : State) (l : LaneReq) (e f : RunEntry),
  let r := s.region l.region
  let tval : Word := BitVec.ofNat 64 (l.pa / 4 * 4)
  let answer := fun (v : Int) (b : Bool) => match regFit r v with | some n => LaneResult.value n b | none => .fault 49 tval
  (tagPoison (s.blockTag l.pa) = true → s.laneResult l [] = .fault 29 (BitVec.ofNat 64 l.va))
  ∧ (tagPoison (s.blockTag l.pa) = false → s.laneResult l [] = answer (s.dramElement r l.pa) (tagB (s.blockTag l.pa)))
  ∧ (e.kind = .set → s.laneResult l [e] = answer e.value false)
  ∧ (tagPoison (s.blockTag l.pa) = false → e.kind = .combine → e.region = l.region →
    s.laneResult l [e] = answer (regCombine r (s.dramElement r l.pa) e.value) (tagB (s.blockTag l.pa)))
  ∧ (e.kind = .set → f.kind = .combine → e.region = f.region → f.region = l.region →
    s.laneResult l [e, f] = answer (regCombine r e.value f.value) false)
  ∧ (e.kind = .set → f.kind = .combine → e.region ≠ f.region → s.laneResult l [e, f] = .fault 49 tval)
  ∧ (f.kind = .set → s.laneResult l [e, f] = answer f.value false)

open Sys2Proof Sys2Proof.Machine Sys2Proof.Claims in
/-- R119, R229, R233, R235: LOAD_SERVE decides a lane at the head of its path, and once every lane is decided it writes the register, a
value with its B bits or the fault of the lowest faulting lane; the operation is gone. A lane of a reserved pseudo-channel waits
(R295). -/
def Sys2Proof.Claims.LoadServeResolves : Prop := ∀ (s : State) (n : Nat) (op : Op) (fmt : LoadFmt) (lanes : List LaneReq) (d : Fin 32),
  s.op n = some op → op.id = n → op.kind = .load fmt lanes → op.dest = some (.x d) → d ≠ 0 →
  ((∀ l ∈ lanes, l.result ≠ .waiting) → ∃ t, exec (.loadServe n) s = .next t ∧ t.op n = none
    ∧ (laneFault lanes = none → (t.thread op.owner).readX d
        = ⟨(fmt.value lanes).setWidth 64, fmt.baseB || lanes.any LaneReq.bounded, .present⟩)
    ∧ (∀ c v, laneFault lanes = some (c, v) → (t.thread op.owner).readX d = ⟨0, false, .faulted c v⟩)
    ∧ SameMemory s t ∧ SameScratch s t)
  ∧ (∀ l e, lanes = [l] → l.result = .waiting → s.paths = [e] → e.item = .load n 0 →
    (s.reserved l.pa l.width = false → flawless s l.pa l.width → ∃ t, exec (.loadServe n) s = .next t ∧ t.paths = []
      ∧ t.op n = some { op with kind := .load fmt [{ l with
          result := s.laneResult l (s.beyond (l.pa / 4) ++ l.view)
          fixL := regL (s.region l.region) }] })
    ∧ (s.reserved l.pa l.width = true → exec (.loadServe n) s = .next s))

open Sys2Proof Sys2Proof.Machine Sys2Proof.Claims in
/-- R119, R222, R227-R229, R233, R235: what a load composes from the levels above memory, entries of two regions being a merge fault with cause 49
at the key, and how it resolves. Clauses of it rest on the model's own reading or choice, log 1, 10, 76, 82 and 85. -/
def Obligations.GlobalLoadsResolve : Prop := LoadComposesTheLevels ∧ LoadServeResolves

/-! ## Runs, drains and regions (15, 17) -/

namespace Sys2Proof.Claims
open Sys2Proof.Machine

/-- R238: the common level of a scope: L0 for THREAD and CORE, L1 for a RECT within one cluster, L2 else. -/
def commonLevel (sc : Scope) (rect : Word) : Nat :=
  match sc with
  | .thread => 0
  | .core => 0
  | .rect => if (rect.setWidth 8).toNat / 4 = ((rect >>> 16).setWidth 8).toNat / 4
      ∧ ((rect >>> 8).setWidth 8).toNat / 2 = ((rect >>> 24).setWidth 8).toNat / 2 then 1 else 2
  | _ => 2

/-- The status word of a result that is OK: code 0, the count in bits 16 to 47 (R120, R121). -/
def okWord (count : Nat) : Word := BitVec.ofNat 64 (count % 2 ^ 32 * 2 ^ 16)

/-- A future of an x register resolves: it is present with the word and B 0, and its operation is gone. -/
def Resolves (op : Op) (w : Word) (r : Host.Outcome State Fault Refusal) : Prop :=
  ∃ t, r = .next t ∧ t.op op.id = none
    ∧ (∀ d, d ≠ 0 → op.dest = some (.x d) → (t.thread op.owner).readX d = ⟨w, false, .present⟩)

end Sys2Proof.Claims

open Sys2Proof Sys2Proof.Machine Sys2Proof.Claims in
/-- R268-R271: MDRAIN starts a drain to the common level of its scope; MDRAIN of a region asks the slices, RGGET the record, both only
of a region that the context owns (RGGET of region 0 too); MRESOLVE sends a SET to the owning slice past every run; all make their
register pending. RGSET locks the region for its census and issues when that has installed the record. -/
def Sys2Proof.Claims.MergeControl : Prop := ∀ (s : State) (o : Fmt ScopeMod) (u : Fmt Unit) (g : Fmt GlobMod) (leaf : TlbEntry) (v : Int),
  (s.Issues o → s.bitA o = false → (o.mod.scope = .rect → s.rectOk (s.opA o) = true) →
    let level := commonLevel o.mod.scope (s.opA o)
    exec (.mdrain o) s = .next (s.started o (.mdrain (level == 2) (level == 1) false
      ⟨if o.mod.scope = .domain then s.opsOf OpKind.isRemote else [], 0, 0⟩ 0)))
  ∧ (s.Issues u → s.bitA u = false → (s.opA u).toNat ≤ 255 →
    (s.ownsRegion s.cur (s.opA u).toNat = true →
      exec (.mdrainRegion u) s = .next (s.started u (.mdrainRegion (s.opA u).toNat 0 0)))
    ∧ (s.ownsRegion s.cur (s.opA u).toNat = false → exec (.mdrainRegion u) s = .next (s.takeTrap 50 (s.opA u)))
    ∧ ((s.opA u = 0 ∨ s.ownsRegion s.cur (s.opA u).toNat = true) →
      exec (.rgget u) s = .next (s.started u (.rgget (s.opA u).toNat))))
  ∧ (s.Issues u → s.bitA u = false → s.bitB u = false → (s.opA u).toNat ≤ 255 →
    (s.th.verdict = none → s.regionLock = none → ∃ t, exec (.rgset u) s = .next t ∧ t.iss.status = .queued
      ∧ t.regionLock = some ((s.opA u).toNat, s.opB u, s.cur)
      ∧ t.th = { s.th with wait := .judged, verdict := some .waiting } ∧ SameOthers s t)
    ∧ (∀ w, s.th.verdict = some (.pass w) → exec (.rgset u) s = .next s)
    ∧ (∀ c w, s.th.verdict = some (.trap c w) → exec (.rgset u) s = .next (s.takeTrap c w)))
  ∧ (s.Issues g → s.bitA g = false → s.bitB g = false → s.bitC g = false → unwatched s → Fits s g.mod .store 0 (eaOf s g) leaf →
    globValue (s.region leaf.region) g.mod (dataLane s g 0) = some v →
    let pa := leaf.paOf (eaOf s g).toNat
    exec (.mresolve g) s = .next { s.started g (.resolve none (eaOf s g)) with
      paths := s.paths ++ [⟨pathOf s.cur.core, sliceOf pa, s.serial, .resolve s.nextOp [updateOf s .set pa leaf.region v]⟩]
      serial := s.serial + 1 })

open Sys2Proof Sys2Proof.Machine Sys2Proof.Claims in
/-- R268, R270, R271, R345: a drain whose moves have committed resolves to OK with its count; the census installs a legal record of an owned
region of which no entry is left, and otherwise makes the RGSET fault with cause 50, and unlocks the region; a threshold trap that is
due comes first, and a group whose other slot traps installs nothing (log 26); RGGET resolves to the record's lower word. -/
def Sys2Proof.Claims.MergeControlEvents : Prop := ∀ (s : State) (n : Nat) (op : Op), s.op n = some op → op.id = n →
  (∀ a b w c, op.kind = .mdrain a b true w c → s.fenceDone w = true → Resolves op (okWord c) (exec (.mdrainComplete n) s))
  ∧ (∀ r c, op.kind = .mdrainRegion r 96 c → Resolves op (okWord c) (exec (.mdrainComplete n) s))
  ∧ (∀ r, op.kind = .rgget r → Resolves op ((s.region r).setWidth 64) (exec (.rggetResolve n) s))
  ∧ (∀ t, (s.thread t).thresholdDue = true → exec (.regionCensus t) s = .next s)
  ∧ (∀ id w t, s.regionLock = some (id, w, t) → (s.thread t).thresholdDue = false → ∃ u, exec (.regionCensus t) s = .next u ∧ u.regionLock = none
    ∧ (s.ownsRegion t id = true → id ≠ 0 → regLegal (w.setWidth 128) = true → s.census id = false →
      (u.thread t).verdict = some (.pass 0) ∧ (∀ k, k ≠ id → u.region k = s.region k)
      ∧ u.region id = if (s.thread t).doomed then s.region id else w.setWidth 128)
    ∧ ((s.ownsRegion t id = false ∨ regLegal (w.setWidth 128) = false ∨ s.census id = true) →
      u.regions = s.regions ∧ (u.thread t).verdict = some (.trap 50 (BitVec.ofNat 64 id))))

open Sys2Proof Sys2Proof.Machine Sys2Proof.Claims in
/-- R268-R271: MDRAIN, MRESOLVE, RGSET and RGGET, and the events that answer them. Clauses of it rest on the model's own reading or choice, log 26, 68 and 69. -/
def Obligations.MergeControlInstructionsAndEvents : Prop := MergeControl ∧ MergeControlEvents

open Sys2Proof Sys2Proof.Machine in
/-- R228, R260, R264: the entries of one key, the oldest first, folded onto what the next level holds of it; a fold that fails leaves
POISON under the older entry's region. -/
def Sys2Proof.Claims.runFold (region : Nat → BitVec 128) : Option RunEntry → List RunEntry → Option RunEntry
  | o, [] => o
  | none, e :: r => runFold region (some e) r
  | some o, e :: r => runFold region (some (match foldFails (region e.region) o e with
    | none => foldOk (region e.region) o e
    | some _ => { e with kind := .poison, value := 0, region := o.region })) r

open Sys2Proof Sys2Proof.Machine Sys2Proof.Claims in
/-- R221, R228, R259-R261: how an entry moves toward memory: the L0 merge puts all entries of each key into L1 at once, folded onto what
stands there, or, where they would not fit, after all of L1 has left for the slices; a cox core's go on its paths, key by key; then the
port goes on with up to 16 entries; L1 puts an entry on its path; the slice takes it off and holds it; a write-back moves it from the slice to the write-back buffer. -/
def Sys2Proof.Claims.RunsMoveTowardMemory : Prop := ∀ (s : State) (core : Nat) (ctx : Bool) (e : RunEntry),
  ((s.coreCtx core ctx).merging = false → exec (.l0MergeCommit core ctx) s = .next s)
  ∧ ((s.coreCtx core ctx).merging = true → (∀ f ∈ (s.coreCtx core ctx).l0, f.ctx = ctx) →
    let l0 := (s.coreCtx core ctx).l0
    let port := (s.coreCtx core ctx).port
    let cl := clusterOf core
    let ofKey := fun (k : Nat) => l0.filter fun f => f.key == k
    let room := ((s.cluster cl).l1.filter fun f => f.ctx == ctx || !s.split2 core).length
      + ((keysOf l0).filter fun k => (s.l1Find cl k ctx).isNone).length ≤ s.l1Cap core
    ∃ t, exec (.l0MergeCommit core ctx) s = .next t ∧ SameMemory s t
      ∧ (t.coreCtx core ctx).l0 = (port.take 16).foldl (fun l f => insertEntry f l) []
      ∧ (t.coreCtx core ctx).port = port.drop 16 ∧ (t.coreCtx core ctx).merging = decide (16 ≤ port.length)
      ∧ (isCox core = false → room → t.paths = s.paths ∧ (∀ k, ofKey k ≠ [] → t.l1Find cl k ctx = runFold s.region (s.l1Find cl k ctx) (ofKey k))
        ∧ ∀ k, ofKey k = [] → t.l1Find cl k ctx = s.l1Find cl k ctx)
      ∧ (isCox core = false → ¬ room → (∀ k, t.l1Find cl k ctx = runFold s.region none (ofKey k))
        ∧ ∀ k f, s.l1Find cl k ctx = some f → ∃ p ∈ t.paths, p.src = cl ∧ p.slice = sliceOf (k * 4) ∧ p.item = .entries [f])
      ∧ (isCox core = true → t.clusters = s.clusters
        ∧ ∀ k, ofKey k ≠ [] → ∃ p ∈ t.paths, p.src = pathOf core ∧ p.slice = sliceOf (k * 4) ∧ p.item = .entries (ofKey k)))
  ∧ (∀ cluster, s.l1Find cluster e.key ctx = some e → ∃ t, exec (.l1Move cluster e.key ctx) s = .next t
    ∧ t.l1Find cluster e.key ctx = none
    ∧ t.paths = s.paths ++ [⟨cluster, sliceOf (e.key * 4), s.serial, .entries [e]⟩] ∧ SameMemory s t)
  ∧ (∀ p r, s.paths = p :: r → p.item = .entries [e] → e.kind ≠ .poison → s.l2Find e.key = none → s.l2 = [] →
    ∃ t, exec (.l2Fold p.src p.slice) s = .next t ∧ t.l2Find e.key = some e
      ∧ t.paths = (s.paths.filter fun q => q.serial != p.serial) ∧ SameMemory s t)
  ∧ (s.l2Find e.key = some e → e.kind ≠ .poison → SMap.find s.wbuf e.key = none →
    exec (.writeBack e.key) s = .next { s with l2 := SMap.del s.l2 e.key, wbuf := SMap.put s.wbuf e.key e })

open Sys2Proof Sys2Proof.Machine Sys2Proof.Claims in
/-- R81, R229, R261: the write-back of a SET that fits writes exactly the element's bytes to DRAM; every other byte reads as before, the block's
ZERO or CONST payload included, whose tag becomes RAW and keeps its B; at a reserved pseudo-channel it waits (R295). -/
def Sys2Proof.Claims.WriteBackStoresTheElement : Prop := ∀ (s : State) (key : Nat) (e : RunEntry) (n : Int),
  SMap.find s.wbuf key = some e → e.kind = .set → tagPoison (s.blockTag (key * 4)) = false →
  key * 4 % regBytes (s.region e.region) = 0 → regFit (s.region e.region) e.value = some n →
  flawless s (key * 4) (regBytes (s.region e.region)) →
  (s.reserved (key * 4) 8 = true → exec (.writeBackCommit key) s = .next s)
  ∧ (s.reserved (key * 4) 8 = false → ∃ t, exec (.writeBackCommit key) s = .next t
    ∧ (∀ a, t.dramByte a = if key * 4 ≤ a ∧ a < key * 4 + regBytes (s.region e.region)
        then BitVec.ofInt 8 (n / 2 ^ (8 * (a - key * 4))) else s.dramByte a)
    ∧ (∀ a, t.blockTag a = if a / 64 = key * 4 / 64 then tagAfter (s.blockTag a) false else s.blockTag a)
    ∧ t.wbuf = SMap.del s.wbuf key ∧ t.threads = s.threads ∧ t.ctxs = s.ctxs)

open Sys2Proof Sys2Proof.Machine Sys2Proof.Claims in
/-- R81, R221, R228, R229, R259-R261: entries move from level to level, all keys of an L0 at one commit, and a write-back stores exactly
their element. -/
def Obligations.RunsReachMemory : Prop := RunsMoveTowardMemory ∧ WriteBackStoresTheElement

/-! ## Synchronisation (16) -/

open Sys2Proof Sys2Proof.Machine Sys2Proof.Claims in
/-- R242-R244: BIND makes the object bound to its ranges and scope with SEQ 0; ACQ goes on once SEQ has reached the target and parks
until then; REL starts a release that waits first for the thread's stores. An object that is not bound faults with cause 51. -/
def Sys2Proof.Claims.SyncObjects : Prop := ∀ (s : State) (o : Fmt ScopeMod) (u : Fmt Unit) (obj : Nat)
    (ls : List ((Word × Word) × TlbEntry × TlbEntry)),
  (s.Issues o → s.bitA o = false → s.bitB o = false → s.bitC o = false →
    (s.opB o).toNat % 16 = 0 → (s.opB o).toNat + 16 * (o.imm.toNat % 16) ≤ (if s.split2 s.cur.core then 0x17000 else 0x2F000) →
    s.objectOf (s.opA o) = .ok obj → (o.mod.scope = .rect → s.rectOk (s.opC o) = true) → s.cc.badWords = [] → unwatched s →
    s.rangeLeaves ((List.range (o.imm.toNat % 16)).map fun k => s.rangeEntry (s.opB o).toNat k) = .ok ls →
    (∀ k, k < o.imm.toNat % 16 → (s.rangeEntry (s.opB o).toNat k).1.toNat % 4 = 0
      ∧ (s.rangeEntry (s.opB o).toNat k).2.toNat % 4 = 0 ∧ 4 ≤ (s.rangeEntry (s.opB o).toNat k).2.toNat) →
    (∀ p ∈ ls, p.2.1 = p.2.2 ∧ (p.2.1.cls = 0 ∨ (p.2.1.cls = 2 ∧ o.mod.scope = .domain))) → s.relOpen obj = false →
    exec (.bind o) s = .next (s.setSync obj ⟨true, o.mod.scope, if o.mod.scope = .rect then s.opC o else 0,
      ls.map fun p => (p.2.1.paOf p.1.1.toNat, p.1.2.toNat, if p.2.1.cls = 2 then some p.2.1.rdev else none), 0⟩))
  ∧ (s.Issues u → s.bitA u = false → s.objectOf (s.opA u) = .ok obj →
    ((s.sync obj).bound = true → exec (.rel u) s
      = .next (s.started u (.rel ⟨obj, .acks, ⟨s.opsOf OpKind.isStore, 0, 0⟩, 0, [], 0⟩)))
    ∧ ((s.sync obj).bound = false → exec (.rel u) s = .next (s.takeTrap 51 (s.opA u)))
    ∧ (s.bitB u = false → (s.sync obj).bound = true →
      ((s.sync obj).scope = .rect → rectHolds (s.sync obj).rect s.cur.core = true) →
      exec (.acq u) s = .next (if ((s.sync obj).seq - (s.opB u).setWidth 32).msb = false then s else s.park .none)))

open Sys2Proof Sys2Proof.Machine Sys2Proof.Claims in
/-- R243, R375, R376: while its thread's stores or its moves are not acknowledged a release waits, and so does one behind an earlier
REL of its thread on the object; where no path is left to a device it resolves to LINK_DOWN, with the entries that it moved as its
count, and SEQ does not change; once its moves have committed it counts SEQ by 1 and resolves to OK with the number of entries that it
moved; with devices to tell it sends a flag to each, and counts when no flag is outstanding and no release of the object whose moves
were complete before is still to count. -/
def Sys2Proof.Claims.ReleaseCountsSeq : Prop := ∀ (s : State) (n : Nat) (op : Op) (r : RelOp),
  s.op n = some op → op.id = n → op.kind = .rel r →
  let counts := Resolves op (okWord r.count) (exec (.relCount n) s)
    ∧ ∃ t, exec (.relCount n) s = .next t ∧ (t.sync r.obj).seq = (s.sync r.obj).seq + 1
      ∧ (t.sync r.obj).bound = (s.sync r.obj).bound ∧ (∀ k, k ≠ r.obj → t.sync k = s.sync k) ∧ SameMemory s t
  (r.stage ≠ .flags → s.fenceDone r.wait = false → s.lostAck r.wait = none → exec (.relCount n) s = .next s)
  ∧ (r.stage = .acks → s.fenceDone r.wait = true → s.relEarlier op r = true → exec (.relCount n) s = .next s)
  ∧ (∀ d, r.stage = .acks → s.fenceDone r.wait = false → s.lostAck r.wait = some d →
    Resolves op (statusWord 7 0) (exec (.relCount n) s) ∧ ∃ t, exec (.relCount n) s = .next t ∧ t.syncs = s.syncs)
  ∧ (r.stage = .moves → s.fenceDone r.wait = true → s.flagDevices r = [] → counts)
  ∧ (r.stage = .moves → s.fenceDone r.wait = true → s.flagDevices r ≠ [] → ∃ t flags, exec (.relCount n) s = .next t
    ∧ flags.map (·.1) = s.flagDevices r ∧ t.syncs = s.syncs
    ∧ t.op n = some { op with kind := .rel { r with stage := .flags, flags := flags, moved := s.tick } })
  ∧ (∀ f, r.stage = .flags → r.flags.find? (fun f => !s.pathTo f.1) = some f →
    Resolves op (statusWord 7 r.count) (exec (.relCount n) s) ∧ ∃ t, exec (.relCount n) s = .next t ∧ t.syncs = s.syncs)
  ∧ (r.stage = .flags → r.flags ≠ [] → (∀ f ∈ r.flags, s.pathTo f.1 = true) → exec (.relCount n) s = .next s)
  ∧ (r.stage = .flags → r.flags = [] → (s.relAhead r = true → exec (.relCount n) s = .next s) ∧ (s.relAhead r = false → counts))

open Sys2Proof Sys2Proof.Machine Sys2Proof.Claims in
/-- R242-R244: BIND, REL and ACQ, and the end of a release. Clauses of it rest on the model's own reading or choice, log 1 and 71. -/
def Obligations.SyncObjectsAndReleases : Prop := SyncObjects ∧ ReleaseCountsSeq

open Sys2Proof Sys2Proof.Machine Sys2Proof.Claims in
/-- R245, R246, R261: FENCE issues and then waits for the thread's loads and stores, having drained the core's L0 where the scope's level is
not L0; a move that the core issued before goes first, and the fence then waits for its own as well; the thread does not run before the
fence is complete. BFENCE parks until the thread's bank commands in its bank word have completed. Clauses of it rest on the model's own reading or choice, log 66 and 67. -/
def Obligations.Fences : Prop := ∀ (s : State) (o : Fmt ScopeMod) (u : Fmt Unit),
  (s.Issues o → s.bitA o = false → (o.mod.scope = .rect → s.rectOk (s.opA o) = true) →
    let level := commonLevel o.mod.scope (s.opA o)
    ∃ t w, exec (.fence o) s = .next t ∧ t.th = { s.th with wait := .fence w .nothing }
      ∧ (level = 0 → t = s.setTh { s.th with wait := .fence w .nothing })
      ∧ ((level = 0 ∨ s.moveWaits s.cur.core s.cur.ctx s.nextOp = false) → w.ops = s.opsOf OpKind.isAccess)
      ∧ (level ≠ 0 → s.moveWaits s.cur.core s.cur.ctx s.nextOp = false → t.cc.l0 = [])
      ∧ (level ≠ 0 → s.moveWaits s.cur.core s.cur.ctx s.nextOp = true → w.ops = s.opsOf OpKind.isAccess ++ [s.nextOp]
        ∧ t.ops = s.ops ++ [⟨s.nextOp, s.cur.core, s.cur.ctx, s.cur.thr, none, false, s.iss.pc,
          .mdrain (level == 2) (level == 1) false ⟨[], 0, 0⟩ 0⟩])
      ∧ SameMemory s t)
  ∧ (∀ f a, s.th.wait = .fence f a → s.fenceDone f = false → s.mayRun = false)
  ∧ (s.Issues u → s.bitA u = false → bankWordOk (s.opA u) = true →
    exec (.bfence u) s = .next (if s.bankPending s.cur (bankWordHolds (s.opA u)) = [] then s else s.park .none))
  ∧ (s.Issues u → s.bitA u = false → bankWordOk (s.opA u) = false → exec (.bfence u) s = .next (s.takeTrap 51 (s.opA u)))

namespace Sys2Proof.Claims
open Sys2Proof.Machine

/-- R249: what the fence of an arrival waits for: the thread's loads and stores, and its own drain where it takes its turn behind
an earlier move of the core (R261). -/
def fences (s : State) (w : FenceWait) : Prop :=
  w.ops = s.opsOf OpKind.isAccess ++ (if s.moveWaits s.cur.core s.cur.ctx s.nextOp then [s.nextOp] else [])

end Sys2Proof.Claims

open Sys2Proof Sys2Proof.Machine Sys2Proof.Claims in
/-- R249, R250: the arrivals BAR, BARA and BARR hand over to a fence and a judgement before they issue; then BAR waits for the phase
to end, BARA returns the phase and BARR goes on; a refused one traps. BARW goes on once the phase has passed its value. -/
def Sys2Proof.Claims.BarrierInstructions : Prop := ∀ (s : State) (o : Fmt Unit) (r : Fmt BarrMod),
  (s.predOn o.pred = true →
    (∀ p w x, s.th.verdict = some (.pass p) → s.th.wait = .arrive w x →
      exec (.bar o) s = .next (s.setTh { s.th with wait := .barrier x.obj (p.setWidth 32) }))
    ∧ (∀ p, s.th.verdict = some (.pass p) → exec (.bara o) s = .next (s.land o.d (p.setWidth 256) false 1))
    ∧ (∀ c v, s.th.verdict = some (.trap c v) →
      exec (.bar o) s = .next (s.takeTrap c v) ∧ exec (.bara o) s = .next (s.takeTrap c v)))
  ∧ (s.predOn r.pred = true → ∀ p, s.th.verdict = some (.pass p) → exec (.barr r) s = .next s)
  ∧ (s.Issues o → s.bitA o = false → s.th.verdict = none → s.th.wait = .none →
    (∃ t w x, exec (.bar o) s = .next t ∧ t.iss.status = .queued ∧ t.th.wait = .arrive w x ∧ t.th.verdict = some .waiting
      ∧ x.id = (s.opA o).toNat ∧ x.reduce = none ∧ fences s w)
    ∧ (∃ t w x, exec (.bara o) s = .next t ∧ t.iss.status = .queued ∧ t.th.wait = .arrive w x ∧ t.th.verdict = some .waiting
      ∧ x.id = (s.opA o).toNat ∧ x.reduce = none ∧ fences s w))
  ∧ (s.Issues r → s.bitA r = false → s.bitB r = false → s.th.verdict = none →
    ∃ t w x, exec (.barr r) s = .next t ∧ t.iss.status = .queued ∧ t.th.wait = .arrive w x ∧ t.th.verdict = some .waiting
      ∧ x.id = (s.opA r).toNat ∧ x.reduce = some (r.mod.op, r.mod.l) ∧ x.payload = s.opB r ∧ x.dest = r.d
      ∧ fences s w)
  ∧ (s.Issues o → s.bitA o = false → s.bitB o = false →
    (s.barrierOf s.cur (s.opA o) = none → exec (.barw o) s = .next (s.takeTrap 55 (s.opA o)))
    ∧ (∀ obj n, s.barrierOf s.cur (s.opA o) = some (obj, n) →
      let d := (s.barrier obj).phase - (s.opB o).setWidth 32
      exec (.barw o) s = .next (if d ≠ 0 ∧ d.msb = false then s else s.park .none)))

open Sys2Proof Sys2Proof.Machine Sys2Proof.Claims in
/-- R249-R251, R377: an arrival whose fence is complete counts at its barrier, of the task or of the domain, and is told the phase; the
last one of a phase begins the next, that of a domain barrier only on device 0. A phase of another kind refuses it with cause 55, as
does an id that is no barrier. A BARR brings its payload, and its register is pending until its phase ends, which gives it what the
payloads combine to; an FSUM payload that does not convert faults with cause 30. One of a group whose other slot traps does not count
(log 26). BARAGE takes its low 32 bits, and an open phase at the
limit writes one record, at the latest before BARAGE changes. -/
def Sys2Proof.Claims.ArrivalsCount : Prop := ∀ (s : State) (t : ThreadId) (w : FenceWait) (a : Arrival) (obj count : Nat) (age : Word),
  let b := s.barrier obj
  let n := s.arrivals obj a.id + 1
  ((s.thread t).wait = .arrive w a → (s.thread t).verdict = some .waiting → a.id < 4096 →
    (s.fenceDone w = false → exec (.barrierArrive t) s = .next s)
    ∧ (s.fenceDone w = true → s.barrierOf t (BitVec.ofNat 64 a.id) = none →
      ∃ u, exec (.barrierArrive t) s = .next u ∧ (u.thread t).verdict = some (.trap 55 (BitVec.ofNat 64 a.id)))
    ∧ (s.fenceDone w = true → s.barrierOf t (BitVec.ofNat 64 a.id) = some (obj, count) →
      (∀ l, a.reduce = some (.fsum, l) → toFX 128 l.toInt (fp64.decode a.payload.toNat) = none →
        ∃ u, exec (.barrierArrive t) s = .next u ∧ (u.thread t).verdict = some (.trap 30 a.payload))
      ∧ ((∀ l, a.reduce = some (.fsum, l) → toFX 128 l.toInt (fp64.decode a.payload.toNat) ≠ none) →
        (phaseClash b.kind a.reduce = true →
          ∃ u, exec (.barrierArrive t) s = .next u ∧ (u.thread t).verdict = some (.trap 55 (BitVec.ofNat 64 a.id)))
        ∧ (phaseClash b.kind a.reduce = false → (s.thread t).doomed = true →
          ∃ u, exec (.barrierArrive t) s = .next u ∧ (u.thread t).verdict = some (.pass 0) ∧ u.barriers = s.barriers)
        ∧ (phaseClash b.kind a.reduce = false → (s.thread t).doomed = false → (a.reduce = none ∨ ∃ d, d ≠ 0 ∧ a.dest = .x d) →
          ∃ u, exec (.barrierArrive t) s = .next u ∧ (u.thread t).verdict = some (.pass (b.phase.setWidth 64))
            ∧ ((n < count ∨ (512 ≤ a.id ∧ s.dev ≠ 0)) →
              (u.barrier obj).arrived = b.arrived + 1 ∧ (u.barrier obj).phase = b.phase ∧ u.domReports = s.domReports
              ∧ (∀ r, a.reduce = some r → (u.barrier obj).payloads = b.payloads ++ [a.payload])
              ∧ (∀ r d, a.reduce = some r → a.dest = .x d → d ≠ 0 → ((u.thread t).readX d).st = .pending))
            ∧ (count ≤ n → (a.id < 512 ∨ s.dev = 0) →
              (u.barrier obj).arrived = 0 ∧ (u.barrier obj).phase = b.phase + 1
              ∧ (512 ≤ a.id → SMap.get 0 u.domReports a.id = n - count)
              ∧ (∀ o l v d, a.reduce = some (o, l) → a.dest = .x d → d ≠ 0 → n = count → (∀ p ∈ s.ops, ∀ k, p.kind ≠ .barr obj k) →
                combineAll o l (b.payloads ++ [a.payload] ++ b.reported) = some v →
                (u.thread t).readX d = ⟨v, false, .present⟩))))))
  ∧ ((∀ k, s.tooOld k = false) → exec (.barageWrite age) s = .next { s with barage := (age.setWidth 32).setWidth 64 })
  ∧ (s.tooOld obj = true → ∃ u, exec (.barageWrite age) s = .next u ∧ u.barage = (age.setWidth 32).setWidth 64
    ∧ (u.barrier obj).recorded = true)
  ∧ (s.tooOld obj = true → ∃ u r, exec (.barrierAgeRecord obj) s = .next u ∧ u.records = s.records ++ [r] ∧ r.fatal = false
    ∧ (u.barrier obj).recorded = true)

open Sys2Proof Sys2Proof.Machine Sys2Proof.Claims in
/-- R249, R250, R377: DOMAIN_BARRIER_REPORT counts the arrivals that a device below reports, one by one, each with its payload, at the
device's object of the id; where they fit the open phase and do not fill it, or the device is not device 0, they wait there; on device
0 those that fill it begin the next phase. One of another kind does not count, and an id of no domain barrier does nothing.
DOMAIN_BARRIER_COMPLETE begins the next phase on another device. -/
def Sys2Proof.Claims.DomainReports : Prop := ∀ (s : State) (id n : Nat) (r : Option (BarrOp × BitVec 8)) (ps : List Word),
  let obj := 8192 + id
  let b := s.barrier obj
  let count := (SMap.get (0 : BitVec 32) s.dbarcnt (id - 512)).toNat
  let reports := SMap.get 0 s.domReports id
  ((id < 512 ∨ 4096 ≤ id) → exec (.domainBarrierReport id n r ps) s = .next s ∧ exec (.domainBarrierComplete id ps) s = .next s)
  ∧ (512 ≤ id → id < 4096 →
    exec (.domainBarrierReport id n r ps) s = .next (s.reportAll id count r ps n)
    ∧ (phaseClash b.kind r = true → exec (.domainBarrierReport id n r ps) s = .next s)
    ∧ (phaseClash b.kind r = false → 1 ≤ n →
      (count = 0 ∨ b.arrived + reports + n < count ∨ s.dev ≠ 0 →
        ∃ u, exec (.domainBarrierReport id n r ps) s = .next u ∧ SMap.get 0 u.domReports id = reports + n
          ∧ (u.barrier obj).phase = b.phase ∧ (u.barrier obj).arrived = b.arrived ∧ phaseClash (u.barrier obj).kind r = false
          ∧ (u.barrier obj).reported = (if r.isSome then b.reported ++ ps.take n else b.reported) ∧ u.threads = s.threads)
      ∧ (s.dev = 0 → b.arrived + reports < count → b.arrived + reports + n = count →
        ∃ u, exec (.domainBarrierReport id n r ps) s = .next u ∧ SMap.get 0 u.domReports id = 0
          ∧ (u.barrier obj).phase = b.phase + 1 ∧ (u.barrier obj).arrived = 0 ∧ (u.barrier obj).kind = .empty
          ∧ (u.barrier obj).reported = [] ∧ (u.barrier obj).payloads = []))
    ∧ (s.dev = 0 → exec (.domainBarrierComplete id ps) s = .next s)
    ∧ (s.dev ≠ 0 → ∃ u, exec (.domainBarrierComplete id ps) s = .next u ∧ (u.barrier obj).phase = b.phase + 1
      ∧ (u.barrier obj).arrived = 0 ∧ SMap.get 0 u.domReports id = 0))

open Sys2Proof Sys2Proof.Machine Sys2Proof.Claims in
/-- R248-R251, R377: BAR, BARA, BARR and BARW, and what happens at a barrier. Clauses of it rest on the model's own reading or choice, log 26, 28 and 97. -/
def Obligations.Barriers : Prop := BarrierInstructions ∧ ArrivalsCount ∧ DomainReports

/-! ## Futures, messages, work and deques (08, 20, 21) -/

open Sys2Proof Sys2Proof.Machine in
/-- R123: FTEST says of a register whether it is not pending, or with its flag whether it is faulted, and never parks on it; FWAIT parks
while any of its three is pending; FCANCEL marks the operation bound to a pending register; FMOVC gives a c register what the x
register holds, a value or a fault, and clears the x register when the group commits. -/
def Obligations.FutureInstructions : Prop := ∀ (s : State) (f : Fmt Bool) (o : Fmt Unit) (n : Fin 8) (m : Fin 32) (p : Op),
  (s.predOn f.pred = true →
    ((f.mod = false ∧ (s.read f.imm f.a).st ≠ .pending ∨ f.mod = true ∧ ∃ c v, (s.read f.imm f.a).st = .faulted c v) →
      exec (.ftest f) s = .next (s.land f.d 1 false 1))
    ∧ ((f.mod = false ∧ (s.read f.imm f.a).st = .pending ∨ f.mod = true ∧ ∀ c v, (s.read f.imm f.a).st ≠ .faulted c v) →
      exec (.ftest f) s = .next (s.land f.d 0 false 1)))
  ∧ (s.predOn o.pred = true →
    ((s.read o.imm o.a).st ≠ .pending → (s.read o.imm o.b).st ≠ .pending → (s.read o.imm o.c).st ≠ .pending →
      exec (.fwait o) s = .next s)
    ∧ (((s.read o.imm o.a).st = .pending ∨ (s.read o.imm o.b).st = .pending ∨ (s.read o.imm o.c).st = .pending) →
      exec (.fwait o) s = .next (s.park .none))
    ∧ ((s.read o.imm o.a).st ≠ .pending → exec (.fcancel o) s = .next s)
    ∧ ((s.read o.imm o.a).st = .pending → s.boundOp o.a = some p →
      exec (.fcancel o) s = .next (s.setOp { p with cancelled := true }))
    ∧ (o.d = .c n → o.a = .x m → (s.cc.readC n).st ≠ .pending → (s.th.readX m).st ≠ .pending →
      exec (.fmovc o) s = .next { s with iss := { s.iss with post := s.iss.post ++ [.store n (s.th.readX m), .clear m] } })
    ∧ (o.d = .c n → o.a = .x m → (s.cc.readC n).st ≠ .pending → (s.th.readX m).st = .pending → s.boundOp o.a = some p →
      exec (.fmovc o) s = .next { s.setOp { p with dest := some (.c n) } with
        iss := { s.iss with post := s.iss.post ++ [.store n (s.th.readX m), .clear m] } })
    ∧ (o.d = .c n → (s.cc.readC n).st = .pending → o.a = .x m → exec (.fmovc o) s = .next (s.park .none)))

namespace Sys2Proof.Claims
open Sys2Proof.Machine

/-- R128, R332: the cores that the current thread's SEND may name: a compute core of its partition, or a cox core of which a configured
gradient queue names its partition context. -/
def reachable (s : State) (dst : Nat) : Prop :=
  if dst < 2048 then (s.part (s.partOf s.cur.core)).holds (clusterOf dst) = true
  else dst < 2144 ∧ ∃ q, q < 8 ∧
    let g : Word := SMap.get 0 s.gqcfg (8 * (dst - 2048) + q)
    g.getLsbD 23 = true ∧ ((g >>> 13).setWidth 4).toNat = s.partOf s.cur.core ∧ g.getLsbD 17 = s.cur.ctx

/-- R127, R323: the message that a SEND posts, with its sender and the task that sends it. -/
def posted (s : State) (o : Fmt SendMod) : Message :=
  ⟨o.mod.inbox.val, s.opB o, s.bitB o, s.cur.core, s.cur.thr, (s.taskOf s.cur.core s.cur.ctx).map (·.id), s.th.taskid⟩

end Sys2Proof.Claims

open Sys2Proof Sys2Proof.Machine Sys2Proof.Claims in
/-- R127, R128: SEND posts its word, with its B bit, to an inbox of a core that it may name, at most 16 of a core not acknowledged; another
core faults with cause 7. RECV takes a present inbox, which then takes the oldest message that waits for it. -/
def Sys2Proof.Claims.Messages : Prop := ∀ (s : State) (o : Fmt SendMod) (u : Fmt Unit) (n : Fin 32),
  (s.Issues o → s.bitA o = false →
    (reachable s (s.opA o).toNat →
      exec (.send o) s = .next (if (s.ops.filter fun p => p.core == s.cur.core && p.kind.isSend).length < 16
        then launched s (.send (s.opA o).toNat (posted s o) false) else s.park .none))
    ∧ (¬ reachable s (s.opA o).toNat → exec (.send o) s = .next (s.takeTrap 7 (s.opA o))))
  ∧ (s.Issues u → u.a = .i n →
    (s.cc.waiting = [] →
      exec (.recv u) s = .next ((s.setCc (s.cc.writeI n.val inboxEmpty)).land u.d ((s.cc.readI n.val).val.setWidth 256)
        (s.cc.readI n.val).b 1))
    ∧ (∀ m, s.cc.waiting.find? (fun m => m.inbox == n.val) = some m → ∃ t, exec (.recv u) s = .next t
      ∧ t.cc.readI n.val = ⟨m.value, m.b, .present⟩))

open Sys2Proof Sys2Proof.Machine in
/-- R127, R128, R321, R322: a message that reaches a core whose context is resident and holds threads is written to its inbox where that is not
present, else waits; where its context is not resident it goes to the save area; where no thread is left it is a dead letter; the
acknowledgement ends the SEND. -/
def Sys2Proof.Claims.MessageEvents : Prop := ∀ (s : State) (n : Nat) (op : Op) (dst : Nat) (m : Message),
  s.op n = some op → op.id = n → s.ops = [op] → m.core = op.core →
  (op.kind = .send dst m false → (s.part (s.partOf op.core)).res = op.ctx →
    (s.part (s.partOf op.core)).swapping = false →
    (s.holdsThread m op.ctx dst = true → ((s.coreCtx dst op.ctx).readI m.inbox).st = .pending → (s.coreCtx dst op.ctx).waiting = [] →
      ∃ t, exec (.messageArrive n) s = .next t ∧ (t.coreCtx dst op.ctx).readI m.inbox = ⟨m.value, m.b, .present⟩
        ∧ t.ops = [{ op with kind := .send dst m true }] ∧ SameMemory s t)
    ∧ (s.holdsThread m op.ctx dst = true → ((s.coreCtx dst op.ctx).readI m.inbox).st ≠ .pending →
      (s.coreCtx dst op.ctx).waiting.length < 32 →
      ∃ t, exec (.messageArrive n) s = .next t ∧ (t.coreCtx dst op.ctx).readI m.inbox = (s.coreCtx dst op.ctx).readI m.inbox
        ∧ (t.coreCtx dst op.ctx).waiting = (s.coreCtx dst op.ctx).waiting ++ [m])
    ∧ (s.holdsThread m op.ctx dst = false → ∃ t r, exec (.messageArrive n) s = .next t ∧ t.records = s.records ++ [r]
      ∧ (t.pctx (s.partOf op.core) op.ctx).dead = (s.pctx (s.partOf op.core) op.ctx).dead + 1 ∧ t.ctxs = s.ctxs))
  ∧ (op.kind = .send dst m false → (s.part (s.partOf op.core)).res ≠ op.ctx → (s.coreCtx dst op.ctx).waiting = [] →
    let p := s.pctx (s.partOf op.core) op.ctx
    p.spilled < 256 * bits p.msgsave.toNat 48 16 → p.spillAt p.spilled + 16 ≤ hbmEnd →
    ∃ t, exec (.messageArrive n) s = .next t ∧ (∀ core ctx, t.coreCtx core ctx = s.coreCtx core ctx)
      ∧ (t.pctx (s.partOf op.core) op.ctx).spilled = p.spilled + 1)
  ∧ (op.kind = .send dst m true → exec (.sendAck n) s = .next { s with ops := [] })

open Sys2Proof Sys2Proof.Machine Sys2Proof.Claims in
/-- R127, R128, R321, R322: SEND and RECV, and how messages arrive. Clauses of it rest on the model's own reading or choice, log 1 and 90. -/
def Obligations.MessageInstructionsAndEvents : Prop := Messages ∧ MessageEvents

namespace Sys2Proof.Claims
open Sys2Proof.Machine

/-- R310: what LAUNCH, TRIG and END wait for: the thread's loads and stores, its own drain, of some number, where that takes its turn
behind an earlier move of the core (R261), and the thread's bank commands. -/
def fencesAll (s : State) (drain : Nat) (w : FenceWait) : Prop :=
  w.ops = s.opsOf OpKind.isAccess ++ (if s.moveWaits s.cur.core s.cur.ctx drain then [drain] else [])
    ++ s.bankPending s.cur fun _ => true

end Sys2Proof.Claims

open Sys2Proof Sys2Proof.Machine Sys2Proof.Claims in
/-- R301, R303, R310: WIDF returns its field of the work identifier and LVLRECT the rectangle of the caller's group; LAUNCH reads a header, starts a
launch of it and fences; TRIG fences; END ends a thread that has nothing pending or in flight, parks while it has, and first performs TRIG's fence where the thread has
not counted toward a trigger that its task enables. Clauses of it rest on the model's own reading or choice, log 75 and 81. -/
def Obligations.WorkInstructions : Prop := ∀ (s : State) (o : Fmt Unit) (task : Task),
  (s.Issues o →
    exec (.widf o) s = .next (s.land o.d (BitVec.ofNat 256
      (s.th.rank.toNat / 2 ^ s.boundary (o.imm.toNat % 8) % 2 ^ s.fieldWidth (o.imm.toNat % 8) % 2 ^ 64)) false 1)
    ∧ (s.taskOf s.cur.core s.cur.ctx = some task →
      let n := 2 ^ s.boundary (o.imm.toNat % 8)
      exec (.lvlrect o) s = .next (s.land o.d ((task.rectOf (s.th.rank.toNat / n * n / task.threads)
        (min (s.th.rank.toNat / n * n + n - 1) (task.total - 1) / task.threads)).setWidth 256) false 1))
    ∧ (s.taskOf s.cur.core s.cur.ctx = none →
      exec (.lvlrect o) s = .next (s.takeTrap 51 (BitVec.ofNat 64 (o.imm.toNat % 8)))))
  ∧ (s.Issues o → s.bitA o = false → (s.opA o).toNat % 64 = 0 →
    (s.opA o).toNat + 128 ≤ (if s.split2 s.cur.core then 0x17000 else 0x2F000) → s.cc.badWords = [] →
    tagPoison (s.cc.tag (s.opA o).toNat) = false → tagPoison (s.cc.tag (s.opA o + 64).toNat) = false → unwatched s →
    ∃ t k w, exec (.launch o) s = .next t ∧ t.tasks = s.tasks ++ [k] ∧ k.id = s.nextTask ∧ k.stage = .fencing
      ∧ k.header = BitVec.ofNat 1024 (bytesToNat (s.cc.bytes (s.opA o).toNat 128)) ∧ k.part = s.partOf s.cur.core ∧ k.ctx = s.cur.ctx
      ∧ (∃ op rest, t.ops = s.ops ++ op :: rest ∧ op.dest = some o.d ∧ op.kind = .launch s.nextTask)
      ∧ t.iss.post = s.iss.post ++ [.pend o.d] ∧ t.th.wait = .fence w (.launch s.nextTask)
      ∧ fencesAll s (s.nextOp + 1) w)
  ∧ (s.predOn o.pred = true → ∃ t w, exec (.trig o) s = .next t ∧ t.th = { s.th with wait := .fence w .trigger }
    ∧ fencesAll s s.nextOp w)
  ∧ (s.predOn o.pred = true → s.iss.held = 0 → s.endBusy = false → s.owesTrigger = false → s.cc.waiting = [] →
    ∃ t, exec (.end_ o) s = .next t ∧ t.th.run = .ended ∧ t.th.x = s.th.x ∧ SameMemory s t)
  ∧ (s.predOn o.pred = true → s.iss.held = 0 → s.endBusy = true → exec (.end_ o) s = .next (s.park .none))
  ∧ (s.predOn o.pred = true → s.iss.held = 0 → s.endBusy = false → s.owesTrigger = true →
    ∃ t w, exec (.end_ o) s = .next t ∧ t.th = { s.th with wait := .fence w .trigger } ∧ t.iss.status = .queued
      ∧ fencesAll s s.nextOp w)

namespace Sys2Proof.Claims
open Sys2Proof.Machine

/-- R324: a range word: its lower bound in bits 0 to 31, its upper in bits 32 to 63. -/
def lower (w : Word) : Nat := (w.setWidth 32).toNat
def upper (w : Word) : Nat := (w >>> 32).toNat
def range (lo hi : Nat) : Word := BitVec.ofNat 64 (lo + hi * 4294967296)

/-- The same core context with another deque. -/
def withDeque (s : State) (d : List Word) : State := s.setCc { s.cc with deque := d }

end Sys2Proof.Claims

open Sys2Proof Sys2Proof.Machine Sys2Proof.Claims in
/-- R326: DQPUSH adds a range that is not empty below the bottom entry and answers 1, or 0 where it is empty or the deque full; DQPOP
takes the bottom entry; DQSPLIT takes its lower half; each answers 0 of an empty deque; DQSTEAL reserves an entry and starts. -/
def Sys2Proof.Claims.DequeInstructions : Prop := ∀ (s : State) (o : Fmt Unit), s.Issues o →
  (s.bitA o = false →
    (lower (s.opA o) < upper (s.opA o) → s.cc.deque.length + s.cc.reserved < 16 →
      exec (.dqpush o) s = .next ((withDeque s (s.cc.deque ++ [s.opA o])).land o.d 1 false 1))
    ∧ ((upper (s.opA o) ≤ lower (s.opA o) ∨ 16 ≤ s.cc.deque.length + s.cc.reserved) →
      exec (.dqpush o) s = .next (s.land o.d 0 false 1)))
  ∧ (∀ l w, s.cc.deque = l ++ [w] →
    exec (.dqpop o) s = .next ((withDeque s l).land o.d (w.setWidth 256) false 1)
    ∧ (upper w = lower w + 1 → exec (.dqsplit o) s = .next ((withDeque s l).land o.d (w.setWidth 256) false 1))
    ∧ (lower w + 1 < upper w → exec (.dqsplit o) s
      = .next ((withDeque s (l ++ [range (lower w + (upper w - lower w) / 2) (upper w)])).land o.d
          ((range (lower w) (lower w + (upper w - lower w) / 2)).setWidth 256) false 1)))
  ∧ (s.cc.deque = [] → exec (.dqpop o) s = .next ((withDeque s []).land o.d 0 false 1)
    ∧ exec (.dqsplit o) s = .next (s.land o.d 0 false 1))
  ∧ (s.bitA o = false → s.victimOk (s.opA o) = true → s.cc.deque.length + s.cc.reserved < 16 →
    let walk := decide (s.opA o = BitVec.allOnes 64)
    exec (.dqsteal o) s = .next ((s.setCc { s.cc with reserved := s.cc.reserved + 1 }).started o
      (.steal walk (if walk then s.stealWalk else [(s.opA o).toNat]) false ((s.taskOf s.cur.core s.cur.ctx).map (·.id)))))
  ∧ (let near := fun (i : Nat) => clusterCore (clusterOf s.cur.core) ((coreInCluster s.cur.core + 1 + i) % 8)
    (∀ i, i < 7 → s.stealWalk[i]? = some (near i))
    ∧ (s.taskOf s.cur.core s.cur.ctx = none → s.stealWalk = (List.range 7).map near)
    ∧ ∀ task, s.taskOf s.cur.core s.cur.ctx = some task → ∀ v ∈ s.stealWalk.drop 7, ∃ k w, w < 8 ∧ v = clusterCore k w
      ∧ k ∈ task.clusters ∧ k ≠ clusterOf s.cur.core ∧ k % 16 / 8 = clusterOf s.cur.core % 16 / 8)
  ∧ (s.bitA o = false → s.victimOk (s.opA o) = false → exec (.dqsteal o) s = .next (s.takeTrap 54 (s.opA o)))

open Sys2Proof Sys2Proof.Machine Sys2Proof.Claims in
/-- R326, R327: a steal at its next victim takes the upper half of the top entry and leaves the lower; a single index is taken whole; it
goes to the bottom of the thief's deque, the reservation ends, and the status is OK with the number of indices. An empty victim is
passed by, as is, in the walk, a core that holds no unended thread of the thief's task; with no victim left the steal ends OK with count
0, as it does, with every deque as it stood, once its task has left the thief's core (log 121). A cancelled steal that has probed nothing
ends CANCELLED. -/
def Sys2Proof.Claims.StealTakesTheUpperHalf : Prop := ∀ (s : State) (n : Nat) (op : Op) (walk : Bool) (victims : List Nat) (c : Bool)
    (task : Option Nat),
  s.op n = some op → op.id = n → op.kind = .steal walk victims c task →
  let released := ∃ t, exec (.stealProbe n) s = .next t
    ∧ (t.coreCtx op.core op.ctx).reserved = (s.coreCtx op.core op.ctx).reserved - 1
    ∧ (t.coreCtx op.core op.ctx).deque = (s.coreCtx op.core op.ctx).deque
  let goesOn := fun (k : OpKind) => exec (.stealProbe n) s = .next (s.setOp { op with kind := k })
  let stands := (s.taskOf op.core op.ctx).map (·.id) = task
  (op.cancelled = true → c = false → Resolves op 1 (exec (.stealProbe n) s) ∧ (stands → released))
  ∧ ((op.cancelled = false ∨ c = true) → ¬ stands → Resolves op (okWord 0) (exec (.stealProbe n) s)
    ∧ ∃ t, exec (.stealProbe n) s = .next t ∧ ∀ core ctx, (t.coreCtx core ctx).deque = (s.coreCtx core ctx).deque
      ∧ (t.coreCtx core ctx).reserved = (s.coreCtx core ctx).reserved)
  ∧ ((op.cancelled = false ∨ c = true) → stands →
    (victims = [] → Resolves op (okWord 0) (exec (.stealProbe n) s) ∧ released)
    ∧ ∀ v r, victims = v :: r →
      (walk = true → s.hasThread op.ctx v = false → goesOn (.steal walk r c task))
      ∧ (∀ k, walk = true → task = some k → (∀ u, s.task k = some u → u.stage ≠ .placed ∨ u.hasCore v = false) →
        goesOn (.steal walk r c task))
      ∧ ((walk = false ∨ s.stealable op task v = true) →
        ((s.coreCtx v op.ctx).deque = [] → goesOn (.steal walk r true task))
        ∧ ∀ w l, (s.coreCtx v op.ctx).deque = w :: l → lower w < upper w → ctxKey v op.ctx ≠ ctxKey op.core op.ctx →
          let m := lower w + (upper w - lower w) / 2
          let got := if upper w - lower w = 1 then w else range m (upper w)
          ∃ t, exec (.stealProbe n) s = .next t
            ∧ (t.coreCtx v op.ctx).deque = (if upper w - lower w = 1 then l else range (lower w) m :: l)
            ∧ (t.coreCtx op.core op.ctx).deque = (s.coreCtx op.core op.ctx).deque ++ [got]
            ∧ (t.coreCtx op.core op.ctx).reserved = (s.coreCtx op.core op.ctx).reserved - 1
            ∧ Resolves op (okWord (upper got - lower got)) (exec (.stealProbe n) s)))

open Sys2Proof Sys2Proof.Machine Sys2Proof.Claims in
/-- R324-R327: the deque instructions, and what a steal takes at a victim; the walk of victims, an empty victim and a cancelled steal. Clauses of it rest on the model's own reading or choice, log 57 and 121. -/
def Obligations.DequesAndSteals : Prop := DequeInstructions ∧ StealTakesTheUpperHalf

/-! ## System (08, 23) -/

namespace Sys2Proof.Claims
open Sys2Proof.Machine

/-- R129: CSRR of a number lands the value after one group. -/
def CsrReads (s : State) (o : Fmt Unit) (n : Nat) (v : Word) : Prop :=
  o.imm.toNat % 4096 = n → exec (.csrr o) s = .next (s.land o.d (v.setWidth 256) false 1)
/-- R346: a number that no CSR has. -/
def unassigned (n : Nat) : Prop :=
  0x00D ≤ n ∧ n ≤ 0x00F ∨ 0x011 ≤ n ∧ n ≤ 0x01F ∨ 0x024 ≤ n ∧ n ≤ 0x02F ∨ 0x032 ≤ n ∧ n ≤ 0x03F ∨ 0x041 ≤ n ∧ n ≤ 0x04F
    ∨ 0x051 ≤ n ∧ n ≤ 0x05F ∨ 0x06D ≤ n ∧ n < 4096
/-- The number faults with cause 2. -/
def CsrFaults (s : State) (o : Fmt Unit) (i : Instr) (n : Nat) : Prop :=
  o.imm.toNat % 4096 = n → exec i s = .next (s.takeTrap 2 s.iss.pc)
/-- R129: CSRW of a number changes the thread so, and CSRX does the same and lands the value that CSRR reads. -/
def CsrWrites (s : State) (o : Fmt Unit) (n : Nat) (t : Thread) : Prop :=
  o.imm.toNat % 4096 = n → exec (.csrw o) s = .next (s.setTh t)
    ∧ ∀ v, s.csrRead n = some v → exec (.csrx o) s = .next ((s.setTh t).land o.d (v.setWidth 256) false 1)

end Sys2Proof.Claims

open Sys2Proof Sys2Proof.Machine Sys2Proof.Claims in
/-- R129, R130, R147, R149, R151, R153, R159, R343, R346: what the CSRs read as, IPEND's bits those of the pending interrupts; TCAUSE, TVAL and TEPC0-TEPC2 fault with cause 2 in task mode, as
does a number that no CSR has. -/
def Sys2Proof.Claims.CsrRead : Prop := ∀ (s : State) (o : Fmt Unit), s.Issues o →
  CsrReads s o 0x000 ((s.th.ien.setWidth 64 <<< 32) ||| (s.th.lbn.setWidth 64 <<< 4) ||| (if s.th.pie then 8 else 0)
    ||| (if s.th.ie then 4 else 0) ||| (if s.th.phm then 2 else 0) ||| (if s.th.hm then 1 else 0))
  ∧ CsrReads s o 0x001 s.th.tvec ∧ CsrReads s o 0x007 (BitVec.ofNat 64 (0x2F000 + 0x100 * s.cur.thr))
  ∧ CsrReads s o 0x008 (s.th.stopmax.setWidth 64) ∧ CsrReads s o 0x009 s.th.icount ∧ CsrReads s o 0x00A s.th.icmp
  ∧ CsrReads s o 0x00C s.th.dbval ∧ CsrReads s o 0x010 (s.th.fpflags.setWidth 64) ∧ CsrReads s o 0x020 s.th.rank
  ∧ CsrReads s o 0x021 (BitVec.ofNat 64 s.cur.core) ∧ CsrReads s o 0x022 (BitVec.ofNat 64 s.cur.thr)
  ∧ CsrReads s o 0x023 (s.th.taskid.setWidth 64) ∧ CsrReads s o 0x030 s.cycle ∧ CsrReads s o 0x031 s.th.cyccmp
  ∧ CsrReads s o 0x040 s.th.accepts ∧ CsrReads s o 0x050 s.th.xbinj ∧ CsrReads s o 0x06C s.th.ndly
  ∧ (s.th.hm = true → CsrReads s o 0x002 s.th.tcause ∧ CsrReads s o 0x003 s.th.tval ∧ CsrReads s o 0x004 s.th.tepc0
    ∧ CsrReads s o 0x005 s.th.tepc1 ∧ CsrReads s o 0x006 s.th.tepc2)
  ∧ (s.th.hm = false → ∀ n, 2 ≤ n → n ≤ 6 → CsrFaults s o (.csrr o) n)
  ∧ CsrReads s o 0x00B ((if s.th.ipDb then 0x2 else 0) ||| (if s.th.ipDbo then 0x4 else 0)
    ||| (if s.th.cyccmp ≠ 0 ∧ s.th.cyccmp.toNat ≤ s.cycle.toNat then 0x20 else 0)
    ||| (if s.th.icmp ≠ 0 ∧ s.th.icmp.toNat ≤ s.th.icount.toNat then 0x80 else 0)
    ||| (if s.th.ipPrq then 0x200 else 0) ||| (if s.th.ipDbg then 0x800 else 0))
  ∧ (∀ n, n < 12 → CsrReads s o (0x060 + n) (SMap.get 0 s.th.dly n))
  ∧ (∀ n, unassigned n → CsrFaults s o (.csrr o) n)

open Sys2Proof Sys2Proof.Machine Sys2Proof.Claims in
/-- R129, R149, R151, R153, R159, R206, R343, R346, R384: what CSRW and CSRX change: each register's writable bits, IEN's fixed ones
standing, IPEND's ones clearing, task mode reaching only what it may; a CSR that the mode may not write, that is read-only or that
does not exist faults with cause 2. -/
def Sys2Proof.Claims.CsrWrite : Prop := ∀ (s : State) (o : Fmt Unit), s.Issues o → s.bitA o = false →
  (s.th.hm = false → CsrWrites s o 0x000 { s.th with
    ien := ((s.opA o >>> 32).setWidth 16 &&& 0x00A2) ||| 0x0A00, ie := (s.opA o).getLsbD 2 })
  ∧ (s.th.hm = true → CsrWrites s o 0x000 { s.th with
    ien := ((s.opA o >>> 32).setWidth 16 &&& 0x00A2) ||| 0x0A00, ie := (s.opA o).getLsbD 2
    lbn := (s.opA o >>> 4).setWidth 3, pie := (s.opA o).getLsbD 3, phm := (s.opA o).getLsbD 1 })
  ∧ CsrWrites s o 0x001 { s.th with tvec := s.opA o &&& ~~~ 63 }
  ∧ CsrWrites s o 0x00A { s.th with icmp := s.opA o } ∧ CsrWrites s o 0x010 { s.th with fpflags := (s.opA o).setWidth 5 }
  ∧ CsrWrites s o 0x031 { s.th with cyccmp := s.opA o }
  ∧ CsrWrites s o 0x050 { s.th with
    xbinj := (s.opA o &&& 0x3FFFF) ||| (if (s.opA o).setWidth 16 = 0 then 0 else s.opA o &&& 0x80000000) }
  ∧ (o.imm.toNat % 4096 = 0x009 → ∃ t, exec (.csrw o) s = .next t ∧ t.th = { s.th with icount := s.opA o } ∧ t.iss.keepCount = true
    ∧ exec (.csrx o) s = .next (t.land o.d (s.th.icount.setWidth 256) false 1))
  ∧ (s.th.hm = true → CsrWrites s o 0x002 { s.th with tcause := s.opA o &&& 0x800000000000003F }
    ∧ CsrWrites s o 0x003 { s.th with tval := s.opA o } ∧ CsrWrites s o 0x004 { s.th with tepc0 := s.opA o &&& ~~~ 0x20 }
    ∧ CsrWrites s o 0x005 { s.th with tepc1 := s.opA o &&& ~~~ 0x20 } ∧ CsrWrites s o 0x006 { s.th with tepc2 := s.opA o &&& ~~~ 0x20 }
    ∧ CsrWrites s o 0x00B { s.th with
      ipDb := s.th.ipDb && !(s.opA o).getLsbD 1, ipDbo := s.th.ipDbo && !(s.opA o).getLsbD 2
      ipPrq := s.th.ipPrq && !(s.opA o).getLsbD 9 }
    ∧ CsrWrites s o 0x008 { s.th with stopmax := if (s.opA o).setWidth 12 = 0 then s.th.stopmax else (s.opA o).setWidth 12 }
    ∧ CsrWrites s o 0x040 { s.th with accepts := s.opA o } ∧ CsrWrites s o 0x06C { s.th with ndly := s.opA o }
    ∧ ∀ n, n < 12 → CsrWrites s o (0x060 + n) { s.th with dly := SMap.set 0 s.th.dly n (s.opA o) })
  ∧ (s.th.hm = false → ∀ n, n ∈ [2, 3, 4, 5, 6, 8, 0x00B, 0x040, 0x06C] ∨ 0x060 ≤ n ∧ n ≤ 0x06B →
    CsrFaults s o (.csrw o) n ∧ CsrFaults s o (.csrx o) n)
  ∧ (∀ n, unassigned n → CsrFaults s o (.csrw o) n ∧ CsrFaults s o (.csrx o) n)
  ∧ (∀ n, n ∈ [7, 0x00C, 0x020, 0x021, 0x022, 0x023, 0x030] → CsrFaults s o (.csrw o) n ∧ CsrFaults s o (.csrx o) n)

open Sys2Proof Sys2Proof.Machine Sys2Proof.Claims in
/-- R129, R147, R149, R151, R153, R159, R206, R343, R346, R384: CSRR, CSRW and CSRX of every CSR, and of the numbers that no CSR has. Clauses of it rest on the model's own reading or choice, log 18. -/
def Obligations.CsrAccess : Prop := CsrRead ∧ CsrWrite

open Sys2Proof Sys2Proof.Machine Sys2Proof.Claims in
/-- R149: STOPMAX reads its 12 bits, above them zero, and is 24 at launch; handler mode writes it, a write of 0 being ignored and the
upper bits too; a task-mode write faults with cause 2. -/
def Obligations.StopmaxRegister : Prop := ∀ (s : State) (o : Fmt Unit), s.Issues o → s.bitA o = false → o.imm.toNat % 4096 = 8 →
  exec (.csrr o) s = .next (s.land o.d ((s.th.stopmax.setWidth 64).setWidth 256) false 1)
  ∧ Thread.initial.stopmax = 24
  ∧ (s.th.hm = true → (s.opA o).setWidth 12 ≠ 0 → exec (.csrw o) s = .next (s.setTh { s.th with stopmax := (s.opA o).setWidth 12 }))
  ∧ (s.th.hm = true → (s.opA o).setWidth 12 = 0 → exec (.csrw o) s = .next (s.setTh s.th))
  ∧ (s.th.hm = false → exec (.csrw o) s = .next (s.takeTrap 2 s.iss.pc))

namespace Sys2Proof.Claims
open Sys2Proof.Machine

/-- R154, R357: the current thread stops in a double trap: one more record goes to the fatal lane, of TYPE 0x20, with the second cause
in bits 24 to 29 and its TVAL on top. -/
def DoubleTraps (s : State) (cause : Nat) (tval : Word) (r : Host.Outcome State Fault Refusal) : Prop :=
  ∃ (t : State) (q : Record), r = .next t ∧ t.iss.status = .trapped ∧ t.th.run = .stopped ∧ t.records = s.records ++ [q] ∧ q.fatal = true
    ∧ q.part = s.partOf s.cur.core ∧ q.ctx = s.cur.ctx
    ∧ q.bits.setWidth 8 = (0x20 : BitVec 8) ∧ (q.bits >>> 24).setWidth 6 = BitVec.ofNat 6 cause
    ∧ (q.bits >>> 448).setWidth 64 = tval

end Sys2Proof.Claims

open Sys2Proof Sys2Proof.Machine Sys2Proof.Claims in
/-- R154, R347, R348, R349, R357: TRAP issues and then takes cause 8 with its immediate, BRK cause 3 with its PC, so that the saved PC names the group after;
in handler mode TRAP is cause 2 and BRK cause 3, and either is a double trap: the thread stops, and its record has TYPE 0x20 and names
the cause. FENCEI issues and fences at DEVICE scope, and then drops the lines of the instruction caches. Clauses of it rest on the model's own reading or choice, log 73. -/
def Obligations.SystemCalls : Prop := ∀ (s : State) (o : Fmt Unit), s.predOn o.pred = true →
  (s.th.hm = false → s.iss.noAdvance = false → s.th.q1.sq = false → s.th.landing = [] →
    (∃ t, exec (.trap o) s = .next t ∧ t.iss.status = .trapped ∧ t.th.hm = true ∧ t.th.tcause = 8 ∧ t.th.tval = o.imm.setWidth 64
      ∧ t.th.tepc0 = (s.th.q1.pc &&& ~~~ 63) + (if s.iss.annul || s.th.q1.an then 8 else 0) + (s.th.q1.pc &&& 7)
      ∧ t.th.q0.pc = s.th.tvec)
    ∧ (∃ t, exec (.brk o) s = .next t ∧ t.iss.status = .trapped ∧ t.th.hm = true ∧ t.th.tcause = 3 ∧ t.th.tval = s.iss.pc
      ∧ t.th.tepc0 = (s.th.q1.pc &&& ~~~ 63) + (if s.iss.annul || s.th.q1.an then 8 else 0) + (s.th.q1.pc &&& 7)
      ∧ t.th.q0.pc = s.th.tvec))
  ∧ (s.th.hm = true →
    DoubleTraps s 2 s.iss.pc (exec (.trap o) s) ∧ DoubleTraps s 3 s.iss.pc (exec (.brk o) s))
  ∧ (∃ t w, exec (.fencei o) s = .next t ∧ t.th = { s.th with wait := .fence w .invalidate } ∧ fences s w)
  ∧ (s.invalidateLines.th.line = none ∧ (s.invalidateLines.core s.cur.core).icache = []
    ∧ (s.cur.core < 2048 → (s.invalidateLines.cluster (clusterOf s.cur.core)).icache = [])
    ∧ (2048 ≤ s.cur.core → (s.invalidateLines.cluster (256 + coxStack s.cur.core)).icache = []))

/-! ## Vectors (11) -/

namespace Sys2Proof.Claims
open Sys2Proof.Machine

/-- A vector slot executes: its sources are present, and vd too where its encoding reads it (R156). -/
def VecIssues (s : State) (o : Fmt VecMod) (old : Bool) : Prop :=
  s.Issues o ∧ (old = true → (s.read o.imm o.d).st = .present)
/-- R156: the encoding keeps lanes of vd: a mask other than m0, and no ZM. -/
def keepsOld (m : VecMod) : Bool := !m.zm && m.mask != 0
/-- The OR of the B bits that a vector instruction reads. -/
def vecB (s : State) (o : Fmt VecMod) (old : Bool) : Bool :=
  s.bitA o || s.bitB o || s.bitC o || (old && (s.read o.imm o.d).b)

/-- The three vector sources; an immediate fills every lane (R27). -/
def vecA (s : State) (o : Fmt VecMod) : VWord := vecVal o.mod.type o.imm o.a (s.read o.imm o.a)
def vecB' (s : State) (o : Fmt VecMod) : VWord := vecVal o.mod.type o.imm o.b (s.read o.imm o.b)
def vecC (s : State) (o : Fmt VecMod) : VWord := vecVal o.mod.type o.imm o.c (s.read o.imm o.c)
/-- Lane i of w bytes as bits. -/
def laneOf (w : Nat) (v : VWord) (i : Nat) : BitVec (8 * w) := (v >>> (8 * w * i)).setWidth (8 * w)
/-- R155: lane i is active. -/
def on (s : State) (o : Fmt VecMod) (i : Nat) : Bool := (s.th.readM o.mod.mask).getLsbD (i * o.mod.type.bytes)

/-- R156, R157: what lands after l groups with B bit b: a register whose active lanes hold f, and whose other lanes are zero
under ZM, else as vd stood. FPFLAGS takes in the events of the active lanes (R159). -/
def Lanes (s : State) (o : Fmt VecMod) (l : Nat) (b : Bool) (f : Nat → BitVec (8 * o.mod.type.bytes)) (events : Nat → Flags)
    (r : Host.Outcome State Fault Refusal) : Prop :=
  ∃ v : VWord, r = .next ((s.raise (orFlags ((List.range (32 / o.mod.type.bytes)).map fun i =>
      if on s o i then events i else .none))).land o.d v b l)
    ∧ ∀ i, i < 32 / o.mod.type.bytes → laneOf o.mod.type.bytes v i =
      if on s o i then f i
      else if o.mod.zm && o.mod.mask != 0 then 0
      else if keepsOld o.mod then laneOf o.mod.type.bytes (s.read o.imm o.d).val i
      else 0

/-- R161: the number in a lane of an integer type. -/
def number (t : ElType) (n : BitVec (8 * t.bytes)) : Int := if isSigned t then n.toInt else (n.toNat : Int)
/-- R161: an exact integer as its lane takes it: wrapped, or saturated to the range of the type. -/
def intoLane (m : VecMod) (e : Int) : BitVec (8 * m.type.bytes) :=
  let w := 8 * m.type.bytes
  BitVec.ofInt w (if m.sat then
      (if isSigned m.type then max (-(2 : Int) ^ (w - 1)) (min ((2 : Int) ^ (w - 1) - 1) e) else max 0 (min ((2 : Int) ^ w - 1) e))
    else e)
/-- An integer operation, lane by lane. -/
def ints (s : State) (o : Fmt VecMod) (f : Int → Int → Int → Int) (i : Nat) : BitVec (8 * o.mod.type.bytes) :=
  let w := o.mod.type.bytes
  intoLane o.mod (f (number o.mod.type (laneOf w (vecA s o) i)) (number o.mod.type (laneOf w (vecB' s o) i))
    (number o.mod.type (laneOf w (vecC s o) i)))
/-- An operation on the bits of two lanes. -/
def bitwise (s : State) (o : Fmt VecMod) (f : BitVec (8 * o.mod.type.bytes) → BitVec (8 * o.mod.type.bytes) →
    BitVec (8 * o.mod.type.bytes)) (i : Nat) : BitVec (8 * o.mod.type.bytes) :=
  f (laneOf o.mod.type.bytes (vecA s o) i) (laneOf o.mod.type.bytes (vecB' s o) i)
/-- Lane i of a register as a value (R158). -/
def valueAt (o : Fmt VecMod) (v : VWord) (i : Nat) : FVal := laneVal o.mod.type (laneOf o.mod.type.bytes v i).toNat
/-- A result of a floating operation: its code, and its events. -/
def code (o : Fmt VecMod) (r : Nat → Nat × Flags) (i : Nat) : BitVec (8 * o.mod.type.bytes) := BitVec.ofNat _ (r i).1

end Sys2Proof.Claims

open Sys2Proof Sys2Proof.Machine Sys2Proof.Claims in
/-- R155-R157, R161, R162: VARITH on integer lanes and VLOGIC on lanes of any type, latency 2: exact, then wrapped or saturated; a
shift goes by the low bits of its count. Inactive lanes follow R156, FPFLAGS stays, B is an OR. -/
def Obligations.VectorIntegerLanes : Prop := ∀ (s : State) (o : Fmt VecMod),
  VecIssues s o (keepsOld o.mod) →
  let b := vecB s o (keepsOld o.mod)
  let lanes := fun f => Lanes s o 2 b f (fun _ => .none)
  let w := 8 * o.mod.type.bytes
  (o.mod.type.isInteger = true →
    lanes (ints s o fun a b _ => a + b) (exec (.vadd o) s) ∧ lanes (ints s o fun a b _ => a - b) (exec (.vsub o) s)
    ∧ lanes (ints s o fun a b _ => a * b) (exec (.vmul o) s) ∧ lanes (ints s o fun a b c => a * b + c) (exec (.vfma o) s)
    ∧ lanes (ints s o fun a b c => a * b - c) (exec (.vfms o) s) ∧ lanes (ints s o fun a b _ => min a b) (exec (.vmin o) s)
    ∧ lanes (ints s o fun a b _ => max a b) (exec (.vmax o) s) ∧ lanes (ints s o fun a _ _ => (a.natAbs : Int)) (exec (.vabs o) s)
    ∧ lanes (ints s o fun a _ _ => -a) (exec (.vneg o) s))
  ∧ lanes (bitwise s o (· &&& ·)) (exec (.vand o) s) ∧ lanes (bitwise s o (· ||| ·)) (exec (.vor o) s)
  ∧ lanes (bitwise s o (· ^^^ ·)) (exec (.vxor o) s)
  ∧ lanes (bitwise s o fun a b => a <<< (b.toNat % w)) (exec (.vshl o) s)
  ∧ lanes (bitwise s o fun a b => a >>> (b.toNat % w)) (exec (.vshr o) s)
  ∧ lanes (bitwise s o fun a b => a.sshiftRight (b.toNat % w)) (exec (.vsra o) s)

open Sys2Proof Sys2Proof.Machine Sys2Proof.Claims in
/-- R157-R159: VARITH on floating lanes, latency 4, and VDIV and VSQRT, latency 16: each lane is the operation of R158 rounded once in
the type and the mode, and FPFLAGS takes in the events of the active lanes. -/
def Obligations.VectorFloatLanes : Prop := ∀ (s : State) (o : Fmt VecMod), VecIssues s o (keepsOld o.mod) →
  let t := o.mod.type
  let m := o.mod.rnd
  let a := valueAt o (vecA s o)
  let b := valueAt o (vecB' s o)
  let c := valueAt o (vecC s o)
  let bitsA := fun i => (laneOf t.bytes (vecA s o) i).toNat
  let bitsB := fun i => (laneOf t.bytes (vecB' s o) i).toNat
  let lanes := fun l r => Lanes s o l (vecB s o (keepsOld o.mod)) (code o r) (fun i => (r i).2)
  (t.isInteger = false →
    lanes 4 (fun i => floatAdd t m (a i) (b i)) (exec (.vadd o) s) ∧ lanes 4 (fun i => floatAdd t m (a i) (b i).neg) (exec (.vsub o) s)
    ∧ lanes 4 (fun i => floatMul t m (a i) (b i)) (exec (.vmul o) s)
    ∧ lanes 4 (fun i => floatFma t m (a i) (b i) (c i)) (exec (.vfma o) s)
    ∧ lanes 4 (fun i => floatFma t m (a i) (b i) (c i).neg) (exec (.vfms o) s)
    ∧ lanes 4 (fun i => floatPick t false (bitsA i) (bitsB i)) (exec (.vmin o) s)
    ∧ lanes 4 (fun i => floatPick t true (bitsA i) (bitsB i)) (exec (.vmax o) s)
    ∧ lanes 4 (fun i => floatAbs t (bitsA i)) (exec (.vabs o) s) ∧ lanes 4 (fun i => floatNeg t (bitsA i)) (exec (.vneg o) s))
  ∧ lanes 16 (fun i => floatDiv t m (a i) (b i)) (exec (.vdiv o) s) ∧ lanes 16 (fun i => floatSqrt t m (a i)) (exec (.vsqrt o) s)

namespace Sys2Proof.Claims
open Sys2Proof.Machine

/-- A result by lanes that raises nothing. -/
def Moves (s : State) (o : Fmt VecMod) (l : Nat) (b : Bool) (f : Nat → BitVec (8 * o.mod.type.bytes))
    (r : Host.Outcome State Fault Refusal) : Prop :=
  ∃ v : VWord, r = .next (s.land o.d v b l) ∧ ∀ i, i < 32 / o.mod.type.bytes → laneOf o.mod.type.bytes v i = f i
/-- R156: what an inactive lane holds. -/
def idle (s : State) (o : Fmt VecMod) (i : Nat) : BitVec (8 * o.mod.type.bytes) :=
  if keepsOld o.mod then laneOf o.mod.type.bytes (s.read o.imm o.d).val i else 0
def masked (s : State) (o : Fmt VecMod) (f : Nat → BitVec (8 * o.mod.type.bytes)) (i : Nat) : BitVec (8 * o.mod.type.bytes) :=
  if on s o i then f i else idle s o i

/-- R163, R164: the source lane of a destination lane of VCVT, and the lanes that it writes. -/
def cvtFrom (o : Fmt VecMod) (i : Nat) : Nat :=
  let s := (cvtSrc o.imm).bytes
  let d := o.mod.type.bytes
  let n := 32 / max s d
  if d < s then i - cvtPart o.imm * n else if s < d then cvtPart o.imm * n + i else i
def cvtOn (s : State) (o : Fmt VecMod) (i : Nat) : Bool :=
  let n := 32 / max (cvtSrc o.imm).bytes o.mod.type.bytes
  on s o i && (decide ((cvtSrc o.imm).bytes ≤ o.mod.type.bytes)
    || decide (cvtPart o.imm * n ≤ i ∧ i < cvtPart o.imm * n + n))

end Sys2Proof.Claims

open Sys2Proof Sys2Proof.Machine Sys2Proof.Claims in
/-- R163-R169: VCVT converts lanes of its part; VCMP writes the mask bits of a lane; VSEL takes a lane of one of two registers;
VBCAST, VEXT, VINS, VPERM, VSLIDE and VIOTA move lanes; VSORTKV orders the pairs of its lanes by their keys, equal keys in place. Clauses of it rest on the model's own reading or choice, log 22, 70 and 114. -/
def Obligations.VectorMovesAndCompares : Prop := ∀ (s : State) (o : Fmt VecMod),
  let t := o.mod.type
  let n := 32 / t.bytes
  let old := keepsOld o.mod
  (VecIssues s o (old || (cvtSrc o.imm).bytes != t.bytes) →
    let r := fun i =>
      let x := (laneOf (cvtSrc o.imm).bytes (vecA s o) (cvtFrom o i)).toNat
      if cvtScale o.imm = 0 then convertLane (cvtSrc o.imm) t o.mod.rnd x
      else roundLane t o.mod.rnd ((laneVal (cvtSrc o.imm) x).scale (cvtScale o.imm))
    ∃ v : VWord, exec (.vcvt o) s = .next ((s.raise (orFlags ((List.range n).map fun i =>
        if cvtOn s o i then (r i).2 else .none))).land o.d v (vecB s o (old || (cvtSrc o.imm).bytes != t.bytes)) 4)
      ∧ ∀ i, i < n → laneOf t.bytes v i = if cvtOn s o i then BitVec.ofNat _ (r i).1
        else if o.mod.zm && o.mod.mask != 0 then 0
        else if old || (cvtSrc o.imm).bytes != t.bytes then laneOf t.bytes (s.read o.imm o.d).val i else 0)
  ∧ (s.Issues o → s.bitA o = false → s.bitB o = false →
    let c := fun i => compareLane t (o.imm.toNat % 8) (laneOf t.bytes (s.read o.imm o.a).val i).toNat
      (laneOf t.bytes (s.read o.imm o.b).val i).toNat
    ∃ m : BitVec 32, exec (.vcmp o) s = .next ((s.raise (orFlags ((List.range n).map fun i =>
        if on s o i then (c i).2 else .none))).land o.d (m.setWidth 256) false 1)
      ∧ ∀ j, j < 32 → m.getLsbD j = if on s o (j / t.bytes) then (c (j / t.bytes)).1
        else !o.mod.zm && (s.read o.imm o.d).val.getLsbD j)
  ∧ (s.Issues o → Moves s o 2 (vecB s o false)
    (fun i => if on s o i then laneOf t.bytes (vecA s o) i else laneOf t.bytes (vecB' s o) i) (exec (.vsel o) s))
  ∧ (VecIssues s o old →
    Moves s o 2 (vecB s o old) (masked s o fun _ => (s.opA o).setWidth _) (exec (.vbcast o) s)
    ∧ (s.bitB o = false → Moves s o 2 (vecB s o old)
      (masked s o fun i => laneOf t.bytes (vecA s o) ((laneOf t.bytes (vecB' s o) i).toNat % n)) (exec (.vperm o) s))
    ∧ Moves s o 2 (vecB s o old) (masked s o fun i =>
        let j : Int := (i : Int) + o.imm.toInt
        if 0 ≤ j ∧ j < n then laneOf t.bytes (vecA s o) j.toNat
        else if o.b = .none then 0
        else laneOf t.bytes (vecB' s o) (if (n : Int) ≤ j then j - n else j + n).toNat) (exec (.vslide o) s)
    ∧ Moves s o 2 (vecB s o old)
      (masked s o fun i => BitVec.ofNat _ ((List.range i).filter fun k => on s o k).length) (exec (.viota o) s))
  ∧ (s.Issues o → s.bitB o = false →
    let e := laneOf t.bytes (s.read o.imm o.a).val ((s.opB o).toNat % n)
    exec (.vext o) s = .next (s.land o.d ((if isSigned t then e.signExtend 64 else e.setWidth 64).setWidth 256) (s.bitA o) 2))
  ∧ (VecIssues s o true → s.bitB o = false → Moves s o 2 (vecB s o true)
    (fun i => if i = (s.opB o).toNat % n then (s.opA o).setWidth _ else laneOf t.bytes (s.read o.imm o.d).val i) (exec (.vins o) s))
  ∧ (s.Issues o → s.bitA o = false → s.isPending s.cur (nextV o.d) = false → t.isInteger = true → (∀ i, i < n → on s o i = true) →
    ∃ (k v : VWord) (p : List Nat),
      exec (.vsortkv o) s = .next ((s.land o.d k false 6).land (nextV o.d) v (s.bitB o) 6)
      ∧ p.Perm (List.range n)
      ∧ (∀ i, i < n → laneOf t.bytes k i = laneOf t.bytes (s.read o.imm o.a).val (p.getD i 0)
        ∧ laneOf t.bytes v i = laneOf t.bytes (s.read o.imm o.b).val (p.getD i 0))
      ∧ (∀ i j, i < j → j < n →
        let x := number t (laneOf t.bytes (s.read o.imm o.a).val (p.getD i 0))
        let y := number t (laneOf t.bytes (s.read o.imm o.a).val (p.getD j 0))
        x < y ∨ x = y ∧ p.getD i 0 < p.getD j 0))

namespace Sys2Proof.Claims
open Sys2Proof.Machine

/-- The numbers of the active lanes, with the initial value where B gives one (R170). -/
def reduced (s : State) (o : Fmt VecMod) : List Int :=
  (((List.range (32 / o.mod.type.bytes)).filter fun i => on s o i).map fun i =>
      number o.mod.type (laneOf o.mod.type.bytes (s.read o.imm o.a).val i))
    ++ if o.b = .none then [] else [number o.mod.type ((s.opB o).setWidth _)]
/-- R170: a number of an integer type as a scalar register holds it. -/
def asWord (t : ElType) (n : BitVec (8 * t.bytes)) : Word := if isSigned t then n.signExtend 64 else n.setWidth 64

/-- R171: a floating reduction: the tree over the active lanes, and then the initial value. -/
def treeResult (s : State) (o : Fmt VecMod) (f : Nat → Nat → Nat × Flags) : State :=
  let w := o.mod.type.bytes
  let leaves := (List.range (32 / w)).map fun i =>
    if on s o i then some (laneOf w (s.read o.imm o.a).val i).toNat else none
  let top := tree f 5 leaves
  let all := comb f top.1 (if o.b = .none then none else some ((s.opB o).setWidth (8 * w)).toNat)
  (s.raise (top.2.or all.2)).land o.d ((BitVec.ofNat 64 (all.1.getD 0)).setWidth 256) (s.bitA o || s.bitB o) 6

end Sys2Proof.Claims

open Sys2Proof Sys2Proof.Machine Sys2Proof.Claims in
/-- R170-R172, R219: VREDADD adds the active integer lanes exactly, VREDMIN and VREDMAX choose one of them, and 0 where there is none; floating
lanes go through the tree; VPOPM counts; the MASK family works on 32 bits; ACPT clears B and counts, BTEST reads it. Clauses of it rest on the model's own reading or choice, log 70. -/
def Obligations.VectorReductionsAndMasks : Prop := ∀ (s : State) (o : Fmt VecMod) (u : Fmt Unit),
  let t := o.mod.type
  (s.Issues o →
    (t.isInteger = true →
      exec (.vredadd o) s = .next (s.land o.d ((asWord t (intoLane o.mod (reduced s o).sum)).setWidth 256)
        (s.bitA o || s.bitB o) 6)
      ∧ (reduced s o ≠ [] → ∃ lo ∈ reduced s o, ∃ hi ∈ reduced s o, (∀ x ∈ reduced s o, lo ≤ x ∧ x ≤ hi)
        ∧ exec (.vredmin o) s = .next ((s.raise .none).land o.d ((asWord t (BitVec.ofInt _ lo)).setWidth 256)
          (s.bitA o || s.bitB o) 6)
        ∧ exec (.vredmax o) s = .next ((s.raise .none).land o.d ((asWord t (BitVec.ofInt _ hi)).setWidth 256)
          (s.bitA o || s.bitB o) 6))
      ∧ (reduced s o = [] →
        exec (.vredmin o) s = .next ((s.raise .none).land o.d 0 (s.bitA o || s.bitB o) 6)
        ∧ exec (.vredmax o) s = .next ((s.raise .none).land o.d 0 (s.bitA o || s.bitB o) 6)))
    ∧ (t.isInteger = false →
      exec (.vredadd o) s = .next (treeResult s o fun x y => floatAdd t o.mod.rnd (laneVal t x) (laneVal t y))
      ∧ exec (.vredmin o) s = .next (treeResult s o (floatPick t false))
      ∧ exec (.vredmax o) s = .next (treeResult s o (floatPick t true)))
    ∧ exec (.vpopm o) s = .next (s.land o.d (BitVec.ofNat 256 ((List.range (32 / t.bytes)).filter fun i =>
        (s.read o.imm o.a).val.getLsbD (i * t.bytes)).length) false 6)
    ∧ exec (.mand o) s = .next (s.land o.d (((s.opA o).setWidth 32 &&& (s.opB o).setWidth 32 : BitVec 32).setWidth 256) false 1)
    ∧ exec (.mor o) s = .next (s.land o.d (((s.opA o).setWidth 32 ||| (s.opB o).setWidth 32 : BitVec 32).setWidth 256) false 1)
    ∧ exec (.mxor o) s = .next (s.land o.d (((s.opA o).setWidth 32 ^^^ (s.opB o).setWidth 32 : BitVec 32).setWidth 256) false 1)
    ∧ exec (.mnot o) s = .next (s.land o.d ((~~~ ((s.opA o).setWidth 32 : BitVec 32)).setWidth 256) false 1)
    ∧ (∀ i, i < 32 / t.bytes → (s.read o.imm o.a).val.getLsbD (i * t.bytes) = true →
      (∀ k, k < i → (s.read o.imm o.a).val.getLsbD (k * t.bytes) = false) →
      exec (.mfirst o) s = .next (s.land o.d (BitVec.ofNat 256 i) false 2))
    ∧ ((∀ i, i < 32 / t.bytes → (s.read o.imm o.a).val.getLsbD (i * t.bytes) = false) →
      exec (.mfirst o) s = .next (s.land o.d ((BitVec.allOnes 64).setWidth 256) false 2)))
  ∧ (s.Issues u →
    exec (.acpt u) s = .next ((if s.bitA u then s.setTh { s.th with accepts := s.th.accepts + 1 } else s).land u.d
      (s.read u.imm u.a).val false 1)
    ∧ exec (.btest u) s = .next (s.land u.d (if s.bitA u then 1 else 0) false 1))

/-! ## The matrix unit (12, 13) -/

namespace Sys2Proof.Claims
open Sys2Proof.Machine

/-- R174: the group is handed to the unit: its operation is the last of the core's dispatch queue, and the thread waits. -/
def Enqueued (s : State) (i : Instr) (a b : Word) (r : Host.Outcome State Fault Refusal) : Prop :=
  ∃ t, r = .next t ∧ t.iss.status = .queued
    ∧ t.cc = { s.cc with dispatch := s.cc.dispatch ++ [⟨s.cur.core, s.cur.ctx, s.cur.thr, i, s.iss.pc, a, b, 0, none, 0, none⟩] }
    ∧ t.th = { s.th with wait := .service, verdict := some .waiting }
    ∧ t = { s with threads := t.threads, ctxs := t.ctxs, iss := t.iss }
/-- R174: the same for an operation with a future; `status` is what it resolves with at the head of its queue where its weights are
out of range. -/
def Queued (s : State) (mmv : Bool) (i : Instr) (d : Reg) (a b c status : Word) (r : Host.Outcome State Fault Refusal) : Prop :=
  ∃ t, r = .next t
    ∧ t.cc = { s.cc with
        dispatch := s.cc.dispatch ++ [⟨s.cur.core, s.cur.ctx, s.cur.thr, i, s.iss.pc, a, b, c, some s.nextOp, status, none⟩] }
    ∧ t.ops = s.ops ++ [⟨s.nextOp, s.cur.core, s.cur.ctx, s.cur.thr, some d, false, s.iss.pc, .matrix mmv⟩]
    ∧ t.iss = { s.iss with post := s.iss.post ++ [.pend d] } ∧ t.threads = s.threads

/-- R182, R188: the shape that an IMM gives a tile, and that of an MMA. -/
def TileShape (imm : BitVec 32) : Prop := 1 ≤ mxM imm ∧ mxM imm ≤ 64 ∧ 1 ≤ mxN imm ∧ mxN imm ≤ 128 ∧ mxCol imm + mxN imm ≤ 128
def MmaShape (imm : BitVec 32) : Prop := TileShape imm ∧ 1 ≤ mxK imm ∧ mxK imm ≤ 512 ∧ mxK imm % 32 = 0
/-- R192: the shape that an IMM gives a TOPKC. -/
def TopkShape (imm : BitVec 32) : Prop :=
  1 ≤ tkRows imm ∧ tkRows imm ≤ 1024 ∧ 1 ≤ tkCols imm ∧ tkCols imm ≤ 128 ∧ 1 ≤ tkPicks imm ∧ tkPicks imm ≤ 64

/-- R177-R180: an operand word of a tile of some rows and columns passes: no reserved bit, aligned, inside the scratchpad. -/
def TileFits (s : State) (w : Word) (u v : Nat) : Prop :=
  mwReserved w = false ∧ mwMisplaced w (tileRows w u v) (tileLen w u v) = false ∧ s.tileOutside w u v = none
/-- R182: the shape and the formats that MMA accepts. -/
def MmaFits (x y : Word) (imm : BitVec 32) : Prop :=
  MmaShape imm ∧ 1 ≤ mwFmt x ∧ mwFmt x ≤ 4 ∧ mwFmt y = mwFmt x ∧ mxK imm % chunkOf (mwFmt x) = 0
    ∧ (3 ≤ mwFmt x → mxN imm ≤ 64 ∧ mxK imm ≤ 256)
/-- R188: the shapes, formats and lengths that ACLD and ACST accept. -/
def AccFits (m : MatMod) (w : Word) (imm : BitVec 32) : Prop :=
  TileShape imm ∧ (mwFmt w = 4 ∨ mwFmt w = 5 ∧ m.accf = false) ∧ tileLen w (mxM imm) (mxN imm) % 64 = 0
/-- R187: what the words of an MMV must be. -/
def MmvFits (a x w : Word) (imm : BitVec 32) : Prop :=
  1 ≤ mwFmt x ∧ mwFmt x ≤ 4 ∧ handleOff a % 64 = 0 ∧ streamWordOk w (mwFmt x) (mxCol imm) = true
    ∧ swK w % chunkOf (mwFmt x) = 0 ∧ swK w ≤ (if mwFmt x ≤ 2 then 1024 else 512)
/-- The handle table's entry for a reference of the current thread can be read: no error in its codeword (R82), and its pseudo-channel
is not reserved (R295). -/
def EntryReads (s : State) (w : Word) : Prop :=
  flawless s (s.handlePlace (s.partOf s.cur.core) s.cur.ctx w) 16 ∧ s.reserved (s.handlePlace (s.partOf s.cur.core) s.cur.ctx w) 16 = false
/-- R192-R194: what the words of a TOPKC without marks must be. -/
def TopkFits (s : State) (x y : Word) (imm : BitVec 32) : Prop :=
  let n := 4 * (tkCols imm * tkPicks imm)
  TopkShape imm ∧ tkPicks imm ≤ tkRows imm ∧ tkRows imm * tkCols imm ≤ 8192 ∧ tkPicks imm * tkCols imm ≤ 1024
    ∧ 1 ≤ mwFmt x ∧ mwFmt x ≤ 5 ∧ TileFits s x (tkRows imm) (tkCols imm)
    ∧ y.toNat < 2 ^ 36 ∧ tkIdx y % 64 = 0 ∧ tkVal y % 64 = 0
    ∧ rangesMeet (tkIdx y) n (tkVal y) n = false
    ∧ tileMeets s.cur.core x (tkRows imm) (tkCols imm) (tkIdx y) n = false
    ∧ tileMeets s.cur.core x (tkRows imm) (tkCols imm) (tkVal y) n = false
    ∧ tkIdx y + n ≤ (if s.split2 s.cur.core then 0x17000 else 0x2F000)
    ∧ tkVal y + n ≤ (if s.split2 s.cur.core then 0x17000 else 0x2F000)

end Sys2Proof.Claims

open Sys2Proof Sys2Proof.Machine Sys2Proof.Claims in
/-- R174, R176, R182, R186-R189, R192: a MATRIX operation that passes its checks enters the dispatch queue, which holds two; a synchronous
one issues when the unit has begun it, MXSTAT with its counters, or traps as the unit says; MMV and TOPKC get a future, an MMV whose
weights leave the handle's range one that resolves BOUNDS at the head of the queue. A shape that IMM may not give faults with cause 2,
after the bounded registers. Clauses of it rest on the model's own reading or choice, log 52 and 57. -/
def Obligations.MatrixInstructions : Prop := ∀ (s : State) (o : Fmt MatMod) (u : Fmt Unit) (k : Fmt ClrMod) (q : Fmt TopkMod),
  (s.Issues o →
    (∀ v, s.th.verdict = some (.pass v) → exec (.mma o) s = .next s ∧ exec (.acz o) s = .next s ∧ exec (.acld o) s = .next s
      ∧ exec (.acst o) s = .next s)
    ∧ (∀ c v, s.th.verdict = some (.trap c v) → exec (.mma o) s = .next (s.takeTrap c v) ∧ exec (.acz o) s = .next (s.takeTrap c v)
      ∧ exec (.acld o) s = .next (s.takeTrap c v) ∧ exec (.acst o) s = .next (s.takeTrap c v))
    ∧ (s.th.verdict = none → s.cc.dispatch.length < 2 → s.slotBeyond o.mod = false →
      Enqueued s (.acz o) 0 0 (exec (.acz o) s)
      ∧ (s.bitA o = false →
        (s.bitB o = false → s.bitC o = false → MmaFits (s.opA o) (s.opB o) o.imm →
          TileFits s (s.opA o) (mxM o.imm) (mxK o.imm) → TileFits s (s.opB o) (mxN o.imm) (mxK o.imm) →
          Enqueued s (.mma o) (s.opA o) (s.opB o) (exec (.mma o) s))
        ∧ (AccFits o.mod (s.opA o) o.imm → TileFits s (s.opA o) (mxM o.imm) (mxN o.imm) →
          Enqueued s (.acld o) (s.opA o) 0 (exec (.acld o) s) ∧ Enqueued s (.acst o) (s.opA o) 0 (exec (.acst o) s))))
    ∧ (s.th.verdict = none → s.bitA o = false →
      (s.bitB o = false → s.bitC o = false → ¬ MmaShape o.imm → exec (.mma o) s = .next (s.takeTrap 2 s.iss.pc))
      ∧ (¬ TileShape o.imm → exec (.acld o) s = .next (s.takeTrap 2 s.iss.pc) ∧ exec (.acst o) s = .next (s.takeTrap 2 s.iss.pc)))
    ∧ (s.th.verdict = none → s.bitA o = true → exec (.mma o) s = .next (s.takeTrap 26 s.iss.pc)
      ∧ exec (.acld o) s = .next (s.takeTrap 26 s.iss.pc) ∧ exec (.acst o) s = .next (s.takeTrap 26 s.iss.pc))
    ∧ (s.th.verdict = none → 2 ≤ s.cc.dispatch.length → s.slotBeyond o.mod = false → exec (.acz o) s = .next (s.park .none))
    ∧ (s.slotBeyond o.mod = true → s.th.verdict = none →
      exec (.acz o) s = .next (s.takeTrap 30 (BitVec.ofNat 64 o.mod.slot.val)))
    ∧ (∀ e, s.bitA o = false → s.bitB o = false → s.bitC o = false → EntryReads s (s.opA o) →
      s.resolveHandle (s.partOf s.cur.core) s.cur.ctx (s.opA o) = some e → heRd e = true →
      MmvFits (s.opA o) (s.opB o) (s.opC o) o.imm → s.slotBeyond o.mod = false →
      TileFits s (s.opB o) (swBatch (s.opC o)) (swK (s.opC o)) →
      (s.cc.dispatch.length < 2 → Queued s true (.mmv o) o.d (s.opA o) (s.opB o) (s.opC o)
        (if streamInside (s.opA o) (s.opC o) (mwFmt (s.opB o)) e then 0 else 2) (exec (.mmv o) s))
      ∧ (2 ≤ s.cc.dispatch.length → exec (.mmv o) s = .next (s.park .none))))
  ∧ (s.Issues u →
    (∀ v, s.th.verdict = some (.pass v) → exec (.mxseed u) s = .next s ∧ exec (.mxthr u) s = .next s)
    ∧ (s.th.verdict = none → s.cc.dispatch.length < 2 → s.bitA u = false →
      Enqueued s (.mxseed u) (s.opA u) 0 (exec (.mxseed u) s) ∧ Enqueued s (.mxthr u) (s.opA u) 0 (exec (.mxthr u) s)))
  ∧ (s.Issues k →
    (∀ v, s.th.verdict = some (.pass v) → exec (.mxstat k) s = .next (s.land k.d (v.setWidth 256) false 1))
    ∧ (s.th.verdict = none → s.cc.dispatch.length < 2 → (s.split2 s.cur.core = false ∨ k.imm.toNat % 4 < 2) →
      Enqueued s (.mxstat k) 0 0 (exec (.mxstat k) s)))
  ∧ (s.Issues q → s.bitA q = false → s.bitB q = false → s.bitC q = false →
    (q.mod.mark = false → TopkFits s (s.opA q) (s.opB q) q.imm → s.cc.dispatch.length < 2 →
      Queued s false (.topkc q) q.d (s.opA q) (s.opB q) (s.opC q) 0 (exec (.topkc q) s))
    ∧ (¬ TopkShape q.imm → exec (.topkc q) s = .next (s.takeTrap 2 s.iss.pc)))

namespace Sys2Proof.Claims
open Sys2Proof.Machine

/-- The unit is free, and the operation that it turns to next is q (R175). -/
def Heads (s : State) (quad : Nat) (q : MatrixCmd) : Prop := (s.quad quad).service = none ∧ s.nextMatrix quad = some q
/-- The core context of an operation, and its thread. -/
def ctxOf (s : State) (q : MatrixCmd) : CoreCtx := s.coreCtx q.core q.ctx
def MatrixCmd.owner (q : MatrixCmd) : ThreadId := ⟨q.core, q.ctx, q.thr⟩
/-- Nothing but the dispatch queues of the core contexts differs. -/
def OnlyDispatch (s t : State) : Prop :=
  ∀ core ctx, t.coreCtx core ctx = { s.coreCtx core ctx with dispatch := (t.coreCtx core ctx).dispatch }

/-- The operation in service has read its operands, which the unit holds (R181). -/
def HasRead (s : State) (quad : Nat) (q : MatrixCmd) : Prop :=
  (s.quad quad).service = some q ∧ (s.quad quad).stage = .reading ∧ (s.quad quad).todo = []
/-- The operation was performed: it stands in service with the word that it answers with and what it still has to store; nothing of
HBM, the scratchpads or the threads has changed. -/
def Performed (s t : State) (quad : Nat) (q : MatrixCmd) (v : Word) (outs : List UnitStore) : Prop :=
  (∃ x, (t.quad quad).service = some { q with status := v, cross := x }) ∧ (t.quad quad).stage = .writing ∧ (t.quad quad).outs = outs
    ∧ SameMemory s t ∧ SameScratch s t ∧ t.threads = s.threads
/-- One of some stores holds some bytes for an address. -/
def Holds (outs : List UnitStore) (core a : Nat) (l : List Byte) : Prop :=
  ∃ w ∈ outs, w.core = core ∧ w.addr ≤ a ∧ a + l.length ≤ w.addr + w.bytes.length ∧ (w.bytes.drop (a - w.addr)).take l.length = l

/-- R183: a sum into an FP32 accumulator: rounded once to nearest even, and saturated at the largest finite value. -/
def accumulated (old : Nat) (sum : FVal) : Nat :=
  let t := (FVal.add .rne (fp32.decode old) sum).1
  let r := (fp32.round .rne t).1
  if t.isNan = false ∧ r % 2 ^ 31 = 0x7F800000 then r - 1 else r

end Sys2Proof.Claims

open Sys2Proof Sys2Proof.Machine Sys2Proof.Claims in
/-- R174, R175, R180, R186, R187: the unit turns to an operation: one whose blocks may be read begins, with every word of its tiles to
read and the tags as they stand, and the group of a synchronous one commits; a block that may not be read makes it trap, or its future
faulted; one that was cancelled, or whose weights are out of range, resolves with no effect; one of a group whose other slot traps is only judged
(log 26). -/
def Sys2Proof.Claims.MatrixServiceBegins : Prop := ∀ (s : State) (quad n : Nat) (q : MatrixCmd) (op : Op), Heads s quad q →
  (s.matrixCancelled q = false → q.status = 0 → s.serviceFault q = none → (q.op = none → (s.thread (MatrixCmd.owner q)).doomed = false) →
    ∃ t, exec (.matrixDispatch quad) s = .next t ∧ (t.quad quad).service = some q ∧ (t.quad quad).last = coreInQuad q.core
      ∧ (t.quad quad).stage = .reading ∧ (ctxOf t q).dispatch = (ctxOf s q).dispatch.drop 1 ∧ OnlyDispatch s t ∧ SameMemory s t
      ∧ (∀ x ∈ q.tiles, ∀ a ∈ tileWords x.1 x.2.1 x.2.2, (tileCore q.core x.1, a) ∈ (t.quad quad).todo)
      ∧ ((∀ x ∈ q.tiles, ∀ a ∈ tileWords x.1 x.2.1 x.2.2, a < 0x30000) → ∀ x ∈ q.tiles, ∀ a ∈ tileBlocks x.1 x.2.1 x.2.2,
        (t.quad quad).tag (tileCore q.core x.1) a = (s.coreCtx (tileCore q.core x.1) q.ctx).tag a)
      ∧ (q.op = none → (t.thread (MatrixCmd.owner q)).verdict = some (.pass (s.startWord q))))
  ∧ (s.matrixCancelled q = false → q.status = 0 → s.serviceFault q = none → q.op = none → (s.thread (MatrixCmd.owner q)).doomed = true →
    ∃ t, exec (.matrixDispatch quad) s = .next t ∧ (t.quad quad).service = none ∧ OnlyDispatch s t
      ∧ (t.thread (MatrixCmd.owner q)).verdict = some (.pass (s.startWord q)))
  ∧ (∀ c a w, s.matrixCancelled q = false → q.status = 0 → s.serviceFault q = some (c, a, w) → c ≠ 28 →
    (q.op = none → ∃ t, exec (.matrixDispatch quad) s = .next t ∧ (t.quad quad).service = none
      ∧ (t.thread (MatrixCmd.owner q)).verdict = some (.trap c (BitVec.ofNat 64 a)))
    ∧ (q.op = some n → s.op n = some op → ∃ t, exec (.matrixDispatch quad) s = .next t ∧ (t.quad quad).service = none ∧ t.op n = none
      ∧ ∀ d, d ≠ 0 → op.dest = some (.x d) → (t.thread op.owner).readX d = ⟨0, false, .faulted c (BitVec.ofNat 64 a)⟩))
  ∧ (q.op = some n → s.op n = some op →
    (op.cancelled = true → Resolves op 1 (exec (.matrixDispatch quad) s))
    ∧ (op.cancelled = false → q.status ≠ 0 → Resolves op q.status (exec (.matrixDispatch quad) s)))

open Sys2Proof Sys2Proof.Machine Sys2Proof.Claims in
/-- R176, R183, R188, R189: an operation that has read its operands is performed whole: MMA adds each dot product of a chunk, exact and
rounded once, to its FP32 accumulator; ACZ and ACLD clear and load a tile; ACST holds its elements ready to store; MXSEED, MXTHR and
MXSTAT do as they say. -/
def Sys2Proof.Claims.MatrixPerforms : Prop := ∀ (s : State) (quad : Nat) (q : MatrixCmd), HasRead s quad q →
  let u := s.quad quad
  (∀ o, q.instr = .acz o → ∃ t, exec (.matrixOpDone quad) s = .next t ∧ Performed s t quad q 0 []
    ∧ (∀ i j, i < 64 → j < 128 → (ctxOf t q).readAcc o.mod.accf o.mod.slot.val i j = 0)
    ∧ (∀ k i j, k ≠ o.mod.slot.val → i < 64 → j < 128 →
      (ctxOf t q).readAcc o.mod.accf k i j = (ctxOf s q).readAcc o.mod.accf k i j))
  ∧ (∀ o, q.instr = .mma o → o.mod.accf = false → mxM o.imm ≤ 64 → mxCol o.imm + mxN o.imm ≤ 128 →
    mxK o.imm = chunkOf (mwFmt q.a) →
    ∃ t, exec (.matrixOpDone quad) s = .next t ∧ Performed s t quad q 0 []
      ∧ (∀ i j, i < mxM o.imm → j < mxN o.imm →
        (ctxOf t q).readAcc false o.mod.slot.val i (mxCol o.imm + j)
          = accumulated ((ctxOf s q).readAcc false o.mod.slot.val i (mxCol o.imm + j))
              (dotChunk (u.tileValue q.core q.a i) (u.tileValue q.core q.b j) 0 (mxK o.imm)) % 2 ^ 32)
      ∧ (∀ i j, i < 64 → j < 128 → (mxM o.imm ≤ i ∨ j < mxCol o.imm ∨ mxCol o.imm + mxN o.imm ≤ j) →
        (ctxOf t q).readAcc false o.mod.slot.val i j = (ctxOf s q).readAcc false o.mod.slot.val i j))
  ∧ (∀ o, q.instr = .acld o → o.mod.accf = false → mwFmt q.a = 5 → mxM o.imm ≤ 64 → mxCol o.imm + mxN o.imm ≤ 128 →
    ∃ t, exec (.matrixOpDone quad) s = .next t ∧ Performed s t quad q 0 []
      ∧ ∀ i j, i < mxM o.imm → j < mxN o.imm → (ctxOf t q).readAcc false o.mod.slot.val i (mxCol o.imm + j)
        = elemBits (u.tag (tileCore q.core q.a) (tileAt q.a i j)) (u.bytes (tileCore q.core q.a) (tileAt q.a i j) 4))
  ∧ (∀ o, q.instr = .acst o → o.mod.accf = false → mwFmt q.a = 5 → mwOrd q.a = false → mwSwz q.a = false →
    4 * mxN o.imm ≤ mwPitch q.a → ∃ t outs, exec (.matrixOpDone quad) s = .next t ∧ Performed s t quad q 0 outs
      ∧ (∀ i j, i < mxM o.imm → j < mxN o.imm → Holds outs (tileCore q.core q.a) (mwAddr q.a + i * mwPitch q.a + 4 * j)
        (natToBytes 4 ((ctxOf s q).readAcc false o.mod.slot.val i (mxCol o.imm + j))))
      ∧ ∀ w ∈ outs, w.core = tileCore q.core q.a ∧ w.bytes.length = 8 ∧ (∃ tag, w.tag = some tag ∧ (tag >>> 8).setWidth 7 = 5)
        ∧ ∃ i, i < mxM o.imm ∧ mwAddr q.a + i * mwPitch q.a ≤ w.addr ∧ w.addr < mwAddr q.a + i * mwPitch q.a + 4 * mxN o.imm)
  ∧ (∀ o, q.instr = .mxseed o → ∃ t, exec (.matrixOpDone quad) s = .next t ∧ Performed s t quad q 0 []
    ∧ ∀ j, j < 128 → (ctxOf t q).gen j = lfsrLoad (q.a.setWidth 32 ^^^ BitVec.ofNat 32 j))
  ∧ (∀ o, q.instr = .mxthr o → ∃ t, exec (.matrixOpDone quad) s = .next t ∧ Performed s t quad q 0 []
    ∧ (ctxOf t q).mxthr = (q.a.setWidth 48).setWidth 64)
  ∧ (∀ o, q.instr = .mxstat o → let n := (ctxOf s q).counter (o.imm.toNat % 4)
    let v := (n.bso.setWidth 64 <<< 32) ||| (n.nan.setWidth 64 <<< 16) ||| n.sat.setWidth 64
    s.startWord q = v ∧ ∃ t, exec (.matrixOpDone quad) s = .next t ∧ Performed s t quad q v []
      ∧ (ctxOf t q).counter (o.imm.toNat % 4) = if o.mod.clr then ⟨0, 0, 0, n.b⟩ else n)

open Sys2Proof Sys2Proof.Machine Sys2Proof.Claims in
/-- R181, R197: the words of a tile are read one after the other, each as it stands then, and one that has gone bad makes its block POISON; the words of an output are stored one after the
other, each whole and with its tag; nothing else changes meanwhile. -/
def Sys2Proof.Claims.MatrixWordsGoByTurns : Prop := ∀ (s : State) (quad : Nat) (q : MatrixCmd), (s.quad quad).service = some q →
  ((s.quad quad).stage = .reading → (s.quad quad).todo ≠ [] →
    (∀ p ∈ (s.quad quad).todo, p.2 + 8 ≤ 0x30000 ∧ (s.coreCtx p.1 q.ctx).badIn [p.2] 8 = []) →
    ∃ t, exec (.matrixOpDone quad) s = .next t ∧ t = { s with quads := t.quads }
      ∧ (t.quad quad).service = some q ∧ (t.quad quad).todo.length < (s.quad quad).todo.length
      ∧ ∀ p ∈ (s.quad quad).todo, p ∈ (t.quad quad).todo ∨ (t.quad quad).bytes p.1 p.2 8 = (s.coreCtx p.1 q.ctx).bytes p.2 8)
  ∧ (∀ p w, (s.quad quad).stage = .reading → (s.quad quad).todo = [p] → (s.coreCtx p.1 q.ctx).badIn [p.2] 8 = [w] →
    ∃ t, exec (.matrixOpDone quad) s = .next t ∧ tagPoison ((t.coreCtx p.1 q.ctx).tag (w * 8)) = true
      ∧ w ∉ (t.coreCtx p.1 q.ctx).badWords ∧ (t.quad quad).todo = [] ∧ t.threads = s.threads)
  ∧ ((s.quad quad).stage = .writing → (s.quad quad).outs ≠ [] →
    ∃ t, exec (.matrixOpDone quad) s = .next t ∧ t = { s with quads := t.quads, ctxs := t.ctxs }
      ∧ (t.quad quad).service = some q ∧ (t.quad quad).outs.length < (s.quad quad).outs.length
      ∧ (∀ core ctx a, (∀ w ∈ (s.quad quad).outs, core ≠ w.core ∨ ctx ≠ q.ctx ∨ a < w.addr ∨ w.addr + w.bytes.length ≤ a) →
        (t.coreCtx core ctx).byte a = (s.coreCtx core ctx).byte a)
      ∧ ∀ w, (s.quad quad).outs = [w] → (t.quad quad).outs = [] ∧ (t.coreCtx w.core q.ctx).bytes w.addr w.bytes.length = w.bytes
        ∧ ∀ tag, w.tag = some tag → (t.coreCtx w.core q.ctx).tag w.addr
          = if tagPoison ((s.coreCtx w.core q.ctx).tag w.addr) then (s.coreCtx w.core q.ctx).tag w.addr else tag)

open Sys2Proof Sys2Proof.Machine Sys2Proof.Claims in
/-- R174-R176, R180, R181, R183, R186-R189, R197: a service of the matrix unit: how it begins, how its operands and its outputs go word
by word, and what the operation computes. Clauses of it rest on the model's own reading or choice, log 1, 26, 53, 54 and 55. -/
def Obligations.MatrixService : Prop := MatrixServiceBegins ∧ MatrixWordsGoByTurns ∧ MatrixPerforms

open Sys2Proof Sys2Proof.Machine Sys2Proof.Claims in
/-- R174, R185, R187: the end of a service lets the thread go on, or resolves the future with the status of the operation, and makes due the
trap for counters that crossed; the stream buffer takes the weights of the next MMV; one whose handle was revoked resolves REVOKED, a
cancelled one CANCELLED. Clauses of it rest on the model's own reading or choice, log 1 and 34. -/
def Obligations.MatrixEvents : Prop := ∀ (s : State) (quad n : Nat) (q : MatrixCmd) (op : Op),
  ((s.quad quad).service = none → exec (.matrixOpDone quad) s = .next s)
  ∧ ((s.quad quad).service = some q → (s.quad quad).stage = .writing → (s.quad quad).outs = [] →
    let th := s.thread (MatrixCmd.owner q)
    (q.op = none → ∃ t, exec (.matrixOpDone quad) s = .next t ∧ (t.quad quad).service = none
      ∧ (t.thread (MatrixCmd.owner q)).wait = (if th.wait = .service then .none else th.wait)
      ∧ (t.thread (MatrixCmd.owner q)).verdict = th.verdict
      ∧ (q.cross = none → (t.thread (MatrixCmd.owner q)).thresholds = th.thresholds)
      ∧ (∀ p, q.cross = some p → th.thresholds = [] → (t.thread (MatrixCmd.owner q)).thresholds = [p]))
    ∧ (q.op = some n → s.op n = some op → Resolves op q.status (exec (.matrixOpDone quad) s)))
  ∧ (s.op n = some op → s.nextStream (quadOf op.core) = some (n, q) →
    (op.cancelled = true → Resolves op 1 (exec (.streamBufferFill n) s))
    ∧ (op.cancelled = false → flawless s (s.handlePlace (s.partOf q.core) q.ctx q.a) 16 →
      let e := s.handleEntry (s.partOf q.core) q.ctx q.a
      let blocks := streamBlocks q.a q.c (mwFmt q.b)
      (heV e = false → ∃ c, Resolves op (okWord c ||| 3) (exec (.streamBufferFill n) s))
      ∧ (heV e = true → heCls e = 0 → (∃ a ∈ blocks, s.reserved (heBase e + a) 64 = true) → exec (.streamBufferFill n) s = .next s)
      ∧ (heV e = true → heCls e = 0 → (∀ a ∈ blocks, s.reserved (heBase e + a) 64 = false ∧ flawless s (heBase e + a) 64) →
        streamFault (mwFmt q.b) q.a (blocks.map fun a =>
          (a, ((List.range 64).map fun i => (s.handleRead e (heBase e + a + i)).1), (s.handleRead e (heBase e + a)).2)) = none →
        ∃ t, exec (.streamBufferFill n) s = .next t ∧ (t.quad (quadOf op.core)).filled = some n
          ∧ t = { s with quads := t.quads })))

/-! ## Pewter arrays, stack atomics and bank units (14, 18, 19) -/

namespace Sys2Proof.Claims
open Sys2Proof.Machine

/-- The bytes of the data rows of the current core context (R99). -/
def rowsEnd (s : State) : Nat := if s.split2 s.cur.core then 0x17000 else 0x2F000
/-- R120, R121: a status word of a code and a count. -/
def statusOf (code count : Nat) : Word := BitVec.ofNat 64 (count % 2 ^ 32 * 2 ^ 16 + code)

/-- R207: the command of an array that an instruction sends: A and B are its scratchpad addresses, C its array. -/
def arrayCmd (s : State) {M : Type} (o : Fmt M) (fn : Nat) (all : Bool) : ArrayCmd :=
  ⟨quadOf s.cur.core * 4 + (s.opC o).toNat, fn, (s.opA o).toNat, (s.opB o).toNat, o.imm.toNat / 1024 % 512, o.imm.toNat % 1024,
    all, false, false, [], 0, [], none, s.cycle⟩
/-- R207, R208: an array command may be sent: nothing bounded, one of the four arrays, with room in its queue, and no watch of
XBINJ (R206). -/
structure MaySend {M : Type} (s : State) (o : Fmt M) : Prop where
  issues : s.Issues o
  a : s.bitA o = false
  b : s.bitB o = false
  c : s.bitC o = false
  array : (s.opC o).toNat ≤ 3
  room : (s.arrayQueue (quadOf s.cur.core * 4 + (s.opC o).toNat)).length < 8
  watch : s.th.xbinj.getLsbD 31 = false

/-- The one command of its array, in service. -/
def Serves (s : State) (n : Nat) (op : Op) (c : ArrayCmd) : Prop :=
  s.op n = some op ∧ op.kind = .array c ∧ s.arrayQueue c.arr = [(op, c)] ∧ c.started = true
/-- R210: the command in service was performed: it stands with the word that it answers with and the words that it has still to
write, each with a tag for its block; nothing of HBM or the scratchpads has changed. -/
def Answers (s t : State) (n : Nat) (op : Op) (c : ArrayCmd) (v : Word) (tag : BitVec 16) (outs : List UnitStore) : Prop :=
  t.op n = some { op with kind := .array { c with outs := outs, answer := some v } } ∧ SameMemory s t ∧ SameScratch s t
    ∧ ∀ x ∈ outs, x.core = op.core ∧ x.bytes.length = 8 ∧ x.tag = some tag

end Sys2Proof.Claims

open Sys2Proof Sys2Proof.Machine Sys2Proof.Claims in
/-- R203, R207-R214: an XBAR instruction whose ranges lie in the data rows, aligned to 64, starts its command; a shape that
R207 does not allow faults with cause 2 and one that needs calibration
faults with cause 48 without it. In service XBVER gives the weights, XBPROG programs row by row, XBCAL calibrates or not, a product
lies within the bound of R201 where no reference column errs by more than R202 allows, and else drifts, and a product without calibration resolves DRIFT;
outputs are written word by word, and the future resolves after the last of them. Clauses of it rest on the model's own reading or choice, log 9, 12, 13, 30 and 120. -/
def Obligations.ArrayCommands : Prop := ∀ (s : State) (o : Fmt Unit) (w : Fmt Bool) (n : Nat) (op : Op) (c : ArrayCmd),
  let a := (s.opA o).toNat
  let k := o.imm.toNat % 1024
  let row := o.imm.toNat / 1024 % 512
  let shape := fun (most : Nat) => 1 ≤ k ∧ k ≤ most ∧ row + k ≤ 512
  let arr := s.array (quadOf s.cur.core * 4 + (s.opC o).toNat)
  (MaySend s o →
    (arr.calibrated = true → a % 64 = 0 →
      (shape 512 → (s.opB o).toNat % 64 = 0 → a + k ≤ rowsEnd s → (s.opB o).toNat + 1024 ≤ rowsEnd s →
        exec (.xbmv o) s = .next (s.started o (.array (arrayCmd s o 0 false))))
      ∧ (shape 64 → a + 256 * k ≤ rowsEnd s → exec (.xbprog o) s = .next (s.started o (.array (arrayCmd s o 1 false)))
        ∧ exec (.xbver o) s = .next (s.started o (.array (arrayCmd s o 2 false)))))
    ∧ (arr.calibrated = false → a % 64 = 0 → shape 64 → a + 256 * k ≤ rowsEnd s →
      exec (.xbprog o) s = .next (s.takeTrap 48 (s.opC o)) ∧ exec (.xbver o) s = .next (s.takeTrap 48 (s.opC o)))
    ∧ (¬ shape 512 → exec (.xbmv o) s = .next (s.takeTrap 2 s.iss.pc))
    ∧ (¬ shape 64 → exec (.xbprog o) s = .next (s.takeTrap 2 s.iss.pc) ∧ exec (.xbver o) s = .next (s.takeTrap 2 s.iss.pc))
    ∧ (k = 0 ∧ row = 0 → exec (.xbcal o) s = .next (s.started o (.array (arrayCmd s o 3 false))))
    ∧ (k = 0 ∧ row = 0 → a % 64 = 0 → a + 2176 ≤ rowsEnd s → exec (.xbrd o) s = .next (s.started o (.array (arrayCmd s o 4 false)))))
  ∧ (MaySend s w → w.imm.toNat % 2 ^ 19 = 0 → (s.opA w).toNat % 64 = 0 → (s.opA w).toNat + 2176 ≤ rowsEnd s →
    exec (.xbwr w) s = .next (s.started w (.array (arrayCmd s w 5 w.mod))))
  ∧ (s.op n = some op → op.kind = .array c → s.arrayQueue c.arr = [(op, c)] → c.started = false → op.cancelled = false →
    (c.fn = 0 → (s.array c.arr).calibrated = false → Resolves op (statusOf 5 0) (exec (.arrayCommandStart c.arr) s))
    ∧ (c.fn = 3 → ∃ t, exec (.arrayCommandStart c.arr) s = .next t
      ∧ t.op n = some { op with kind := .array { c with started := true, data := [] } }))
  ∧ (Serves s n op c → c.answer = none →
    (c.fn = 0 → c.marked = false → ∃ t v outs, exec (.arrayCommandDone c.arr) s = .next t ∧ Answers s t n op c v 0x8500 outs
      ∧ ((s.worstRef.1 ≤ 512 ∧ v = statusOf 0 256 ∧ t.arrays = s.arrays
          ∧ ∀ j, j < 256 →
            let scale := fp16.decode ((s.array c.arr).scaleOf j).toNat
            let sums := c.sums fun i => (s.array c.arr).weight i j
            ∃ code, Holds outs op.core (c.b + 4 * j) (natToBytes 4 code)
              ∧ (withinBound scale sums.1 sums.2 code = true ∨ code = (fp32.round .rne (scale.mul (.ofInt sums.1)).1).1))
        ∨ (512 < s.worstRef.1 ∧ v = statusOf 5 256 ∧ (t.array c.arr).calibrated = false)))
    ∧ (c.fn = 0 → c.marked = true → ∃ t outs, exec (.arrayCommandDone c.arr) s = .next t
      ∧ Answers s t n op c (statusOf 5 256) 0x8500 outs
      ∧ (t.array c.arr).calibrated = false ∧ (t.array c.arr).drift = 0xFFFF ∧ (t.array c.arr).driftcol = 8)
    ∧ (c.fn = 2 → ∃ t outs, exec (.arrayCommandDone c.arr) s = .next t ∧ Answers s t n op c (statusOf 0 c.n) 0x0100 outs
      ∧ ∀ r j, r < c.n → j < 256 → Holds outs op.core (c.a + 256 * r + j)
        [BitVec.ofInt 8 ((s.array c.arr).weight (c.row0 + r) j)])
    ∧ (c.fn = 3 →
      (Resolves op (statusOf 0 264) (exec (.arrayCommandDone c.arr) s) ∨ Resolves op (statusOf 5 0) (exec (.arrayCommandDone c.arr) s)))
    ∧ (c.fn = 1 → c.n ≤ c.rows → Resolves op (statusOf 0 c.n) (exec (.arrayCommandDone c.arr) s)))
  ∧ (∀ v, Serves s n op c → c.answer = some v →
    (c.outs = [] → Resolves op v (exec (.arrayCommandDone c.arr) s))
    ∧ (c.outs ≠ [] → ∃ t rest, exec (.arrayCommandDone c.arr) s = .next t
      ∧ t.op n = some { op with kind := .array { c with outs := rest } } ∧ rest.length < c.outs.length
      ∧ (∀ a, (∀ x ∈ c.outs, a < x.addr ∨ x.addr + x.bytes.length ≤ a) →
        (t.coreCtx op.core op.ctx).byte a = (s.coreCtx op.core op.ctx).byte a)
      ∧ ∀ x, c.outs = [x] → rest = [] ∧ (t.coreCtx op.core op.ctx).bytes x.addr x.bytes.length = x.bytes
        ∧ ∀ tag, x.tag = some tag → (t.coreCtx op.core op.ctx).tag x.addr
          = if c.fn ≠ 4 ∧ tagPoison ((s.coreCtx op.core op.ctx).tag x.addr) = true then (s.coreCtx op.core op.ctx).tag x.addr else tag))
  ∧ (Serves s n op c → c.fn = 1 →
    (c.rows < c.n → op.cancelled = false → ∃ t, exec (.rowProgram c.arr) s = .next t
      ∧ (t.array c.arr).endur = (s.array c.arr).endur + 1
      ∧ (∀ i j, i ≠ c.row0 + c.rows → j < 256 → (t.array c.arr).weight i j = (s.array c.arr).weight i j)
      ∧ ((t.op n = some { op with kind := .array { c with rows := c.rows + 1 } }
          ∧ ∀ j, j < 256 → (t.array c.arr).weight (c.row0 + c.rows) j
            = (c.data[256 * c.rows + j]?).elim 0 BitVec.toInt)
        ∨ (t.op n = none ∧ .array c.arr ∈ t.lasting ∧ ∀ j, j < 256 → ((t.array c.arr).weight (c.row0 + c.rows) j).natAbs ≤ 15))))

namespace Sys2Proof.Claims
open Sys2Proof.Machine

/-- A STACK command as its SAU gets it (R276, R277). -/
def stackCmd (s : State) (o : Fmt StackMod) (fn act : Nat) (v : VWord) (leaf : TlbEntry) : StackCmd :=
  ⟨fn, o.mod.op, o.mod.w64, encStackMod o.mod, o.imm, eaOf s o, leaf.paOf (eaOf s o).toNat, v, act, s.iss.pc,
    if fn = 2 then o.d.code else 0⟩
/-- R277: the new value of an element. -/
def combined {n : Nat} (op : StackOp) (old v : BitVec n) : BitVec n :=
  match op with
  | .add => old + v
  | .fadd => BitVec.ofNat n (floatAdd .fp32 .rne (fp32.decode old.toNat) (fp32.decode v.toNat)).1
  | .min => if v.slt old then v else old
  | .max => if old.slt v then v else old
  | .and => old &&& v
  | .or => old ||| v
  | .xor => old ^^^ v
/-- R273: a command stands in the queue of the SAU of its place. -/
def AtSau (s : State) (n pa : Nat) : Prop := n ∈ (s.pch (s.pchOf pa)).queue
/-- The STACK commands of the core that are under way. -/
def stacksOf (s : State) : Nat := (s.ops.filter fun p => p.core == s.cur.core && p.kind.isStack).length
/-- Bytes of memory as a number. -/
def memoryAt (s : State) (pa w : Nat) : BitVec (8 * w) := BitVec.ofNat _ (bytesToNat ((List.range w).map fun i => s.dramByte (pa + i)))

end Sys2Proof.Claims

open Sys2Proof Sys2Proof.Machine Sys2Proof.Claims in
/-- R273-R280: a STACK instruction on a BANK page sends its command, at most 32 of a core; it arrives at its SAU behind the others, as
long as the queue has room; the SAU applies it to the element where it lies and to nothing else; NAMOR's old value resolves its register;
a POISON block is not written. Clauses of it rest on the model's own reading or choice, log 1 and 87. -/
def Obligations.StackAtomics : Prop := ∀ (s : State) (o : Fmt StackMod) (leaf : TlbEntry) (n : Nat) (op : Op) (c : StackCmd),
  let w := if o.mod.w64 then 8 else 4
  (s.Issues o → s.bitA o = false → s.bitB o = false → s.bitC o = false → leaf.cls = 1 →
    (s.translate (eaOf s o) .bank = .ok leaf →
      ((eaOf s o).toNat % w = 0 → exec (.namo o) s = .next (if stacksOf s < 32
        then launched s (.stack (stackCmd s o 0 1 ((s.opC o).setWidth 256) leaf) none) else s.park .none))
      ∧ ((eaOf s o).toNat % 32 = 0 → s.stackLanes 1 o.mod ≠ 0 → stacksOf s < 32 → exec (.namov o) s
        = .next (launched s (.stack (stackCmd s o 1 (s.stackLanes 1 o.mod) (s.read o.imm o.c).val leaf) none)))
      ∧ ((eaOf s o).toNat % 32 = 0 → s.stackLanes 1 o.mod = 0 → exec (.namov o) s = .next s))
    ∧ (s.translate (eaOf s o) .load = .ok leaf → leaf.wr = true → (eaOf s o).toNat % w = 0 → stacksOf s < 32 →
      exec (.namor o) s = .next (s.started o (.stack (stackCmd s o 2 1 ((s.opC o).setWidth 256) leaf) none)))
    ∧ ((eaOf s o).toNat % w ≠ 0 → exec (.namo o) s = .next (s.takeTrap 6 (eaOf s o))))
  ∧ (s.op n = some op → op.kind = .stack c none → s.inNetwork (s.pchOf c.pa) n = true →
    let q := (s.pch (s.pchOf c.pa)).queue
    ((∀ p ∈ s.ops, n ≤ p.id) → q.length < 64 → ∃ t, exec (.stackCommandPerform n) s = .next t
      ∧ (t.pch (s.pchOf c.pa)).queue = q ++ [n] ∧ t.ops = s.ops ∧ SameMemory s t)
    ∧ (64 ≤ q.length → exec (.stackCommandPerform n) s = .next s))
  ∧ (s.op n = some op → op.kind = .stack c none → AtSau s n c.pa → s.stackReady op c = true → c.active = 1 →
    flawless s (c.pa / 32 * 32) 32 →
    let k := if c.w64 then 8 else 4
    c.pa % k = 0 →
    (tagPoison (s.blockTag c.pa) = false → tagB (s.blockTag c.pa) = false → tagZero (s.blockTag c.pa) = false →
      tagConst (s.blockTag c.pa) = false → ∃ t, exec (.stackCommandPerform n) s = .next t
        ∧ (∀ a, t.dramByte a = if c.pa ≤ a ∧ a < c.pa + k
            then ((combined c.op (memoryAt s c.pa k) (c.value.setWidth (8 * k))) >>> (8 * (a - c.pa))).setWidth 8 else s.dramByte a)
        ∧ (∀ a, t.blockTag a = s.blockTag a)
        ∧ (c.fn ≠ 2 → t.op n = none)
        ∧ (c.fn = 2 → t.op n = some { op with kind := .stack c (some (if c.w64 || c.op == .fadd
            then (memoryAt s c.pa k).setWidth 64 else (memoryAt s c.pa k).signExtend 64)) }))
    ∧ (tagPoison (s.blockTag c.pa) = true → ∃ t, exec (.stackCommandPerform n) s = .next t ∧ t.op n = none ∧ SameMemory s t))
  ∧ (∀ r, s.op n = some op → op.kind = .stack c (some r) → Resolves op r (exec (.namorResolve n) s))

namespace Sys2Proof.Claims
open Sys2Proof.Machine

/-- A BANK instruction may send its command: nothing bounded, its address aligned and on a BANK page, and at most 16 of the core
under way (R286, R288). -/
structure MayBank {M : Type} (s : State) (o : Fmt M) (align : Nat) (leaf : TlbEntry) : Prop where
  issues : s.Issues o
  a : s.bitA o = false
  b : s.bitB o = false
  c : s.bitC o = false
  aligned : (eaOf s o).toNat % align = 0
  mapped : s.translate (eaOf s o) .bank = .ok leaf
  page : leaf.cls = 1
  room : (s.ops.filter fun p => p.core == s.cur.core && p.kind.isBank).length < 16
/-- The block of 64 bytes behind an address may be read as weights (R288). -/
def weightBlock (s : State) (a : Nat) : Prop :=
  let t := s.cc.tag a
  tagPoison t = false ∧ tagB t = false ∧ bankTag t = true
/-- The SAU takes this command next, and it is not cancelled. -/
def BankTurn (s : State) (n : Nat) (op : Op) (c : BankCmd) : Prop :=
  s.op n = some op ∧ op.kind = .bank c ∧ AtSau s n c.pa ∧ s.bankReady op c = true ∧ op.cancelled = false

end Sys2Proof.Claims

open Sys2Proof Sys2Proof.Machine Sys2Proof.Claims in
/-- R285-R295: a BANK instruction on a BANK page sends its command; BKMODE gives the mode of a pseudo-channel to the core and takes
it back; BKLDR fills the inputs, a step of BKMAC adds a column to one sum of each bank, BKRD stores the sums word by word, as FP32 blocks; all but the owner
fault with cause 52. A plain access happens where the mode is off; a refresh is postponed in it, at most eight times for a bank; BKCTX is
busy until its operation ends. Clauses of it rest on the model's own reading or choice, log 1, 31, 74 and 98. -/
def Obligations.BankCommands : Prop := ∀ (s : State) (o : Fmt Unit) (m : Fmt BankMod) (leaf : TlbEntry) (n : Nat) (op : Op)
    (c : BankCmd) (pch : Nat) (area : Word),
  (MayBank s o 32 leaf →
    let pa := leaf.paOf (eaOf s o).toNat
    exec (.bkmodeOn o) s = .next (s.started o (.bank ⟨0, true, eaOf s o, pa, [], 0, 0, 0, o.imm, false, 0, o.d.code⟩))
    ∧ exec (.bkmodeOff o) s = .next (s.started o (.bank ⟨0, false, eaOf s o, pa, [], 0, 0, 0, o.imm, false, 0, o.d.code⟩))
    ∧ ((s.opC o).toNat % 64 = 0 → (s.opC o).toNat + 512 ≤ rowsEnd s → unwatched s → s.cc.badWords = [] →
      (∀ i, i < 8 → weightBlock s ((s.opC o).toNat + 64 * i)) →
      exec (.bkldr o) s = .next (s.started o (.bank ⟨1, false, eaOf s o, pa, s.cc.bytes (s.opC o).toNat 512, 0, 0, 0, o.imm, false, 0,
        o.d.code⟩))))
  ∧ (MayBank s m 512 leaf → (eaOf s m).toNat / 512 % 64 + (m.mod.n1.toNat + 1) ≤ 64 →
    exec (.bkmac m) s = .next (s.started m (.bank ⟨2, false, eaOf s m, leaf.paOf (eaOf s m).toNat, [], 0, m.mod.n1.toNat + 1,
      m.mod.a0.toNat, m.imm, false, 0, m.d.code⟩)))
  ∧ (MayBank s m 32 leaf → (s.opC m).toNat % 64 = 0 → (s.opC m).toNat + 64 * (m.mod.n1.toNat + 1) ≤ rowsEnd s →
    exec (.bkrd m) s = .next (s.started m (.bank ⟨3, false, eaOf s m, leaf.paOf (eaOf s m).toNat, [], (s.opC m).toNat,
      m.mod.n1.toNat + 1, m.mod.a0.toNat, m.imm, false, 0, m.d.code⟩)))
  ∧ (BankTurn s n op c →
    let k := s.pchOf c.pa
    let p := s.pch k
    let mine := p.mode = some (s.linSid c.pa, op.core, op.ctx)
    let sid := s.linSid c.pa
    (c.fn = 0 → c.on = true → p.mode = none ∨ mine → s.pchDrained op k = true →
      ∃ t, exec (.bankCommandPerform n) s = .next t ∧ Resolves op (statusOf 0 16) (exec (.bankCommandPerform n) s)
        ∧ (t.pch k).mode = some (sid, op.core, op.ctx)
        ∧ ∀ b, b < 16 → (∀ l, l < 16 → (t.pch k).xregAt sid b l = 0) ∧ ∀ j, j < 64 → (t.pch k).accAt sid b j = 0)
    ∧ (c.fn = 0 → c.on = false → mine → ∃ t, exec (.bankCommandPerform n) s = .next t
      ∧ Resolves op (statusOf 0 16) (exec (.bankCommandPerform n) s) ∧ (t.pch k).mode = none)
    ∧ (c.fn ≠ 0 → ¬ mine → ∃ t, exec (.bankCommandPerform n) s = .next t ∧ t.op n = none
      ∧ (t.pch k).mode = p.mode ∧ (t.pch k).xreg = p.xreg ∧ (t.pch k).acc = p.acc
      ∧ ∀ d, d ≠ 0 → op.dest = some (.x d) → (t.thread op.owner).readX d = ⟨0, false, .faulted 52 c.ea⟩)
    ∧ (c.fn = 1 → mine → ∃ t, exec (.bankCommandPerform n) s = .next t
      ∧ Resolves op (statusOf 0 512) (exec (.bankCommandPerform n) s)
      ∧ ∀ b l, b < 16 → l < 16 →
        (t.pch k).xregAt sid b l = BitVec.ofNat 16 (bytesToNat ((c.data.drop (2 * (16 * b + l))).take 2)))
    ∧ (c.fn = 2 → mine → c.started = true → c.step < c.n → c.n + c.a0 ≤ 64 → flawless s (c.pa + 512 * c.step) 512 →
      (∀ i, i < 8 → tagPoison (s.blockTag (c.pa + 512 * c.step + 64 * i)) = false) →
      ∃ t, exec (.bankCommandPerform n) s = .next t
        ∧ (c.step + 1 < c.n → t.op n = some { op with kind := .bank { c with step := c.step + 1 } })
        ∧ (c.step + 1 = c.n → Resolves op (statusOf 0 c.n) (exec (.bankCommandPerform n) s))
        ∧ ∀ b j, b < 16 → j < 64 → (t.pch k).accAt sid b j
          = if j = c.a0 + c.step then
              BitVec.ofNat 32 ((List.range 16).foldl (fun a l => bmuAdd a (p.xregAt sid b l).toNat
                (memoryAt s (c.pa + 512 * c.step + 32 * b + 2 * l) 2).toNat) (p.accAt sid b j).toNat)
            else p.accAt sid b j)
    ∧ (c.fn = 3 → mine → c.step < 64 * c.n → ∃ t m, exec (.bankCommandPerform n) s = .next t ∧ 0 < m
      ∧ (c.step + m < 64 * c.n → t.op n = some { op with kind := .bank { c with started := true, step := c.step + m } })
      ∧ (64 * c.n ≤ c.step + m → Resolves op (statusOf 0 (64 * c.n)) (exec (.bankCommandPerform n) s))
      ∧ (∀ b j r, b < 16 → j < c.n → r < 4 →
        let i := 4 * (b * c.n + j) + r
        (t.coreCtx op.core op.ctx).byte (c.xs + i) = if c.step ≤ i ∧ i < c.step + m
          then (p.accAt sid b (c.a0 + j) >>> (8 * r)).setWidth 8 else (s.coreCtx op.core op.ctx).byte (c.xs + i))
      ∧ (∀ a, (∀ i, c.step ≤ i → i < c.step + m → a ≠ c.xs + i) →
        (t.coreCtx op.core op.ctx).byte a = (s.coreCtx op.core op.ctx).byte a)
      ∧ ∀ a, let old := (s.coreCtx op.core op.ctx).tag a
        let touched := ∃ i, c.step ≤ i ∧ i < c.step + m ∧ (c.xs + i) / 64 = a / 64
        (touched → (t.coreCtx op.core op.ctx).tag a = if tagPoison old = true then old else 0x0500)
        ∧ (¬ touched → (t.coreCtx op.core op.ctx).tag a = old)))
  ∧ (∀ width e b, s.op n = some op → op.kind = .bankStore width [e] b true → s.plainReady op (s.pchOf e.pa) = true →
    width ≤ 8 → e.pa % width = 0 → 8 % width = 0 → flawless s e.pa width → tagPoison (s.blockTag e.pa) = false →
    ∃ t, exec (.bankAccessPerform n) s = .next t ∧ t.op n = none
      ∧ ∀ a, t.dramByte a = if e.pa ≤ a ∧ a < e.pa + width then (e.data >>> (8 * (a - e.pa))).setWidth 8 else s.dramByte a)
  ∧ (∀ b, ∃ t, exec (.refresh pch b) s = .next t ∧ SameMemory s t
    ∧ (t.pch pch).xreg = (s.pch pch).xreg ∧ (t.pch pch).acc = (s.pch pch).acc
    ∧ ((s.pch pch).mode = none → ∀ sid, SMap.get 0 (t.pch pch).debt (16 * sid + b % 16) = 0)
    ∧ ∀ sid core ctx, (s.pch pch).mode = some (sid, core, ctx) →
      let owed := SMap.get 0 (s.pch pch).debt (16 * sid + b % 16)
      (owed < 7 → SMap.get 0 (t.pch pch).debt (16 * sid + b % 16) = owed + 1)
      ∧ (7 ≤ owed → ∀ a, a < 16 → SMap.get 0 (t.pch pch).debt (16 * sid + a) = 0))
  ∧ ((s.pch pch).busy = false →
    (∃ t, exec (.bkctxSave pch area) s = .next t ∧ (t.pch pch).busy = true ∧ (t.pch pch).op = 1
      ∧ (t.pch pch).area = (area >>> 6).toNat % 2 ^ 34)
    ∧ (∃ t, exec (.bkctxRestore pch area) s = .next t ∧ (t.pch pch).busy = true ∧ (t.pch pch).op = 2
      ∧ (t.pch pch).area = (area >>> 6).toNat % 2 ^ 34)
    ∧ (∃ t, exec (.bkctxDiscard pch) s = .next t ∧ (t.pch pch).busy = true ∧ (t.pch pch).op = 3))
  ∧ ((s.pch pch).busy = true →
    exec (.bkctxSave pch area) s = .next s
    ∧ ((s.pch pch).op = 1 → (s.pch pch).rsv = false → s.finishing pch = false →
      ∃ t, exec (.bkctxComplete pch) s = .next t ∧ (t.pch pch).busy = true ∧ (t.pch pch).rsv = true)
    ∧ ((s.pch pch).op = 1 → (s.pch pch).rsv = true → ∃ t, exec (.bkctxComplete pch) s = .next t ∧ (t.pch pch).busy = false
      ∧ (t.pch pch).rsv = true ∧ (t.pch pch).queue = ((s.sauQueue pch).filter fun p => p.kind.performed).map (·.id) ∧ (t.pch pch).saved = (s.pch pch).saved ++ (s.queued pch).map (·.id))
    ∧ ((s.pch pch).op = 3 → ∃ t, exec (.bkctxComplete pch) s = .next t ∧ (t.pch pch).busy = false ∧ (t.pch pch).rsv = false
      ∧ (t.pch pch).mode = none))

/-! ## Copies and the training path (06, 22) -/

namespace Sys2Proof.Claims
open Sys2Proof.Machine

/-- A copy may start: nothing bounded, its handle resolves and permits the direction, and the copy table has a free entry (R88, R93). -/
structure MayCopy {M : Type} (s : State) (o : Fmt M) (out : Bool) (e : BitVec 128) : Prop where
  issues : s.Issues o
  a : s.bitA o = false
  b : s.bitB o = false
  c : s.bitC o = false
  handle : s.resolveHandle (s.partOf s.cur.core) s.cur.ctx (s.opA o) = some e
  may : (if out then heWr e else heRd e) = true
  entry : EntryReads s (s.opA o)
  fresh : s.th.copyHeld = none
  room : s.copyEntries < (if s.split2 s.cur.core then 256 else 512)

/-- R89: the copy with the entry of its handle; one whose handle side leaves LEN resolves BOUNDS. -/
def withEntry (e : BitVec 128) (c : CopyOp) : CopyOp :=
  { c with
    entry := e
    status := if c.fn ≤ 1 ∧ (handleOff c.handle % 8 ≠ 0
        ∨ c.rows * c.length ≠ 0 ∧ heLen e < handleOff c.handle + (c.rows - 1) * c.hpitch + c.length) then some 2 else none }

end Sys2Proof.Claims

open Sys2Proof Sys2Proof.Machine Sys2Proof.Claims in
/-- R88-R93: a COPY instruction whose handle resolves, whose values are aligned and whose scratchpad side lies in the data rows starts its
copy; a handle that does not resolve, or that forbids the direction, faults with cause 53, a misaligned value with 4 or 6. Where no entry of
the copy table is free a CPY waits with its copy, and then issues it whatever its handle has become. Clauses of it rest on the model's own reading or choice, log 57 and 94. -/
def Obligations.CopyInstructions : Prop := ∀ (s : State) (o : Fmt Unit) (z : Fmt SwzMod) (e : BitVec 128),
  let b := (s.opB o).toNat
  let n := (s.opC o).toNat
  let linear := fun (out : Bool) => withEntry e { CopyOp.initial with out := out, handle := s.opA o, spad := b, length := n }
  let len := o.imm.toNat % 2 ^ 20
  let rows := rowRows (s.opC o)
  let picks := fun (fn : Nat) (out : Bool) =>
    withEntry e { CopyOp.initial with
      fn := fn, out := out, handle := s.opA o, spad := b, length := len, rows := rows, hpitch := rowPitch (s.opC o), pitch := len
      list := rowList (s.opC o) }
  let step := if z.mod.swz then 256 else 8
  let pitch := z.imm.toNat % 2 ^ 18
  let w := s.opC z
  let plane := fun (out : Bool) => withEntry e { CopyOp.initial with
    fn := 1, out := out, swz := z.mod.swz, handle := s.opA z, spad := (s.opB z).toNat, length := shapeLen w, rows := shapeRows w
    hpitch := shapePitch w, pitch := pitch }
  let planeFits := (s.opB z).toNat % step = 0 ∧ shapeLen w % step = 0 ∧ pitch % step = 0 ∧ shapePitch w % 8 = 0
    ∧ ∀ r, r < shapeRows w → (s.opB z).toNat + r * pitch + shapeLen w ≤ rowsEnd s
  let picksFit := b % 8 = 0 ∧ rowPitch (s.opC o) % 8 = 0 ∧ rowList (s.opC o) % 4 = 0 ∧ len % 8 = 0
    ∧ rowList (s.opC o) + 4 * rows ≤ rowsEnd s ∧ ∀ r, r < rows → b + r * len + len ≤ rowsEnd s
  (b % 8 = 0 → n % 8 = 0 → b + n ≤ rowsEnd s →
    (MayCopy s o false e → exec (.cpyIn o) s = .next (s.started o (.copy (linear false))))
    ∧ (MayCopy s o true e → exec (.cpyOut o) s = .next (s.started o (.copy (linear true)))))
  ∧ (planeFits → (MayCopy s z false e → exec (.cpy2In z) s = .next (s.started z (.copy (plane false))))
    ∧ (MayCopy s z true e → exec (.cpy2Out z) s = .next (s.started z (.copy (plane true)))))
  ∧ (picksFit → (MayCopy s o false e → exec (.cpyg o) s = .next (s.started o (.copy (picks 2 false))))
    ∧ (MayCopy s o true e → exec (.cpys o) s = .next (s.started o (.copy (picks 3 true)))))
  ∧ (s.Issues o → s.bitA o = false → s.bitB o = false → s.bitC o = false → s.th.copyHeld = none →
    s.copyEntries < (if s.split2 s.cur.core then 256 else 512) →
    let a := (s.opA o).toNat
    let mask := o.imm.toNat % 256
    a % 8 = 0 → b % 8 = 0 → n % 8 = 0 → a + n ≤ rowsEnd s → b + n ≤ rowsEnd s →
    (∀ k ∈ copyTargets s.cur.core mask, b + n ≤ (if s.split2 k then 0x17000 else 0x2F000)) →
    ((copyTargets s.cur.core mask).contains s.cur.core = false ∨ a + n ≤ b ∨ b + n ≤ a) →
    exec (.cpyr o) s = .next (s.started o (.copy { CopyOp.initial with
      fn := 4, spad := b, length := n, list := a, mask := mask })))
  ∧ (s.Issues o → s.bitA o = false → s.bitB o = false → s.bitC o = false → s.th.copyHeld = none → EntryReads s (s.opA o) →
    (s.resolveHandle (s.partOf s.cur.core) s.cur.ctx (s.opA o) = none →
      exec (.cpyIn o) s = .next (s.takeTrap 53 (s.opA o)) ∧ exec (.cpyOut o) s = .next (s.takeTrap 53 (s.opA o)))
    ∧ (s.resolveHandle (s.partOf s.cur.core) s.cur.ctx (s.opA o) = some e →
      (heRd e = false → exec (.cpyIn o) s = .next (s.takeTrap 53 (s.opA o)))
      ∧ (heWr e = false → exec (.cpyOut o) s = .next (s.takeTrap 53 (s.opA o))))
    ∧ (s.resolveHandle (s.partOf s.cur.core) s.cur.ctx (s.opA o) = some e → b % 8 ≠ 0 →
      (heRd e = true → exec (.cpyIn o) s = .next (s.takeTrap 6 (s.opB o)))
      ∧ (heWr e = true → exec (.cpyOut o) s = .next (s.takeTrap 4 (s.opB o)))))
  ∧ (let full := (if s.split2 s.cur.core then 256 else 512) ≤ s.copyEntries
    s.Issues o → (s.th.copyHeld = some (linear false) → (linear false).entered = true →
      (full → exec (.cpyIn o) s = .next (s.park .none)) ∧ (¬ full → exec (.cpyIn o) s = .next (s.started o (.copy (linear false)))))
    ∧ (s.bitA o = false → s.bitB o = false → s.bitC o = false → s.th.copyHeld = none → EntryReads s (s.opA o) →
      s.resolveHandle (s.partOf s.cur.core) s.cur.ctx (s.opA o) = some e → heRd e = true → b % 8 = 0 → n % 8 = 0 →
      b + n ≤ rowsEnd s → (linear false).entered = true → full → ∃ t, exec (.cpyIn o) s = .next t
        ∧ t.th = { s.th with copyHeld := some (linear false) } ∧ t.iss.status = .queued ∧ t.ops = s.ops ∧ SameMemory s t))

namespace Sys2Proof.Claims
open Sys2Proof.Machine

/-- A linear copy through a handle of the linear zone that its engine turns to (R86, R87, R89): a transfer of k bytes is in progress,
or begins. -/
structure Transfers (s : State) (n : Nat) (op : Op) (c : CopyOp) (k : Nat) : Prop where
  held : s.op n = some op
  kind : op.kind = .copy c
  fn : c.fn = 0
  plain : c.swz = false
  cls : heCls c.entry = 1
  going : c.status = none
  rest : c.next < c.length
  rows : c.rows = 1
  turn : s.engineNext (engineOf op.core) = some op
  size : k = min (256 - (heBase c.entry + handleOff c.handle + c.next) % 256) (c.length - c.next)
  busy : c.buf ≠ [] → (c.out = true ∧ c.buf.length < k) ∨ (c.out = false ∧ c.buf.length = k ∧ c.done < k)
  begins : c.buf = [] → c.done = 0 ∧ op.cancelled = false
    ∧ s.handleLive (s.partOf op.core) op.ctx c.handle = true
    ∧ flawless s (s.handlePlace (s.partOf op.core) op.ctx c.handle) 16
    ∧ s.accessTurn n (s.pchOf (heBase c.entry + handleOff c.handle + c.next)) = true
  sound : flawless s (heBase c.entry + handleOff c.handle + c.next) k

end Sys2Proof.Claims

open Sys2Proof Sys2Proof.Machine Sys2Proof.Claims in
/-- R86, R87, R94-R97, R120: an engine moves the bytes up to the next 256-byte line of the handle side, some 8-byte words at a time, and
no others: an inward transfer is read once and then written, an outward one is read and then written whole; a block that it covers whole takes the source's tag, one that a misaligned
transfer touches is RAW with the B of what stood and what came (of a block of a BANK page that is the model's reading of R94 against R81, log
92), and POISON stands out. A copy whose
transfers are done resolves OK with its bytes, POISON with the place of the first poisoned one, or with the status that stopped it; one
that broke R89 resolves BOUNDS, whatever device its handle names (R93); a
revoked handle stops a copy where its next transfer would begin. Clauses of it rest on the model's own reading or choice, log 1, 33, 92, 106 and 107. -/
def Obligations.CopyEngine : Prop := ∀ (s : State) (n : Nat) (op : Op) (c : CopyOp) (k : Nat),
  (Transfers s n op c k →
    let pa := heBase c.entry + handleOff c.handle + c.next
    let sp := c.spad + c.next
    let cc := s.coreCtx op.core op.ctx
    (c.out = false →
      let data := if c.buf = [] then (List.range k).map fun i => (s.dramByte (pa + i), s.blockTag (pa + i)) else c.buf
      ∃ t m d, exec (.copyTransfer n) s = .next t ∧ 0 < m ∧ c.done + m ≤ k
        ∧ t.op n = some { op with kind := .copy d } ∧ d.status = none
        ∧ (c.done + m < k → d.next = c.next ∧ d.buf = data ∧ d.done = c.done + m)
        ∧ (c.done + m = k → d.next = c.next + k ∧ d.buf = [] ∧ d.done = 0)
        ∧ (∀ a, (t.coreCtx op.core op.ctx).byte a = if sp + c.done ≤ a ∧ a < sp + c.done + m
            then (data[a - sp]?).elim 0 (fun p => p.1) else cc.byte a)
        ∧ (∀ a, let moved := fun (i : Nat) => sp + c.done ≤ i ∧ i < sp + c.done + m ∧ i / 64 = a / 64
            let tag := (t.coreCtx op.core op.ctx).tag a
            let ts := fun (i : Nat) => (data[i - sp]?).elim 0 (fun p => p.2)
            ((¬ ∃ i, moved i) → tag = cc.tag a)
            ∧ ((∃ i, moved i ∧ tagPoison (ts i) = true) → tag = 0x7F00)
            ∧ ((∃ i, moved i) → (∀ i, moved i → tagPoison (ts i) = false) →
              (pa % 64 = sp % 64 → (∀ i, i / 64 = a / 64 → moved i) → tag = ts (a / 64 * 64))
              ∧ (pa % 64 ≠ sp % 64 → tagPoison (cc.tag a) = true → tag = cc.tag a)
              ∧ (pa % 64 ≠ sp % 64 → tagPoison (cc.tag a) = false →
                (tag = 0x8000 ∧ ((cc.tag a).msb = true ∨ ∃ i, moved i ∧ (ts i).msb = true))
                ∨ (tag = 0 ∧ (cc.tag a).msb = false ∧ ∀ i, moved i → (ts i).msb = false))))
        ∧ SameMemory s t ∧ t.threads = s.threads)
    ∧ (c.out = true → hePol c.entry = 0 → cc.badWords = [] → (∀ a, cc.tag a = 0) → (∀ p ∈ c.buf, p.2 = 0) →
      s.pchOpen (s.pchOf pa) = true → (∀ a, pa ≤ a → a < pa + k → tagPoison (s.blockTag a) = false) →
      let l := c.buf.length
      ∃ t m, exec (.copyTransfer n) s = .next t ∧ 0 < m ∧ l + m ≤ k
        ∧ (l + m < k → SameMemory s t ∧ t.op n = some { op with kind := .copy { c with
            buf := c.buf ++ (List.range m).map fun i => (cc.byte (sp + l + i), 0) } })
        ∧ (l + m = k → ((∃ d, t.op n = some { op with kind := .copy d } ∧ d.next = c.next + k ∧ d.buf = [] ∧ d.poison = c.poison)
          ∧ (∀ a, t.dramByte a = if pa ≤ a ∧ a < pa + k
              then (if a < pa + l then (c.buf[a - pa]?).elim 0 (fun p => p.1) else cc.byte (sp + (a - pa))) else s.dramByte a)
          ∧ ∀ a, let moved := fun (i : Nat) => pa ≤ i ∧ i < pa + k ∧ i / 64 = a / 64
            ((¬ ∃ i, moved i) → t.blockTag a = s.blockTag a)
            ∧ ((∃ i, moved i) → pa % 64 = sp % 64 → (∀ i, i / 64 = a / 64 → moved i) → t.blockTag a = 0)
            ∧ ((∃ i, moved i) → pa % 64 ≠ sp % 64 → t.blockTag a = if (s.blockTag a).msb then 0x8000 else 0)))
        ∧ t.threads = s.threads ∧ t.ctxs = s.ctxs))
  ∧ (s.op n = some op → op.kind = .copy c → c.fn ≠ 4 → c.status = none → c.next < c.rows * c.length → c.buf = [] → c.done = 0 →
    s.engineNext (engineOf op.core) = some op → flawless s (s.handlePlace (s.partOf op.core) op.ctx c.handle) 16 →
    s.handleLive (s.partOf op.core) op.ctx c.handle = false →
    ∃ t, exec (.copyTransfer n) s = .next t ∧ t.op n = some { op with kind := .copy { c with status := some 3 } } ∧ SameMemory s t)
  ∧ (s.op n = some op → op.kind = .copy c → heCls c.entry ≠ 2 →
    (c.rows * c.length ≤ c.next → c.status = none →
      (c.poison = none → Resolves op (statusOf 0 c.next) (exec (.copyResolve n) s))
      ∧ (∀ k, c.poison = some k → Resolves op (statusOf 4 k) (exec (.copyResolve n) s)))
    ∧ (∀ code, c.status = some code → Resolves op (statusOf code c.next) (exec (.copyResolve n) s)))
  ∧ (s.op n = some op → op.kind = .copy c → c.fn ≤ 1 → c.status = some 2 → Resolves op (statusOf 2 c.next) (exec (.copyResolve n) s))

namespace Sys2Proof.Claims
open Sys2Proof.Machine

/-- A block that a GQW may read (R334). -/
def tileBlock (s : State) (fp32_ : Bool) (a : Nat) : Prop :=
  tagPoison (s.cc.tag a) = false ∧ tagB (s.cc.tag a) = false ∧ tileTag fp32_ (s.cc.tag a) = true
/-- The parameter block of an OUPD as one number (R338). -/
def params (s : State) (o : Fmt Bool) : Nat := bytesToNat (s.cc.bytes o.imm.toNat 64)
/-- R338, R340: what an OUPD needs: aligned operands in the data rows, a legal parameter block, three BANK blocks that do not
meet and can be accessed, and nothing poisoned or bounded. -/
structure MayUpdate (s : State) (o : Fmt Bool) (leaf : Nat → TlbEntry) : Prop where
  issues : s.Issues o
  a : s.bitA o = false
  b : s.bitB o = false
  c : s.bitC o = false
  block : o.imm.toNat % 64 = 0 ∧ o.imm.toNat + 64 ≤ rowsEnd s
  gradient : (s.opB o).toNat % (if o.mod then 16 else 32) = 0 ∧ (s.opB o).toNat + (if o.mod then 16 else 32) ≤ rowsEnd s
  ecc : s.cc.badWords = []
  tags : tagPoison (s.cc.tag o.imm.toNat) = false ∧ tagPoison (s.cc.tag (s.opB o).toNat) = false
    ∧ tagB (s.cc.tag (s.opB o).toNat) = false
  legal : params s o < 2 ^ 384 ∧ params s o / 2 ^ 256 % 32 = 0 ∧ params s o / 2 ^ 320 % 32 = 0
  aligned : (s.opA o).toNat % 32 = 0
  apart : blocksMeet (optAddrs (s.opA o) (params s o)) = false
  mapped : ∀ i, i < 3 → s.translate ((optAddrs (s.opA o) (params s o)).getD i 0) .bank = .ok (leaf i)
  page : ∀ i, i < 3 → (leaf i).cls = 1
  ready : ∀ i, i < 3 →
    let pa := (leaf i).paOf ((optAddrs (s.opA o) (params s o)).getD i 0).toNat
    s.plainOpen (s.pchOf pa) = true ∧ tagPoison (s.blockTag pa) = false ∧ flawless s pa 32
  unwatched : unwatched s

end Sys2Proof.Claims

open Sys2Proof Sys2Proof.Machine Sys2Proof.Claims in
/-- R332-R340: GQW reads its tile and starts, at most 4 outstanding of a core at a queue; GQR starts a read of a queue of its context; a tile
that fits its queue is buffered, one of another shape faults with cause 30; a matched tile reaches its place word by word, and then the
GQR resolves with the sender. OUPD
reads w, m and v and posts the three blocks of R339 as stores. Clauses of it rest on the model's own reading or choice, log 1, 35, 56 and 122. -/
def Obligations.TrainingPath : Prop := ∀ (s : State) (o : Fmt Bool) (n : Nat) (op : Op) (leaf : Nat → TlbEntry),
  let k := o.imm.toNat % 128
  let b := (s.opB o).toNat
  let key := queueKey (qwCore (s.opA o)) (qwQueue (s.opA o))
  (s.Issues o → unwatched s → s.bitA o = false → s.bitB o = false → s.queueWordOk (s.opA o) = true → b % 64 = 0 → b + 64 * k ≤ rowsEnd s →
    s.cc.badWords = [] → (∀ i, i < k → tileBlock s o.mod (b + 64 * i)) →
    exec (.gqw o) s = .next (if s.outstanding s.cur.core key < 4
      then s.started o (.gqw (qwCore (s.opA o)) (qwQueue (s.opA o)) o.mod (s.opA o) (s.cc.bytes b (64 * k))) else s.park .none))
  ∧ (s.Issues o → s.bitB o = false → s.bitC o = false → (s.opA o).toNat ≤ 7 → s.queueMine (queueKey s.cur.core (s.opA o).toNat) = true →
    (s.opC o).toNat % 64 = 0 →
    (s.opC o).toNat + 64 * qcBlocks (s.queueCfg (queueKey s.cur.core (s.opA o).toNat)) ≤ rowsEnd s →
    exec (.gqr o) s = .next (s.started o (.gqr (queueKey s.cur.core (s.opA o).toNat) (if o.mod then none else some b) (s.opC o).toNat)))
  ∧ (∀ core q fp w bytes, s.op n = some op → op.kind = .gqw core q fp w bytes → s.tileTurn op (queueKey core q) = true →
    let cfg := s.queueCfg (queueKey core q)
    (qcFp32 cfg = fp → 64 * qcBlocks cfg = bytes.length → s.bufferBytes core + bytes.length ≤ 262144 →
      Resolves op (statusOf 0 bytes.length) (exec (.tileArrive n) s)
      ∧ ∃ t, exec (.tileArrive n) s = .next t ∧ t.tiles = s.tiles ++ [⟨queueKey core q, op.core, n, bytes⟩])
    ∧ (qcFp32 cfg ≠ fp → ∃ t, exec (.tileArrive n) s = .next t ∧ t.op n = none ∧ t.tiles = s.tiles
      ∧ ∀ d, d ≠ 0 → op.dest = some (.x d) → (t.thread op.owner).readX d = ⟨0, false, .faulted 30 w⟩))
  ∧ (∀ q from_ dst tile, s.op n = some op → op.kind = .gqr q from_ dst → op.cancelled = false → s.tileFor op q = some tile →
    exec (.tileMatch n) s
      = .next ({ s with tiles := s.tiles.filter fun u => u.op != tile.op }.setOp { op with kind := .delivery q dst tile.sender tile.bytes }))
  ∧ (∀ q dst sender rest, s.op n = some op → op.kind = .delivery q dst sender rest → rest ≠ [] →
    ∃ t m, exec (.tileMatch n) s = .next t ∧ 0 < m ∧ m ≤ rest.length
      ∧ (m = rest.length → Resolves op (statusOf 0 sender) (exec (.tileMatch n) s))
      ∧ (m < rest.length → t.op n = some { op with kind := .delivery q (dst + m) sender (rest.drop m) })
      ∧ ∀ a, (t.coreCtx op.core op.ctx).byte a = if dst ≤ a ∧ a < dst + m then (rest[a - dst]?).getD 0
          else (s.coreCtx op.core op.ctx).byte a)
  ∧ (MayUpdate s o leaf →
    let p := params s o
    let va := fun i => (optAddrs (s.opA o) p).getD i 0
    let pa := fun i => (leaf i).paOf (va i).toNat
    let word := fun i j => (memoryAt s (pa i + 4 * j) 4).toNat
    let clip := clipFactor (s.opC o) (p / 2 ^ 160 % 2 ^ 32)
    let lanes := (List.range 8).map fun j => optLane p clip.1 (s.gradient o.mod b j) (word 0 j) (word 1 j) (word 2 j)
    let post := fun (i : Nat) (id : Nat) (l : List Nat) =>
      (⟨id, s.cur.core, s.cur.ctx, s.cur.thr, none, false, s.iss.pc, .bankStore 8 (optElems (va i) (pa i) l) false true⟩ : Op)
    ∃ t, exec (.oupd o) s = .next t
      ∧ t.ops = s.ops ++ [post 0 s.nextOp (lanes.map (·.w)), post 1 (s.nextOp + 1) (lanes.map (·.m)),
          post 2 (s.nextOp + 2) (lanes.map (·.v))]
      ∧ t.th = { s.th with fpflags := s.th.fpflags ||| (orFlags (clip.2 :: lanes.map (·.f))).bits }
      ∧ SameMemory s t ∧ SameScratch s t ∧ SameOthers s t)

/-! ## Tasks and partitions (20, 21) -/

open Sys2Proof Sys2Proof.Machine Sys2Proof.Claims in
/-- R299, R306-R311, R315, R317, R318, R385: LPORT takes a launch or sets OVF; a header is read, judged and queued, or ends its launch; a
head that has room is placed and all its threads start; a task whose threads have ended and whose runs are empty retires with its future;
what stands behind a pseudo-channel that takes no read waits (R285, R295); the steward removes a task. PARTCFG takes its fields or sets ERR. Clauses of it rest on the model's own reading or choice, log 13, 60, 78, 79, 80 and 95. -/
def Obligations.TaskLifecycle : Prop := ∀ (s : State) (n : Nat) (k : Task) (op : Op) (id part : Nat) (ctx : Bool) (value : Word),
  ((handleOff value % 64 = 0 → s.weak = [] → s.tasks.length < 64 → (ctx = false ∨ (s.part part).split = true) →
      ∃ t j, exec (.lportWrite part ctx value) s = .next t ∧ t.tasks = s.tasks ++ [j] ∧ j.id = s.nextTask ∧ j.stage = .intake
        ∧ j.ref = some value ∧ j.part = part ∧ j.ctx = ctx ∧ j.op = none ∧ t.nextTask = s.nextTask + 1)
    ∧ (handleOff value % 64 ≠ 0 ∨ (ctx = true ∧ (s.part part).split = false) →
      ∃ t, exec (.lportWrite part ctx value) s = .next t ∧ t.tasks = s.tasks ∧ (t.pctx part ctx).ovf = true))
  ∧ (s.task n = some k → s.launchCancelled k = false → k.stage = .intake → k.ref = none →
    s.unitNext (s.launchDie k.part) = some k → s.weak = [] →
    (s.refsHeld k = true → exec (.launchRead n) s = .next s) ∧ (s.refsHeld k = false →
    (s.headerFault k = none → s.refFault k = none → exec (.launchRead n) s = .next (s.setTask { k with stage := .reading }))
    ∧ (∀ m, s.headerFault k = some m → k.op = some id → s.op id = some op → Resolves op (statusOf 2 m) (exec (.launchRead n) s))))
  ∧ (s.task n = some k → s.launchCancelled k = false → k.stage = .reading → s.tasks = [k] → k.nrec = 0 → k.spadLen = 0 → k.nreg = 0 →
    exec (.launchRead n) s = .next (s.setTask { k with stage := .queued, shape := [], spad := [], regions := [] }))
  ∧ (∀ x y, (s.part part).v = true → (s.part part).swapping = false → s.queueHead part (s.part part).res 3 = some k →
    s.launchCancelled k = false → s.pinOutside k = false → s.headReady k = true → s.roomFor k = some (x, y) → k.regions = [] →
    k.ctx = (s.part part).res →
    ∃ t, exec (.placementEvaluate part) s = .next t
      ∧ (∀ j, s.task k.id = some k → t.task k.id = some j → j.stage = .placed ∧ j.x = x ∧ j.y = y)
      ∧ ∀ c i, c ∈ ({ k with x := x, y := y } : Task).cores → i < k.threads →
        let th := t.thread ⟨c, k.ctx, i⟩
        th.run = .running ∧ th.q0.pc = k.ref64 0 ∧ th.x = [] ∧ th.hm = false ∧ th.taskid = BitVec.ofNat 32 k.tag)
  ∧ (s.task n = some k → k.stage = .placed → (∀ t ∈ k.threadIds, (s.thread t).run = .ended) → s.taskRuns k = false →
    s.taskQuiet k = true → s.taskModes k = [] → s.taskHas k OpKind.isStore = false →
    ((s.pctx k.part k.ctx).ckcnt = 0 →
      (k.removed = false → k.op = some id → s.op id = some op → Resolves op (statusOf 0 k.total) (exec (.taskRetire n) s))
      ∧ ∃ t, exec (.taskRetire n) s = .next t ∧ t.tasks = s.tasks.filter fun u => u.id != k.id)
    ∧ ((s.pctx k.part k.ctx).ckcnt ≠ 0 → exec (.taskRetire n) s = .next (s.setTask { k with stage := .retiring })))
  ∧ (s.task n = some k → k.stage = .retiring → (∀ i, s.checksumHeld k i = false) → s.weak = [] → ∃ t l, exec (.checksum n) s = .next t ∧ t.records = s.records ++ l
    ∧ l.length = (s.pctx k.part k.ctx).ckcnt.toNat % 32 ∧ t.task n = some { k with stage := .summed })
  ∧ (s.task n = some k →
    (k.stage = .queued → k.op = some id → s.op id = some op → Resolves op (statusOf 1 0) (exec (.taskRemove n) s))
    ∧ (k.stage = .placed → ∃ t, exec (.taskRemove n) s = .next t ∧ (∀ u ∈ k.threadIds, (t.thread u).run = .ended)
      ∧ t.task n = some { k with removed := true }))
  ∧ (∃ t, exec (.partcfgWrite part value) s = .next t ∧ t.part part =
      if s.partRefused part ((s.part part).written value) then { s.part part with err := true } else (s.part part).written value)

/-! ## Swaps, debugging and fetch (02, 05, 24, 26) -/

open Sys2Proof Sys2Proof.Machine in
/-- R342-R344, R360-R362, R366, R379-R381: GO is refused, or halts the resident context, and the exchange makes the other context resident;
PREEMPT, the doorbell and SOFT make their interrupts pending in the threads that they name; HALT and RESUME stop and start a core; a
halted thread's register is written; a breakpoint halts, or requests interrupt 11. Clauses of it rest on the model's own reading or choice, log 2, 38 and 49. -/
def Obligations.SwapsAndDebug : Prop := ∀ (s : State) (part core thr : Nat) (value : Word) (bits_ : BitVec 8),
  (part < 16 → ((s.part part).v = false ∨ (s.part part).split = false ∨ (s.part part).swapping = true) →
    exec (.swapGo part) s = .next (s.setPart part { s.part part with swapErr := true }))
  ∧ (part < 16 → (s.part part).v = true → (s.part part).split = true → (s.part part).swapping = false →
    ∃ t, exec (.swapGo part) s = .next t ∧ t.part part = { s.part part with swapping := true }
      ∧ ∀ c ∈ s.partCores part, (t.core c).out = true)
  ∧ (s.haltDone part = false → exec (.swapExchange part) s = .next s)
  ∧ (s.haltDone part = true → ∃ t, exec (.swapExchange part) s = .next t ∧ (t.part part).res = !(s.part part).res
    ∧ (t.part part).swapping = false ∧ (t.part part).haltclk.toNat ≤ 600 ∧ (t.part part).moveclk.toNat ≤ 1900
    ∧ ∀ c ∈ s.partCores part, (t.core c).out = false)
  ∧ (value.toNat % 2 ^ 12 < 2144 → (value >>> 12).toNat % 16 = 0 → value.toNat / 2 ^ 24 = 0 →
    ∃ t, exec (.preempt value) s = .next t ∧ ∀ i, i < 8 →
      t.thread (s.residentThread (value.toNat % 2 ^ 12) i) = { s.thread (s.residentThread (value.toNat % 2 ^ 12) i) with
        ipPrq := value.getLsbD (16 + i) || (s.thread (s.residentThread (value.toNat % 2 ^ 12) i)).ipPrq })
  ∧ (core < 2144 → thr < 8 → let u := s.thread (s.residentThread core thr)
    exec (.doorbell core thr value) s = .next (s.setThread (s.residentThread core thr)
      { u with dbval := value, ipDb := true, ipDbo := u.ipDbo || u.ipDb }))
  ∧ (core < 2144 →
    (∃ t, exec (.dbgctlHalt core) s = .next t ∧ (t.core core).dbg.halted = true ∧ t.ctxs = s.ctxs ∧ SameMemory s t)
    ∧ (∃ t, exec (.dbgctlSoft core bits_) s = .next t ∧ ∀ i, i < 8 →
      t.thread (s.residentThread core i) = { s.thread (s.residentThread core i) with
        ipDbg := bits_.getLsbD i || (s.thread (s.residentThread core i)).ipDbg })
    ∧ (∃ t, exec (.dbgctlResume core) s = .next t ∧ (t.core core).dbg.halted = false
      ∧ ∀ ctx i, i < 8 → (t.thread ⟨core, ctx, i⟩).ipDbg = false ∧ (t.thread ⟨core, ctx, i⟩).wait ≠ .held)
    ∧ (∀ n : Fin 32, (s.core core).dbg.halted = true → selReg (s.core core).dbg.dbgsel = some (.x n) → n ≠ 0 →
      let u := s.residentThread core (selThread (s.core core).dbg.dbgsel)
      ((s.thread u).readX n).st ≠ .pending → ∃ t, exec (.dbgvalWrite core value) s = .next t
        ∧ (t.thread u).readX n = ⟨value, false, .present⟩))
  ∧ (∀ bp, s.breakpoint = some bp →
    ((SMap.get (0 : Word) (s.core s.cur.core).dbg.dbp bp).getLsbD 62 = true →
      exec (.breakpointMatch bp) s = .next (s.setTh { s.th with ipDbg := true }))
    ∧ ((SMap.get (0 : Word) (s.core s.cur.core).dbg.dbp bp).getLsbD 62 = false →
      ∃ t, exec (.breakpointMatch bp) s = .next t ∧ (t.core s.cur.core).dbg.halted = true))

open Sys2Proof Sys2Proof.Machine in
/-- R79, R80, R140, R349: a page walk that ends fills the TLBs of every thread that waits for its page, or leaves each the fault of its kind;
a line that arrives stands in the core's instruction cache and, where Q[0] stands in it, in the thread's line buffer; one of a poisoned
block is a fetch fault with cause 29 of the thread that stands at it. Clauses of it rest on the model's own reading or choice, log 15 and 16. -/
def Obligations.FetchEvents : Prop := ∀ (s : State) (t : ThreadId) (k : Walk) (va : Nat) (e : TlbEntry) (b : List Byte),
  let part := s.partOf t.core
  let here := pcLine (s.thread t).q0.pc = va ∨ (s.thread t).wait = .line
  ((s.walks.find? fun w => w.owner == t && s.walkerHas w) = some k → s.weak = [] →
    s.walkReserved k.va 3 (s.rootTable k.part t.ctx) = false →
    let ends := fun (cause : Access → Nat) => ∃ u, exec (.pageWalkEnd t) s = .next u ∧ u.walks = s.walks.erase k
      ∧ (∀ q ∈ s.walkers k, (u.thread q.1).wait = .none)
      ∧ ∀ q, s.walkers k = [q] →
        u.thread q.1 = { s.thread q.1 with wait := .none, walkFaults := (u.thread q.1).walkFaults }
          ∧ (u.thread q.1).faultOf q.2.1 q.2.2 = some (cause q.2.2)
          ∧ ∀ a j, (a, j) ≠ q.2 → (u.thread q.1).faultOf a j = (s.thread q.1).faultOf a j
    (s.walk k.part t.ctx k.va = .ok e → ∃ u, exec (.pageWalkEnd t) s = .next u ∧ u.walks = s.walks.erase k
      ∧ (∀ q ∈ s.walkers k, (u.thread q.1).wait = .none ∧ (u.thread q.1).faultOf q.2.1 q.2.2 = none ∧ e ∈ (u.core q.1.core).tlb)
      ∧ e ∈ (u.core t.core).tlb ∧ SameMemory s u)
    ∧ (s.walk k.part t.ctx k.va = .error .page → ends Access.pageCause)
    ∧ (s.walk k.part t.ctx k.va = .error .access → ends Access.accessCause)
    ∧ ∀ pa, s.walk k.part t.ctx k.va = .error (.poison pa) → ends Access.accessCause ∧
      ∃ u r, exec (.pageWalkEnd t) s = .next u ∧ u.records = s.records ++ [r] ∧ r.fatal = true ∧ r.part = k.part)
  ∧ (va % 64 = 0 → s.tlbLookup t.core part t.ctx va = some e → e.ex = true →
    let shared := cacheFind (s.cluster (sharedCache t.core)).icache (e.paOf va)
    (shared = some b ∨ (shared = none ∧ s.weak = [] ∧ s.reserved (e.paOf va) 64 = false ∧ s.lineBytes (e.paOf va) = some b) →
      ∃ u, exec (.lineFetch t va) s = .next u
        ∧ cacheFind (u.core t.core).icache (e.paOf va) = some b
        ∧ cacheFind (u.cluster (sharedCache t.core)).icache (e.paOf va) = some b
        ∧ (pcLine (s.thread t).q0.pc = va → (u.thread t).line = some ⟨va, b, false⟩)
        ∧ (u.thread t).wait = (if (s.thread t).wait = .line then .none else (s.thread t).wait) ∧ SameMemory s u)
    ∧ (shared = none → s.weak = [] → s.reserved (e.paOf va) 64 = false → tagPoison (s.blockTag (e.paOf va)) = true →
      ∃ u, exec (.lineFetch t va) s = .next u
        ∧ (u.thread t).wait = (if (s.thread t).wait = .line then .none else (s.thread t).wait)
        ∧ (u.thread t).faultOf va .fetch = if here then some 29 else (s.thread t).faultOf va .fetch))

/-! ## Records, errors and trace (23, 26) -/

open Sys2Proof Sys2Proof.Machine in
/-- R82, R83, R353-R356, R359, R370, R382, R383: a record lands in the ring of its lane and advances TAIL, or is dropped and logged; an
uncorrectable error poisons its block, a correctable one is reported and counted; an event counts toward the limit of its source and is
forgotten when its window has ended, and not before; a frame that may not be retired stays; a funnel writes the oldest message of an encoder; a timestamp that
is due is emitted. Clauses of it rest on the model's own reading or choice, log 37, 39, 40 and 47. -/
def Obligations.RecordsAndErrors : Prop := ∀ (s : State) (r : Record) (block : Nat) (syndrome : Word) (src : ErrSource) (time : Nat),
  (s.records = [r] → s.ctxExists r.part r.ctx = true →
    let place := laneAt (if r.fatal then (s.pctx r.part r.ctx).flane else (s.pctx r.part r.ctx).rlane)
      (if r.fatal then (s.pctx r.part r.ctx).fidx else (s.pctx r.part r.ctx).ridx)
    s.reserved place 64 = false → Claims.flawless s place 64 →
    let p := s.pctx r.part r.ctx
    let lane := if r.fatal then p.flane else p.rlane
    let idx := if r.fatal then p.fidx else p.ridx
    let after := fun (t : State) => if r.fatal then (t.pctx r.part r.ctx).fidx else (t.pctx r.part r.ctx).ridx
    (laneAccepts lane idx r.fatal (r.bits.toNat % 256) = true → lane.toNat / 2 ^ 6 % 2 ^ 34 * 64 + 2 ^ 22 ≤ hbmEnd →
      ∃ t, exec (.laneRecord r.part r.ctx r.fatal r.bits) s = .next t ∧ t.records = []
        ∧ laneTail (after t) = (laneTail idx + 1) % 2 ^ 16 ∧ laneHead (after t) = laneHead idx
        ∧ t.dramNat (lane.toNat / 2 ^ 6 % 2 ^ 34 * 64 + 64 * (laneTail idx % laneCap lane)) 64 = r.bits.toNat
        ∧ laneSource r.part r.ctx r.fatal ∈ t.interrupts ∧ t.threads = s.threads ∧ t.ctxs = s.ctxs)
    ∧ (laneAccepts lane idx r.fatal (r.bits.toNat % 256) = false →
      ∃ t, exec (.laneRecord r.part r.ctx r.fatal r.bits) s = .next t ∧ t.records = [] ∧ SameMemory s t
        ∧ laneTail (after t) = laneTail idx ∧ laneOvf (after t) = true ∧ laneDrop (after t) = (laneDrop idx + 1) % 2 ^ 16
        ∧ t.stewardLog = s.stewardLog ++ [r.bits]))
  ∧ (64 * block < hbmEnd →
    (∃ t, exec (.patrolScrub block true syndrome) s = .next t ∧ tagPoison (t.blockTag (64 * block)) = true
      ∧ .frame (64 * block / 2 ^ 21) ∈ t.lasting
      ∧ ∀ a, a / 64 ≠ block → t.dramByte a = s.dramByte a ∧ t.blockTag a = s.blockTag a)
    ∧ (∃ t w, exec (.patrolScrub block false syndrome) s = .next t ∧ SameMemory s t
      ∧ t.errors = s.errors ++ [(.frame (64 * block / 2 ^ 21), s.now)]
      ∧ (t.windowCount (.frame (64 * block / 2 ^ 21)) s.now < 4 → t.stewardLog = s.stewardLog ++ [w] ∧ t.records = s.records)))
  ∧ (∃ t, exec (.errorEventLog src time) s = .next t ∧ t.errors = s.errors ++ [(src, time)]
    ∧ (s.lasting.contains src = false →
      let near := (t.errors.filter fun e => decide (e.1 = src) && decide (e.2 ≤ time ∧ time ≤ e.2 + (errorLimit src).2)).length
      ((errorLimit src).1 ≤ near → src ∈ t.lasting) ∧ (near < (errorLimit src).1 → t.lasting = s.lasting)))
  ∧ (time + (errorLimit src).2 < s.now →
    exec (.errorEventExpire src time) s = .next { s with errors := s.errors.erase (src, time) })
  ∧ (s.now ≤ time + (errorLimit src).2 → exec (.errorEventExpire src time) s = .next s)
  ∧ (∀ frame pages, (s.lasting.contains (.frame frame) = false ∨ s.frameFree frame = false) →
    exec (.frameRetire frame pages) s = .next s)
  ∧ (∀ frame target, s.lasting.contains (.frame frame) = true → s.retired = [] → s.lasting.contains (.frame target) = false →
    frame * 2 ^ 21 < hbmEnd → target * 2 ^ 21 < hbmEnd → s.interleaved (frame * 2 ^ 21) = s.interleaved (target * 2 ^ 21) →
    s.users (.frame target) = [] → s.frameFree frame = true → s.frameBusy frame = false → s.wideLeaves frame s.midTables = [] →
    ∃ t, exec (.frameRetire frame [target]) s = .next t ∧ t.retired = [frame])
  ∧ (∀ cluster c m rest, let k := s.cluster cluster
    k.trcbase.getLsbD 0 = true → s.tracing cluster = [c] → (s.core c).trace = m :: rest →
    s.reserved (k.trcbase.toNat / 2 ^ 6 % 2 ^ 34 * 64 + 16 * (k.ringTail % k.ringCap)) 16 = false →
    ∃ t, exec (.traceFunnelWrite cluster) s = .next t ∧ (t.core c).trace = rest
      ∧ (t.cluster cluster).trcctl.toNat % 2 ^ 32 = (k.trcctl.toNat % 2 ^ 32 + 1) % 2 ^ 32
      ∧ (t.cluster cluster).trcLast = coreInCluster c)
  ∧ (∀ core, (2048 ≤ core ∨ s.stampDue core = false) → exec (.traceTimestamp core) s = .next s)
  ∧ (∀ core, s.stampDue core = true → (s.cluster (clusterOf core)).trcbase.getLsbD 0 = true →
    (s.cluster (clusterOf core)).trcctl.getLsbD (40 + coreInCluster core) = true → (s.core core).trace.length < 64 →
    (s.core core).traceLost = 0 → ∃ t m, exec (.traceTimestamp core) s = .next t ∧ (t.core core).trace = (s.core core).trace ++ [m]
      ∧ m.toNat / 2 ^ 64 = s.cycle.toNat ∧ (t.core core).stamped = s.cycle)
  ∧ (∀ core, (s.core core).traceLost ≠ 0 → (s.core core).trace.length < 64 → ∃ t m, exec (.traceLoss core) s = .next t
    ∧ (t.core core).trace = (s.core core).trace ++ [m] ∧ m.toNat / 2 ^ 64 = (s.core core).traceLost % 2 ^ 64
    ∧ (t.core core).traceLost = 0)

/-! ## The link and the time of the domain (25) -/

/-- R341: the codes that are never produced, and what is no code. -/
def Sys2Proof.Claims.unlisted (c : Nat) : Bool :=
  [9, 10, 11, 14, 27].contains c || (16 ≤ c && c ≤ 23) || (32 ≤ c && c ≤ 47) || 58 ≤ c

open Sys2Proof Sys2Proof.Machine Sys2Proof.Claims in
/-- R75, R341, R374-R376, R378: an acknowledgement ends a remote update, and a refusal ends it with a record, while one that gives a cause
which R341 does not list has no effect; a SET of a BANK page is a plain store; a flag counts SEQ once for each number above those seen; a store from another
device takes effect once at its place; a flit that fails its CRC counts, and at 128 of them within 1 ms the port goes down; EN 0 takes a
port down; DOMID stands once it is locked; a time beat shows how far CYCLE lies from device 0's and locks where that is at most 16 clk;
CYCLE is corrected by one clk at a time; without a beat for 10 ms the lock is lost. Clauses of it rest on the model's own reading or choice, log 11, 41, 42, 68, 72, 97, 108, 112 and 118. -/
def Obligations.LinkEvents : Prop := ∀ (s : State) (n : Nat) (op : Op) (port : Nat) (packet : Packet) (value : Word),
  (∀ rdev pa kind v region, s.op n = some op → op.kind = .remoteUpdate rdev pa kind v region → s.pathTo rdev = true →
    exec (.remoteAck n) s = .next (s.removeOp n))
  ∧ (∀ rdev pa kind v region cause b d, s.op n = some op → op.id = n → op.kind = .remoteUpdate rdev pa kind v region → cause ≠ 0 →
    unlisted cause = false → port < 18 → (s.port port).up = true → ∃ t r, exec (.flitReceive port true (.reply n 0 cause b d)) s = .next t ∧ t.op n = none
      ∧ t.records = s.records ++ [r] ∧ r.fatal = true ∧ r.part = s.partOf op.core ∧ r.ctx = op.ctx ∧ SameMemory s t)
  ∧ (∀ i cause b d, unlisted cause = true → port < 18 → (s.port port).up = true →
    exec (.flitReceive port true (.reply n i cause b d)) s = .next s)
  ∧ (∀ dev, exec (.flagResend n dev) s = .next s)
  ∧ ((s.port port).up = false → ∀ ok, exec (.flitReceive port ok packet) s = .next s)
  ∧ (port < 18 → (s.port port).up = true → s.lasting.contains (.port port) = false →
    ∃ t, exec (.flitReceive port false packet) s = .next t ∧ t.errors = s.errors ++ [(.port port, s.now)] ∧ SameMemory s t
      ∧ (t.windowCount (.port port) s.now < 128 → t.port port = s.port port)
      ∧ (128 ≤ t.windowCount (.port port) s.now → (t.port port).up = false ∧ (t.port port).lasting = true))
  ∧ (∀ src tag pa v, port < 18 → (s.port port).up = true → s.seen src tag = false → s.interleaved pa = false → s.linear pa = true →
    s.pchOpen (s.pchOf pa) = true → Claims.flawless s pa 1 → tagPoison (s.blockTag pa) = false →
    ∃ t, exec (.flitReceive port true (.store src tag pa [v])) s = .next t ∧ t.seen src tag = true
      ∧ (∀ a, t.dramByte a = if a = pa then v else s.dramByte a)
      ∧ exec (.flitReceive port true (.store src tag pa [v])) t = .next t)
  ∧ (∀ src tag pa v region, port < 18 → (s.port port).up = true → s.seen src tag = false → s.interleaved pa = false →
    s.linear pa = true → s.pchOpen (s.pchOf pa) = true → pa % regBytes (s.region region) = 0 →
    Claims.flawless s pa (regBytes (s.region region)) → tagPoison (s.blockTag pa) = false →
    ∃ t, exec (.flitReceive port true (.update src tag pa true v region)) s = .next t
      ∧ ∀ a, t.dramByte a = if pa ≤ a ∧ a < pa + regBytes (s.region region) then BitVec.ofInt 8 (v / 2 ^ (8 * (a - pa))) else s.dramByte a)
  ∧ (∀ dev core thr (seq : BitVec 32) obj,
    let k := (dev * 4096 + core) * 8 + thr
    ((SMap.get (0 : BitVec 32) s.flagsSeen k).toNat < seq.toNat → ∃ t, exec (.flagReceive dev core thr seq obj) s = .next t
      ∧ (t.sync obj).seq = (s.sync obj).seq + 1 ∧ (∀ m, m ≠ obj → t.sync m = s.sync m)
      ∧ exec (.flagReceive dev core thr seq obj) t = .next t)
    ∧ (seq.toNat ≤ (SMap.get (0 : BitVec 32) s.flagsSeen k).toNat → exec (.flagReceive dev core thr seq obj) s = .next s))
  ∧ (port < 18 →
    exec (.portDown port) s = .next (s.setPort port { s.port port with up := false, lost := [] })
    ∧ (value.getLsbD 0 = false → exec (.klstatWrite port value) s = .next (s.setPort port { s.port port with
      en := false, up := false, lost := [] }))
    ∧ (value.getLsbD 0 = true → (s.port port).lasting = true →
      exec (.klstatWrite port value) s = .next (s.setPort port { s.port port with en := true, up := false, lost := [] }))
    ∧ (value.getLsbD 0 = true → (s.port port).lasting = false → (s.port port).up = true →
      exec (.klstatWrite port value) s = .next (s.setPort port { s.port port with en := true, up := true })))
  ∧ (s.domid.getLsbD 24 = true → exec (.domidWrite value) s = .next s)
  ∧ (s.domid.getLsbD 24 = false → ∃ t, exec (.domidWrite value) s = .next t ∧ t.dev = value.toNat % 2 ^ 9
    ∧ t.domSize = value.toNat / 2 ^ 9 % 2 ^ 15 ∧ t.domid.getLsbD 24 = value.getLsbD 24 ∧ t.domid.getLsbD 25 = s.domid.getLsbD 25)
  ∧ (s.dev = 0 → exec (.timeBeat value) s = .next s)
  ∧ (s.dev ≠ 0 → ∃ t, exec (.timeBeat value) s = .next t ∧ t.timeOff = (value.toNat : Int) - s.cycle.toNat ∧ t.sinceBeat = 0
    ∧ t.domid.getLsbD 25 = decide (((value.toNat : Int) - s.cycle.toNat).natAbs ≤ 16) ∧ t.cycle = s.cycle ∧ t.threads = s.threads)
  ∧ (∀ k, s.timeOff = 0 → (s.correct k).cycle = s.cycle + BitVec.ofNat 64 k)
  ∧ (0 < s.timeOff → 1023 ≤ s.sinceFix → (s.correct 1).cycle = s.cycle + 2)
  ∧ (s.timeOff < 0 → 1023 ≤ s.sinceFix → (s.correct 1).cycle = s.cycle)
  ∧ (∀ k, s.sinceFix + k < 1024 → (s.correct k).cycle = s.cycle + BitVec.ofNat 64 k)
  ∧ (beatLimit ≤ s.sinceBeat →
    exec .tlockLoss s = .next { s with domid := s.domid &&& ~~~0x2000000, timeOff := 0 })
  ∧ (s.sinceBeat < beatLimit → exec .tlockLoss s = .next s)

/-! ## The steward and the module's power (05, 25, 27) -/

open Sys2Proof Sys2Proof.Machine in
/-- R72, R81, R84, R86, R266, R368-R370, R373, R388-R391: MEMCFG stands once it is locked, and its lock writes every block with tag ZERO;
TLBINV and HREVOKE are busy until they are done, and every
TLB then lacks what was named; a region record passes its census; a measurement extends one register; heat and a failing rail cut the
power, after which only the arrays, the flash and the storage keep their contents; a steward core reads and writes registers and
memory, runs an atomic memory operation, takes an interrupt that is pending (log 110), claims one, and takes a load or a store access fault where nothing is. Clauses of it rest on the model's own reading or choice, log 4, 20, 44, 48, 99, 101 and 110. -/
def Obligations.StewardEvents : Prop := ∀ (s : State) (value : Word),
  (s.memcfg.getLsbD 7 = true → exec (.memcfgWrite value) s = .next s)
  ∧ (s.memcfg.getLsbD 7 = false →
    (value.getLsbD 7 = false → exec (.memcfgWrite value) s = .next { s with memcfg := value &&& 0xFF })
    ∧ (value.getLsbD 7 = true → ∃ t, exec (.memcfgWrite value) s = .next t ∧ t.memcfg = value &&& 0xFF
      ∧ ∀ a, a < hbmEnd → t.blockTag a = 0x1000 ∧ t.dramByte a = 0))
  ∧ (s.tlbinv.getLsbD 63 = true → exec (.tlbinv value) s = .next s
    ∧ ∃ t, exec .tlbinvDone s = .next t ∧ t.tlbinv.getLsbD 63 = false
      ∧ (∀ n, ∀ e ∈ (t.core n).tlb, s.invalidates e = false) ∧ (∀ n, ∀ e ∈ (t.cluster n).tlb, s.invalidates e = false))
  ∧ (s.tlbinv.getLsbD 63 = false → ∃ t, exec (.tlbinv value) s = .next t ∧ t.tlbinv.getLsbD 63 = true)
  ∧ (s.hrevoke.getLsbD 63 = false → ∃ t, exec (.hrevoke value) s = .next t ∧ t.hrevoke.getLsbD 63 = true)
  ∧ (s.revoking = false → ∃ t, exec .hrevokeDone s = .next t ∧ t.hrevoke.getLsbD 63 = false ∧ t = { s with hrevoke := t.hrevoke })
  ∧ (s.revoking = true → exec .hrevokeDone s = .next s)
  ∧ (∀ id (record : BitVec 128),
    (id < 256 → s.regionLock = none → id ≠ 0 → regLegal record = true → s.census id = false →
      ∃ t, exec (.regcfgWrite id record) s = .next t ∧ t.region id = record ∧ ∀ k, k ≠ id → t.region k = s.region k)
    ∧ ((id = 0 ∨ regLegal record = false ∨ s.census id = true) → exec (.regcfgWrite id record) s = .next s))
  ∧ (s.mext = none → exec (.mextExtend value) s = .next { s with mext := some (value.toNat % 8) })
  ∧ (∀ k, s.mext = some k → exec (.mextExtend value) s = .next s
    ∧ ∃ t, exec .mextComplete s = .next t ∧ t.mext = none
      ∧ SMap.get (0 : BitVec 384) t.meas k = extended (SMap.get 0 s.meas k) s.digestBytes
      ∧ ∀ j, j ≠ k → SMap.get (0 : BitVec 384) t.meas j = SMap.get 0 s.meas j)
  ∧ (∀ die (code : BitVec 16), code.toInt < 400 →
    exec (.thermalHot die code) s = .next (if die = 0 then { s with tdie0 := code } else { s with tdie1 := code }))
  ∧ (∀ die (code : BitVec 16), 440 ≤ code.toInt → exec (.thermalHot die code) s = exec .thermalTrip s)
  ∧ (∀ die (code : BitVec 16), 400 ≤ code.toInt → code.toInt < 440 → ∃ t w, exec (.thermalHot die code) s = .next t ∧ t.hot = true
    ∧ t.stewardLog = s.stewardLog ++ [w])
  ∧ (∀ i : Instr, (i = .thermalTrip ∨ i = .railFail) → ∃ t, exec i s = .next t ∧ t.powered = false ∧ t.threads = [] ∧ t.ctxs = []
    ∧ t.hbm = [] ∧ t.ops = [] ∧ t.tasks = [] ∧ t.nor = s.nor ∧ t.ufs = s.ufs ∧ ∀ a j r, (t.array a).weight r j = (s.array a).weight r j)
  ∧ (s.powered = true → exec .powerUp s = .next s)
  ∧ (s.powered = false → ∃ t, exec .powerUp s = .next t ∧ t.powered = true ∧ t.bootStage = 1 ∧ t.threads = s.threads)
  ∧ (∀ (p : Nat) (c : Bool) (hart : Nat), p < 16 → hart < 16 →
    let at_ := mmioBase + (0x11000 + 0x40 * p + if c then 0x20 else 0)
    ∃ t, exec (.registerWrite at_ value) s = .next t ∧ (t.pctx p c).ptroot = value &&& 0x000000FFFFFFFE00
      ∧ (∀ length ∈ [0, 2, 4], exec (.stewardAccess hart at_ (.store 8 value length)) s = exec (.registerWrite at_ value) (s.hartGo hart length))
      ∧ ∀ l : HartLoad, l.size = 8 → l.length ∈ [0, 2, 4] → l.amo = none →
        exec (.stewardAccess hart at_ (.load l)) t = .next (t.answerAt hart at_ l (.data (value &&& 0x000000FFFFFFFE00))))
  ∧ (∀ hart pa length (l : HartLoad), hart < 16 → l.size = 8 → l.length ∈ [0, 2, 4] → length ∈ [0, 2, 4] →
    pa % 8 = 0 → pa + 8 ≤ hbmEnd → s.interleaved pa = true →
    Claims.flawless s pa 8 → tagPoison (s.blockTag pa) = false → (∀ i, i < 8 → s.coveringKey (pa + i) = none) →
    (l.amo = none → exec (.stewardAccess hart pa (.load l)) s = .next (s.answerAt hart pa l (.data ((Claims.memoryAt s pa 8).setWidth 64))))
    ∧ (∀ f w, l.amo = some (f, w) → 0 < l.rd → l.rd < 32 → ∃ t, exec (.stewardAccess hart pa (.load l)) s = .next t
      ∧ SMap.get (0 : Word) (t.hart hart).x l.rd = (Claims.memoryAt s pa 8).setWidth 64
      ∧ (f = .swap → (Claims.memoryAt t pa 8).setWidth 64 = w)
      ∧ (f = .add → (Claims.memoryAt t pa 8).setWidth 64 = (Claims.memoryAt s pa 8).setWidth 64 + w))
    ∧ ∃ t, exec (.stewardAccess hart pa (.store 8 value length)) s = .next t
      ∧ (t.hart hart).pc = (s.hart hart).pc + BitVec.ofNat 64 length
      ∧ ∀ a, t.dramByte a = if pa ≤ a ∧ a < pa + 8 then (value >>> (8 * (a - pa))).setWidth 8 else s.dramByte a)
  ∧ (∀ hart pa length (l : HartLoad), hart < 16 → l.size = 8 → l.length ∈ [0, 2, 4] → length ∈ [0, 2, 4] →
    pa % 8 = 0 → pa + 8 ≤ hbmEnd → s.interleaved pa = false →
    exec (.stewardAccess hart pa (.load l)) s
      = .next ((s.answerHart hart .nothing).addOpOf stewardThread none (.stewardLoad hart l pa))
    ∧ exec (.stewardAccess hart pa (.store 8 value length)) s
      = .next ((s.hartGo hart length).addOpOf stewardThread none (.bankStore 8 [⟨0, pa, pa, value⟩] false true)))
  ∧ (∀ n op hart pa (l : HartLoad), s.op n = some op → op.kind = .stewardLoad hart l pa → l.size = 8 → l.amo = none →
    s.plainReady op (s.pchOf pa) = true → Claims.flawless s pa 8 → tagPoison (s.blockTag pa) = false →
    exec (.bankAccessPerform n) s = .next ((s.answerAt hart pa l (.data ((Claims.memoryAt s pa 8).setWidth 64))).removeOp n))
  ∧ (∀ hart pa (l : HartLoad) (w : Word), l.size = 8 → 0 < l.rd → l.rd < 32 →
    let h := (s.answerAt hart pa l (.data w)).hart hart
    h.answer = .data w ∧ SMap.get (0 : Word) h.x l.rd = w ∧ h.pc = (s.hart hart).pc + BitVec.ofNat 64 l.length
      ∧ (∀ r, r ≠ l.rd → SMap.get (0 : Word) h.x r = SMap.get (0 : Word) (s.hart hart).x r)
      ∧ h.csr = (s.hart hart).csr ∧ h.priv = (s.hart hart).priv)
  ∧ (∀ hart pa, hart < 16 → pa % 8 = 0 → hbmEnd < pa + 8 → pa < mmioBase → (s.hart hart).priv = 3 →
    let csr := fun (t : State) (n : Nat) => SMap.get (0 : Word) (t.hart hart).csr n
    let traps := fun (cause : Nat) (t : State) => t = s.setHart hart (t.hart hart) ∧ (t.hart hart).priv = 3
      ∧ csr t 0x341 = (s.hart hart).pc ∧ csr t 0x342 = BitVec.ofNat 64 cause ∧ csr t 0x343 = BitVec.ofNat 64 pa
      ∧ (t.hart hart).pc = csr s 0x305 &&& ~~~3
    (∀ l : HartLoad, l.size = 8 → l.length ∈ [0, 2, 4] → ∃ t, exec (.stewardAccess hart pa (.load l)) s = .next t
      ∧ (t.hart hart).answer = .fault ∧ traps (if l.amo = none then 5 else 7) t)
    ∧ ∀ length ∈ [0, 2, 4], ∃ t, exec (.stewardAccess hart pa (.store 8 value length)) s = .next t ∧ traps 7 t)
  ∧ (∀ hart pc x f v csr, hart < 16 → ∃ t, exec (.stewardAccess hart 0 (.own pc x f v csr)) s = .next t ∧ (t.hart hart).pc = pc
    ∧ ∀ k, k ≠ hart → t.hart k = s.hart k)
  ∧ (∀ hart rd, hart < 16 → (s.hart hart).priv = 3 → 0 < rd → rd < 32 →
    ∃ t, exec (.stewardAccess hart 0x340 (.csr rd (some value))) s = .next t ∧ (t.hart hart).pc = (s.hart hart).pc + 4
      ∧ SMap.get (0 : Word) (t.hart hart).x rd = SMap.get (0 : Word) (s.hart hart).csr 0x340
      ∧ SMap.get (0 : Word) (t.hart hart).csr 0x340 = value)
  ∧ (∀ hart cause tval, hart < 16 → (s.hart hart).priv = 3 → cause < 8 →
    ∃ t, exec (.stewardAccess hart 0 (.raise cause tval)) s = .next t
      ∧ SMap.get (0 : Word) (t.hart hart).csr 0x341 = (s.hart hart).pc
      ∧ ∃ u, exec (.stewardAccess hart 0 (.ret false)) t = .next u ∧ (u.hart hart).pc = (s.hart hart).pc ∧ (u.hart hart).priv = 3)
  ∧ (∀ hart cause on, hart < 16 → cause ∈ [1, 3, 5, 7, 9, 11] → ∃ t, exec (.stewardAccess hart 0 (.pend cause on)) s = .next t
    ∧ (t.hart hart).pends cause = on ∧ ∀ k, k ≠ cause → k < 64 → (t.hart hart).pends k = (s.hart hart).pends k)
  ∧ (∀ hart cause, hart < 16 → ((s.interrupts = [] ∧ (s.hart hart).pends cause = false) ∨ (s.hart hart).hears cause = false) →
    exec (.stewardAccess hart 0 (.interrupt cause)) s = .next s)
  ∧ (∀ hart, hart < 16 → s.interrupts ≠ [] → (s.hart hart).hears 11 = true → (s.hart hart).handsDown 11 = false →
    ∃ t, exec (.stewardAccess hart 0 (.interrupt 11)) s = .next t ∧ (t.hart hart).priv = 3
      ∧ SMap.get (0 : Word) (t.hart hart).csr 0x341 = (s.hart hart).pc
      ∧ SMap.get (0 : Word) (t.hart hart).csr 0x342 = 0x800000000000000B)
  ∧ (∀ hart place op, 16 ≤ hart → exec (.stewardAccess hart place op) s = .next s)
  ∧ (∀ hart source, hart < 16 → ∃ t, exec (.stewardAccess hart source .claim) s = .next t ∧ source ∉ t.interrupts
    ∧ ∀ i, i ≠ source → (i ∈ t.interrupts ↔ i ∈ s.interrupts))
  ∧ (∀ hart frame, hart < 16 → ∃ t, exec (.stewardAccess hart frame .clear) s = .next t
    ∧ ∀ a, t.blockTag a = (if a / 2 ^ 21 = frame then 0x1000 else s.blockTag a))
end

