-- ==== Sys2Proof/Laws/Encoding.lean ====
section
/-!
SUPPORT. Reading back what the encoder wrote: bytes and numbers, the fields of a format-G word, and each MOD layout.
-/
namespace Sys2Proof

/-! ## Bytes -/

theorem bytesToNat_natToBytes (k n : Nat) : bytesToNat (natToBytes k n) = n % 256 ^ k := by
  induction k generalizing n with
  | zero => simp [natToBytes, bytesToNat, Nat.mod_one]
  | succ k ih =>
    simp only [natToBytes, bytesToNat, ih, BitVec.toNat_ofNat]
    have h : n % 256 ^ (k + 1) = n % 256 + 256 * (n / 256 % 256 ^ k) := by rw [Nat.pow_succ', Nat.mod_mul]
    rw [h]

@[simp] theorem length_natToBytes (k n : Nat) : (natToBytes k n).length = k := by
  induction k generalizing n with
  | zero => rfl
  | succ k ih => simp [natToBytes, ih]

theorem natToBytes_bytesToNat (l : List Byte) : natToBytes l.length (bytesToNat l) = l := by
  induction l with
  | nil => rfl
  | cons b l ih =>
    have h1 : (b.toNat + 256 * bytesToNat l) / 256 = bytesToNat l := by have := b.isLt; omega
    have h2 : BitVec.ofNat 8 (b.toNat + 256 * bytesToNat l) = b := by
      apply BitVec.eq_of_toNat_eq
      have := b.isLt
      simp only [BitVec.toNat_ofNat]; omega
    simp only [List.length_cons, natToBytes, bytesToNat, h1, h2, ih]

theorem bytesToNat_lt (l : List Byte) : bytesToNat l < 256 ^ l.length := by
  induction l with
  | nil => simp [bytesToNat]
  | cons b l ih =>
    have := b.isLt
    simp only [bytesToNat, List.length_cons, Nat.pow_succ]
    omega

/-! ## Register fields -/

theorem Reg.code_lt (r : Reg) : r.code < 256 := by
  cases r <;> simp only [Reg.code] <;> (try rename_i n; have := n.isLt) <;> omega

theorem Reg.ofCode_code (r : Reg) : Reg.ofCode r.code = some r := by
  cases r with
  | none => rfl
  | imm => rfl
  | x n => revert n; decide
  | v n => revert n; decide
  | m n => revert n; decide
  | p n => revert n; decide
  | c n => revert n; decide
  | q n => revert n; decide
  | i n => revert n; decide

theorem Pred.code_lt (p : Pred) : p.code < 16 := by
  have := p.idx.isLt
  have : p.neg.toNat < 2 := by cases p.neg <;> decide
  simp only [Pred.code]; omega

theorem Pred.ofCode_code (p : Pred) : Pred.ofCode p.code = p := by
  rcases p with ⟨n, i⟩
  cases n <;> revert i <;> decide

/-! ## The fields of a format-G word -/

section
variable {M : Type} (opc fn mod : Nat) (o : Fmt M)

theorem packG_bits_opc (hf : fn < 256) (hm : mod < 4096) (ho : opc < 256) : bits (packG opc fn mod o) 88 8 = opc := by
  have := o.imm.isLt; have := o.c.code_lt; have := o.b.code_lt; have := o.a.code_lt; have := o.d.code_lt
  have := o.pred.code_lt
  simp only [bits, packG, Nat.reducePow] at *
  omega
theorem packG_bits_fn (hf : fn < 256) (hm : mod < 4096) : bits (packG opc fn mod o) 76 8 = fn := by
  have := o.imm.isLt; have := o.c.code_lt; have := o.b.code_lt; have := o.a.code_lt; have := o.d.code_lt
  have := o.pred.code_lt
  simp only [bits, packG, Nat.reducePow] at *
  omega
theorem packG_bits_pred (hf : fn < 256) (hm : mod < 4096) : bits (packG opc fn mod o) 84 4 = o.pred.code := by
  have := o.imm.isLt; have := o.c.code_lt; have := o.b.code_lt; have := o.a.code_lt; have := o.d.code_lt
  have := o.pred.code_lt
  simp only [bits, packG, Nat.reducePow] at *
  omega
theorem packG_bits_d (hm : mod < 4096) : bits (packG opc fn mod o) 68 8 = o.d.code := by
  have := o.imm.isLt; have := o.c.code_lt; have := o.b.code_lt; have := o.a.code_lt; have := o.d.code_lt
  simp only [bits, packG, Nat.reducePow] at *
  omega
theorem packG_bits_a (hm : mod < 4096) : bits (packG opc fn mod o) 60 8 = o.a.code := by
  have := o.imm.isLt; have := o.c.code_lt; have := o.b.code_lt; have := o.a.code_lt
  simp only [bits, packG, Nat.reducePow] at *
  omega
theorem packG_bits_b (hm : mod < 4096) : bits (packG opc fn mod o) 52 8 = o.b.code := by
  have := o.imm.isLt; have := o.c.code_lt; have := o.b.code_lt
  simp only [bits, packG, Nat.reducePow] at *
  omega
theorem packG_bits_c (hm : mod < 4096) : bits (packG opc fn mod o) 44 8 = o.c.code := by
  have := o.imm.isLt; have := o.c.code_lt
  simp only [bits, packG, Nat.reducePow] at *
  omega
theorem packG_bits_mod (hm : mod < 4096) : bits (packG opc fn mod o) 32 12 = mod := by
  have := o.imm.isLt
  simp only [bits, packG, Nat.reducePow] at *
  omega
theorem packG_bits_imm : bits (packG opc fn mod o) 0 32 = o.imm.toNat := by
  have := o.imm.isLt
  simp only [bits, packG, Nat.reducePow] at *
  omega
theorem packG_lt (hf : fn < 256) (hm : mod < 4096) (ho : opc < 256) : packG opc fn mod o < 256 ^ 12 := by
  have := o.imm.isLt; have := o.c.code_lt; have := o.b.code_lt; have := o.a.code_lt; have := o.d.code_lt
  have := o.pred.code_lt
  simp only [packG, Nat.reducePow] at *
  omega

/-- The reader of a format-G word gives back every field that the encoder packed. -/
theorem readG_packG (hf : fn < 256) (hm : mod < 4096) :
    readG (packG opc fn mod o) = some ⟨o.pred, o.d, o.a, o.b, o.c, mod, o.imm⟩ := by
  simp only [readG, packG_bits_d _ _ _ _ hm, packG_bits_a _ _ _ _ hm, packG_bits_b _ _ _ _ hm, packG_bits_c _ _ _ _ hm,
    packG_bits_mod _ _ _ _ hm, packG_bits_imm, packG_bits_pred _ _ _ _ hf hm, Reg.ofCode_code, Pred.ofCode_code,
    Option.bind_some, Option.map_some, BitVec.ofNat_toNat, BitVec.setWidth_eq]

/-- A packed word decodes to the row of its OPC and FN, where that row is well-formed. -/
theorem decodeWord_packG (i : Instr) (hf : fn < 256) (hm : mod < 4096) (ho : opc < 256) (h0 : opc ≠ 0) (h3 : opc ≠ 3)
    (hr : decodeRow opc fn ⟨o.pred, o.d, o.a, o.b, o.c, mod, o.imm⟩ = some i) (hw : WellFormed i = true) :
    decodeWord (packG opc fn mod o) = some i := by
  have hb := packG_bits_opc opc fn mod o hf hm ho
  have hn : packG opc fn mod o ≠ 0 := by
    intro h; rw [h] at hb; simp [bits] at hb; exact h0 hb.symm
  simp only [decodeWord, hn, if_false, hb, h3, decodeG, readG_packG _ _ _ _ hf hm, packG_bits_fn _ _ _ _ hf hm,
    Option.bind_some, hr]
  simp [Option.filter, hw]
end

/-! ## Each MOD layout -/

theorem encIntMod_lt (m : IntMod) : encIntMod m < 4096 := by rcases m with ⟨_ | _, _ | _ | _⟩ <;> decide
theorem decIntMod_enc (m : IntMod) : decIntMod (encIntMod m) = some m := by rcases m with ⟨_ | _, _ | _ | _⟩ <;> rfl
theorem encBool_lt (m : Bool) : encBool m < 4096 := by cases m <;> decide
theorem decBool_enc (m : Bool) : decBool (encBool m) = some m := by cases m <;> rfl
theorem encLeaMod_lt (m : LeaMod) : encLeaMod m < 4096 := by rcases m with ⟨_ | _, s⟩ <;> revert s <;> decide
theorem decLeaMod_enc (m : LeaMod) : decLeaMod (encLeaMod m) = some m := by rcases m with ⟨_ | _, s⟩ <;> revert s <;> decide
theorem encCondMod_lt (m : CondMod) : encCondMod m < 4096 := by
  rcases m with ⟨_ | _, _ | _ | _ | _ | _ | _⟩ <;> decide
theorem decCondMod_enc (m : CondMod) : decCondMod (encCondMod m) = some m := by
  rcases m with ⟨_ | _, _ | _ | _ | _ | _ | _⟩ <;> rfl
theorem encSpadMod_lt (m : SpadMod) : encSpadMod m < 4096 := by
  rcases m with ⟨w, sx, k, z⟩; cases w <;> cases sx <;> cases z <;> revert k <;> decide
theorem decSpadMod_enc (m : SpadMod) : decSpadMod (encSpadMod m) = some m := by
  rcases m with ⟨w, sx, k, z⟩; cases w <;> cases sx <;> cases z <;> revert k <;> decide
theorem encSamoMod_lt (m : SamoMod) : encSamoMod m < 4096 := by
  rcases m with ⟨w, op⟩; cases w <;> cases op <;> decide
theorem decSamoMod_enc (m : SamoMod) : decSamoMod (encSamoMod m) = some m := by
  rcases m with ⟨w, op⟩; cases w <;> cases op <;> rfl
theorem encGlobMod_lt (m : GlobMod) : encGlobMod m < 4096 := by
  rcases m with ⟨w, fc, sx, k, z⟩; cases w <;> cases fc <;> cases sx <;> cases z <;> revert k <;> decide
theorem decGlobMod_enc (m : GlobMod) : decGlobMod (encGlobMod m) = some m := by
  rcases m with ⟨w, fc, sx, k, z⟩; cases w <;> cases fc <;> cases sx <;> cases z <;> revert k <;> decide
theorem encScopeMod_lt (m : ScopeMod) : encScopeMod m < 4096 := by rcases m with ⟨_ | _ | _ | _ | _ | _⟩ <;> decide
theorem decScopeMod_enc (m : ScopeMod) : decScopeMod (encScopeMod m) = some m := by
  rcases m with ⟨_ | _ | _ | _ | _ | _⟩ <;> rfl
theorem encBarrMod_lt (m : BarrMod) : encBarrMod m < 4096 := by
  rcases m with ⟨op, l⟩
  have := l.isLt
  cases op <;> simp only [encBarrMod, BarrOp.code] <;> omega
theorem decBarrMod_enc (m : BarrMod) : decBarrMod (encBarrMod m) = some m := by
  rcases m with ⟨op, l⟩
  have hl := l.isLt
  have hk : encBarrMod ⟨op, l⟩ < 2048 := by cases op <;> simp only [encBarrMod, BarrOp.code] <;> omega
  have h1 : bits (encBarrMod ⟨op, l⟩) 0 3 = op.code := by
    cases op <;> simp only [bits, encBarrMod, BarrOp.code, Nat.reducePow] <;> omega
  have h2 : bits (encBarrMod ⟨op, l⟩) 3 8 = l.toNat := by
    cases op <;> simp only [bits, encBarrMod, BarrOp.code, Nat.reducePow] <;> omega
  simp only [decBarrMod, hk, if_true, h1, h2]
  cases op <;> simp [BarrOp.ofCode, BarrOp.code]
theorem encSendMod_lt (m : SendMod) : encSendMod m < 4096 := by rcases m with ⟨k⟩; revert k; decide
theorem decSendMod_enc (m : SendMod) : decSendMod (encSendMod m) = some m := by rcases m with ⟨k⟩; revert k; decide
theorem encVecMod_lt (m : VecMod) : encVecMod m < 4096 := by
  rcases m with ⟨t, k, z, r, st⟩
  have := k.isLt
  cases t <;> cases z <;> cases r <;> cases st <;>
    simp only [encVecMod, ElType.code, Rnd.code, Bool.toNat_true, Bool.toNat_false] <;> omega
theorem decVecMod_enc (m : VecMod) : decVecMod (encVecMod m) = some m := by
  rcases m with ⟨t, k, z, r, st⟩
  cases t <;> cases z <;> cases r <;> cases st <;> revert k <;> decide
theorem encMatMod_lt (m : MatMod) : encMatMod m < 4096 := by rcases m with ⟨k, _ | _⟩ <;> revert k <;> decide
theorem decMatMod_enc (m : MatMod) : decMatMod (encMatMod m) = some m := by rcases m with ⟨k, _ | _⟩ <;> revert k <;> decide
theorem encClrMod_lt (m : ClrMod) : encClrMod m < 4096 := by rcases m with ⟨_ | _⟩ <;> decide
theorem decClrMod_enc (m : ClrMod) : decClrMod (encClrMod m) = some m := by rcases m with ⟨_ | _⟩ <;> rfl
theorem encTopkMod_lt (m : TopkMod) : encTopkMod m < 4096 := by rcases m with ⟨_ | _, _ | _⟩ <;> decide
theorem decTopkMod_enc (m : TopkMod) : decTopkMod (encTopkMod m) = some m := by rcases m with ⟨_ | _, _ | _⟩ <;> rfl
theorem encStackMod_lt (m : StackMod) : encStackMod m < 4096 := by
  rcases m with ⟨op, w, k⟩; cases op <;> cases w <;> revert k <;> decide
theorem decStackMod_enc (m : StackMod) : decStackMod (encStackMod m) = some m := by
  rcases m with ⟨op, w, k⟩; cases op <;> cases w <;> revert k <;> decide
theorem encBankMod_lt (m : BankMod) : encBankMod m < 4096 := by
  have := m.n1.isLt; have := m.a0.isLt; simp only [encBankMod]; omega
theorem decBankMod_enc (m : BankMod) : decBankMod (encBankMod m) = some m := by
  rcases m with ⟨n, a⟩
  have hn := n.isLt
  have ha := a.isLt
  have hk : encBankMod ⟨n, a⟩ < 4096 := by simp only [encBankMod]; omega
  have h1 : bits (encBankMod ⟨n, a⟩) 0 6 = n.toNat := by simp only [bits, encBankMod, Nat.reducePow]; omega
  have h2 : bits (encBankMod ⟨n, a⟩) 6 6 = a.toNat := by simp only [bits, encBankMod, Nat.reducePow]; omega
  simp [decBankMod, hk, h1, h2]
theorem encSwzMod_lt (d : Nat) (h : d < 2) (m : SwzMod) : encSwzMod d m < 4096 := by
  rcases m with ⟨_ | _⟩ <;> simp [encSwzMod] <;> omega
theorem decSwzMod_enc (d : Nat) (m : SwzMod) : decSwzMod d (encSwzMod d m) = some m := by
  rcases m with ⟨_ | _⟩ <;> simp [decSwzMod, encSwzMod]
theorem decUnit_same (k : Nat) : decUnit k k = some () := by simp [decUnit]

end Sys2Proof
end

