-- ==== Sys2Proof/Laws/Map.lean ====
section
/-!
SUPPORT. The laws of a sparse map: what a read after a write gives, and that a write keeps the canonical form.
-/
namespace Sys2Proof

/-- Reading an empty map. -/
@[simp] theorem SMap.get_nil {α : Type} (d : α) (n : Nat) : SMap.get d [] n = d := rfl

/-- Reading the first entry of a map, or what lies behind it. -/
theorem SMap.get_cons {α : Type} (d : α) (k : Nat) (v : α) (r : SMap α) (n : Nat) :
    SMap.get d ((k, v) :: r) n = if n = k then v else SMap.get d r n := rfl

/-- The canonical form above a bound, one entry at a time. -/
theorem SMap.wfFrom_cons {α : Type} [DecidableEq α] (d : α) (lo : Option Nat) (k : Nat) (v : α) (r : SMap α) :
    SMap.wfFrom d lo ((k, v) :: r) = true ↔
      (∀ l, lo = some l → l < k) ∧ v ≠ d ∧ SMap.wfFrom d (some k) r = true := by
  cases lo <;> simp [SMap.wfFrom, and_assoc]

/-- A map in canonical form above a bound is so above any lower one. -/
theorem SMap.wfFrom_weaken {α : Type} [DecidableEq α] (d : α) (lo lo' : Option Nat) (m : SMap α)
    (h : SMap.wfFrom d lo m = true) (hl : ∀ l', lo' = some l' → ∃ l, lo = some l ∧ l' ≤ l) :
    SMap.wfFrom d lo' m = true := by
  cases m with
  | nil => rfl
  | cons e r =>
    obtain ⟨k, v⟩ := e
    rw [SMap.wfFrom_cons] at h ⊢
    refine ⟨fun l' e' => ?_, h.2⟩
    obtain ⟨l, e, hle⟩ := hl l' e'
    exact Nat.lt_of_le_of_lt hle (h.1 l e)

/-- No entry of a map in canonical form above k has a key up to k. -/
theorem SMap.get_of_wfFrom {α : Type} [DecidableEq α] (d : α) (m : SMap α) (k n : Nat)
    (h : SMap.wfFrom d (some k) m = true) (hn : n ≤ k) : SMap.get d m n = d := by
  induction m generalizing k with
  | nil => rfl
  | cons e r ih =>
    obtain ⟨j, v⟩ := e
    rw [SMap.wfFrom_cons] at h
    have hkj : k < j := h.1 k rfl
    rw [SMap.get_cons, if_neg (by omega)]
    exact ih j h.2.2 (by omega)

/-- Reading after `put`. -/
theorem SMap.get_put {α : Type} (d : α) (m : SMap α) (n k : Nat) (v : α) :
    SMap.get d (SMap.put m n v) k = if k = n then v else SMap.get d m k := by
  induction m with
  | nil => simp [SMap.put, SMap.get]
  | cons e r ih =>
    obtain ⟨j, w⟩ := e
    simp only [SMap.put]
    split
    · simp [SMap.get]
    · split
      · next h => subst h; simp only [SMap.get]; split <;> rfl
      · next h =>
        simp only [SMap.get, ih]
        split
        · next hk => rw [if_neg (by omega)]
        · rfl

/-- Reading after `del`. -/
theorem SMap.get_del {α : Type} (d : α) (m : SMap α) (n k : Nat) :
    SMap.get d (SMap.del m n) k = if k = n then d else SMap.get d m k := by
  induction m with
  | nil => simp [SMap.del, SMap.get]
  | cons e r ih =>
    obtain ⟨j, w⟩ := e
    simp only [SMap.del]
    split
    · next hj =>
      subst hj
      rw [ih, SMap.get_cons]
      split <;> rfl
    · next hj =>
      simp only [SMap.get_cons, ih]
      by_cases hk : k = j
      · simp [hk]; intro hjn; exact absurd hjn.symm hj
      · simp [hk]

/-- `put` keeps the canonical form. -/
theorem SMap.wfFrom_put {α : Type} [DecidableEq α] (d : α) (m : SMap α) (n : Nat) (v : α) (lo : Option Nat)
    (h : SMap.wfFrom d lo m = true) (hv : v ≠ d) (hn : ∀ l, lo = some l → l < n) :
    SMap.wfFrom d lo (SMap.put m n v) = true := by
  induction m generalizing lo with
  | nil => rw [SMap.put, SMap.wfFrom_cons]; exact ⟨hn, hv, rfl⟩
  | cons e r ih =>
    obtain ⟨j, w⟩ := e
    rw [SMap.wfFrom_cons] at h
    simp only [SMap.put]
    split
    · next hlt =>
      rw [SMap.wfFrom_cons, SMap.wfFrom_cons]
      exact ⟨hn, hv, fun l hl => (Option.some.inj hl) ▸ hlt, h.2⟩
    · split
      · next he => subst he; rw [SMap.wfFrom_cons]; exact ⟨hn, hv, h.2.2⟩
      · next hne hj =>
        rw [SMap.wfFrom_cons]
        refine ⟨h.1, h.2.1, ih (some j) h.2.2 fun l hl => ?_⟩
        cases hl; omega

/-- `del` keeps the canonical form. -/
theorem SMap.wfFrom_del {α : Type} [DecidableEq α] (d : α) (m : SMap α) (n : Nat) (lo : Option Nat)
    (h : SMap.wfFrom d lo m = true) : SMap.wfFrom d lo (SMap.del m n) = true := by
  induction m generalizing lo with
  | nil => rfl
  | cons e r ih =>
    obtain ⟨j, w⟩ := e
    rw [SMap.wfFrom_cons] at h
    simp only [SMap.del]
    split
    · exact ih lo (SMap.wfFrom_weaken d (some j) lo r h.2.2 fun l hl => ⟨j, rfl, Nat.le_of_lt (h.1 l hl)⟩)
    · rw [SMap.wfFrom_cons]; exact ⟨h.1, h.2.1, ih (some j) h.2.2⟩

/-- A write keeps the canonical form. -/
theorem SMap.wf_set {α : Type} [DecidableEq α] (d : α) (m : SMap α) (n : Nat) (v : α) (h : SMap.wf d m = true) :
    SMap.wf d (SMap.set d m n v) = true := by
  unfold SMap.set
  split
  · exact SMap.wfFrom_del d m n none h
  · next hv => exact SMap.wfFrom_put d m n v none h hv fun _ hl => by cases hl

/-- What a condition leaves of a map keeps the canonical form. -/
theorem SMap.wfFrom_filter {α : Type} [DecidableEq α] (d : α) (m : SMap α) (f : Nat × α → Bool) (lo : Option Nat)
    (h : SMap.wfFrom d lo m = true) : SMap.wfFrom d lo (m.filter f) = true := by
  induction m generalizing lo with
  | nil => rfl
  | cons e r ih =>
    obtain ⟨j, w⟩ := e
    rw [SMap.wfFrom_cons] at h
    rw [List.filter_cons]
    split
    · rw [SMap.wfFrom_cons]; exact ⟨h.1, h.2.1, ih (some j) h.2.2⟩
    · exact ih lo (SMap.wfFrom_weaken d (some j) lo r h.2.2 fun l hl => ⟨j, rfl, Nat.le_of_lt (h.1 l hl)⟩)
theorem SMap.wf_filter {α : Type} [DecidableEq α] (d : α) (m : SMap α) (f : Nat × α → Bool) (h : SMap.wf d m = true) :
    SMap.wf d (m.filter f) = true := SMap.wfFrom_filter d m f none h

/-- Reading after a write. -/
theorem SMap.get_set {α : Type} [DecidableEq α] (d : α) (m : SMap α) (n k : Nat) (v : α) :
    SMap.get d (SMap.set d m n v) k = if k = n then v else SMap.get d m k := by
  unfold SMap.set
  split
  · next hv => rw [SMap.get_del, hv]
  · exact SMap.get_put d m n k v

/-- Reading the key just written gives the value. -/
@[simp] theorem SMap.get_set_same {α : Type} [DecidableEq α] (d : α) (m : SMap α) (n : Nat) (v : α) :
    SMap.get d (SMap.set d m n v) n = v := by rw [SMap.get_set, if_pos rfl]

/-- A write leaves every other key alone. -/
theorem SMap.get_set_other {α : Type} [DecidableEq α] (d : α) (m : SMap α) (n k : Nat) (v : α) (hk : k ≠ n) :
    SMap.get d (SMap.set d m n v) k = SMap.get d m k := by rw [SMap.get_set, if_neg hk]

/-- The empty map is in canonical form. -/
@[simp] theorem SMap.wf_nil {α : Type} [DecidableEq α] (d : α) : SMap.wf d ([] : SMap α) = true := rfl

end Sys2Proof
end

