-- ==== Sys2Proof/Laws/Memory.lean ====
section
/-!
SUPPORT. The laws of device memory: what each operation over it leaves in the bytes and tags that it writes, and that every one of
them keeps the canonical form.
-/
namespace Sys2Proof.Machine

/-- The form in two parts: bytes and tags. -/
theorem Memory.wf_iff (s : State) : Memory.wf s = true ↔ SMap.wf 0 s.hbm = true ∧ SMap.wf zeroTag s.blockTags = true := by
  simp [Memory.wf]

/-- A state with the same bytes and tags has the form. -/
theorem Memory.wf_congr {s t : State} (hb : t.hbm = s.hbm) (ht : t.blockTags = s.blockTags) (h : Memory.wf s = true) :
    Memory.wf t = true := by
  rw [Memory.wf, hb, ht]; exact h

/-! ## Tags and bytes -/

@[simp] theorem setBlockTag_hbm (s : State) (pa : Nat) (t : BitVec 16) : (s.setBlockTag pa t).hbm = s.hbm := rfl
@[simp] theorem putByte_blockTags (s : State) (pa : Nat) (v : Byte) : (s.putByte pa v).blockTags = s.blockTags := rfl

/-- A tag that was written reads as written, and every other block's as before. -/
theorem blockTag_setBlockTag (s : State) (pa x : Nat) (t : BitVec 16) :
    (s.setBlockTag pa t).blockTag x = if x / 64 = pa / 64 then t else s.blockTag x := by
  simp [State.blockTag, State.setBlockTag, SMap.get_set]
@[simp] theorem blockTag_putByte (s : State) (pa x : Nat) (v : Byte) : (s.putByte pa v).blockTag x = s.blockTag x := rfl

/-- The stored byte of a place, apart from what its block's tag makes of it. -/
theorem get_putByte (s : State) (pa x : Nat) (v : Byte) :
    SMap.get 0 (s.putByte pa v).hbm x = if x = pa then v else SMap.get 0 s.hbm x := SMap.get_set 0 s.hbm pa x v

theorem wf_setBlockTag {s : State} (pa : Nat) (t : BitVec 16) (h : Memory.wf s = true) : Memory.wf (s.setBlockTag pa t) = true := by
  rw [Memory.wf_iff] at h ⊢
  exact ⟨h.1, SMap.wf_set zeroTag s.blockTags (pa / 64) t h.2⟩
theorem wf_putByte {s : State} (pa : Nat) (v : Byte) (h : Memory.wf s = true) : Memory.wf (s.putByte pa v) = true := by
  rw [Memory.wf_iff] at h ⊢
  exact ⟨SMap.wf_set 0 s.hbm pa v h.1, h.2⟩

/-- A fold over a list whose step keeps the form keeps it. -/
theorem wf_foldl {β : Type} (f : State → β → State) (hf : ∀ s b, Memory.wf s = true → Memory.wf (f s b) = true) (l : List β) :
    ∀ s, Memory.wf s = true → Memory.wf (l.foldl f s) = true := by
  induction l with
  | nil => exact fun s h => h
  | cons b r ih => exact fun s h => ih (f s b) (hf s b h)
/-- The same for a fold that carries an address. -/
theorem wf_foldlAt {β : Type} (k : Nat) (f : State → Nat → β → State)
    (hf : ∀ s a b, Memory.wf s = true → Memory.wf (f s a b) = true) (l : List β) :
    ∀ a s, Memory.wf s = true → Memory.wf (l.foldl (fun (p : Nat × State) b => (p.1 + k, f p.2 p.1 b)) (a, s)).2 = true := by
  induction l with
  | nil => exact fun a s h => h
  | cons b r ih => exact fun a s h => ih (a + k) (f s a b) (hf s a b h)

/-! ## Stores (R81) -/

theorem wf_putBytes {s : State} (pa : Nat) (l : List Byte) (h : Memory.wf s = true) : Memory.wf (s.putBytes pa l) = true :=
  wf_foldlAt 1 (fun s a v => s.putByte a v) (fun _ a v h => wf_putByte a v h) l pa s h
theorem wf_materialise {s : State} (pa : Nat) (h : Memory.wf s = true) : Memory.wf (s.materialise pa) = true := by
  unfold State.materialise
  dsimp only
  split
  · exact wf_putBytes _ _ h
  · exact h
theorem wf_dramStoreByte {s : State} (pa : Nat) (v : Byte) (b : Bool) (h : Memory.wf s = true) :
    Memory.wf (s.dramStoreByte pa v b) = true := wf_setBlockTag _ _ (wf_putByte _ _ (wf_materialise pa h))
theorem wf_dramStore {s : State} (pa : Nat) (l : List Byte) (b : Bool) (h : Memory.wf s = true) :
    Memory.wf (s.dramStore pa l b) = true :=
  wf_foldlAt 1 (fun s a v => s.dramStoreByte a v b) (fun _ a v h => wf_dramStoreByte a v b h) l pa s h
theorem wf_putBlock {s : State} (pa : Nat) (l : List Byte) (t : BitVec 16) (h : Memory.wf s = true) :
    Memory.wf (s.putBlock pa l t) = true := wf_setBlockTag _ _ (wf_putBytes _ _ h)
/-! ## Errors (R82, R359) -/

/-- A state with other records, events and logs, and with the same bytes and tags. -/
theorem wf_record {s : State} (u p : Nat) (c f : Bool) (ty : Nat) (l : List (Nat × Nat)) (h : Memory.wf s = true) :
    Memory.wf (s.record u p c f ty l) = true := Memory.wf_congr rfl rfl h
theorem wf_hwError {s : State} (part : Nat) (ctx : Bool) (unit event src addr detail pc cause thr count : Nat) (lasting : Bool)
    (h : Memory.wf s = true) : Memory.wf (s.hwError part ctx unit event src addr detail pc cause thr count lasting) = true :=
  wf_record _ _ _ _ _ _ h
/-- Records for some users keep the form where the making of one does. -/
theorem wf_recordFor {s : State} (users : List (Nat × Bool)) (make : State → Nat → Bool → State)
    (hm : ∀ s p c, Memory.wf s = true → Memory.wf (make s p c) = true) (h : Memory.wf s = true) :
    Memory.wf (s.recordFor users make) = true := by
  cases users with
  | nil => exact Memory.wf_congr (s := make { s with records := [] } 0 false) rfl rfl (hm _ 0 false (Memory.wf_congr rfl rfl h))
  | cons c l => exact wf_foldl (fun s c => make s c.1 c.2) (fun s c h => hm s c.1 c.2 h) (c :: l) s h
theorem wf_report {s : State} (src : ErrSource) (event addr detail : Nat) (h : Memory.wf s = true) :
    Memory.wf (s.report src event addr detail) = true := Memory.wf_congr rfl rfl h
theorem wf_tellLasting {s : State} (src : ErrSource) (count detail : Nat) (h : Memory.wf s = true) :
    Memory.wf (s.tellLasting src count detail) = true := by
  have key : ∀ (users : List (Nat × Bool)) (unit place addr : Nat), Memory.wf
      (s.recordFor users fun s part ctx => s.hwError part ctx unit 2 place addr detail 0 0 0 count true) = true :=
    fun _ _ _ _ => wf_recordFor _ _ (fun _ _ _ h => wf_hwError _ _ _ _ _ _ _ _ _ _ _ _ h) h
  unfold State.tellLasting
  dsimp only
  split
  · exact Memory.wf_congr (s := State.recordFor _ _ _) rfl rfl (key _ _ _ _)
  · exact key _ _ _ _
theorem wf_makeLasting {s : State} (src : ErrSource) (count detail : Nat) (h : Memory.wf s = true) :
    Memory.wf (s.makeLasting src count detail) = true := by
  unfold State.makeLasting
  split
  · exact h
  · exact wf_tellLasting _ _ _ (by cases src <;> exact Memory.wf_congr rfl rfl h)
theorem wf_errorEvent {s : State} (src : ErrSource) (time addr detail : Nat) (h : Memory.wf s = true) :
    Memory.wf (s.errorEvent src time addr detail) = true := by
  have h' : Memory.wf ((s.report src 0 addr detail).countEvent src time) = true := Memory.wf_congr rfl rfl h
  unfold State.errorEvent
  dsimp only
  split
  · exact wf_makeLasting _ _ _ h'
  · exact h'
theorem wf_errorWith {s : State} (src : ErrSource) (event addr detail : Nat) (own : State → Nat → Bool → State)
    (ho : ∀ s n b, Memory.wf s = true → Memory.wf (own s n b) = true) (h : Memory.wf s = true) :
    Memory.wf (s.errorWith src event addr detail own) = true := by
  unfold State.errorWith
  dsimp only
  split
  · exact wf_makeLasting _ _ _ (ho _ _ _ (Memory.wf_congr rfl rfl h))
  · exact ho _ _ _ (Memory.wf_congr rfl rfl h)
theorem wf_foundError {s : State} (pa : Nat) (u : Bool) (n : Nat) (r : Reader) (h : Memory.wf s = true) :
    Memory.wf (s.foundError pa u n r) = true := by
  have h' : Memory.wf { s with weak := s.weak.filter fun w => w.1 != pa / 64 } = true := Memory.wf_congr rfl rfl h
  unfold State.foundError
  dsimp only
  split
  · exact wf_errorWith _ _ _ _ _ (fun _ _ _ h => wf_recordFor _ _ (fun _ _ _ h => wf_hwError _ _ _ _ _ _ _ _ _ _ _ _ h) h)
      (wf_setBlockTag _ _ h')
  · exact wf_errorEvent _ _ _ _ h'
/-- What the controller finds in the codewords that it reads keeps the form. -/
theorem wf_eccFor {s : State} (r : Reader) (pa n : Nat) (h : Memory.wf s = true) : Memory.wf (s.eccFor r pa n) = true := by
  unfold State.eccFor
  split
  · exact h
  · refine wf_foldl (State.eccBlock r) (fun s b h => ?_) _ _ h
    unfold State.eccBlock
    split
    · exact wf_foundError _ _ _ _ h
    · exact h
theorem wf_ecc {s : State} (pa n : Nat) (h : Memory.wf s = true) : Memory.wf (s.ecc pa n) = true := wf_eccFor noReader pa n h
theorem wf_eccAll {s : State} (l : List (Nat × Nat)) (h : Memory.wf s = true) : Memory.wf (s.eccAll l) = true := by
  unfold State.eccAll State.eccAllFor
  split
  · exact h
  · exact wf_foldl (fun s (p : Nat × Nat) => s.eccFor noReader p.1 p.2) (fun _ _ h => wf_eccFor _ _ _ h) _ _ h

/-! ## Copies, plain stores and frames (R83, R94, R235) -/

theorem wf_putPiece {s : State} (elide merge : Bool) (p : Piece) (h : Memory.wf s = true) :
    Memory.wf (s.putPiece elide merge p) = true := by
  have h' := wf_setBlockTag p.lo (copyTag false false merge (s.blockTag p.lo) p.tags)
    (wf_putBytes p.lo p.bytes (wf_materialise p.lo h))
  unfold State.putPiece
  dsimp only
  split
  · exact h'
  · exact wf_setBlockTag _ _ h'
theorem wf_plainStore {s : State} (r : Reader) (width : Nat) (b : Bool) (e : ElemReq) (h : Memory.wf s = true) :
    Memory.wf (s.plainStore r width b e) = true := wf_dramStore _ _ _ (wf_eccFor _ _ _ h)
/-- R81: the controllers' ZERO blocks. -/
theorem wf_zeroBlocks {s : State} (pa n : Nat) (h : Memory.wf s = true) : Memory.wf (s.zeroBlocks pa n) = true := by
  have h' := (Memory.wf_iff _).mp (wf_eccAll ((s.weak.filter fun w => decide (pa ≤ w.1 * 64 ∧ w.1 * 64 < pa + n)).map
    fun w => (w.1 * 64, 64)) h)
  exact (Memory.wf_iff _).mpr ⟨SMap.wf_filter 0 _ _ h'.1, SMap.wf_filter zeroTag _ _ h'.2⟩

/-- Moving a range of keys keeps the form of a map. -/
theorem wf_movedRange {α : Type} [DecidableEq α] (d : α) (m : SMap α) (a b n : Nat) (h : SMap.wf d m = true) :
    SMap.wf d (movedRange d m a b n) = true := by
  have go : ∀ (l : SMap α) (k : SMap α), SMap.wf d k = true →
      SMap.wf d (l.foldl (fun m p => SMap.set d m (p.1 - a + b) p.2) k) = true := by
    intro l
    induction l with
    | nil => exact fun k hk => hk
    | cons p r ih => exact fun k hk => ih _ (SMap.wf_set d k _ p.2 hk)
  exact go _ _ (SMap.wf_filter d m _ h)

end Sys2Proof.Machine
end

