-- ==== Sys2Proof/Laws/PerInstr.lean ====
section
/-!
SUPPORT. Statements that hold of every instruction, constructor by constructor: what the encoder writes, the decoder reads.
-/
namespace Sys2Proof.Laws.RoundTrip

set_option Elab.async false

/-- R25, R32: the word of a well-formed instruction decodes to that instruction. -/
def Statement (i : Instr) : Prop := ∀ w, WellFormed i = true → encodeWord i = some w → decodeWord w = some i

theorem nop : Statement .nop := by
  intro w _ h
  simp only [encodeWord, Option.some.injEq] at h
  simp [← h, decodeWord]

theorem movi (p : Pred) (d : Fin 32) (imm : BitVec 64) : Statement (.movi p d imm) := by
  intro w _ h
  simp only [encodeWord, Option.some.injEq] at h
  have hd := d.isLt
  have hi := imm.isLt
  have hp := p.code_lt
  have h1 : bits w 88 8 = 3 := by simp only [bits, ← h, Nat.reducePow] at *; omega
  have h2 : bits w 76 8 = 0 := by simp only [bits, ← h, Nat.reducePow] at *; omega
  have h3 : bits w 64 4 = 0 := by simp only [bits, ← h, Nat.reducePow] at *; omega
  have h4 : bits w 73 3 = 0 := by simp only [bits, ← h, Nat.reducePow] at *; omega
  have h5 : bits w 84 4 = p.code := by simp only [bits, ← h, Nat.reducePow] at *; omega
  have h6 : bits w 68 5 = d.val := by simp only [bits, ← h, Nat.reducePow] at *; omega
  have h7 : bits w 0 64 = imm.toNat := by simp only [bits, ← h, Nat.reducePow] at *; omega
  have h0 : w ≠ 0 := by intro h0; rw [h0] at h1; simp [bits] at h1
  simp [decodeWord, decodeMovi, h0, h1, h2, h3, h4, h5, h6, h7, Pred.ofCode_code]

theorem add (o : Fmt IntMod) : Statement (.add o) := by
  intro w hw h
  simp only [encodeWord, Option.some.injEq] at h
  subst h
  exact decodeWord_packG _ _ _ o _ (by decide) (encIntMod_lt o.mod) (by decide) (by decide) (by decide)
    (by simp [decodeRow, decode01, decIntMod_enc, Fmt.withMod]) hw
theorem sub (o : Fmt IntMod) : Statement (.sub o) := by
  intro w hw h
  simp only [encodeWord, Option.some.injEq] at h
  subst h
  exact decodeWord_packG _ _ _ o _ (by decide) (encIntMod_lt o.mod) (by decide) (by decide) (by decide)
    (by simp [decodeRow, decode01, decIntMod_enc, Fmt.withMod]) hw
theorem mul (o : Fmt IntMod) : Statement (.mul o) := by
  intro w hw h
  simp only [encodeWord, Option.some.injEq] at h
  subst h
  exact decodeWord_packG _ _ _ o _ (by decide) (encIntMod_lt o.mod) (by decide) (by decide) (by decide)
    (by simp [decodeRow, decode01, decIntMod_enc, Fmt.withMod]) hw
theorem mulh (o : Fmt IntMod) : Statement (.mulh o) := by
  intro w hw h
  simp only [encodeWord, Option.some.injEq] at h
  subst h
  exact decodeWord_packG _ _ _ o _ (by decide) (encIntMod_lt o.mod) (by decide) (by decide) (by decide)
    (by simp [decodeRow, decode01, decIntMod_enc, Fmt.withMod]) hw
theorem mulhu (o : Fmt IntMod) : Statement (.mulhu o) := by
  intro w hw h
  simp only [encodeWord, Option.some.injEq] at h
  subst h
  exact decodeWord_packG _ _ _ o _ (by decide) (encIntMod_lt o.mod) (by decide) (by decide) (by decide)
    (by simp [decodeRow, decode01, decIntMod_enc, Fmt.withMod]) hw
theorem div (o : Fmt IntMod) : Statement (.div o) := by
  intro w hw h
  simp only [encodeWord, Option.some.injEq] at h
  subst h
  exact decodeWord_packG _ _ _ o _ (by decide) (encIntMod_lt o.mod) (by decide) (by decide) (by decide)
    (by simp [decodeRow, decode01, decIntMod_enc, Fmt.withMod]) hw
theorem divu (o : Fmt IntMod) : Statement (.divu o) := by
  intro w hw h
  simp only [encodeWord, Option.some.injEq] at h
  subst h
  exact decodeWord_packG _ _ _ o _ (by decide) (encIntMod_lt o.mod) (by decide) (by decide) (by decide)
    (by simp [decodeRow, decode01, decIntMod_enc, Fmt.withMod]) hw
theorem rem (o : Fmt IntMod) : Statement (.rem o) := by
  intro w hw h
  simp only [encodeWord, Option.some.injEq] at h
  subst h
  exact decodeWord_packG _ _ _ o _ (by decide) (encIntMod_lt o.mod) (by decide) (by decide) (by decide)
    (by simp [decodeRow, decode01, decIntMod_enc, Fmt.withMod]) hw
theorem remu (o : Fmt IntMod) : Statement (.remu o) := by
  intro w hw h
  simp only [encodeWord, Option.some.injEq] at h
  subst h
  exact decodeWord_packG _ _ _ o _ (by decide) (encIntMod_lt o.mod) (by decide) (by decide) (by decide)
    (by simp [decodeRow, decode01, decIntMod_enc, Fmt.withMod]) hw
theorem and (o : Fmt IntMod) : Statement (.and o) := by
  intro w hw h
  simp only [encodeWord, Option.some.injEq] at h
  subst h
  exact decodeWord_packG _ _ _ o _ (by decide) (encIntMod_lt o.mod) (by decide) (by decide) (by decide)
    (by simp [decodeRow, decode01, decIntMod_enc, Fmt.withMod]) hw
theorem or (o : Fmt IntMod) : Statement (.or o) := by
  intro w hw h
  simp only [encodeWord, Option.some.injEq] at h
  subst h
  exact decodeWord_packG _ _ _ o _ (by decide) (encIntMod_lt o.mod) (by decide) (by decide) (by decide)
    (by simp [decodeRow, decode01, decIntMod_enc, Fmt.withMod]) hw
theorem xor (o : Fmt IntMod) : Statement (.xor o) := by
  intro w hw h
  simp only [encodeWord, Option.some.injEq] at h
  subst h
  exact decodeWord_packG _ _ _ o _ (by decide) (encIntMod_lt o.mod) (by decide) (by decide) (by decide)
    (by simp [decodeRow, decode01, decIntMod_enc, Fmt.withMod]) hw
theorem shl (o : Fmt IntMod) : Statement (.shl o) := by
  intro w hw h
  simp only [encodeWord, Option.some.injEq] at h
  subst h
  exact decodeWord_packG _ _ _ o _ (by decide) (encIntMod_lt o.mod) (by decide) (by decide) (by decide)
    (by simp [decodeRow, decode01, decIntMod_enc, Fmt.withMod]) hw
theorem shr (o : Fmt IntMod) : Statement (.shr o) := by
  intro w hw h
  simp only [encodeWord, Option.some.injEq] at h
  subst h
  exact decodeWord_packG _ _ _ o _ (by decide) (encIntMod_lt o.mod) (by decide) (by decide) (by decide)
    (by simp [decodeRow, decode01, decIntMod_enc, Fmt.withMod]) hw
theorem sra (o : Fmt IntMod) : Statement (.sra o) := by
  intro w hw h
  simp only [encodeWord, Option.some.injEq] at h
  subst h
  exact decodeWord_packG _ _ _ o _ (by decide) (encIntMod_lt o.mod) (by decide) (by decide) (by decide)
    (by simp [decodeRow, decode01, decIntMod_enc, Fmt.withMod]) hw
theorem min (o : Fmt IntMod) : Statement (.min o) := by
  intro w hw h
  simp only [encodeWord, Option.some.injEq] at h
  subst h
  exact decodeWord_packG _ _ _ o _ (by decide) (encIntMod_lt o.mod) (by decide) (by decide) (by decide)
    (by simp [decodeRow, decode01, decIntMod_enc, Fmt.withMod]) hw
theorem max (o : Fmt IntMod) : Statement (.max o) := by
  intro w hw h
  simp only [encodeWord, Option.some.injEq] at h
  subst h
  exact decodeWord_packG _ _ _ o _ (by decide) (encIntMod_lt o.mod) (by decide) (by decide) (by decide)
    (by simp [decodeRow, decode01, decIntMod_enc, Fmt.withMod]) hw
theorem minu (o : Fmt IntMod) : Statement (.minu o) := by
  intro w hw h
  simp only [encodeWord, Option.some.injEq] at h
  subst h
  exact decodeWord_packG _ _ _ o _ (by decide) (encIntMod_lt o.mod) (by decide) (by decide) (by decide)
    (by simp [decodeRow, decode01, decIntMod_enc, Fmt.withMod]) hw
theorem maxu (o : Fmt IntMod) : Statement (.maxu o) := by
  intro w hw h
  simp only [encodeWord, Option.some.injEq] at h
  subst h
  exact decodeWord_packG _ _ _ o _ (by decide) (encIntMod_lt o.mod) (by decide) (by decide) (by decide)
    (by simp [decodeRow, decode01, decIntMod_enc, Fmt.withMod]) hw
theorem clz (o : Fmt Bool) : Statement (.clz o) := by
  intro w hw h
  simp only [encodeWord, Option.some.injEq] at h
  subst h
  exact decodeWord_packG _ _ _ o _ (by decide) (encBool_lt o.mod) (by decide) (by decide) (by decide)
    (by simp [decodeRow, decode02, decBool_enc, Fmt.withMod]) hw
theorem ctz (o : Fmt Bool) : Statement (.ctz o) := by
  intro w hw h
  simp only [encodeWord, Option.some.injEq] at h
  subst h
  exact decodeWord_packG _ _ _ o _ (by decide) (encBool_lt o.mod) (by decide) (by decide) (by decide)
    (by simp [decodeRow, decode02, decBool_enc, Fmt.withMod]) hw
theorem popc (o : Fmt Bool) : Statement (.popc o) := by
  intro w hw h
  simp only [encodeWord, Option.some.injEq] at h
  subst h
  exact decodeWord_packG _ _ _ o _ (by decide) (encBool_lt o.mod) (by decide) (by decide) (by decide)
    (by simp [decodeRow, decode02, decBool_enc, Fmt.withMod]) hw
theorem bfx (o : Fmt Bool) : Statement (.bfx o) := by
  intro w hw h
  simp only [encodeWord, Option.some.injEq] at h
  subst h
  exact decodeWord_packG _ _ _ o _ (by decide) (encBool_lt o.mod) (by decide) (by decide) (by decide)
    (by simp [decodeRow, decode02, decBool_enc, Fmt.withMod]) hw
theorem bfi (o : Fmt Unit) : Statement (.bfi o) := by
  intro w hw h
  simp only [encodeWord, Option.some.injEq] at h
  subst h
  exact decodeWord_packG _ _ _ o _ (by decide) (by decide) (by decide) (by decide) (by decide)
    (by simp [decodeRow, decode02, decUnit_same, Fmt.withMod]) hw
theorem lea (o : Fmt LeaMod) : Statement (.lea o) := by
  intro w hw h
  simp only [encodeWord, Option.some.injEq] at h
  subst h
  exact decodeWord_packG _ _ _ o _ (by decide) (encLeaMod_lt o.mod) (by decide) (by decide) (by decide)
    (by simp [decodeRow, decode02, decLeaMod_enc, Fmt.withMod]) hw
theorem sel (o : Fmt Unit) : Statement (.sel o) := by
  intro w hw h
  simp only [encodeWord, Option.some.injEq] at h
  subst h
  exact decodeWord_packG _ _ _ o _ (by decide) (by decide) (by decide) (by decide) (by decide)
    (by simp [decodeRow, decode02, decUnit_same, Fmt.withMod]) hw
theorem cmp (o : Fmt CondMod) : Statement (.cmp o) := by
  intro w hw h
  simp only [encodeWord, Option.some.injEq] at h
  subst h
  exact decodeWord_packG _ _ _ o _ (by decide) (encCondMod_lt o.mod) (by decide) (by decide) (by decide)
    (by simp [decodeRow, decode04, decCondMod_enc, Fmt.withMod]) hw
theorem pand (o : Fmt Unit) : Statement (.pand o) := by
  intro w hw h
  simp only [encodeWord, Option.some.injEq] at h
  subst h
  exact decodeWord_packG _ _ _ o _ (by decide) (by decide) (by decide) (by decide) (by decide)
    (by simp [decodeRow, decode04, decUnit_same, Fmt.withMod]) hw
theorem por (o : Fmt Unit) : Statement (.por o) := by
  intro w hw h
  simp only [encodeWord, Option.some.injEq] at h
  subst h
  exact decodeWord_packG _ _ _ o _ (by decide) (by decide) (by decide) (by decide) (by decide)
    (by simp [decodeRow, decode04, decUnit_same, Fmt.withMod]) hw
theorem pxor (o : Fmt Unit) : Statement (.pxor o) := by
  intro w hw h
  simp only [encodeWord, Option.some.injEq] at h
  subst h
  exact decodeWord_packG _ _ _ o _ (by decide) (by decide) (by decide) (by decide) (by decide)
    (by simp [decodeRow, decode04, decUnit_same, Fmt.withMod]) hw
theorem pnot (o : Fmt Unit) : Statement (.pnot o) := by
  intro w hw h
  simp only [encodeWord, Option.some.injEq] at h
  subst h
  exact decodeWord_packG _ _ _ o _ (by decide) (by decide) (by decide) (by decide) (by decide)
    (by simp [decodeRow, decode04, decUnit_same, Fmt.withMod]) hw
theorem pmov (o : Fmt Unit) : Statement (.pmov o) := by
  intro w hw h
  simp only [encodeWord, Option.some.injEq] at h
  subst h
  exact decodeWord_packG _ _ _ o _ (by decide) (by decide) (by decide) (by decide) (by decide)
    (by simp [decodeRow, decode04, decUnit_same, Fmt.withMod]) hw
theorem pmovTox (o : Fmt Unit) : Statement (.pmovTox o) := by
  intro w hw h
  simp only [encodeWord, Option.some.injEq] at h
  subst h
  exact decodeWord_packG _ _ _ o _ (by decide) (by decide) (by decide) (by decide) (by decide)
    (by simp [decodeRow, decode04, decUnit, Fmt.withMod]) hw
theorem pmovFromx (o : Fmt Unit) : Statement (.pmovFromx o) := by
  intro w hw h
  simp only [encodeWord, Option.some.injEq] at h
  subst h
  exact decodeWord_packG _ _ _ o _ (by decide) (by decide) (by decide) (by decide) (by decide)
    (by simp [decodeRow, decode04, decUnit, Fmt.withMod]) hw
theorem br (o : Fmt Unit) : Statement (.br o) := by
  intro w hw h
  simp only [encodeWord, Option.some.injEq] at h
  subst h
  exact decodeWord_packG _ _ _ o _ (by decide) (by decide) (by decide) (by decide) (by decide)
    (by simp [decodeRow, decode05, decUnit_same, Fmt.withMod]) hw
theorem brc (o : Fmt CondMod) : Statement (.brc o) := by
  intro w hw h
  simp only [encodeWord, Option.some.injEq] at h
  subst h
  exact decodeWord_packG _ _ _ o _ (by decide) (encCondMod_lt o.mod) (by decide) (by decide) (by decide)
    (by simp [decodeRow, decode05, decCondMod_enc, Fmt.withMod]) hw
theorem brca (o : Fmt CondMod) : Statement (.brca o) := by
  intro w hw h
  simp only [encodeWord, Option.some.injEq] at h
  subst h
  exact decodeWord_packG _ _ _ o _ (by decide) (encCondMod_lt o.mod) (by decide) (by decide) (by decide)
    (by simp [decodeRow, decode05, decCondMod_enc, Fmt.withMod]) hw
theorem brct (o : Fmt CondMod) : Statement (.brct o) := by
  intro w hw h
  simp only [encodeWord, Option.some.injEq] at h
  subst h
  exact decodeWord_packG _ _ _ o _ (by decide) (encCondMod_lt o.mod) (by decide) (by decide) (by decide)
    (by simp [decodeRow, decode05, decCondMod_enc, Fmt.withMod]) hw
theorem jmp (o : Fmt Unit) : Statement (.jmp o) := by
  intro w hw h
  simp only [encodeWord, Option.some.injEq] at h
  subst h
  exact decodeWord_packG _ _ _ o _ (by decide) (by decide) (by decide) (by decide) (by decide)
    (by simp [decodeRow, decode05, decUnit_same, Fmt.withMod]) hw
theorem call (o : Fmt Unit) : Statement (.call o) := by
  intro w hw h
  simp only [encodeWord, Option.some.injEq] at h
  subst h
  exact decodeWord_packG _ _ _ o _ (by decide) (by decide) (by decide) (by decide) (by decide)
    (by simp [decodeRow, decode05, decUnit_same, Fmt.withMod]) hw
theorem callIndirect (o : Fmt Unit) : Statement (.callIndirect o) := by
  intro w hw h
  simp only [encodeWord, Option.some.injEq] at h
  subst h
  exact decodeWord_packG _ _ _ o _ (by decide) (by decide) (by decide) (by decide) (by decide)
    (by simp [decodeRow, decode05, decUnit, Fmt.withMod]) hw
theorem eret (o : Fmt Unit) : Statement (.eret o) := by
  intro w hw h
  simp only [encodeWord, Option.some.injEq] at h
  subst h
  exact decodeWord_packG _ _ _ o _ (by decide) (by decide) (by decide) (by decide) (by decide)
    (by simp [decodeRow, decode05, decUnit_same, Fmt.withMod]) hw
theorem yield (o : Fmt Unit) : Statement (.yield o) := by
  intro w hw h
  simp only [encodeWord, Option.some.injEq] at h
  subst h
  exact decodeWord_packG _ _ _ o _ (by decide) (by decide) (by decide) (by decide) (by decide)
    (by simp [decodeRow, decode06, decUnit_same, Fmt.withMod]) hw
theorem waitt (o : Fmt Unit) : Statement (.waitt o) := by
  intro w hw h
  simp only [encodeWord, Option.some.injEq] at h
  subst h
  exact decodeWord_packG _ _ _ o _ (by decide) (by decide) (by decide) (by decide) (by decide)
    (by simp [decodeRow, decode06, decUnit_same, Fmt.withMod]) hw
theorem wfi (o : Fmt Unit) : Statement (.wfi o) := by
  intro w hw h
  simp only [encodeWord, Option.some.injEq] at h
  subst h
  exact decodeWord_packG _ _ _ o _ (by decide) (by decide) (by decide) (by decide) (by decide)
    (by simp [decodeRow, decode06, decUnit_same, Fmt.withMod]) hw
theorem lds (o : Fmt SpadMod) : Statement (.lds o) := by
  intro w hw h
  simp only [encodeWord, Option.some.injEq] at h
  subst h
  exact decodeWord_packG _ _ _ o _ (by decide) (encSpadMod_lt o.mod) (by decide) (by decide) (by decide)
    (by simp [decodeRow, decode10, decSpadMod_enc, Fmt.withMod]) hw
theorem sts (o : Fmt SpadMod) : Statement (.sts o) := by
  intro w hw h
  simp only [encodeWord, Option.some.injEq] at h
  subst h
  exact decodeWord_packG _ _ _ o _ (by decide) (encSpadMod_lt o.mod) (by decide) (by decide) (by decide)
    (by simp [decodeRow, decode10, decSpadMod_enc, Fmt.withMod]) hw
theorem ldsv (o : Fmt SpadMod) : Statement (.ldsv o) := by
  intro w hw h
  simp only [encodeWord, Option.some.injEq] at h
  subst h
  exact decodeWord_packG _ _ _ o _ (by decide) (encSpadMod_lt o.mod) (by decide) (by decide) (by decide)
    (by simp [decodeRow, decode10, decSpadMod_enc, Fmt.withMod]) hw
theorem stsv (o : Fmt SpadMod) : Statement (.stsv o) := by
  intro w hw h
  simp only [encodeWord, Option.some.injEq] at h
  subst h
  exact decodeWord_packG _ _ _ o _ (by decide) (encSpadMod_lt o.mod) (by decide) (by decide) (by decide)
    (by simp [decodeRow, decode10, decSpadMod_enc, Fmt.withMod]) hw
theorem vgaths (o : Fmt SpadMod) : Statement (.vgaths o) := by
  intro w hw h
  simp only [encodeWord, Option.some.injEq] at h
  subst h
  exact decodeWord_packG _ _ _ o _ (by decide) (encSpadMod_lt o.mod) (by decide) (by decide) (by decide)
    (by simp [decodeRow, decode10, decSpadMod_enc, Fmt.withMod]) hw
theorem vscats (o : Fmt SpadMod) : Statement (.vscats o) := by
  intro w hw h
  simp only [encodeWord, Option.some.injEq] at h
  subst h
  exact decodeWord_packG _ _ _ o _ (by decide) (encSpadMod_lt o.mod) (by decide) (by decide) (by decide)
    (by simp [decodeRow, decode10, decSpadMod_enc, Fmt.withMod]) hw
theorem ldt (o : Fmt Unit) : Statement (.ldt o) := by
  intro w hw h
  simp only [encodeWord, Option.some.injEq] at h
  subst h
  exact decodeWord_packG _ _ _ o _ (by decide) (by decide) (by decide) (by decide) (by decide)
    (by simp [decodeRow, decode10, decUnit_same, Fmt.withMod]) hw
theorem stt (o : Fmt Unit) : Statement (.stt o) := by
  intro w hw h
  simp only [encodeWord, Option.some.injEq] at h
  subst h
  exact decodeWord_packG _ _ _ o _ (by decide) (by decide) (by decide) (by decide) (by decide)
    (by simp [decodeRow, decode10, decUnit_same, Fmt.withMod]) hw
theorem samo (o : Fmt SamoMod) : Statement (.samo o) := by
  intro w hw h
  simp only [encodeWord, Option.some.injEq] at h
  subst h
  exact decodeWord_packG _ _ _ o _ (by decide) (encSamoMod_lt o.mod) (by decide) (by decide) (by decide)
    (by simp [decodeRow, decode11, decSamoMod_enc, Fmt.withMod]) hw
theorem samon (o : Fmt SamoMod) : Statement (.samon o) := by
  intro w hw h
  simp only [encodeWord, Option.some.injEq] at h
  subst h
  exact decodeWord_packG _ _ _ o _ (by decide) (encSamoMod_lt o.mod) (by decide) (by decide) (by decide)
    (by simp [decodeRow, decode11, decSamoMod_enc, Fmt.withMod]) hw
theorem ldg (o : Fmt GlobMod) : Statement (.ldg o) := by
  intro w hw h
  simp only [encodeWord, Option.some.injEq] at h
  subst h
  exact decodeWord_packG _ _ _ o _ (by decide) (encGlobMod_lt o.mod) (by decide) (by decide) (by decide)
    (by simp [decodeRow, decode14, decGlobMod_enc, Fmt.withMod]) hw
theorem ldgv (o : Fmt GlobMod) : Statement (.ldgv o) := by
  intro w hw h
  simp only [encodeWord, Option.some.injEq] at h
  subst h
  exact decodeWord_packG _ _ _ o _ (by decide) (encGlobMod_lt o.mod) (by decide) (by decide) (by decide)
    (by simp [decodeRow, decode14, decGlobMod_enc, Fmt.withMod]) hw
theorem ldgx (o : Fmt GlobMod) : Statement (.ldgx o) := by
  intro w hw h
  simp only [encodeWord, Option.some.injEq] at h
  subst h
  exact decodeWord_packG _ _ _ o _ (by decide) (encGlobMod_lt o.mod) (by decide) (by decide) (by decide)
    (by simp [decodeRow, decode14, decGlobMod_enc, Fmt.withMod]) hw
theorem stg (o : Fmt GlobMod) : Statement (.stg o) := by
  intro w hw h
  simp only [encodeWord, Option.some.injEq] at h
  subst h
  exact decodeWord_packG _ _ _ o _ (by decide) (encGlobMod_lt o.mod) (by decide) (by decide) (by decide)
    (by simp [decodeRow, decode14, decGlobMod_enc, Fmt.withMod]) hw
theorem stgv (o : Fmt GlobMod) : Statement (.stgv o) := by
  intro w hw h
  simp only [encodeWord, Option.some.injEq] at h
  subst h
  exact decodeWord_packG _ _ _ o _ (by decide) (encGlobMod_lt o.mod) (by decide) (by decide) (by decide)
    (by simp [decodeRow, decode14, decGlobMod_enc, Fmt.withMod]) hw
theorem stgx (o : Fmt GlobMod) : Statement (.stgx o) := by
  intro w hw h
  simp only [encodeWord, Option.some.injEq] at h
  subst h
  exact decodeWord_packG _ _ _ o _ (by decide) (encGlobMod_lt o.mod) (by decide) (by decide) (by decide)
    (by simp [decodeRow, decode14, decGlobMod_enc, Fmt.withMod]) hw
theorem cmb (o : Fmt GlobMod) : Statement (.cmb o) := by
  intro w hw h
  simp only [encodeWord, Option.some.injEq] at h
  subst h
  exact decodeWord_packG _ _ _ o _ (by decide) (encGlobMod_lt o.mod) (by decide) (by decide) (by decide)
    (by simp [decodeRow, decode14, decGlobMod_enc, Fmt.withMod]) hw
theorem cmbv (o : Fmt GlobMod) : Statement (.cmbv o) := by
  intro w hw h
  simp only [encodeWord, Option.some.injEq] at h
  subst h
  exact decodeWord_packG _ _ _ o _ (by decide) (encGlobMod_lt o.mod) (by decide) (by decide) (by decide)
    (by simp [decodeRow, decode14, decGlobMod_enc, Fmt.withMod]) hw
theorem cmbx (o : Fmt GlobMod) : Statement (.cmbx o) := by
  intro w hw h
  simp only [encodeWord, Option.some.injEq] at h
  subst h
  exact decodeWord_packG _ _ _ o _ (by decide) (encGlobMod_lt o.mod) (by decide) (by decide) (by decide)
    (by simp [decodeRow, decode14, decGlobMod_enc, Fmt.withMod]) hw
theorem mdrain (o : Fmt ScopeMod) : Statement (.mdrain o) := by
  intro w hw h
  simp only [encodeWord, Option.some.injEq] at h
  subst h
  exact decodeWord_packG _ _ _ o _ (by decide) (encScopeMod_lt o.mod) (by decide) (by decide) (by decide)
    (by simp [decodeRow, decode15, decScopeMod_enc, Fmt.withMod]) hw
theorem mdrainRegion (o : Fmt Unit) : Statement (.mdrainRegion o) := by
  intro w hw h
  simp only [encodeWord, Option.some.injEq] at h
  subst h
  exact decodeWord_packG _ _ _ o _ (by decide) (by decide) (by decide) (by decide) (by decide)
    (by simp [decodeRow, decode15, decUnit, decScopeMod, Fmt.withMod]) hw
theorem mresolve (o : Fmt GlobMod) : Statement (.mresolve o) := by
  intro w hw h
  simp only [encodeWord, Option.some.injEq] at h
  subst h
  exact decodeWord_packG _ _ _ o _ (by decide) (encGlobMod_lt o.mod) (by decide) (by decide) (by decide)
    (by simp [decodeRow, decode15, decGlobMod_enc, Fmt.withMod]) hw
theorem rgset (o : Fmt Unit) : Statement (.rgset o) := by
  intro w hw h
  simp only [encodeWord, Option.some.injEq] at h
  subst h
  exact decodeWord_packG _ _ _ o _ (by decide) (by decide) (by decide) (by decide) (by decide)
    (by simp [decodeRow, decode15, decUnit_same, Fmt.withMod]) hw
theorem rgget (o : Fmt Unit) : Statement (.rgget o) := by
  intro w hw h
  simp only [encodeWord, Option.some.injEq] at h
  subst h
  exact decodeWord_packG _ _ _ o _ (by decide) (by decide) (by decide) (by decide) (by decide)
    (by simp [decodeRow, decode15, decUnit_same, Fmt.withMod]) hw
theorem bind (o : Fmt ScopeMod) : Statement (.bind o) := by
  intro w hw h
  simp only [encodeWord, Option.some.injEq] at h
  subst h
  exact decodeWord_packG _ _ _ o _ (by decide) (encScopeMod_lt o.mod) (by decide) (by decide) (by decide)
    (by simp [decodeRow, decode18, decScopeMod_enc, Fmt.withMod]) hw
theorem acq (o : Fmt Unit) : Statement (.acq o) := by
  intro w hw h
  simp only [encodeWord, Option.some.injEq] at h
  subst h
  exact decodeWord_packG _ _ _ o _ (by decide) (by decide) (by decide) (by decide) (by decide)
    (by simp [decodeRow, decode18, decUnit_same, Fmt.withMod]) hw
theorem rel (o : Fmt Unit) : Statement (.rel o) := by
  intro w hw h
  simp only [encodeWord, Option.some.injEq] at h
  subst h
  exact decodeWord_packG _ _ _ o _ (by decide) (by decide) (by decide) (by decide) (by decide)
    (by simp [decodeRow, decode18, decUnit_same, Fmt.withMod]) hw
theorem fence (o : Fmt ScopeMod) : Statement (.fence o) := by
  intro w hw h
  simp only [encodeWord, Option.some.injEq] at h
  subst h
  exact decodeWord_packG _ _ _ o _ (by decide) (encScopeMod_lt o.mod) (by decide) (by decide) (by decide)
    (by simp [decodeRow, decode18, decScopeMod_enc, Fmt.withMod]) hw
theorem bfence (o : Fmt Unit) : Statement (.bfence o) := by
  intro w hw h
  simp only [encodeWord, Option.some.injEq] at h
  subst h
  exact decodeWord_packG _ _ _ o _ (by decide) (by decide) (by decide) (by decide) (by decide)
    (by simp [decodeRow, decode18, decUnit_same, Fmt.withMod]) hw
theorem bar (o : Fmt Unit) : Statement (.bar o) := by
  intro w hw h
  simp only [encodeWord, Option.some.injEq] at h
  subst h
  exact decodeWord_packG _ _ _ o _ (by decide) (by decide) (by decide) (by decide) (by decide)
    (by simp [decodeRow, decode19, decUnit_same, Fmt.withMod]) hw
theorem bara (o : Fmt Unit) : Statement (.bara o) := by
  intro w hw h
  simp only [encodeWord, Option.some.injEq] at h
  subst h
  exact decodeWord_packG _ _ _ o _ (by decide) (by decide) (by decide) (by decide) (by decide)
    (by simp [decodeRow, decode19, decUnit_same, Fmt.withMod]) hw
theorem barw (o : Fmt Unit) : Statement (.barw o) := by
  intro w hw h
  simp only [encodeWord, Option.some.injEq] at h
  subst h
  exact decodeWord_packG _ _ _ o _ (by decide) (by decide) (by decide) (by decide) (by decide)
    (by simp [decodeRow, decode19, decUnit_same, Fmt.withMod]) hw
theorem barr (o : Fmt BarrMod) : Statement (.barr o) := by
  intro w hw h
  simp only [encodeWord, Option.some.injEq] at h
  subst h
  exact decodeWord_packG _ _ _ o _ (by decide) (encBarrMod_lt o.mod) (by decide) (by decide) (by decide)
    (by simp [decodeRow, decode19, decBarrMod_enc, Fmt.withMod]) hw
theorem ftest (o : Fmt Bool) : Statement (.ftest o) := by
  intro w hw h
  simp only [encodeWord, Option.some.injEq] at h
  subst h
  exact decodeWord_packG _ _ _ o _ (by decide) (encBool_lt o.mod) (by decide) (by decide) (by decide)
    (by simp [decodeRow, decode1A, decBool_enc, Fmt.withMod]) hw
theorem fcancel (o : Fmt Unit) : Statement (.fcancel o) := by
  intro w hw h
  simp only [encodeWord, Option.some.injEq] at h
  subst h
  exact decodeWord_packG _ _ _ o _ (by decide) (by decide) (by decide) (by decide) (by decide)
    (by simp [decodeRow, decode1A, decUnit_same, Fmt.withMod]) hw
theorem fwait (o : Fmt Unit) : Statement (.fwait o) := by
  intro w hw h
  simp only [encodeWord, Option.some.injEq] at h
  subst h
  exact decodeWord_packG _ _ _ o _ (by decide) (by decide) (by decide) (by decide) (by decide)
    (by simp [decodeRow, decode1A, decUnit_same, Fmt.withMod]) hw
theorem fmovc (o : Fmt Unit) : Statement (.fmovc o) := by
  intro w hw h
  simp only [encodeWord, Option.some.injEq] at h
  subst h
  exact decodeWord_packG _ _ _ o _ (by decide) (by decide) (by decide) (by decide) (by decide)
    (by simp [decodeRow, decode1A, decUnit_same, Fmt.withMod]) hw
theorem send (o : Fmt SendMod) : Statement (.send o) := by
  intro w hw h
  simp only [encodeWord, Option.some.injEq] at h
  subst h
  exact decodeWord_packG _ _ _ o _ (by decide) (encSendMod_lt o.mod) (by decide) (by decide) (by decide)
    (by simp [decodeRow, decode1B, decSendMod_enc, Fmt.withMod]) hw
theorem recv (o : Fmt Unit) : Statement (.recv o) := by
  intro w hw h
  simp only [encodeWord, Option.some.injEq] at h
  subst h
  exact decodeWord_packG _ _ _ o _ (by decide) (by decide) (by decide) (by decide) (by decide)
    (by simp [decodeRow, decode1B, decUnit_same, Fmt.withMod]) hw
theorem dqpush (o : Fmt Unit) : Statement (.dqpush o) := by
  intro w hw h
  simp only [encodeWord, Option.some.injEq] at h
  subst h
  exact decodeWord_packG _ _ _ o _ (by decide) (by decide) (by decide) (by decide) (by decide)
    (by simp [decodeRow, decode1C, decUnit_same, Fmt.withMod]) hw
theorem dqpop (o : Fmt Unit) : Statement (.dqpop o) := by
  intro w hw h
  simp only [encodeWord, Option.some.injEq] at h
  subst h
  exact decodeWord_packG _ _ _ o _ (by decide) (by decide) (by decide) (by decide) (by decide)
    (by simp [decodeRow, decode1C, decUnit_same, Fmt.withMod]) hw
theorem dqsplit (o : Fmt Unit) : Statement (.dqsplit o) := by
  intro w hw h
  simp only [encodeWord, Option.some.injEq] at h
  subst h
  exact decodeWord_packG _ _ _ o _ (by decide) (by decide) (by decide) (by decide) (by decide)
    (by simp [decodeRow, decode1C, decUnit_same, Fmt.withMod]) hw
theorem dqsteal (o : Fmt Unit) : Statement (.dqsteal o) := by
  intro w hw h
  simp only [encodeWord, Option.some.injEq] at h
  subst h
  exact decodeWord_packG _ _ _ o _ (by decide) (by decide) (by decide) (by decide) (by decide)
    (by simp [decodeRow, decode1C, decUnit_same, Fmt.withMod]) hw
theorem widf (o : Fmt Unit) : Statement (.widf o) := by
  intro w hw h
  simp only [encodeWord, Option.some.injEq] at h
  subst h
  exact decodeWord_packG _ _ _ o _ (by decide) (by decide) (by decide) (by decide) (by decide)
    (by simp [decodeRow, decode1D, decUnit_same, Fmt.withMod]) hw
theorem lvlrect (o : Fmt Unit) : Statement (.lvlrect o) := by
  intro w hw h
  simp only [encodeWord, Option.some.injEq] at h
  subst h
  exact decodeWord_packG _ _ _ o _ (by decide) (by decide) (by decide) (by decide) (by decide)
    (by simp [decodeRow, decode1D, decUnit_same, Fmt.withMod]) hw
theorem launch (o : Fmt Unit) : Statement (.launch o) := by
  intro w hw h
  simp only [encodeWord, Option.some.injEq] at h
  subst h
  exact decodeWord_packG _ _ _ o _ (by decide) (by decide) (by decide) (by decide) (by decide)
    (by simp [decodeRow, decode1D, decUnit_same, Fmt.withMod]) hw
theorem trig (o : Fmt Unit) : Statement (.trig o) := by
  intro w hw h
  simp only [encodeWord, Option.some.injEq] at h
  subst h
  exact decodeWord_packG _ _ _ o _ (by decide) (by decide) (by decide) (by decide) (by decide)
    (by simp [decodeRow, decode1D, decUnit_same, Fmt.withMod]) hw
theorem end_ (o : Fmt Unit) : Statement (.end_ o) := by
  intro w hw h
  simp only [encodeWord, Option.some.injEq] at h
  subst h
  exact decodeWord_packG _ _ _ o _ (by decide) (by decide) (by decide) (by decide) (by decide)
    (by simp [decodeRow, decode1D, decUnit_same, Fmt.withMod]) hw
theorem trap (o : Fmt Unit) : Statement (.trap o) := by
  intro w hw h
  simp only [encodeWord, Option.some.injEq] at h
  subst h
  exact decodeWord_packG _ _ _ o _ (by decide) (by decide) (by decide) (by decide) (by decide)
    (by simp [decodeRow, decode1E, decUnit_same, Fmt.withMod]) hw
theorem brk (o : Fmt Unit) : Statement (.brk o) := by
  intro w hw h
  simp only [encodeWord, Option.some.injEq] at h
  subst h
  exact decodeWord_packG _ _ _ o _ (by decide) (by decide) (by decide) (by decide) (by decide)
    (by simp [decodeRow, decode1E, decUnit_same, Fmt.withMod]) hw
theorem csrr (o : Fmt Unit) : Statement (.csrr o) := by
  intro w hw h
  simp only [encodeWord, Option.some.injEq] at h
  subst h
  exact decodeWord_packG _ _ _ o _ (by decide) (by decide) (by decide) (by decide) (by decide)
    (by simp [decodeRow, decode1E, decUnit_same, Fmt.withMod]) hw
theorem csrw (o : Fmt Unit) : Statement (.csrw o) := by
  intro w hw h
  simp only [encodeWord, Option.some.injEq] at h
  subst h
  exact decodeWord_packG _ _ _ o _ (by decide) (by decide) (by decide) (by decide) (by decide)
    (by simp [decodeRow, decode1E, decUnit_same, Fmt.withMod]) hw
theorem csrx (o : Fmt Unit) : Statement (.csrx o) := by
  intro w hw h
  simp only [encodeWord, Option.some.injEq] at h
  subst h
  exact decodeWord_packG _ _ _ o _ (by decide) (by decide) (by decide) (by decide) (by decide)
    (by simp [decodeRow, decode1E, decUnit_same, Fmt.withMod]) hw
theorem fencei (o : Fmt Unit) : Statement (.fencei o) := by
  intro w hw h
  simp only [encodeWord, Option.some.injEq] at h
  subst h
  exact decodeWord_packG _ _ _ o _ (by decide) (by decide) (by decide) (by decide) (by decide)
    (by simp [decodeRow, decode1E, decUnit_same, Fmt.withMod]) hw
theorem vadd (o : Fmt VecMod) : Statement (.vadd o) := by
  intro w hw h
  simp only [encodeWord, Option.some.injEq] at h
  subst h
  exact decodeWord_packG _ _ _ o _ (by decide) (encVecMod_lt o.mod) (by decide) (by decide) (by decide)
    (by simp [decodeRow, decode20, decVecMod_enc, Fmt.withMod]) hw
theorem vsub (o : Fmt VecMod) : Statement (.vsub o) := by
  intro w hw h
  simp only [encodeWord, Option.some.injEq] at h
  subst h
  exact decodeWord_packG _ _ _ o _ (by decide) (encVecMod_lt o.mod) (by decide) (by decide) (by decide)
    (by simp [decodeRow, decode20, decVecMod_enc, Fmt.withMod]) hw
theorem vmul (o : Fmt VecMod) : Statement (.vmul o) := by
  intro w hw h
  simp only [encodeWord, Option.some.injEq] at h
  subst h
  exact decodeWord_packG _ _ _ o _ (by decide) (encVecMod_lt o.mod) (by decide) (by decide) (by decide)
    (by simp [decodeRow, decode20, decVecMod_enc, Fmt.withMod]) hw
theorem vfma (o : Fmt VecMod) : Statement (.vfma o) := by
  intro w hw h
  simp only [encodeWord, Option.some.injEq] at h
  subst h
  exact decodeWord_packG _ _ _ o _ (by decide) (encVecMod_lt o.mod) (by decide) (by decide) (by decide)
    (by simp [decodeRow, decode20, decVecMod_enc, Fmt.withMod]) hw
theorem vfms (o : Fmt VecMod) : Statement (.vfms o) := by
  intro w hw h
  simp only [encodeWord, Option.some.injEq] at h
  subst h
  exact decodeWord_packG _ _ _ o _ (by decide) (encVecMod_lt o.mod) (by decide) (by decide) (by decide)
    (by simp [decodeRow, decode20, decVecMod_enc, Fmt.withMod]) hw
theorem vmin (o : Fmt VecMod) : Statement (.vmin o) := by
  intro w hw h
  simp only [encodeWord, Option.some.injEq] at h
  subst h
  exact decodeWord_packG _ _ _ o _ (by decide) (encVecMod_lt o.mod) (by decide) (by decide) (by decide)
    (by simp [decodeRow, decode20, decVecMod_enc, Fmt.withMod]) hw
theorem vmax (o : Fmt VecMod) : Statement (.vmax o) := by
  intro w hw h
  simp only [encodeWord, Option.some.injEq] at h
  subst h
  exact decodeWord_packG _ _ _ o _ (by decide) (encVecMod_lt o.mod) (by decide) (by decide) (by decide)
    (by simp [decodeRow, decode20, decVecMod_enc, Fmt.withMod]) hw
theorem vabs (o : Fmt VecMod) : Statement (.vabs o) := by
  intro w hw h
  simp only [encodeWord, Option.some.injEq] at h
  subst h
  exact decodeWord_packG _ _ _ o _ (by decide) (encVecMod_lt o.mod) (by decide) (by decide) (by decide)
    (by simp [decodeRow, decode20, decVecMod_enc, Fmt.withMod]) hw
theorem vneg (o : Fmt VecMod) : Statement (.vneg o) := by
  intro w hw h
  simp only [encodeWord, Option.some.injEq] at h
  subst h
  exact decodeWord_packG _ _ _ o _ (by decide) (encVecMod_lt o.mod) (by decide) (by decide) (by decide)
    (by simp [decodeRow, decode20, decVecMod_enc, Fmt.withMod]) hw
theorem vdiv (o : Fmt VecMod) : Statement (.vdiv o) := by
  intro w hw h
  simp only [encodeWord, Option.some.injEq] at h
  subst h
  exact decodeWord_packG _ _ _ o _ (by decide) (encVecMod_lt o.mod) (by decide) (by decide) (by decide)
    (by simp [decodeRow, decode20, decVecMod_enc, Fmt.withMod]) hw
theorem vsqrt (o : Fmt VecMod) : Statement (.vsqrt o) := by
  intro w hw h
  simp only [encodeWord, Option.some.injEq] at h
  subst h
  exact decodeWord_packG _ _ _ o _ (by decide) (encVecMod_lt o.mod) (by decide) (by decide) (by decide)
    (by simp [decodeRow, decode20, decVecMod_enc, Fmt.withMod]) hw
theorem vand (o : Fmt VecMod) : Statement (.vand o) := by
  intro w hw h
  simp only [encodeWord, Option.some.injEq] at h
  subst h
  exact decodeWord_packG _ _ _ o _ (by decide) (encVecMod_lt o.mod) (by decide) (by decide) (by decide)
    (by simp [decodeRow, decode21, decVecMod_enc, Fmt.withMod]) hw
theorem vor (o : Fmt VecMod) : Statement (.vor o) := by
  intro w hw h
  simp only [encodeWord, Option.some.injEq] at h
  subst h
  exact decodeWord_packG _ _ _ o _ (by decide) (encVecMod_lt o.mod) (by decide) (by decide) (by decide)
    (by simp [decodeRow, decode21, decVecMod_enc, Fmt.withMod]) hw
theorem vxor (o : Fmt VecMod) : Statement (.vxor o) := by
  intro w hw h
  simp only [encodeWord, Option.some.injEq] at h
  subst h
  exact decodeWord_packG _ _ _ o _ (by decide) (encVecMod_lt o.mod) (by decide) (by decide) (by decide)
    (by simp [decodeRow, decode21, decVecMod_enc, Fmt.withMod]) hw
theorem vshl (o : Fmt VecMod) : Statement (.vshl o) := by
  intro w hw h
  simp only [encodeWord, Option.some.injEq] at h
  subst h
  exact decodeWord_packG _ _ _ o _ (by decide) (encVecMod_lt o.mod) (by decide) (by decide) (by decide)
    (by simp [decodeRow, decode21, decVecMod_enc, Fmt.withMod]) hw
theorem vshr (o : Fmt VecMod) : Statement (.vshr o) := by
  intro w hw h
  simp only [encodeWord, Option.some.injEq] at h
  subst h
  exact decodeWord_packG _ _ _ o _ (by decide) (encVecMod_lt o.mod) (by decide) (by decide) (by decide)
    (by simp [decodeRow, decode21, decVecMod_enc, Fmt.withMod]) hw
theorem vsra (o : Fmt VecMod) : Statement (.vsra o) := by
  intro w hw h
  simp only [encodeWord, Option.some.injEq] at h
  subst h
  exact decodeWord_packG _ _ _ o _ (by decide) (encVecMod_lt o.mod) (by decide) (by decide) (by decide)
    (by simp [decodeRow, decode21, decVecMod_enc, Fmt.withMod]) hw
theorem vcvt (o : Fmt VecMod) : Statement (.vcvt o) := by
  intro w hw h
  simp only [encodeWord, Option.some.injEq] at h
  subst h
  exact decodeWord_packG _ _ _ o _ (by decide) (encVecMod_lt o.mod) (by decide) (by decide) (by decide)
    (by simp [decodeRow, decode22, decVecMod_enc, Fmt.withMod]) hw
theorem vcmp (o : Fmt VecMod) : Statement (.vcmp o) := by
  intro w hw h
  simp only [encodeWord, Option.some.injEq] at h
  subst h
  exact decodeWord_packG _ _ _ o _ (by decide) (encVecMod_lt o.mod) (by decide) (by decide) (by decide)
    (by simp [decodeRow, decode23, decVecMod_enc, Fmt.withMod]) hw
theorem vsel (o : Fmt VecMod) : Statement (.vsel o) := by
  intro w hw h
  simp only [encodeWord, Option.some.injEq] at h
  subst h
  exact decodeWord_packG _ _ _ o _ (by decide) (encVecMod_lt o.mod) (by decide) (by decide) (by decide)
    (by simp [decodeRow, decode23, decVecMod_enc, Fmt.withMod]) hw
theorem vbcast (o : Fmt VecMod) : Statement (.vbcast o) := by
  intro w hw h
  simp only [encodeWord, Option.some.injEq] at h
  subst h
  exact decodeWord_packG _ _ _ o _ (by decide) (encVecMod_lt o.mod) (by decide) (by decide) (by decide)
    (by simp [decodeRow, decode24, decVecMod_enc, Fmt.withMod]) hw
theorem vext (o : Fmt VecMod) : Statement (.vext o) := by
  intro w hw h
  simp only [encodeWord, Option.some.injEq] at h
  subst h
  exact decodeWord_packG _ _ _ o _ (by decide) (encVecMod_lt o.mod) (by decide) (by decide) (by decide)
    (by simp [decodeRow, decode24, decVecMod_enc, Fmt.withMod]) hw
theorem vins (o : Fmt VecMod) : Statement (.vins o) := by
  intro w hw h
  simp only [encodeWord, Option.some.injEq] at h
  subst h
  exact decodeWord_packG _ _ _ o _ (by decide) (encVecMod_lt o.mod) (by decide) (by decide) (by decide)
    (by simp [decodeRow, decode24, decVecMod_enc, Fmt.withMod]) hw
theorem vperm (o : Fmt VecMod) : Statement (.vperm o) := by
  intro w hw h
  simp only [encodeWord, Option.some.injEq] at h
  subst h
  exact decodeWord_packG _ _ _ o _ (by decide) (encVecMod_lt o.mod) (by decide) (by decide) (by decide)
    (by simp [decodeRow, decode24, decVecMod_enc, Fmt.withMod]) hw
theorem vslide (o : Fmt VecMod) : Statement (.vslide o) := by
  intro w hw h
  simp only [encodeWord, Option.some.injEq] at h
  subst h
  exact decodeWord_packG _ _ _ o _ (by decide) (encVecMod_lt o.mod) (by decide) (by decide) (by decide)
    (by simp [decodeRow, decode24, decVecMod_enc, Fmt.withMod]) hw
theorem viota (o : Fmt VecMod) : Statement (.viota o) := by
  intro w hw h
  simp only [encodeWord, Option.some.injEq] at h
  subst h
  exact decodeWord_packG _ _ _ o _ (by decide) (encVecMod_lt o.mod) (by decide) (by decide) (by decide)
    (by simp [decodeRow, decode24, decVecMod_enc, Fmt.withMod]) hw
theorem vsortkv (o : Fmt VecMod) : Statement (.vsortkv o) := by
  intro w hw h
  simp only [encodeWord, Option.some.injEq] at h
  subst h
  exact decodeWord_packG _ _ _ o _ (by decide) (encVecMod_lt o.mod) (by decide) (by decide) (by decide)
    (by simp [decodeRow, decode24, decVecMod_enc, Fmt.withMod]) hw
theorem vredadd (o : Fmt VecMod) : Statement (.vredadd o) := by
  intro w hw h
  simp only [encodeWord, Option.some.injEq] at h
  subst h
  exact decodeWord_packG _ _ _ o _ (by decide) (encVecMod_lt o.mod) (by decide) (by decide) (by decide)
    (by simp [decodeRow, decode25, decVecMod_enc, Fmt.withMod]) hw
theorem vredmin (o : Fmt VecMod) : Statement (.vredmin o) := by
  intro w hw h
  simp only [encodeWord, Option.some.injEq] at h
  subst h
  exact decodeWord_packG _ _ _ o _ (by decide) (encVecMod_lt o.mod) (by decide) (by decide) (by decide)
    (by simp [decodeRow, decode25, decVecMod_enc, Fmt.withMod]) hw
theorem vredmax (o : Fmt VecMod) : Statement (.vredmax o) := by
  intro w hw h
  simp only [encodeWord, Option.some.injEq] at h
  subst h
  exact decodeWord_packG _ _ _ o _ (by decide) (encVecMod_lt o.mod) (by decide) (by decide) (by decide)
    (by simp [decodeRow, decode25, decVecMod_enc, Fmt.withMod]) hw
theorem vpopm (o : Fmt VecMod) : Statement (.vpopm o) := by
  intro w hw h
  simp only [encodeWord, Option.some.injEq] at h
  subst h
  exact decodeWord_packG _ _ _ o _ (by decide) (encVecMod_lt o.mod) (by decide) (by decide) (by decide)
    (by simp [decodeRow, decode25, decVecMod_enc, Fmt.withMod]) hw
theorem mand (o : Fmt VecMod) : Statement (.mand o) := by
  intro w hw h
  simp only [encodeWord, Option.some.injEq] at h
  subst h
  exact decodeWord_packG _ _ _ o _ (by decide) (encVecMod_lt o.mod) (by decide) (by decide) (by decide)
    (by simp [decodeRow, decode26, decVecMod_enc, Fmt.withMod]) hw
theorem mor (o : Fmt VecMod) : Statement (.mor o) := by
  intro w hw h
  simp only [encodeWord, Option.some.injEq] at h
  subst h
  exact decodeWord_packG _ _ _ o _ (by decide) (encVecMod_lt o.mod) (by decide) (by decide) (by decide)
    (by simp [decodeRow, decode26, decVecMod_enc, Fmt.withMod]) hw
theorem mxor (o : Fmt VecMod) : Statement (.mxor o) := by
  intro w hw h
  simp only [encodeWord, Option.some.injEq] at h
  subst h
  exact decodeWord_packG _ _ _ o _ (by decide) (encVecMod_lt o.mod) (by decide) (by decide) (by decide)
    (by simp [decodeRow, decode26, decVecMod_enc, Fmt.withMod]) hw
theorem mnot (o : Fmt VecMod) : Statement (.mnot o) := by
  intro w hw h
  simp only [encodeWord, Option.some.injEq] at h
  subst h
  exact decodeWord_packG _ _ _ o _ (by decide) (encVecMod_lt o.mod) (by decide) (by decide) (by decide)
    (by simp [decodeRow, decode26, decVecMod_enc, Fmt.withMod]) hw
theorem mfirst (o : Fmt VecMod) : Statement (.mfirst o) := by
  intro w hw h
  simp only [encodeWord, Option.some.injEq] at h
  subst h
  exact decodeWord_packG _ _ _ o _ (by decide) (encVecMod_lt o.mod) (by decide) (by decide) (by decide)
    (by simp [decodeRow, decode26, decVecMod_enc, Fmt.withMod]) hw
theorem mma (o : Fmt MatMod) : Statement (.mma o) := by
  intro w hw h
  simp only [encodeWord, Option.some.injEq] at h
  subst h
  exact decodeWord_packG _ _ _ o _ (by decide) (encMatMod_lt o.mod) (by decide) (by decide) (by decide)
    (by simp [decodeRow, decode30, decMatMod_enc, Fmt.withMod]) hw
theorem mmv (o : Fmt MatMod) : Statement (.mmv o) := by
  intro w hw h
  simp only [encodeWord, Option.some.injEq] at h
  subst h
  exact decodeWord_packG _ _ _ o _ (by decide) (encMatMod_lt o.mod) (by decide) (by decide) (by decide)
    (by simp [decodeRow, decode30, decMatMod_enc, Fmt.withMod]) hw
theorem acz (o : Fmt MatMod) : Statement (.acz o) := by
  intro w hw h
  simp only [encodeWord, Option.some.injEq] at h
  subst h
  exact decodeWord_packG _ _ _ o _ (by decide) (encMatMod_lt o.mod) (by decide) (by decide) (by decide)
    (by simp [decodeRow, decode30, decMatMod_enc, Fmt.withMod]) hw
theorem acld (o : Fmt MatMod) : Statement (.acld o) := by
  intro w hw h
  simp only [encodeWord, Option.some.injEq] at h
  subst h
  exact decodeWord_packG _ _ _ o _ (by decide) (encMatMod_lt o.mod) (by decide) (by decide) (by decide)
    (by simp [decodeRow, decode30, decMatMod_enc, Fmt.withMod]) hw
theorem acst (o : Fmt MatMod) : Statement (.acst o) := by
  intro w hw h
  simp only [encodeWord, Option.some.injEq] at h
  subst h
  exact decodeWord_packG _ _ _ o _ (by decide) (encMatMod_lt o.mod) (by decide) (by decide) (by decide)
    (by simp [decodeRow, decode30, decMatMod_enc, Fmt.withMod]) hw
theorem mxseed (o : Fmt Unit) : Statement (.mxseed o) := by
  intro w hw h
  simp only [encodeWord, Option.some.injEq] at h
  subst h
  exact decodeWord_packG _ _ _ o _ (by decide) (by decide) (by decide) (by decide) (by decide)
    (by simp [decodeRow, decode30, decUnit_same, Fmt.withMod]) hw
theorem mxstat (o : Fmt ClrMod) : Statement (.mxstat o) := by
  intro w hw h
  simp only [encodeWord, Option.some.injEq] at h
  subst h
  exact decodeWord_packG _ _ _ o _ (by decide) (encClrMod_lt o.mod) (by decide) (by decide) (by decide)
    (by simp [decodeRow, decode30, decClrMod_enc, Fmt.withMod]) hw
theorem mxthr (o : Fmt Unit) : Statement (.mxthr o) := by
  intro w hw h
  simp only [encodeWord, Option.some.injEq] at h
  subst h
  exact decodeWord_packG _ _ _ o _ (by decide) (by decide) (by decide) (by decide) (by decide)
    (by simp [decodeRow, decode30, decUnit_same, Fmt.withMod]) hw
theorem topkc (o : Fmt TopkMod) : Statement (.topkc o) := by
  intro w hw h
  simp only [encodeWord, Option.some.injEq] at h
  subst h
  exact decodeWord_packG _ _ _ o _ (by decide) (encTopkMod_lt o.mod) (by decide) (by decide) (by decide)
    (by simp [decodeRow, decode30, decTopkMod_enc, Fmt.withMod]) hw
theorem xbmv (o : Fmt Unit) : Statement (.xbmv o) := by
  intro w hw h
  simp only [encodeWord, Option.some.injEq] at h
  subst h
  exact decodeWord_packG _ _ _ o _ (by decide) (by decide) (by decide) (by decide) (by decide)
    (by simp [decodeRow, decode34, decUnit_same, Fmt.withMod]) hw
theorem xbprog (o : Fmt Unit) : Statement (.xbprog o) := by
  intro w hw h
  simp only [encodeWord, Option.some.injEq] at h
  subst h
  exact decodeWord_packG _ _ _ o _ (by decide) (by decide) (by decide) (by decide) (by decide)
    (by simp [decodeRow, decode34, decUnit_same, Fmt.withMod]) hw
theorem xbver (o : Fmt Unit) : Statement (.xbver o) := by
  intro w hw h
  simp only [encodeWord, Option.some.injEq] at h
  subst h
  exact decodeWord_packG _ _ _ o _ (by decide) (by decide) (by decide) (by decide) (by decide)
    (by simp [decodeRow, decode34, decUnit_same, Fmt.withMod]) hw
theorem xbcal (o : Fmt Unit) : Statement (.xbcal o) := by
  intro w hw h
  simp only [encodeWord, Option.some.injEq] at h
  subst h
  exact decodeWord_packG _ _ _ o _ (by decide) (by decide) (by decide) (by decide) (by decide)
    (by simp [decodeRow, decode34, decUnit_same, Fmt.withMod]) hw
theorem xbrd (o : Fmt Unit) : Statement (.xbrd o) := by
  intro w hw h
  simp only [encodeWord, Option.some.injEq] at h
  subst h
  exact decodeWord_packG _ _ _ o _ (by decide) (by decide) (by decide) (by decide) (by decide)
    (by simp [decodeRow, decode34, decUnit_same, Fmt.withMod]) hw
theorem xbwr (o : Fmt Bool) : Statement (.xbwr o) := by
  intro w hw h
  simp only [encodeWord, Option.some.injEq] at h
  subst h
  exact decodeWord_packG _ _ _ o _ (by decide) (encBool_lt o.mod) (by decide) (by decide) (by decide)
    (by simp [decodeRow, decode34, decBool_enc, Fmt.withMod]) hw
theorem acpt (o : Fmt Unit) : Statement (.acpt o) := by
  intro w hw h
  simp only [encodeWord, Option.some.injEq] at h
  subst h
  exact decodeWord_packG _ _ _ o _ (by decide) (by decide) (by decide) (by decide) (by decide)
    (by simp [decodeRow, decode35, decUnit_same, Fmt.withMod]) hw
theorem btest (o : Fmt Unit) : Statement (.btest o) := by
  intro w hw h
  simp only [encodeWord, Option.some.injEq] at h
  subst h
  exact decodeWord_packG _ _ _ o _ (by decide) (by decide) (by decide) (by decide) (by decide)
    (by simp [decodeRow, decode35, decUnit_same, Fmt.withMod]) hw
theorem namo (o : Fmt StackMod) : Statement (.namo o) := by
  intro w hw h
  simp only [encodeWord, Option.some.injEq] at h
  subst h
  exact decodeWord_packG _ _ _ o _ (by decide) (encStackMod_lt o.mod) (by decide) (by decide) (by decide)
    (by simp [decodeRow, decode38, decStackMod_enc, Fmt.withMod]) hw
theorem namov (o : Fmt StackMod) : Statement (.namov o) := by
  intro w hw h
  simp only [encodeWord, Option.some.injEq] at h
  subst h
  exact decodeWord_packG _ _ _ o _ (by decide) (encStackMod_lt o.mod) (by decide) (by decide) (by decide)
    (by simp [decodeRow, decode38, decStackMod_enc, Fmt.withMod]) hw
theorem namor (o : Fmt StackMod) : Statement (.namor o) := by
  intro w hw h
  simp only [encodeWord, Option.some.injEq] at h
  subst h
  exact decodeWord_packG _ _ _ o _ (by decide) (encStackMod_lt o.mod) (by decide) (by decide) (by decide)
    (by simp [decodeRow, decode38, decStackMod_enc, Fmt.withMod]) hw
theorem bkmodeOn (o : Fmt Unit) : Statement (.bkmodeOn o) := by
  intro w hw h
  simp only [encodeWord, Option.some.injEq] at h
  subst h
  exact decodeWord_packG _ _ _ o _ (by decide) (by decide) (by decide) (by decide) (by decide)
    (by simp [decodeRow, decode39, decUnit_same, Fmt.withMod]) hw
theorem bkmodeOff (o : Fmt Unit) : Statement (.bkmodeOff o) := by
  intro w hw h
  simp only [encodeWord, Option.some.injEq] at h
  subst h
  exact decodeWord_packG _ _ _ o _ (by decide) (by decide) (by decide) (by decide) (by decide)
    (by simp [decodeRow, decode39, decUnit, Fmt.withMod]) hw
theorem bkldr (o : Fmt Unit) : Statement (.bkldr o) := by
  intro w hw h
  simp only [encodeWord, Option.some.injEq] at h
  subst h
  exact decodeWord_packG _ _ _ o _ (by decide) (by decide) (by decide) (by decide) (by decide)
    (by simp [decodeRow, decode39, decUnit_same, Fmt.withMod]) hw
theorem bkmac (o : Fmt BankMod) : Statement (.bkmac o) := by
  intro w hw h
  simp only [encodeWord, Option.some.injEq] at h
  subst h
  exact decodeWord_packG _ _ _ o _ (by decide) (encBankMod_lt o.mod) (by decide) (by decide) (by decide)
    (by simp [decodeRow, decode39, decBankMod_enc, Fmt.withMod]) hw
theorem bkrd (o : Fmt BankMod) : Statement (.bkrd o) := by
  intro w hw h
  simp only [encodeWord, Option.some.injEq] at h
  subst h
  exact decodeWord_packG _ _ _ o _ (by decide) (encBankMod_lt o.mod) (by decide) (by decide) (by decide)
    (by simp [decodeRow, decode39, decBankMod_enc, Fmt.withMod]) hw
theorem cpyIn (o : Fmt Unit) : Statement (.cpyIn o) := by
  intro w hw h
  simp only [encodeWord, Option.some.injEq] at h
  subst h
  exact decodeWord_packG _ _ _ o _ (by decide) (by decide) (by decide) (by decide) (by decide)
    (by simp [decodeRow, decode3C, decUnit_same, Fmt.withMod]) hw
theorem cpyOut (o : Fmt Unit) : Statement (.cpyOut o) := by
  intro w hw h
  simp only [encodeWord, Option.some.injEq] at h
  subst h
  exact decodeWord_packG _ _ _ o _ (by decide) (by decide) (by decide) (by decide) (by decide)
    (by simp [decodeRow, decode3C, decUnit, Fmt.withMod]) hw
theorem cpy2In (o : Fmt SwzMod) : Statement (.cpy2In o) := by
  intro w hw h
  simp only [encodeWord, Option.some.injEq] at h
  subst h
  exact decodeWord_packG _ _ _ o _ (by decide) (encSwzMod_lt 0 (by decide) o.mod) (by decide) (by decide) (by decide)
    (by simp [decodeRow, decode3C, decSwzMod_enc, Fmt.withMod]) hw
theorem cpy2Out (o : Fmt SwzMod) : Statement (.cpy2Out o) := by
  intro w hw h
  simp only [encodeWord, Option.some.injEq] at h
  subst h
  exact decodeWord_packG _ _ _ o _ (by decide) (encSwzMod_lt 1 (by decide) o.mod) (by decide) (by decide) (by decide)
    (by rcases o with ⟨_, _, _, _, _, ⟨_ | _⟩, _⟩ <;> simp [decodeRow, decode3C, decSwzMod, encSwzMod, Fmt.withMod]) hw
theorem cpyg (o : Fmt Unit) : Statement (.cpyg o) := by
  intro w hw h
  simp only [encodeWord, Option.some.injEq] at h
  subst h
  exact decodeWord_packG _ _ _ o _ (by decide) (by decide) (by decide) (by decide) (by decide)
    (by simp [decodeRow, decode3C, decUnit_same, Fmt.withMod]) hw
theorem cpys (o : Fmt Unit) : Statement (.cpys o) := by
  intro w hw h
  simp only [encodeWord, Option.some.injEq] at h
  subst h
  exact decodeWord_packG _ _ _ o _ (by decide) (by decide) (by decide) (by decide) (by decide)
    (by simp [decodeRow, decode3C, decUnit_same, Fmt.withMod]) hw
theorem cpyr (o : Fmt Unit) : Statement (.cpyr o) := by
  intro w hw h
  simp only [encodeWord, Option.some.injEq] at h
  subst h
  exact decodeWord_packG _ _ _ o _ (by decide) (by decide) (by decide) (by decide) (by decide)
    (by simp [decodeRow, decode3C, decUnit_same, Fmt.withMod]) hw
theorem gqw (o : Fmt Bool) : Statement (.gqw o) := by
  intro w hw h
  simp only [encodeWord, Option.some.injEq] at h
  subst h
  exact decodeWord_packG _ _ _ o _ (by decide) (encBool_lt o.mod) (by decide) (by decide) (by decide)
    (by simp [decodeRow, decode3E, decBool_enc, Fmt.withMod]) hw
theorem gqr (o : Fmt Bool) : Statement (.gqr o) := by
  intro w hw h
  simp only [encodeWord, Option.some.injEq] at h
  subst h
  exact decodeWord_packG _ _ _ o _ (by decide) (encBool_lt o.mod) (by decide) (by decide) (by decide)
    (by simp [decodeRow, decode3E, decBool_enc, Fmt.withMod]) hw
theorem oupd (o : Fmt Bool) : Statement (.oupd o) := by
  intro w hw h
  simp only [encodeWord, Option.some.injEq] at h
  subst h
  exact decodeWord_packG _ _ _ o _ (by decide) (encBool_lt o.mod) (by decide) (by decide) (by decide)
    (by simp [decodeRow, decode3E, decBool_enc, Fmt.withMod]) hw
theorem landing  : Statement (.landing ) := by intro w _ h; simp [encodeWord] at h
theorem emptyGroup  : Statement (.emptyGroup ) := by intro w _ h; simp [encodeWord] at h
theorem annulledGroup  : Statement (.annulledGroup ) := by intro w _ h; simp [encodeWord] at h
theorem lineFetch (t : ThreadId) (va : Nat) : Statement (.lineFetch t va) := by intro w _ h; simp [encodeWord] at h
theorem pageWalkEnd (t : ThreadId) : Statement (.pageWalkEnd t) := by intro w _ h; simp [encodeWord] at h
theorem interruptEntry (code : Nat) : Statement (.interruptEntry code) := by intro w _ h; simp [encodeWord] at h
theorem stopSpacingFault  : Statement (.stopSpacingFault ) := by intro w _ h; simp [encodeWord] at h
theorem matrixThresholdTrap  : Statement (.matrixThresholdTrap ) := by intro w _ h; simp [encodeWord] at h
theorem yieldExpire (t : ThreadId) : Statement (.yieldExpire t) := by intro w _ h; simp [encodeWord] at h
theorem breakpointMatch (bp : Nat) : Statement (.breakpointMatch bp) := by intro w _ h; simp [encodeWord] at h
theorem copyTransfer (op : Nat) : Statement (.copyTransfer op) := by intro w _ h; simp [encodeWord] at h
theorem copyResolve (op : Nat) : Statement (.copyResolve op) := by intro w _ h; simp [encodeWord] at h
theorem loadServe (op : Nat) : Statement (.loadServe op) := by intro w _ h; simp [encodeWord] at h
theorem l0MergeCommit (core : Nat) (ctx : Bool) : Statement (.l0MergeCommit core ctx) := by intro w _ h; simp [encodeWord] at h
theorem l1Move (cluster : Nat) (key : Nat) (ctx : Bool) : Statement (.l1Move cluster key ctx) := by intro w _ h; simp [encodeWord] at h
theorem l2Fold (path : Nat) (slice : Nat) : Statement (.l2Fold path slice) := by intro w _ h; simp [encodeWord] at h
theorem writeBack (key : Nat) : Statement (.writeBack key) := by intro w _ h; simp [encodeWord] at h
theorem writeBackCommit (key : Nat) : Statement (.writeBackCommit key) := by intro w _ h; simp [encodeWord] at h
theorem relCount (op : Nat) : Statement (.relCount op) := by intro w _ h; simp [encodeWord] at h
theorem mdrainComplete (op : Nat) : Statement (.mdrainComplete op) := by intro w _ h; simp [encodeWord] at h
theorem regionCensus (t : ThreadId) : Statement (.regionCensus t) := by intro w _ h; simp [encodeWord] at h
theorem rggetResolve (op : Nat) : Statement (.rggetResolve op) := by intro w _ h; simp [encodeWord] at h
theorem barrierArrive (t : ThreadId) : Statement (.barrierArrive t) := by intro w _ h; simp [encodeWord] at h
theorem barrierAgeRecord (obj : Nat) : Statement (.barrierAgeRecord obj) := by intro w _ h; simp [encodeWord] at h
theorem domainBarrierReport (id arrivals : Nat) (r : Option (BarrOp × BitVec 8)) (p : List Word) :
    Statement (.domainBarrierReport id arrivals r p) := by intro w _ h; simp [encodeWord] at h
theorem domainBarrierComplete (id : Nat) (payloads : List Word) : Statement (.domainBarrierComplete id payloads) := by intro w _ h; simp [encodeWord] at h
theorem matrixDispatch (quad : Nat) : Statement (.matrixDispatch quad) := by intro w _ h; simp [encodeWord] at h
theorem matrixOpDone (quad : Nat) : Statement (.matrixOpDone quad) := by intro w _ h; simp [encodeWord] at h
theorem streamBufferFill (op : Nat) : Statement (.streamBufferFill op) := by intro w _ h; simp [encodeWord] at h
theorem arrayCommandStart (arr : Nat) : Statement (.arrayCommandStart arr) := by intro w _ h; simp [encodeWord] at h
theorem arrayCommandDone (arr : Nat) : Statement (.arrayCommandDone arr) := by intro w _ h; simp [encodeWord] at h
theorem rowProgram (arr : Nat) : Statement (.rowProgram arr) := by intro w _ h; simp [encodeWord] at h
theorem stackCommandPerform (op : Nat) : Statement (.stackCommandPerform op) := by intro w _ h; simp [encodeWord] at h
theorem namorResolve (op : Nat) : Statement (.namorResolve op) := by intro w _ h; simp [encodeWord] at h
theorem bankCommandPerform (op : Nat) : Statement (.bankCommandPerform op) := by intro w _ h; simp [encodeWord] at h
theorem bankAccessPerform (op : Nat) : Statement (.bankAccessPerform op) := by intro w _ h; simp [encodeWord] at h
theorem refresh (pch : Nat) (bank : Nat) : Statement (.refresh pch bank) := by intro w _ h; simp [encodeWord] at h
theorem tlbinvDone  : Statement (.tlbinvDone ) := by intro w _ h; simp [encodeWord] at h
theorem hrevokeDone  : Statement (.hrevokeDone ) := by intro w _ h; simp [encodeWord] at h
theorem launchRead (task : Nat) : Statement (.launchRead task) := by intro w _ h; simp [encodeWord] at h
theorem placementEvaluate (part : Nat) : Statement (.placementEvaluate part) := by intro w _ h; simp [encodeWord] at h
theorem taskRetire (task : Nat) : Statement (.taskRetire task) := by intro w _ h; simp [encodeWord] at h
theorem checksum (task : Nat) : Statement (.checksum task) := by intro w _ h; simp [encodeWord] at h
theorem messageArrive (op : Nat) : Statement (.messageArrive op) := by intro w _ h; simp [encodeWord] at h
theorem sendAck (op : Nat) : Statement (.sendAck op) := by intro w _ h; simp [encodeWord] at h
theorem stealProbe (op : Nat) : Statement (.stealProbe op) := by intro w _ h; simp [encodeWord] at h
theorem tileArrive (op : Nat) : Statement (.tileArrive op) := by intro w _ h; simp [encodeWord] at h
theorem tileMatch (op : Nat) : Statement (.tileMatch op) := by intro w _ h; simp [encodeWord] at h
theorem swapExchange (part : Nat) : Statement (.swapExchange part) := by intro w _ h; simp [encodeWord] at h
theorem bkctxComplete (pch : Nat) : Statement (.bkctxComplete pch) := by intro w _ h; simp [encodeWord] at h
theorem laneRecord (part : Nat) (ctx : Bool) (fatal : Bool) (record : BitVec 512) : Statement (.laneRecord part ctx fatal record) := by intro w _ h; simp [encodeWord] at h
theorem traceFunnelWrite (cluster : Nat) : Statement (.traceFunnelWrite cluster) := by intro w _ h; simp [encodeWord] at h
theorem traceTimestamp (core : Nat) : Statement (.traceTimestamp core) := by intro w _ h; simp [encodeWord] at h
theorem traceLoss (core : Nat) : Statement (.traceLoss core) := by intro w _ h; simp [encodeWord] at h
theorem remoteAck (op : Nat) : Statement (.remoteAck op) := by intro w _ h; simp [encodeWord] at h
theorem flagResend (op : Nat) (dev : Nat) : Statement (.flagResend op dev) := by intro w _ h; simp [encodeWord] at h
theorem cycleCompareMatch (t : ThreadId) : Statement (.cycleCompareMatch t) := by intro w _ h; simp [encodeWord] at h
theorem mextComplete  : Statement (.mextComplete ) := by intro w _ h; simp [encodeWord] at h
theorem unassignedEncoding (pc : Word) : Statement (.unassignedEncoding pc) := by intro w _ h; simp [encodeWord] at h
theorem instructionFetchFault (cause : Nat) (va : Word) : Statement (.instructionFetchFault cause va) := by intro w _ h; simp [encodeWord] at h
theorem patrolScrub (block : Nat) (uncorrectable : Bool) (syndrome : Word) : Statement (.patrolScrub block uncorrectable syndrome) := by intro w _ h; simp [encodeWord] at h
theorem errorEventLog (source : ErrSource) (time : Nat) : Statement (.errorEventLog source time) := by intro w _ h; simp [encodeWord] at h
theorem errorEventExpire (source : ErrSource) (time : Nat) : Statement (.errorEventExpire source time) := by intro w _ h; simp [encodeWord] at h
theorem frameRetire (frame : Nat) (pages : List Nat) : Statement (.frameRetire frame pages) := by intro w _ h; simp [encodeWord] at h
theorem memcfgWrite (value : Word) : Statement (.memcfgWrite value) := by intro w _ h; simp [encodeWord] at h
theorem tlbinv (value : Word) : Statement (.tlbinv value) := by intro w _ h; simp [encodeWord] at h
theorem hrevoke (value : Word) : Statement (.hrevoke value) := by intro w _ h; simp [encodeWord] at h
theorem regcfgWrite (id : Nat) (record : BitVec 128) : Statement (.regcfgWrite id record) := by intro w _ h; simp [encodeWord] at h
theorem barageWrite (value : Word) : Statement (.barageWrite value) := by intro w _ h; simp [encodeWord] at h
theorem partcfgWrite (part : Nat) (value : Word) : Statement (.partcfgWrite part value) := by intro w _ h; simp [encodeWord] at h
theorem lportWrite (part : Nat) (ctx : Bool) (value : Word) : Statement (.lportWrite part ctx value) := by intro w _ h; simp [encodeWord] at h
theorem swapGo (part : Nat) : Statement (.swapGo part) := by intro w _ h; simp [encodeWord] at h
theorem preempt (value : Word) : Statement (.preempt value) := by intro w _ h; simp [encodeWord] at h
theorem doorbell (core : Nat) (thr : Nat) (value : Word) : Statement (.doorbell core thr value) := by intro w _ h; simp [encodeWord] at h
theorem bkctxSave (pch : Nat) (area : Word) : Statement (.bkctxSave pch area) := by intro w _ h; simp [encodeWord] at h
theorem bkctxRestore (pch : Nat) (area : Word) : Statement (.bkctxRestore pch area) := by intro w _ h; simp [encodeWord] at h
theorem bkctxDiscard (pch : Nat) : Statement (.bkctxDiscard pch) := by intro w _ h; simp [encodeWord] at h
theorem dbgctlHalt (core : Nat) : Statement (.dbgctlHalt core) := by intro w _ h; simp [encodeWord] at h
theorem dbgctlSoft (core : Nat) (threads : BitVec 8) : Statement (.dbgctlSoft core threads) := by intro w _ h; simp [encodeWord] at h
theorem dbgctlResume (core : Nat) : Statement (.dbgctlResume core) := by intro w _ h; simp [encodeWord] at h
theorem dbgvalWrite (core : Nat) (value : Word) : Statement (.dbgvalWrite core value) := by intro w _ h; simp [encodeWord] at h
theorem mextExtend (k : Word) : Statement (.mextExtend k) := by intro w _ h; simp [encodeWord] at h
theorem domidWrite (value : Word) : Statement (.domidWrite value) := by intro w _ h; simp [encodeWord] at h
theorem klstatWrite (port : Nat) (value : Word) : Statement (.klstatWrite port value) := by intro w _ h; simp [encodeWord] at h
theorem flitReceive (port : Nat) (crcOk : Bool) (packet : Packet) : Statement (.flitReceive port crcOk packet) := by intro w _ h; simp [encodeWord] at h
theorem flagReceive (dev : Nat) (core : Nat) (thr : Nat) (seq : BitVec 32) (obj : Nat) : Statement (.flagReceive dev core thr seq obj) := by intro w _ h; simp [encodeWord] at h
theorem timeBeat (time : Word) : Statement (.timeBeat time) := by intro w _ h; simp [encodeWord] at h
theorem tlockLoss  : Statement (.tlockLoss ) := by intro w _ h; simp [encodeWord] at h
theorem thermalHot (die : Nat) (code : BitVec 16) : Statement (.thermalHot die code) := by intro w _ h; simp [encodeWord] at h
theorem thermalTrip  : Statement (.thermalTrip ) := by intro w _ h; simp [encodeWord] at h
theorem powerUp  : Statement (.powerUp ) := by intro w _ h; simp [encodeWord] at h
theorem railFail  : Statement (.railFail ) := by intro w _ h; simp [encodeWord] at h
theorem registerWrite (pa : Nat) (value : Word) : Statement (.registerWrite pa value) := by intro w _ h; simp [encodeWord] at h
theorem stewardAccess (hart : Nat) (place : Nat) (op : StewardOp) : Statement (.stewardAccess hart place op) := by intro w _ h; simp [encodeWord] at h
theorem portDown (port : Nat) : Statement (.portDown port) := by intro w _ h; simp [encodeWord] at h
theorem taskRemove (task : Nat) : Statement (.taskRemove task) := by intro w _ h; simp [encodeWord] at h

end Sys2Proof.Laws.RoundTrip
end

