-- ==== Sys2Proof/Laws/State.lean ====
section
/-!
SUPPORT. One lemma per field per update of the state, each true by unfolding.
-/
namespace Sys2Proof.Machine

/-! The update of one thread. -/

@[simp] theorem State.setThread_cur (s : State) (t : ThreadId) (v : Thread) : (s.setThread t v).cur = s.cur := rfl
@[simp] theorem State.setThread_iss (s : State) (t : ThreadId) (v : Thread) : (s.setThread t v).iss = s.iss := rfl
@[simp] theorem State.setThread_walks (s : State) (t : ThreadId) (v : Thread) : (s.setThread t v).walks = s.walks := rfl
@[simp] theorem State.setThread_ctxs (s : State) (t : ThreadId) (v : Thread) : (s.setThread t v).ctxs = s.ctxs := rfl
@[simp] theorem State.setThread_cores (s : State) (t : ThreadId) (v : Thread) : (s.setThread t v).cores = s.cores := rfl
@[simp] theorem State.setThread_clusters (s : State) (t : ThreadId) (v : Thread) : (s.setThread t v).clusters = s.clusters := rfl
@[simp] theorem State.setThread_quads (s : State) (t : ThreadId) (v : Thread) : (s.setThread t v).quads = s.quads := rfl
@[simp] theorem State.setThread_arrays (s : State) (t : ThreadId) (v : Thread) : (s.setThread t v).arrays = s.arrays := rfl
@[simp] theorem State.setThread_hbm (s : State) (t : ThreadId) (v : Thread) : (s.setThread t v).hbm = s.hbm := rfl
@[simp] theorem State.setThread_blockTags (s : State) (t : ThreadId) (v : Thread) : (s.setThread t v).blockTags = s.blockTags := rfl
@[simp] theorem State.setThread_weak (s : State) (t : ThreadId) (v : Thread) : (s.setThread t v).weak = s.weak := rfl
@[simp] theorem State.setThread_l2 (s : State) (t : ThreadId) (v : Thread) : (s.setThread t v).l2 = s.l2 := rfl
@[simp] theorem State.setThread_wbuf (s : State) (t : ThreadId) (v : Thread) : (s.setThread t v).wbuf = s.wbuf := rfl
@[simp] theorem State.setThread_paths (s : State) (t : ThreadId) (v : Thread) : (s.setThread t v).paths = s.paths := rfl
@[simp] theorem State.setThread_serial (s : State) (t : ThreadId) (v : Thread) : (s.setThread t v).serial = s.serial := rfl
@[simp] theorem State.setThread_regions (s : State) (t : ThreadId) (v : Thread) : (s.setThread t v).regions = s.regions := rfl
@[simp] theorem State.setThread_regionLock (s : State) (t : ThreadId) (v : Thread) : (s.setThread t v).regionLock = s.regionLock := rfl
@[simp] theorem State.setThread_ops (s : State) (t : ThreadId) (v : Thread) : (s.setThread t v).ops = s.ops := rfl
@[simp] theorem State.setThread_nextOp (s : State) (t : ThreadId) (v : Thread) : (s.setThread t v).nextOp = s.nextOp := rfl
@[simp] theorem State.setThread_pchs (s : State) (t : ThreadId) (v : Thread) : (s.setThread t v).pchs = s.pchs := rfl
@[simp] theorem State.setThread_syncs (s : State) (t : ThreadId) (v : Thread) : (s.setThread t v).syncs = s.syncs := rfl
@[simp] theorem State.setThread_barriers (s : State) (t : ThreadId) (v : Thread) : (s.setThread t v).barriers = s.barriers := rfl
@[simp] theorem State.setThread_domReports (s : State) (t : ThreadId) (v : Thread) : (s.setThread t v).domReports = s.domReports := rfl
@[simp] theorem State.setThread_tiles (s : State) (t : ThreadId) (v : Thread) : (s.setThread t v).tiles = s.tiles := rfl
@[simp] theorem State.setThread_gqcfg (s : State) (t : ThreadId) (v : Thread) : (s.setThread t v).gqcfg = s.gqcfg := rfl
@[simp] theorem State.setThread_tasks (s : State) (t : ThreadId) (v : Thread) : (s.setThread t v).tasks = s.tasks := rfl
@[simp] theorem State.setThread_nextTask (s : State) (t : ThreadId) (v : Thread) : (s.setThread t v).nextTask = s.nextTask := rfl
@[simp] theorem State.setThread_parts (s : State) (t : ThreadId) (v : Thread) : (s.setThread t v).parts = s.parts := rfl
@[simp] theorem State.setThread_pctxs (s : State) (t : ThreadId) (v : Thread) : (s.setThread t v).pctxs = s.pctxs := rfl
@[simp] theorem State.setThread_records (s : State) (t : ThreadId) (v : Thread) : (s.setThread t v).records = s.records := rfl
@[simp] theorem State.setThread_stewardLog (s : State) (t : ThreadId) (v : Thread) : (s.setThread t v).stewardLog = s.stewardLog := rfl
@[simp] theorem State.setThread_errors (s : State) (t : ThreadId) (v : Thread) : (s.setThread t v).errors = s.errors := rfl
@[simp] theorem State.setThread_lasting (s : State) (t : ThreadId) (v : Thread) : (s.setThread t v).lasting = s.lasting := rfl
@[simp] theorem State.setThread_retired (s : State) (t : ThreadId) (v : Thread) : (s.setThread t v).retired = s.retired := rfl
@[simp] theorem State.setThread_outCores (s : State) (t : ThreadId) (v : Thread) : (s.setThread t v).outCores = s.outCores := rfl
@[simp] theorem State.setThread_cycle (s : State) (t : ThreadId) (v : Thread) : (s.setThread t v).cycle = s.cycle := rfl
@[simp] theorem State.setThread_timeOff (s : State) (t : ThreadId) (v : Thread) : (s.setThread t v).timeOff = s.timeOff := rfl
@[simp] theorem State.setThread_sinceFix (s : State) (t : ThreadId) (v : Thread) : (s.setThread t v).sinceFix = s.sinceFix := rfl
@[simp] theorem State.setThread_sinceBeat (s : State) (t : ThreadId) (v : Thread) : (s.setThread t v).sinceBeat = s.sinceBeat := rfl
@[simp] theorem State.setThread_memcfg (s : State) (t : ThreadId) (v : Thread) : (s.setThread t v).memcfg = s.memcfg := rfl
@[simp] theorem State.setThread_tlbinv (s : State) (t : ThreadId) (v : Thread) : (s.setThread t v).tlbinv = s.tlbinv := rfl
@[simp] theorem State.setThread_tlbinva (s : State) (t : ThreadId) (v : Thread) : (s.setThread t v).tlbinva = s.tlbinva := rfl
@[simp] theorem State.setThread_hrevoke (s : State) (t : ThreadId) (v : Thread) : (s.setThread t v).hrevoke = s.hrevoke := rfl
@[simp] theorem State.setThread_barage (s : State) (t : ThreadId) (v : Thread) : (s.setThread t v).barage = s.barage := rfl
@[simp] theorem State.setThread_dbarcnt (s : State) (t : ThreadId) (v : Thread) : (s.setThread t v).dbarcnt = s.dbarcnt := rfl
@[simp] theorem State.setThread_ports (s : State) (t : ThreadId) (v : Thread) : (s.setThread t v).ports = s.ports := rfl
@[simp] theorem State.setThread_domid (s : State) (t : ThreadId) (v : Thread) : (s.setThread t v).domid = s.domid := rfl
@[simp] theorem State.setThread_flagsSeen (s : State) (t : ThreadId) (v : Thread) : (s.setThread t v).flagsSeen = s.flagsSeen := rfl
@[simp] theorem State.setThread_packetsSeen (s : State) (t : ThreadId) (v : Thread) : (s.setThread t v).packetsSeen = s.packetsSeen := rfl
@[simp] theorem State.setThread_interrupts (s : State) (t : ThreadId) (v : Thread) : (s.setThread t v).interrupts = s.interrupts := rfl
@[simp] theorem State.setThread_nor (s : State) (t : ThreadId) (v : Thread) : (s.setThread t v).nor = s.nor := rfl
@[simp] theorem State.setThread_ufs (s : State) (t : ThreadId) (v : Thread) : (s.setThread t v).ufs = s.ufs := rfl
@[simp] theorem State.setThread_bootStage (s : State) (t : ThreadId) (v : Thread) : (s.setThread t v).bootStage = s.bootStage := rfl
@[simp] theorem State.setThread_bootErr (s : State) (t : ThreadId) (v : Thread) : (s.setThread t v).bootErr = s.bootErr := rfl
@[simp] theorem State.setThread_bootFailed (s : State) (t : ThreadId) (v : Thread) : (s.setThread t v).bootFailed = s.bootFailed := rfl
@[simp] theorem State.setThread_rootPort (s : State) (t : ThreadId) (v : Thread) : (s.setThread t v).rootPort = s.rootPort := rfl
@[simp] theorem State.setThread_meas (s : State) (t : ThreadId) (v : Thread) : (s.setThread t v).meas = s.meas := rfl
@[simp] theorem State.setThread_digest (s : State) (t : ThreadId) (v : Thread) : (s.setThread t v).digest = s.digest := rfl
@[simp] theorem State.setThread_mext (s : State) (t : ThreadId) (v : Thread) : (s.setThread t v).mext = s.mext := rfl
@[simp] theorem State.setThread_hot (s : State) (t : ThreadId) (v : Thread) : (s.setThread t v).hot = s.hot := rfl
@[simp] theorem State.setThread_pwr (s : State) (t : ThreadId) (v : Thread) : (s.setThread t v).pwr = s.pwr := rfl
@[simp] theorem State.setThread_tdie0 (s : State) (t : ThreadId) (v : Thread) : (s.setThread t v).tdie0 = s.tdie0 := rfl
@[simp] theorem State.setThread_tdie1 (s : State) (t : ThreadId) (v : Thread) : (s.setThread t v).tdie1 = s.tdie1 := rfl
@[simp] theorem State.setThread_powered (s : State) (t : ThreadId) (v : Thread) : (s.setThread t v).powered = s.powered := rfl
@[simp] theorem State.setThread_harts (s : State) (t : ThreadId) (v : Thread) : (s.setThread t v).harts = s.harts := rfl
@[simp] theorem State.setThread_svns (s : State) (t : ThreadId) (v : Thread) : (s.setThread t v).svns = s.svns := rfl
@[simp] theorem State.setThread_etherUp (s : State) (t : ThreadId) (v : Thread) : (s.setThread t v).etherUp = s.etherUp := rfl
@[simp] theorem State.setThread_attested (s : State) (t : ThreadId) (v : Thread) : (s.setThread t v).attested = s.attested := rfl
@[simp] theorem State.setThread_fenced (s : State) (t : ThreadId) (v : Thread) : (s.setThread t v).fenced = s.fenced := rfl
@[simp] theorem State.setThread_inputs (s : State) (t : ThreadId) (v : Thread) : (s.setThread t v).inputs = s.inputs := rfl
@[simp] theorem State.setThread_tick (s : State) (t : ThreadId) (v : Thread) : (s.setThread t v).tick = s.tick := rfl

/-! The update of one core context. -/

@[simp] theorem State.setCoreCtx_cur (s : State) (n : Nat) (c : Bool) (v : CoreCtx) : (s.setCoreCtx n c v).cur = s.cur := rfl
@[simp] theorem State.setCoreCtx_iss (s : State) (n : Nat) (c : Bool) (v : CoreCtx) : (s.setCoreCtx n c v).iss = s.iss := rfl
@[simp] theorem State.setCoreCtx_threads (s : State) (n : Nat) (c : Bool) (v : CoreCtx) : (s.setCoreCtx n c v).threads = s.threads := rfl
@[simp] theorem State.setCoreCtx_walks (s : State) (n : Nat) (c : Bool) (v : CoreCtx) : (s.setCoreCtx n c v).walks = s.walks := rfl
@[simp] theorem State.setCoreCtx_cores (s : State) (n : Nat) (c : Bool) (v : CoreCtx) : (s.setCoreCtx n c v).cores = s.cores := rfl
@[simp] theorem State.setCoreCtx_clusters (s : State) (n : Nat) (c : Bool) (v : CoreCtx) : (s.setCoreCtx n c v).clusters = s.clusters := rfl
@[simp] theorem State.setCoreCtx_quads (s : State) (n : Nat) (c : Bool) (v : CoreCtx) : (s.setCoreCtx n c v).quads = s.quads := rfl
@[simp] theorem State.setCoreCtx_arrays (s : State) (n : Nat) (c : Bool) (v : CoreCtx) : (s.setCoreCtx n c v).arrays = s.arrays := rfl
@[simp] theorem State.setCoreCtx_hbm (s : State) (n : Nat) (c : Bool) (v : CoreCtx) : (s.setCoreCtx n c v).hbm = s.hbm := rfl
@[simp] theorem State.setCoreCtx_blockTags (s : State) (n : Nat) (c : Bool) (v : CoreCtx) : (s.setCoreCtx n c v).blockTags = s.blockTags := rfl
@[simp] theorem State.setCoreCtx_weak (s : State) (n : Nat) (c : Bool) (v : CoreCtx) : (s.setCoreCtx n c v).weak = s.weak := rfl
@[simp] theorem State.setCoreCtx_l2 (s : State) (n : Nat) (c : Bool) (v : CoreCtx) : (s.setCoreCtx n c v).l2 = s.l2 := rfl
@[simp] theorem State.setCoreCtx_wbuf (s : State) (n : Nat) (c : Bool) (v : CoreCtx) : (s.setCoreCtx n c v).wbuf = s.wbuf := rfl
@[simp] theorem State.setCoreCtx_paths (s : State) (n : Nat) (c : Bool) (v : CoreCtx) : (s.setCoreCtx n c v).paths = s.paths := rfl
@[simp] theorem State.setCoreCtx_serial (s : State) (n : Nat) (c : Bool) (v : CoreCtx) : (s.setCoreCtx n c v).serial = s.serial := rfl
@[simp] theorem State.setCoreCtx_regions (s : State) (n : Nat) (c : Bool) (v : CoreCtx) : (s.setCoreCtx n c v).regions = s.regions := rfl
@[simp] theorem State.setCoreCtx_regionLock (s : State) (n : Nat) (c : Bool) (v : CoreCtx) : (s.setCoreCtx n c v).regionLock = s.regionLock := rfl
@[simp] theorem State.setCoreCtx_ops (s : State) (n : Nat) (c : Bool) (v : CoreCtx) : (s.setCoreCtx n c v).ops = s.ops := rfl
@[simp] theorem State.setCoreCtx_nextOp (s : State) (n : Nat) (c : Bool) (v : CoreCtx) : (s.setCoreCtx n c v).nextOp = s.nextOp := rfl
@[simp] theorem State.setCoreCtx_pchs (s : State) (n : Nat) (c : Bool) (v : CoreCtx) : (s.setCoreCtx n c v).pchs = s.pchs := rfl
@[simp] theorem State.setCoreCtx_syncs (s : State) (n : Nat) (c : Bool) (v : CoreCtx) : (s.setCoreCtx n c v).syncs = s.syncs := rfl
@[simp] theorem State.setCoreCtx_barriers (s : State) (n : Nat) (c : Bool) (v : CoreCtx) : (s.setCoreCtx n c v).barriers = s.barriers := rfl
@[simp] theorem State.setCoreCtx_domReports (s : State) (n : Nat) (c : Bool) (v : CoreCtx) : (s.setCoreCtx n c v).domReports = s.domReports := rfl
@[simp] theorem State.setCoreCtx_tiles (s : State) (n : Nat) (c : Bool) (v : CoreCtx) : (s.setCoreCtx n c v).tiles = s.tiles := rfl
@[simp] theorem State.setCoreCtx_gqcfg (s : State) (n : Nat) (c : Bool) (v : CoreCtx) : (s.setCoreCtx n c v).gqcfg = s.gqcfg := rfl
@[simp] theorem State.setCoreCtx_tasks (s : State) (n : Nat) (c : Bool) (v : CoreCtx) : (s.setCoreCtx n c v).tasks = s.tasks := rfl
@[simp] theorem State.setCoreCtx_nextTask (s : State) (n : Nat) (c : Bool) (v : CoreCtx) : (s.setCoreCtx n c v).nextTask = s.nextTask := rfl
@[simp] theorem State.setCoreCtx_parts (s : State) (n : Nat) (c : Bool) (v : CoreCtx) : (s.setCoreCtx n c v).parts = s.parts := rfl
@[simp] theorem State.setCoreCtx_pctxs (s : State) (n : Nat) (c : Bool) (v : CoreCtx) : (s.setCoreCtx n c v).pctxs = s.pctxs := rfl
@[simp] theorem State.setCoreCtx_records (s : State) (n : Nat) (c : Bool) (v : CoreCtx) : (s.setCoreCtx n c v).records = s.records := rfl
@[simp] theorem State.setCoreCtx_stewardLog (s : State) (n : Nat) (c : Bool) (v : CoreCtx) : (s.setCoreCtx n c v).stewardLog = s.stewardLog := rfl
@[simp] theorem State.setCoreCtx_errors (s : State) (n : Nat) (c : Bool) (v : CoreCtx) : (s.setCoreCtx n c v).errors = s.errors := rfl
@[simp] theorem State.setCoreCtx_lasting (s : State) (n : Nat) (c : Bool) (v : CoreCtx) : (s.setCoreCtx n c v).lasting = s.lasting := rfl
@[simp] theorem State.setCoreCtx_retired (s : State) (n : Nat) (c : Bool) (v : CoreCtx) : (s.setCoreCtx n c v).retired = s.retired := rfl
@[simp] theorem State.setCoreCtx_outCores (s : State) (n : Nat) (c : Bool) (v : CoreCtx) : (s.setCoreCtx n c v).outCores = s.outCores := rfl
@[simp] theorem State.setCoreCtx_cycle (s : State) (n : Nat) (c : Bool) (v : CoreCtx) : (s.setCoreCtx n c v).cycle = s.cycle := rfl
@[simp] theorem State.setCoreCtx_timeOff (s : State) (n : Nat) (c : Bool) (v : CoreCtx) : (s.setCoreCtx n c v).timeOff = s.timeOff := rfl
@[simp] theorem State.setCoreCtx_sinceFix (s : State) (n : Nat) (c : Bool) (v : CoreCtx) : (s.setCoreCtx n c v).sinceFix = s.sinceFix := rfl
@[simp] theorem State.setCoreCtx_sinceBeat (s : State) (n : Nat) (c : Bool) (v : CoreCtx) : (s.setCoreCtx n c v).sinceBeat = s.sinceBeat := rfl
@[simp] theorem State.setCoreCtx_memcfg (s : State) (n : Nat) (c : Bool) (v : CoreCtx) : (s.setCoreCtx n c v).memcfg = s.memcfg := rfl
@[simp] theorem State.setCoreCtx_tlbinv (s : State) (n : Nat) (c : Bool) (v : CoreCtx) : (s.setCoreCtx n c v).tlbinv = s.tlbinv := rfl
@[simp] theorem State.setCoreCtx_tlbinva (s : State) (n : Nat) (c : Bool) (v : CoreCtx) : (s.setCoreCtx n c v).tlbinva = s.tlbinva := rfl
@[simp] theorem State.setCoreCtx_hrevoke (s : State) (n : Nat) (c : Bool) (v : CoreCtx) : (s.setCoreCtx n c v).hrevoke = s.hrevoke := rfl
@[simp] theorem State.setCoreCtx_barage (s : State) (n : Nat) (c : Bool) (v : CoreCtx) : (s.setCoreCtx n c v).barage = s.barage := rfl
@[simp] theorem State.setCoreCtx_dbarcnt (s : State) (n : Nat) (c : Bool) (v : CoreCtx) : (s.setCoreCtx n c v).dbarcnt = s.dbarcnt := rfl
@[simp] theorem State.setCoreCtx_ports (s : State) (n : Nat) (c : Bool) (v : CoreCtx) : (s.setCoreCtx n c v).ports = s.ports := rfl
@[simp] theorem State.setCoreCtx_domid (s : State) (n : Nat) (c : Bool) (v : CoreCtx) : (s.setCoreCtx n c v).domid = s.domid := rfl
@[simp] theorem State.setCoreCtx_flagsSeen (s : State) (n : Nat) (c : Bool) (v : CoreCtx) : (s.setCoreCtx n c v).flagsSeen = s.flagsSeen := rfl
@[simp] theorem State.setCoreCtx_packetsSeen (s : State) (n : Nat) (c : Bool) (v : CoreCtx) : (s.setCoreCtx n c v).packetsSeen = s.packetsSeen := rfl
@[simp] theorem State.setCoreCtx_interrupts (s : State) (n : Nat) (c : Bool) (v : CoreCtx) : (s.setCoreCtx n c v).interrupts = s.interrupts := rfl
@[simp] theorem State.setCoreCtx_nor (s : State) (n : Nat) (c : Bool) (v : CoreCtx) : (s.setCoreCtx n c v).nor = s.nor := rfl
@[simp] theorem State.setCoreCtx_ufs (s : State) (n : Nat) (c : Bool) (v : CoreCtx) : (s.setCoreCtx n c v).ufs = s.ufs := rfl
@[simp] theorem State.setCoreCtx_bootStage (s : State) (n : Nat) (c : Bool) (v : CoreCtx) : (s.setCoreCtx n c v).bootStage = s.bootStage := rfl
@[simp] theorem State.setCoreCtx_bootErr (s : State) (n : Nat) (c : Bool) (v : CoreCtx) : (s.setCoreCtx n c v).bootErr = s.bootErr := rfl
@[simp] theorem State.setCoreCtx_bootFailed (s : State) (n : Nat) (c : Bool) (v : CoreCtx) : (s.setCoreCtx n c v).bootFailed = s.bootFailed := rfl
@[simp] theorem State.setCoreCtx_rootPort (s : State) (n : Nat) (c : Bool) (v : CoreCtx) : (s.setCoreCtx n c v).rootPort = s.rootPort := rfl
@[simp] theorem State.setCoreCtx_meas (s : State) (n : Nat) (c : Bool) (v : CoreCtx) : (s.setCoreCtx n c v).meas = s.meas := rfl
@[simp] theorem State.setCoreCtx_digest (s : State) (n : Nat) (c : Bool) (v : CoreCtx) : (s.setCoreCtx n c v).digest = s.digest := rfl
@[simp] theorem State.setCoreCtx_mext (s : State) (n : Nat) (c : Bool) (v : CoreCtx) : (s.setCoreCtx n c v).mext = s.mext := rfl
@[simp] theorem State.setCoreCtx_hot (s : State) (n : Nat) (c : Bool) (v : CoreCtx) : (s.setCoreCtx n c v).hot = s.hot := rfl
@[simp] theorem State.setCoreCtx_pwr (s : State) (n : Nat) (c : Bool) (v : CoreCtx) : (s.setCoreCtx n c v).pwr = s.pwr := rfl
@[simp] theorem State.setCoreCtx_tdie0 (s : State) (n : Nat) (c : Bool) (v : CoreCtx) : (s.setCoreCtx n c v).tdie0 = s.tdie0 := rfl
@[simp] theorem State.setCoreCtx_tdie1 (s : State) (n : Nat) (c : Bool) (v : CoreCtx) : (s.setCoreCtx n c v).tdie1 = s.tdie1 := rfl
@[simp] theorem State.setCoreCtx_powered (s : State) (n : Nat) (c : Bool) (v : CoreCtx) : (s.setCoreCtx n c v).powered = s.powered := rfl
@[simp] theorem State.setCoreCtx_harts (s : State) (n : Nat) (c : Bool) (v : CoreCtx) : (s.setCoreCtx n c v).harts = s.harts := rfl
@[simp] theorem State.setCoreCtx_svns (s : State) (n : Nat) (c : Bool) (v : CoreCtx) : (s.setCoreCtx n c v).svns = s.svns := rfl
@[simp] theorem State.setCoreCtx_etherUp (s : State) (n : Nat) (c : Bool) (v : CoreCtx) : (s.setCoreCtx n c v).etherUp = s.etherUp := rfl
@[simp] theorem State.setCoreCtx_attested (s : State) (n : Nat) (c : Bool) (v : CoreCtx) : (s.setCoreCtx n c v).attested = s.attested := rfl
@[simp] theorem State.setCoreCtx_fenced (s : State) (n : Nat) (c : Bool) (v : CoreCtx) : (s.setCoreCtx n c v).fenced = s.fenced := rfl
@[simp] theorem State.setCoreCtx_inputs (s : State) (n : Nat) (c : Bool) (v : CoreCtx) : (s.setCoreCtx n c v).inputs = s.inputs := rfl
@[simp] theorem State.setCoreCtx_tick (s : State) (n : Nat) (c : Bool) (v : CoreCtx) : (s.setCoreCtx n c v).tick = s.tick := rfl

/-! The update of one core. -/

@[simp] theorem State.setCore_cur (s : State) (n : Nat) (v : Core) : (s.setCore n v).cur = s.cur := rfl
@[simp] theorem State.setCore_iss (s : State) (n : Nat) (v : Core) : (s.setCore n v).iss = s.iss := rfl
@[simp] theorem State.setCore_threads (s : State) (n : Nat) (v : Core) : (s.setCore n v).threads = s.threads := rfl
@[simp] theorem State.setCore_walks (s : State) (n : Nat) (v : Core) : (s.setCore n v).walks = s.walks := rfl
@[simp] theorem State.setCore_ctxs (s : State) (n : Nat) (v : Core) : (s.setCore n v).ctxs = s.ctxs := rfl
@[simp] theorem State.setCore_clusters (s : State) (n : Nat) (v : Core) : (s.setCore n v).clusters = s.clusters := rfl
@[simp] theorem State.setCore_quads (s : State) (n : Nat) (v : Core) : (s.setCore n v).quads = s.quads := rfl
@[simp] theorem State.setCore_arrays (s : State) (n : Nat) (v : Core) : (s.setCore n v).arrays = s.arrays := rfl
@[simp] theorem State.setCore_hbm (s : State) (n : Nat) (v : Core) : (s.setCore n v).hbm = s.hbm := rfl
@[simp] theorem State.setCore_blockTags (s : State) (n : Nat) (v : Core) : (s.setCore n v).blockTags = s.blockTags := rfl
@[simp] theorem State.setCore_weak (s : State) (n : Nat) (v : Core) : (s.setCore n v).weak = s.weak := rfl
@[simp] theorem State.setCore_l2 (s : State) (n : Nat) (v : Core) : (s.setCore n v).l2 = s.l2 := rfl
@[simp] theorem State.setCore_wbuf (s : State) (n : Nat) (v : Core) : (s.setCore n v).wbuf = s.wbuf := rfl
@[simp] theorem State.setCore_paths (s : State) (n : Nat) (v : Core) : (s.setCore n v).paths = s.paths := rfl
@[simp] theorem State.setCore_serial (s : State) (n : Nat) (v : Core) : (s.setCore n v).serial = s.serial := rfl
@[simp] theorem State.setCore_regions (s : State) (n : Nat) (v : Core) : (s.setCore n v).regions = s.regions := rfl
@[simp] theorem State.setCore_regionLock (s : State) (n : Nat) (v : Core) : (s.setCore n v).regionLock = s.regionLock := rfl
@[simp] theorem State.setCore_ops (s : State) (n : Nat) (v : Core) : (s.setCore n v).ops = s.ops := rfl
@[simp] theorem State.setCore_nextOp (s : State) (n : Nat) (v : Core) : (s.setCore n v).nextOp = s.nextOp := rfl
@[simp] theorem State.setCore_pchs (s : State) (n : Nat) (v : Core) : (s.setCore n v).pchs = s.pchs := rfl
@[simp] theorem State.setCore_syncs (s : State) (n : Nat) (v : Core) : (s.setCore n v).syncs = s.syncs := rfl
@[simp] theorem State.setCore_barriers (s : State) (n : Nat) (v : Core) : (s.setCore n v).barriers = s.barriers := rfl
@[simp] theorem State.setCore_domReports (s : State) (n : Nat) (v : Core) : (s.setCore n v).domReports = s.domReports := rfl
@[simp] theorem State.setCore_tiles (s : State) (n : Nat) (v : Core) : (s.setCore n v).tiles = s.tiles := rfl
@[simp] theorem State.setCore_gqcfg (s : State) (n : Nat) (v : Core) : (s.setCore n v).gqcfg = s.gqcfg := rfl
@[simp] theorem State.setCore_tasks (s : State) (n : Nat) (v : Core) : (s.setCore n v).tasks = s.tasks := rfl
@[simp] theorem State.setCore_nextTask (s : State) (n : Nat) (v : Core) : (s.setCore n v).nextTask = s.nextTask := rfl
@[simp] theorem State.setCore_parts (s : State) (n : Nat) (v : Core) : (s.setCore n v).parts = s.parts := rfl
@[simp] theorem State.setCore_pctxs (s : State) (n : Nat) (v : Core) : (s.setCore n v).pctxs = s.pctxs := rfl
@[simp] theorem State.setCore_records (s : State) (n : Nat) (v : Core) : (s.setCore n v).records = s.records := rfl
@[simp] theorem State.setCore_stewardLog (s : State) (n : Nat) (v : Core) : (s.setCore n v).stewardLog = s.stewardLog := rfl
@[simp] theorem State.setCore_errors (s : State) (n : Nat) (v : Core) : (s.setCore n v).errors = s.errors := rfl
@[simp] theorem State.setCore_lasting (s : State) (n : Nat) (v : Core) : (s.setCore n v).lasting = s.lasting := rfl
@[simp] theorem State.setCore_retired (s : State) (n : Nat) (v : Core) : (s.setCore n v).retired = s.retired := rfl
@[simp] theorem State.setCore_outCores (s : State) (n : Nat) (v : Core) : (s.setCore n v).outCores = s.outCores := rfl
@[simp] theorem State.setCore_cycle (s : State) (n : Nat) (v : Core) : (s.setCore n v).cycle = s.cycle := rfl
@[simp] theorem State.setCore_timeOff (s : State) (n : Nat) (v : Core) : (s.setCore n v).timeOff = s.timeOff := rfl
@[simp] theorem State.setCore_sinceFix (s : State) (n : Nat) (v : Core) : (s.setCore n v).sinceFix = s.sinceFix := rfl
@[simp] theorem State.setCore_sinceBeat (s : State) (n : Nat) (v : Core) : (s.setCore n v).sinceBeat = s.sinceBeat := rfl
@[simp] theorem State.setCore_memcfg (s : State) (n : Nat) (v : Core) : (s.setCore n v).memcfg = s.memcfg := rfl
@[simp] theorem State.setCore_tlbinv (s : State) (n : Nat) (v : Core) : (s.setCore n v).tlbinv = s.tlbinv := rfl
@[simp] theorem State.setCore_tlbinva (s : State) (n : Nat) (v : Core) : (s.setCore n v).tlbinva = s.tlbinva := rfl
@[simp] theorem State.setCore_hrevoke (s : State) (n : Nat) (v : Core) : (s.setCore n v).hrevoke = s.hrevoke := rfl
@[simp] theorem State.setCore_barage (s : State) (n : Nat) (v : Core) : (s.setCore n v).barage = s.barage := rfl
@[simp] theorem State.setCore_dbarcnt (s : State) (n : Nat) (v : Core) : (s.setCore n v).dbarcnt = s.dbarcnt := rfl
@[simp] theorem State.setCore_ports (s : State) (n : Nat) (v : Core) : (s.setCore n v).ports = s.ports := rfl
@[simp] theorem State.setCore_domid (s : State) (n : Nat) (v : Core) : (s.setCore n v).domid = s.domid := rfl
@[simp] theorem State.setCore_flagsSeen (s : State) (n : Nat) (v : Core) : (s.setCore n v).flagsSeen = s.flagsSeen := rfl
@[simp] theorem State.setCore_packetsSeen (s : State) (n : Nat) (v : Core) : (s.setCore n v).packetsSeen = s.packetsSeen := rfl
@[simp] theorem State.setCore_interrupts (s : State) (n : Nat) (v : Core) : (s.setCore n v).interrupts = s.interrupts := rfl
@[simp] theorem State.setCore_nor (s : State) (n : Nat) (v : Core) : (s.setCore n v).nor = s.nor := rfl
@[simp] theorem State.setCore_ufs (s : State) (n : Nat) (v : Core) : (s.setCore n v).ufs = s.ufs := rfl
@[simp] theorem State.setCore_bootStage (s : State) (n : Nat) (v : Core) : (s.setCore n v).bootStage = s.bootStage := rfl
@[simp] theorem State.setCore_bootErr (s : State) (n : Nat) (v : Core) : (s.setCore n v).bootErr = s.bootErr := rfl
@[simp] theorem State.setCore_bootFailed (s : State) (n : Nat) (v : Core) : (s.setCore n v).bootFailed = s.bootFailed := rfl
@[simp] theorem State.setCore_rootPort (s : State) (n : Nat) (v : Core) : (s.setCore n v).rootPort = s.rootPort := rfl
@[simp] theorem State.setCore_meas (s : State) (n : Nat) (v : Core) : (s.setCore n v).meas = s.meas := rfl
@[simp] theorem State.setCore_digest (s : State) (n : Nat) (v : Core) : (s.setCore n v).digest = s.digest := rfl
@[simp] theorem State.setCore_mext (s : State) (n : Nat) (v : Core) : (s.setCore n v).mext = s.mext := rfl
@[simp] theorem State.setCore_hot (s : State) (n : Nat) (v : Core) : (s.setCore n v).hot = s.hot := rfl
@[simp] theorem State.setCore_pwr (s : State) (n : Nat) (v : Core) : (s.setCore n v).pwr = s.pwr := rfl
@[simp] theorem State.setCore_tdie0 (s : State) (n : Nat) (v : Core) : (s.setCore n v).tdie0 = s.tdie0 := rfl
@[simp] theorem State.setCore_tdie1 (s : State) (n : Nat) (v : Core) : (s.setCore n v).tdie1 = s.tdie1 := rfl
@[simp] theorem State.setCore_powered (s : State) (n : Nat) (v : Core) : (s.setCore n v).powered = s.powered := rfl
@[simp] theorem State.setCore_harts (s : State) (n : Nat) (v : Core) : (s.setCore n v).harts = s.harts := rfl
@[simp] theorem State.setCore_svns (s : State) (n : Nat) (v : Core) : (s.setCore n v).svns = s.svns := rfl
@[simp] theorem State.setCore_etherUp (s : State) (n : Nat) (v : Core) : (s.setCore n v).etherUp = s.etherUp := rfl
@[simp] theorem State.setCore_attested (s : State) (n : Nat) (v : Core) : (s.setCore n v).attested = s.attested := rfl
@[simp] theorem State.setCore_fenced (s : State) (n : Nat) (v : Core) : (s.setCore n v).fenced = s.fenced := rfl
@[simp] theorem State.setCore_inputs (s : State) (n : Nat) (v : Core) : (s.setCore n v).inputs = s.inputs := rfl
@[simp] theorem State.setCore_tick (s : State) (n : Nat) (v : Core) : (s.setCore n v).tick = s.tick := rfl

/-! The update of one cluster. -/

@[simp] theorem State.setCluster_cur (s : State) (n : Nat) (v : Cluster) : (s.setCluster n v).cur = s.cur := rfl
@[simp] theorem State.setCluster_iss (s : State) (n : Nat) (v : Cluster) : (s.setCluster n v).iss = s.iss := rfl
@[simp] theorem State.setCluster_threads (s : State) (n : Nat) (v : Cluster) : (s.setCluster n v).threads = s.threads := rfl
@[simp] theorem State.setCluster_walks (s : State) (n : Nat) (v : Cluster) : (s.setCluster n v).walks = s.walks := rfl
@[simp] theorem State.setCluster_ctxs (s : State) (n : Nat) (v : Cluster) : (s.setCluster n v).ctxs = s.ctxs := rfl
@[simp] theorem State.setCluster_cores (s : State) (n : Nat) (v : Cluster) : (s.setCluster n v).cores = s.cores := rfl
@[simp] theorem State.setCluster_quads (s : State) (n : Nat) (v : Cluster) : (s.setCluster n v).quads = s.quads := rfl
@[simp] theorem State.setCluster_arrays (s : State) (n : Nat) (v : Cluster) : (s.setCluster n v).arrays = s.arrays := rfl
@[simp] theorem State.setCluster_hbm (s : State) (n : Nat) (v : Cluster) : (s.setCluster n v).hbm = s.hbm := rfl
@[simp] theorem State.setCluster_blockTags (s : State) (n : Nat) (v : Cluster) : (s.setCluster n v).blockTags = s.blockTags := rfl
@[simp] theorem State.setCluster_weak (s : State) (n : Nat) (v : Cluster) : (s.setCluster n v).weak = s.weak := rfl
@[simp] theorem State.setCluster_l2 (s : State) (n : Nat) (v : Cluster) : (s.setCluster n v).l2 = s.l2 := rfl
@[simp] theorem State.setCluster_wbuf (s : State) (n : Nat) (v : Cluster) : (s.setCluster n v).wbuf = s.wbuf := rfl
@[simp] theorem State.setCluster_paths (s : State) (n : Nat) (v : Cluster) : (s.setCluster n v).paths = s.paths := rfl
@[simp] theorem State.setCluster_serial (s : State) (n : Nat) (v : Cluster) : (s.setCluster n v).serial = s.serial := rfl
@[simp] theorem State.setCluster_regions (s : State) (n : Nat) (v : Cluster) : (s.setCluster n v).regions = s.regions := rfl
@[simp] theorem State.setCluster_regionLock (s : State) (n : Nat) (v : Cluster) : (s.setCluster n v).regionLock = s.regionLock := rfl
@[simp] theorem State.setCluster_ops (s : State) (n : Nat) (v : Cluster) : (s.setCluster n v).ops = s.ops := rfl
@[simp] theorem State.setCluster_nextOp (s : State) (n : Nat) (v : Cluster) : (s.setCluster n v).nextOp = s.nextOp := rfl
@[simp] theorem State.setCluster_pchs (s : State) (n : Nat) (v : Cluster) : (s.setCluster n v).pchs = s.pchs := rfl
@[simp] theorem State.setCluster_syncs (s : State) (n : Nat) (v : Cluster) : (s.setCluster n v).syncs = s.syncs := rfl
@[simp] theorem State.setCluster_barriers (s : State) (n : Nat) (v : Cluster) : (s.setCluster n v).barriers = s.barriers := rfl
@[simp] theorem State.setCluster_domReports (s : State) (n : Nat) (v : Cluster) : (s.setCluster n v).domReports = s.domReports := rfl
@[simp] theorem State.setCluster_tiles (s : State) (n : Nat) (v : Cluster) : (s.setCluster n v).tiles = s.tiles := rfl
@[simp] theorem State.setCluster_gqcfg (s : State) (n : Nat) (v : Cluster) : (s.setCluster n v).gqcfg = s.gqcfg := rfl
@[simp] theorem State.setCluster_tasks (s : State) (n : Nat) (v : Cluster) : (s.setCluster n v).tasks = s.tasks := rfl
@[simp] theorem State.setCluster_nextTask (s : State) (n : Nat) (v : Cluster) : (s.setCluster n v).nextTask = s.nextTask := rfl
@[simp] theorem State.setCluster_parts (s : State) (n : Nat) (v : Cluster) : (s.setCluster n v).parts = s.parts := rfl
@[simp] theorem State.setCluster_pctxs (s : State) (n : Nat) (v : Cluster) : (s.setCluster n v).pctxs = s.pctxs := rfl
@[simp] theorem State.setCluster_records (s : State) (n : Nat) (v : Cluster) : (s.setCluster n v).records = s.records := rfl
@[simp] theorem State.setCluster_stewardLog (s : State) (n : Nat) (v : Cluster) : (s.setCluster n v).stewardLog = s.stewardLog := rfl
@[simp] theorem State.setCluster_errors (s : State) (n : Nat) (v : Cluster) : (s.setCluster n v).errors = s.errors := rfl
@[simp] theorem State.setCluster_lasting (s : State) (n : Nat) (v : Cluster) : (s.setCluster n v).lasting = s.lasting := rfl
@[simp] theorem State.setCluster_retired (s : State) (n : Nat) (v : Cluster) : (s.setCluster n v).retired = s.retired := rfl
@[simp] theorem State.setCluster_outCores (s : State) (n : Nat) (v : Cluster) : (s.setCluster n v).outCores = s.outCores := rfl
@[simp] theorem State.setCluster_cycle (s : State) (n : Nat) (v : Cluster) : (s.setCluster n v).cycle = s.cycle := rfl
@[simp] theorem State.setCluster_timeOff (s : State) (n : Nat) (v : Cluster) : (s.setCluster n v).timeOff = s.timeOff := rfl
@[simp] theorem State.setCluster_sinceFix (s : State) (n : Nat) (v : Cluster) : (s.setCluster n v).sinceFix = s.sinceFix := rfl
@[simp] theorem State.setCluster_sinceBeat (s : State) (n : Nat) (v : Cluster) : (s.setCluster n v).sinceBeat = s.sinceBeat := rfl
@[simp] theorem State.setCluster_memcfg (s : State) (n : Nat) (v : Cluster) : (s.setCluster n v).memcfg = s.memcfg := rfl
@[simp] theorem State.setCluster_tlbinv (s : State) (n : Nat) (v : Cluster) : (s.setCluster n v).tlbinv = s.tlbinv := rfl
@[simp] theorem State.setCluster_tlbinva (s : State) (n : Nat) (v : Cluster) : (s.setCluster n v).tlbinva = s.tlbinva := rfl
@[simp] theorem State.setCluster_hrevoke (s : State) (n : Nat) (v : Cluster) : (s.setCluster n v).hrevoke = s.hrevoke := rfl
@[simp] theorem State.setCluster_barage (s : State) (n : Nat) (v : Cluster) : (s.setCluster n v).barage = s.barage := rfl
@[simp] theorem State.setCluster_dbarcnt (s : State) (n : Nat) (v : Cluster) : (s.setCluster n v).dbarcnt = s.dbarcnt := rfl
@[simp] theorem State.setCluster_ports (s : State) (n : Nat) (v : Cluster) : (s.setCluster n v).ports = s.ports := rfl
@[simp] theorem State.setCluster_domid (s : State) (n : Nat) (v : Cluster) : (s.setCluster n v).domid = s.domid := rfl
@[simp] theorem State.setCluster_flagsSeen (s : State) (n : Nat) (v : Cluster) : (s.setCluster n v).flagsSeen = s.flagsSeen := rfl
@[simp] theorem State.setCluster_packetsSeen (s : State) (n : Nat) (v : Cluster) : (s.setCluster n v).packetsSeen = s.packetsSeen := rfl
@[simp] theorem State.setCluster_interrupts (s : State) (n : Nat) (v : Cluster) : (s.setCluster n v).interrupts = s.interrupts := rfl
@[simp] theorem State.setCluster_nor (s : State) (n : Nat) (v : Cluster) : (s.setCluster n v).nor = s.nor := rfl
@[simp] theorem State.setCluster_ufs (s : State) (n : Nat) (v : Cluster) : (s.setCluster n v).ufs = s.ufs := rfl
@[simp] theorem State.setCluster_bootStage (s : State) (n : Nat) (v : Cluster) : (s.setCluster n v).bootStage = s.bootStage := rfl
@[simp] theorem State.setCluster_bootErr (s : State) (n : Nat) (v : Cluster) : (s.setCluster n v).bootErr = s.bootErr := rfl
@[simp] theorem State.setCluster_bootFailed (s : State) (n : Nat) (v : Cluster) : (s.setCluster n v).bootFailed = s.bootFailed := rfl
@[simp] theorem State.setCluster_rootPort (s : State) (n : Nat) (v : Cluster) : (s.setCluster n v).rootPort = s.rootPort := rfl
@[simp] theorem State.setCluster_meas (s : State) (n : Nat) (v : Cluster) : (s.setCluster n v).meas = s.meas := rfl
@[simp] theorem State.setCluster_digest (s : State) (n : Nat) (v : Cluster) : (s.setCluster n v).digest = s.digest := rfl
@[simp] theorem State.setCluster_mext (s : State) (n : Nat) (v : Cluster) : (s.setCluster n v).mext = s.mext := rfl
@[simp] theorem State.setCluster_hot (s : State) (n : Nat) (v : Cluster) : (s.setCluster n v).hot = s.hot := rfl
@[simp] theorem State.setCluster_pwr (s : State) (n : Nat) (v : Cluster) : (s.setCluster n v).pwr = s.pwr := rfl
@[simp] theorem State.setCluster_tdie0 (s : State) (n : Nat) (v : Cluster) : (s.setCluster n v).tdie0 = s.tdie0 := rfl
@[simp] theorem State.setCluster_tdie1 (s : State) (n : Nat) (v : Cluster) : (s.setCluster n v).tdie1 = s.tdie1 := rfl
@[simp] theorem State.setCluster_powered (s : State) (n : Nat) (v : Cluster) : (s.setCluster n v).powered = s.powered := rfl
@[simp] theorem State.setCluster_harts (s : State) (n : Nat) (v : Cluster) : (s.setCluster n v).harts = s.harts := rfl
@[simp] theorem State.setCluster_svns (s : State) (n : Nat) (v : Cluster) : (s.setCluster n v).svns = s.svns := rfl
@[simp] theorem State.setCluster_etherUp (s : State) (n : Nat) (v : Cluster) : (s.setCluster n v).etherUp = s.etherUp := rfl
@[simp] theorem State.setCluster_attested (s : State) (n : Nat) (v : Cluster) : (s.setCluster n v).attested = s.attested := rfl
@[simp] theorem State.setCluster_fenced (s : State) (n : Nat) (v : Cluster) : (s.setCluster n v).fenced = s.fenced := rfl
@[simp] theorem State.setCluster_inputs (s : State) (n : Nat) (v : Cluster) : (s.setCluster n v).inputs = s.inputs := rfl
@[simp] theorem State.setCluster_tick (s : State) (n : Nat) (v : Cluster) : (s.setCluster n v).tick = s.tick := rfl

/-! The update of one quad. -/

@[simp] theorem State.setQuad_cur (s : State) (n : Nat) (v : Quad) : (s.setQuad n v).cur = s.cur := rfl
@[simp] theorem State.setQuad_iss (s : State) (n : Nat) (v : Quad) : (s.setQuad n v).iss = s.iss := rfl
@[simp] theorem State.setQuad_threads (s : State) (n : Nat) (v : Quad) : (s.setQuad n v).threads = s.threads := rfl
@[simp] theorem State.setQuad_walks (s : State) (n : Nat) (v : Quad) : (s.setQuad n v).walks = s.walks := rfl
@[simp] theorem State.setQuad_ctxs (s : State) (n : Nat) (v : Quad) : (s.setQuad n v).ctxs = s.ctxs := rfl
@[simp] theorem State.setQuad_cores (s : State) (n : Nat) (v : Quad) : (s.setQuad n v).cores = s.cores := rfl
@[simp] theorem State.setQuad_clusters (s : State) (n : Nat) (v : Quad) : (s.setQuad n v).clusters = s.clusters := rfl
@[simp] theorem State.setQuad_arrays (s : State) (n : Nat) (v : Quad) : (s.setQuad n v).arrays = s.arrays := rfl
@[simp] theorem State.setQuad_hbm (s : State) (n : Nat) (v : Quad) : (s.setQuad n v).hbm = s.hbm := rfl
@[simp] theorem State.setQuad_blockTags (s : State) (n : Nat) (v : Quad) : (s.setQuad n v).blockTags = s.blockTags := rfl
@[simp] theorem State.setQuad_weak (s : State) (n : Nat) (v : Quad) : (s.setQuad n v).weak = s.weak := rfl
@[simp] theorem State.setQuad_l2 (s : State) (n : Nat) (v : Quad) : (s.setQuad n v).l2 = s.l2 := rfl
@[simp] theorem State.setQuad_wbuf (s : State) (n : Nat) (v : Quad) : (s.setQuad n v).wbuf = s.wbuf := rfl
@[simp] theorem State.setQuad_paths (s : State) (n : Nat) (v : Quad) : (s.setQuad n v).paths = s.paths := rfl
@[simp] theorem State.setQuad_serial (s : State) (n : Nat) (v : Quad) : (s.setQuad n v).serial = s.serial := rfl
@[simp] theorem State.setQuad_regions (s : State) (n : Nat) (v : Quad) : (s.setQuad n v).regions = s.regions := rfl
@[simp] theorem State.setQuad_regionLock (s : State) (n : Nat) (v : Quad) : (s.setQuad n v).regionLock = s.regionLock := rfl
@[simp] theorem State.setQuad_ops (s : State) (n : Nat) (v : Quad) : (s.setQuad n v).ops = s.ops := rfl
@[simp] theorem State.setQuad_nextOp (s : State) (n : Nat) (v : Quad) : (s.setQuad n v).nextOp = s.nextOp := rfl
@[simp] theorem State.setQuad_pchs (s : State) (n : Nat) (v : Quad) : (s.setQuad n v).pchs = s.pchs := rfl
@[simp] theorem State.setQuad_syncs (s : State) (n : Nat) (v : Quad) : (s.setQuad n v).syncs = s.syncs := rfl
@[simp] theorem State.setQuad_barriers (s : State) (n : Nat) (v : Quad) : (s.setQuad n v).barriers = s.barriers := rfl
@[simp] theorem State.setQuad_domReports (s : State) (n : Nat) (v : Quad) : (s.setQuad n v).domReports = s.domReports := rfl
@[simp] theorem State.setQuad_tiles (s : State) (n : Nat) (v : Quad) : (s.setQuad n v).tiles = s.tiles := rfl
@[simp] theorem State.setQuad_gqcfg (s : State) (n : Nat) (v : Quad) : (s.setQuad n v).gqcfg = s.gqcfg := rfl
@[simp] theorem State.setQuad_tasks (s : State) (n : Nat) (v : Quad) : (s.setQuad n v).tasks = s.tasks := rfl
@[simp] theorem State.setQuad_nextTask (s : State) (n : Nat) (v : Quad) : (s.setQuad n v).nextTask = s.nextTask := rfl
@[simp] theorem State.setQuad_parts (s : State) (n : Nat) (v : Quad) : (s.setQuad n v).parts = s.parts := rfl
@[simp] theorem State.setQuad_pctxs (s : State) (n : Nat) (v : Quad) : (s.setQuad n v).pctxs = s.pctxs := rfl
@[simp] theorem State.setQuad_records (s : State) (n : Nat) (v : Quad) : (s.setQuad n v).records = s.records := rfl
@[simp] theorem State.setQuad_stewardLog (s : State) (n : Nat) (v : Quad) : (s.setQuad n v).stewardLog = s.stewardLog := rfl
@[simp] theorem State.setQuad_errors (s : State) (n : Nat) (v : Quad) : (s.setQuad n v).errors = s.errors := rfl
@[simp] theorem State.setQuad_lasting (s : State) (n : Nat) (v : Quad) : (s.setQuad n v).lasting = s.lasting := rfl
@[simp] theorem State.setQuad_retired (s : State) (n : Nat) (v : Quad) : (s.setQuad n v).retired = s.retired := rfl
@[simp] theorem State.setQuad_outCores (s : State) (n : Nat) (v : Quad) : (s.setQuad n v).outCores = s.outCores := rfl
@[simp] theorem State.setQuad_cycle (s : State) (n : Nat) (v : Quad) : (s.setQuad n v).cycle = s.cycle := rfl
@[simp] theorem State.setQuad_timeOff (s : State) (n : Nat) (v : Quad) : (s.setQuad n v).timeOff = s.timeOff := rfl
@[simp] theorem State.setQuad_sinceFix (s : State) (n : Nat) (v : Quad) : (s.setQuad n v).sinceFix = s.sinceFix := rfl
@[simp] theorem State.setQuad_sinceBeat (s : State) (n : Nat) (v : Quad) : (s.setQuad n v).sinceBeat = s.sinceBeat := rfl
@[simp] theorem State.setQuad_memcfg (s : State) (n : Nat) (v : Quad) : (s.setQuad n v).memcfg = s.memcfg := rfl
@[simp] theorem State.setQuad_tlbinv (s : State) (n : Nat) (v : Quad) : (s.setQuad n v).tlbinv = s.tlbinv := rfl
@[simp] theorem State.setQuad_tlbinva (s : State) (n : Nat) (v : Quad) : (s.setQuad n v).tlbinva = s.tlbinva := rfl
@[simp] theorem State.setQuad_hrevoke (s : State) (n : Nat) (v : Quad) : (s.setQuad n v).hrevoke = s.hrevoke := rfl
@[simp] theorem State.setQuad_barage (s : State) (n : Nat) (v : Quad) : (s.setQuad n v).barage = s.barage := rfl
@[simp] theorem State.setQuad_dbarcnt (s : State) (n : Nat) (v : Quad) : (s.setQuad n v).dbarcnt = s.dbarcnt := rfl
@[simp] theorem State.setQuad_ports (s : State) (n : Nat) (v : Quad) : (s.setQuad n v).ports = s.ports := rfl
@[simp] theorem State.setQuad_domid (s : State) (n : Nat) (v : Quad) : (s.setQuad n v).domid = s.domid := rfl
@[simp] theorem State.setQuad_flagsSeen (s : State) (n : Nat) (v : Quad) : (s.setQuad n v).flagsSeen = s.flagsSeen := rfl
@[simp] theorem State.setQuad_packetsSeen (s : State) (n : Nat) (v : Quad) : (s.setQuad n v).packetsSeen = s.packetsSeen := rfl
@[simp] theorem State.setQuad_interrupts (s : State) (n : Nat) (v : Quad) : (s.setQuad n v).interrupts = s.interrupts := rfl
@[simp] theorem State.setQuad_nor (s : State) (n : Nat) (v : Quad) : (s.setQuad n v).nor = s.nor := rfl
@[simp] theorem State.setQuad_ufs (s : State) (n : Nat) (v : Quad) : (s.setQuad n v).ufs = s.ufs := rfl
@[simp] theorem State.setQuad_bootStage (s : State) (n : Nat) (v : Quad) : (s.setQuad n v).bootStage = s.bootStage := rfl
@[simp] theorem State.setQuad_bootErr (s : State) (n : Nat) (v : Quad) : (s.setQuad n v).bootErr = s.bootErr := rfl
@[simp] theorem State.setQuad_bootFailed (s : State) (n : Nat) (v : Quad) : (s.setQuad n v).bootFailed = s.bootFailed := rfl
@[simp] theorem State.setQuad_rootPort (s : State) (n : Nat) (v : Quad) : (s.setQuad n v).rootPort = s.rootPort := rfl
@[simp] theorem State.setQuad_meas (s : State) (n : Nat) (v : Quad) : (s.setQuad n v).meas = s.meas := rfl
@[simp] theorem State.setQuad_digest (s : State) (n : Nat) (v : Quad) : (s.setQuad n v).digest = s.digest := rfl
@[simp] theorem State.setQuad_mext (s : State) (n : Nat) (v : Quad) : (s.setQuad n v).mext = s.mext := rfl
@[simp] theorem State.setQuad_hot (s : State) (n : Nat) (v : Quad) : (s.setQuad n v).hot = s.hot := rfl
@[simp] theorem State.setQuad_pwr (s : State) (n : Nat) (v : Quad) : (s.setQuad n v).pwr = s.pwr := rfl
@[simp] theorem State.setQuad_tdie0 (s : State) (n : Nat) (v : Quad) : (s.setQuad n v).tdie0 = s.tdie0 := rfl
@[simp] theorem State.setQuad_tdie1 (s : State) (n : Nat) (v : Quad) : (s.setQuad n v).tdie1 = s.tdie1 := rfl
@[simp] theorem State.setQuad_powered (s : State) (n : Nat) (v : Quad) : (s.setQuad n v).powered = s.powered := rfl
@[simp] theorem State.setQuad_harts (s : State) (n : Nat) (v : Quad) : (s.setQuad n v).harts = s.harts := rfl
@[simp] theorem State.setQuad_svns (s : State) (n : Nat) (v : Quad) : (s.setQuad n v).svns = s.svns := rfl
@[simp] theorem State.setQuad_etherUp (s : State) (n : Nat) (v : Quad) : (s.setQuad n v).etherUp = s.etherUp := rfl
@[simp] theorem State.setQuad_attested (s : State) (n : Nat) (v : Quad) : (s.setQuad n v).attested = s.attested := rfl
@[simp] theorem State.setQuad_fenced (s : State) (n : Nat) (v : Quad) : (s.setQuad n v).fenced = s.fenced := rfl
@[simp] theorem State.setQuad_inputs (s : State) (n : Nat) (v : Quad) : (s.setQuad n v).inputs = s.inputs := rfl
@[simp] theorem State.setQuad_tick (s : State) (n : Nat) (v : Quad) : (s.setQuad n v).tick = s.tick := rfl

/-! The update of one Pewter array. -/

@[simp] theorem State.setArray_cur (s : State) (n : Nat) (v : PewterArray) : (s.setArray n v).cur = s.cur := rfl
@[simp] theorem State.setArray_iss (s : State) (n : Nat) (v : PewterArray) : (s.setArray n v).iss = s.iss := rfl
@[simp] theorem State.setArray_threads (s : State) (n : Nat) (v : PewterArray) : (s.setArray n v).threads = s.threads := rfl
@[simp] theorem State.setArray_walks (s : State) (n : Nat) (v : PewterArray) : (s.setArray n v).walks = s.walks := rfl
@[simp] theorem State.setArray_ctxs (s : State) (n : Nat) (v : PewterArray) : (s.setArray n v).ctxs = s.ctxs := rfl
@[simp] theorem State.setArray_cores (s : State) (n : Nat) (v : PewterArray) : (s.setArray n v).cores = s.cores := rfl
@[simp] theorem State.setArray_clusters (s : State) (n : Nat) (v : PewterArray) : (s.setArray n v).clusters = s.clusters := rfl
@[simp] theorem State.setArray_quads (s : State) (n : Nat) (v : PewterArray) : (s.setArray n v).quads = s.quads := rfl
@[simp] theorem State.setArray_hbm (s : State) (n : Nat) (v : PewterArray) : (s.setArray n v).hbm = s.hbm := rfl
@[simp] theorem State.setArray_blockTags (s : State) (n : Nat) (v : PewterArray) : (s.setArray n v).blockTags = s.blockTags := rfl
@[simp] theorem State.setArray_weak (s : State) (n : Nat) (v : PewterArray) : (s.setArray n v).weak = s.weak := rfl
@[simp] theorem State.setArray_l2 (s : State) (n : Nat) (v : PewterArray) : (s.setArray n v).l2 = s.l2 := rfl
@[simp] theorem State.setArray_wbuf (s : State) (n : Nat) (v : PewterArray) : (s.setArray n v).wbuf = s.wbuf := rfl
@[simp] theorem State.setArray_paths (s : State) (n : Nat) (v : PewterArray) : (s.setArray n v).paths = s.paths := rfl
@[simp] theorem State.setArray_serial (s : State) (n : Nat) (v : PewterArray) : (s.setArray n v).serial = s.serial := rfl
@[simp] theorem State.setArray_regions (s : State) (n : Nat) (v : PewterArray) : (s.setArray n v).regions = s.regions := rfl
@[simp] theorem State.setArray_regionLock (s : State) (n : Nat) (v : PewterArray) : (s.setArray n v).regionLock = s.regionLock := rfl
@[simp] theorem State.setArray_ops (s : State) (n : Nat) (v : PewterArray) : (s.setArray n v).ops = s.ops := rfl
@[simp] theorem State.setArray_nextOp (s : State) (n : Nat) (v : PewterArray) : (s.setArray n v).nextOp = s.nextOp := rfl
@[simp] theorem State.setArray_pchs (s : State) (n : Nat) (v : PewterArray) : (s.setArray n v).pchs = s.pchs := rfl
@[simp] theorem State.setArray_syncs (s : State) (n : Nat) (v : PewterArray) : (s.setArray n v).syncs = s.syncs := rfl
@[simp] theorem State.setArray_barriers (s : State) (n : Nat) (v : PewterArray) : (s.setArray n v).barriers = s.barriers := rfl
@[simp] theorem State.setArray_domReports (s : State) (n : Nat) (v : PewterArray) : (s.setArray n v).domReports = s.domReports := rfl
@[simp] theorem State.setArray_tiles (s : State) (n : Nat) (v : PewterArray) : (s.setArray n v).tiles = s.tiles := rfl
@[simp] theorem State.setArray_gqcfg (s : State) (n : Nat) (v : PewterArray) : (s.setArray n v).gqcfg = s.gqcfg := rfl
@[simp] theorem State.setArray_tasks (s : State) (n : Nat) (v : PewterArray) : (s.setArray n v).tasks = s.tasks := rfl
@[simp] theorem State.setArray_nextTask (s : State) (n : Nat) (v : PewterArray) : (s.setArray n v).nextTask = s.nextTask := rfl
@[simp] theorem State.setArray_parts (s : State) (n : Nat) (v : PewterArray) : (s.setArray n v).parts = s.parts := rfl
@[simp] theorem State.setArray_pctxs (s : State) (n : Nat) (v : PewterArray) : (s.setArray n v).pctxs = s.pctxs := rfl
@[simp] theorem State.setArray_records (s : State) (n : Nat) (v : PewterArray) : (s.setArray n v).records = s.records := rfl
@[simp] theorem State.setArray_stewardLog (s : State) (n : Nat) (v : PewterArray) : (s.setArray n v).stewardLog = s.stewardLog := rfl
@[simp] theorem State.setArray_errors (s : State) (n : Nat) (v : PewterArray) : (s.setArray n v).errors = s.errors := rfl
@[simp] theorem State.setArray_lasting (s : State) (n : Nat) (v : PewterArray) : (s.setArray n v).lasting = s.lasting := rfl
@[simp] theorem State.setArray_retired (s : State) (n : Nat) (v : PewterArray) : (s.setArray n v).retired = s.retired := rfl
@[simp] theorem State.setArray_outCores (s : State) (n : Nat) (v : PewterArray) : (s.setArray n v).outCores = s.outCores := rfl
@[simp] theorem State.setArray_cycle (s : State) (n : Nat) (v : PewterArray) : (s.setArray n v).cycle = s.cycle := rfl
@[simp] theorem State.setArray_timeOff (s : State) (n : Nat) (v : PewterArray) : (s.setArray n v).timeOff = s.timeOff := rfl
@[simp] theorem State.setArray_sinceFix (s : State) (n : Nat) (v : PewterArray) : (s.setArray n v).sinceFix = s.sinceFix := rfl
@[simp] theorem State.setArray_sinceBeat (s : State) (n : Nat) (v : PewterArray) : (s.setArray n v).sinceBeat = s.sinceBeat := rfl
@[simp] theorem State.setArray_memcfg (s : State) (n : Nat) (v : PewterArray) : (s.setArray n v).memcfg = s.memcfg := rfl
@[simp] theorem State.setArray_tlbinv (s : State) (n : Nat) (v : PewterArray) : (s.setArray n v).tlbinv = s.tlbinv := rfl
@[simp] theorem State.setArray_tlbinva (s : State) (n : Nat) (v : PewterArray) : (s.setArray n v).tlbinva = s.tlbinva := rfl
@[simp] theorem State.setArray_hrevoke (s : State) (n : Nat) (v : PewterArray) : (s.setArray n v).hrevoke = s.hrevoke := rfl
@[simp] theorem State.setArray_barage (s : State) (n : Nat) (v : PewterArray) : (s.setArray n v).barage = s.barage := rfl
@[simp] theorem State.setArray_dbarcnt (s : State) (n : Nat) (v : PewterArray) : (s.setArray n v).dbarcnt = s.dbarcnt := rfl
@[simp] theorem State.setArray_ports (s : State) (n : Nat) (v : PewterArray) : (s.setArray n v).ports = s.ports := rfl
@[simp] theorem State.setArray_domid (s : State) (n : Nat) (v : PewterArray) : (s.setArray n v).domid = s.domid := rfl
@[simp] theorem State.setArray_flagsSeen (s : State) (n : Nat) (v : PewterArray) : (s.setArray n v).flagsSeen = s.flagsSeen := rfl
@[simp] theorem State.setArray_packetsSeen (s : State) (n : Nat) (v : PewterArray) : (s.setArray n v).packetsSeen = s.packetsSeen := rfl
@[simp] theorem State.setArray_interrupts (s : State) (n : Nat) (v : PewterArray) : (s.setArray n v).interrupts = s.interrupts := rfl
@[simp] theorem State.setArray_nor (s : State) (n : Nat) (v : PewterArray) : (s.setArray n v).nor = s.nor := rfl
@[simp] theorem State.setArray_ufs (s : State) (n : Nat) (v : PewterArray) : (s.setArray n v).ufs = s.ufs := rfl
@[simp] theorem State.setArray_bootStage (s : State) (n : Nat) (v : PewterArray) : (s.setArray n v).bootStage = s.bootStage := rfl
@[simp] theorem State.setArray_bootErr (s : State) (n : Nat) (v : PewterArray) : (s.setArray n v).bootErr = s.bootErr := rfl
@[simp] theorem State.setArray_bootFailed (s : State) (n : Nat) (v : PewterArray) : (s.setArray n v).bootFailed = s.bootFailed := rfl
@[simp] theorem State.setArray_rootPort (s : State) (n : Nat) (v : PewterArray) : (s.setArray n v).rootPort = s.rootPort := rfl
@[simp] theorem State.setArray_meas (s : State) (n : Nat) (v : PewterArray) : (s.setArray n v).meas = s.meas := rfl
@[simp] theorem State.setArray_digest (s : State) (n : Nat) (v : PewterArray) : (s.setArray n v).digest = s.digest := rfl
@[simp] theorem State.setArray_mext (s : State) (n : Nat) (v : PewterArray) : (s.setArray n v).mext = s.mext := rfl
@[simp] theorem State.setArray_hot (s : State) (n : Nat) (v : PewterArray) : (s.setArray n v).hot = s.hot := rfl
@[simp] theorem State.setArray_pwr (s : State) (n : Nat) (v : PewterArray) : (s.setArray n v).pwr = s.pwr := rfl
@[simp] theorem State.setArray_tdie0 (s : State) (n : Nat) (v : PewterArray) : (s.setArray n v).tdie0 = s.tdie0 := rfl
@[simp] theorem State.setArray_tdie1 (s : State) (n : Nat) (v : PewterArray) : (s.setArray n v).tdie1 = s.tdie1 := rfl
@[simp] theorem State.setArray_powered (s : State) (n : Nat) (v : PewterArray) : (s.setArray n v).powered = s.powered := rfl
@[simp] theorem State.setArray_harts (s : State) (n : Nat) (v : PewterArray) : (s.setArray n v).harts = s.harts := rfl
@[simp] theorem State.setArray_svns (s : State) (n : Nat) (v : PewterArray) : (s.setArray n v).svns = s.svns := rfl
@[simp] theorem State.setArray_etherUp (s : State) (n : Nat) (v : PewterArray) : (s.setArray n v).etherUp = s.etherUp := rfl
@[simp] theorem State.setArray_attested (s : State) (n : Nat) (v : PewterArray) : (s.setArray n v).attested = s.attested := rfl
@[simp] theorem State.setArray_fenced (s : State) (n : Nat) (v : PewterArray) : (s.setArray n v).fenced = s.fenced := rfl
@[simp] theorem State.setArray_inputs (s : State) (n : Nat) (v : PewterArray) : (s.setArray n v).inputs = s.inputs := rfl
@[simp] theorem State.setArray_tick (s : State) (n : Nat) (v : PewterArray) : (s.setArray n v).tick = s.tick := rfl

/-! The update of one pseudo-channel. -/

@[simp] theorem State.setPch_cur (s : State) (n : Nat) (v : PseudoChannel) : (s.setPch n v).cur = s.cur := rfl
@[simp] theorem State.setPch_iss (s : State) (n : Nat) (v : PseudoChannel) : (s.setPch n v).iss = s.iss := rfl
@[simp] theorem State.setPch_threads (s : State) (n : Nat) (v : PseudoChannel) : (s.setPch n v).threads = s.threads := rfl
@[simp] theorem State.setPch_walks (s : State) (n : Nat) (v : PseudoChannel) : (s.setPch n v).walks = s.walks := rfl
@[simp] theorem State.setPch_ctxs (s : State) (n : Nat) (v : PseudoChannel) : (s.setPch n v).ctxs = s.ctxs := rfl
@[simp] theorem State.setPch_cores (s : State) (n : Nat) (v : PseudoChannel) : (s.setPch n v).cores = s.cores := rfl
@[simp] theorem State.setPch_clusters (s : State) (n : Nat) (v : PseudoChannel) : (s.setPch n v).clusters = s.clusters := rfl
@[simp] theorem State.setPch_quads (s : State) (n : Nat) (v : PseudoChannel) : (s.setPch n v).quads = s.quads := rfl
@[simp] theorem State.setPch_arrays (s : State) (n : Nat) (v : PseudoChannel) : (s.setPch n v).arrays = s.arrays := rfl
@[simp] theorem State.setPch_hbm (s : State) (n : Nat) (v : PseudoChannel) : (s.setPch n v).hbm = s.hbm := rfl
@[simp] theorem State.setPch_blockTags (s : State) (n : Nat) (v : PseudoChannel) : (s.setPch n v).blockTags = s.blockTags := rfl
@[simp] theorem State.setPch_weak (s : State) (n : Nat) (v : PseudoChannel) : (s.setPch n v).weak = s.weak := rfl
@[simp] theorem State.setPch_l2 (s : State) (n : Nat) (v : PseudoChannel) : (s.setPch n v).l2 = s.l2 := rfl
@[simp] theorem State.setPch_wbuf (s : State) (n : Nat) (v : PseudoChannel) : (s.setPch n v).wbuf = s.wbuf := rfl
@[simp] theorem State.setPch_paths (s : State) (n : Nat) (v : PseudoChannel) : (s.setPch n v).paths = s.paths := rfl
@[simp] theorem State.setPch_serial (s : State) (n : Nat) (v : PseudoChannel) : (s.setPch n v).serial = s.serial := rfl
@[simp] theorem State.setPch_regions (s : State) (n : Nat) (v : PseudoChannel) : (s.setPch n v).regions = s.regions := rfl
@[simp] theorem State.setPch_regionLock (s : State) (n : Nat) (v : PseudoChannel) : (s.setPch n v).regionLock = s.regionLock := rfl
@[simp] theorem State.setPch_ops (s : State) (n : Nat) (v : PseudoChannel) : (s.setPch n v).ops = s.ops := rfl
@[simp] theorem State.setPch_nextOp (s : State) (n : Nat) (v : PseudoChannel) : (s.setPch n v).nextOp = s.nextOp := rfl
@[simp] theorem State.setPch_syncs (s : State) (n : Nat) (v : PseudoChannel) : (s.setPch n v).syncs = s.syncs := rfl
@[simp] theorem State.setPch_barriers (s : State) (n : Nat) (v : PseudoChannel) : (s.setPch n v).barriers = s.barriers := rfl
@[simp] theorem State.setPch_domReports (s : State) (n : Nat) (v : PseudoChannel) : (s.setPch n v).domReports = s.domReports := rfl
@[simp] theorem State.setPch_tiles (s : State) (n : Nat) (v : PseudoChannel) : (s.setPch n v).tiles = s.tiles := rfl
@[simp] theorem State.setPch_gqcfg (s : State) (n : Nat) (v : PseudoChannel) : (s.setPch n v).gqcfg = s.gqcfg := rfl
@[simp] theorem State.setPch_tasks (s : State) (n : Nat) (v : PseudoChannel) : (s.setPch n v).tasks = s.tasks := rfl
@[simp] theorem State.setPch_nextTask (s : State) (n : Nat) (v : PseudoChannel) : (s.setPch n v).nextTask = s.nextTask := rfl
@[simp] theorem State.setPch_parts (s : State) (n : Nat) (v : PseudoChannel) : (s.setPch n v).parts = s.parts := rfl
@[simp] theorem State.setPch_pctxs (s : State) (n : Nat) (v : PseudoChannel) : (s.setPch n v).pctxs = s.pctxs := rfl
@[simp] theorem State.setPch_records (s : State) (n : Nat) (v : PseudoChannel) : (s.setPch n v).records = s.records := rfl
@[simp] theorem State.setPch_stewardLog (s : State) (n : Nat) (v : PseudoChannel) : (s.setPch n v).stewardLog = s.stewardLog := rfl
@[simp] theorem State.setPch_errors (s : State) (n : Nat) (v : PseudoChannel) : (s.setPch n v).errors = s.errors := rfl
@[simp] theorem State.setPch_lasting (s : State) (n : Nat) (v : PseudoChannel) : (s.setPch n v).lasting = s.lasting := rfl
@[simp] theorem State.setPch_retired (s : State) (n : Nat) (v : PseudoChannel) : (s.setPch n v).retired = s.retired := rfl
@[simp] theorem State.setPch_outCores (s : State) (n : Nat) (v : PseudoChannel) : (s.setPch n v).outCores = s.outCores := rfl
@[simp] theorem State.setPch_cycle (s : State) (n : Nat) (v : PseudoChannel) : (s.setPch n v).cycle = s.cycle := rfl
@[simp] theorem State.setPch_timeOff (s : State) (n : Nat) (v : PseudoChannel) : (s.setPch n v).timeOff = s.timeOff := rfl
@[simp] theorem State.setPch_sinceFix (s : State) (n : Nat) (v : PseudoChannel) : (s.setPch n v).sinceFix = s.sinceFix := rfl
@[simp] theorem State.setPch_sinceBeat (s : State) (n : Nat) (v : PseudoChannel) : (s.setPch n v).sinceBeat = s.sinceBeat := rfl
@[simp] theorem State.setPch_memcfg (s : State) (n : Nat) (v : PseudoChannel) : (s.setPch n v).memcfg = s.memcfg := rfl
@[simp] theorem State.setPch_tlbinv (s : State) (n : Nat) (v : PseudoChannel) : (s.setPch n v).tlbinv = s.tlbinv := rfl
@[simp] theorem State.setPch_tlbinva (s : State) (n : Nat) (v : PseudoChannel) : (s.setPch n v).tlbinva = s.tlbinva := rfl
@[simp] theorem State.setPch_hrevoke (s : State) (n : Nat) (v : PseudoChannel) : (s.setPch n v).hrevoke = s.hrevoke := rfl
@[simp] theorem State.setPch_barage (s : State) (n : Nat) (v : PseudoChannel) : (s.setPch n v).barage = s.barage := rfl
@[simp] theorem State.setPch_dbarcnt (s : State) (n : Nat) (v : PseudoChannel) : (s.setPch n v).dbarcnt = s.dbarcnt := rfl
@[simp] theorem State.setPch_ports (s : State) (n : Nat) (v : PseudoChannel) : (s.setPch n v).ports = s.ports := rfl
@[simp] theorem State.setPch_domid (s : State) (n : Nat) (v : PseudoChannel) : (s.setPch n v).domid = s.domid := rfl
@[simp] theorem State.setPch_flagsSeen (s : State) (n : Nat) (v : PseudoChannel) : (s.setPch n v).flagsSeen = s.flagsSeen := rfl
@[simp] theorem State.setPch_packetsSeen (s : State) (n : Nat) (v : PseudoChannel) : (s.setPch n v).packetsSeen = s.packetsSeen := rfl
@[simp] theorem State.setPch_interrupts (s : State) (n : Nat) (v : PseudoChannel) : (s.setPch n v).interrupts = s.interrupts := rfl
@[simp] theorem State.setPch_nor (s : State) (n : Nat) (v : PseudoChannel) : (s.setPch n v).nor = s.nor := rfl
@[simp] theorem State.setPch_ufs (s : State) (n : Nat) (v : PseudoChannel) : (s.setPch n v).ufs = s.ufs := rfl
@[simp] theorem State.setPch_bootStage (s : State) (n : Nat) (v : PseudoChannel) : (s.setPch n v).bootStage = s.bootStage := rfl
@[simp] theorem State.setPch_bootErr (s : State) (n : Nat) (v : PseudoChannel) : (s.setPch n v).bootErr = s.bootErr := rfl
@[simp] theorem State.setPch_bootFailed (s : State) (n : Nat) (v : PseudoChannel) : (s.setPch n v).bootFailed = s.bootFailed := rfl
@[simp] theorem State.setPch_rootPort (s : State) (n : Nat) (v : PseudoChannel) : (s.setPch n v).rootPort = s.rootPort := rfl
@[simp] theorem State.setPch_meas (s : State) (n : Nat) (v : PseudoChannel) : (s.setPch n v).meas = s.meas := rfl
@[simp] theorem State.setPch_digest (s : State) (n : Nat) (v : PseudoChannel) : (s.setPch n v).digest = s.digest := rfl
@[simp] theorem State.setPch_mext (s : State) (n : Nat) (v : PseudoChannel) : (s.setPch n v).mext = s.mext := rfl
@[simp] theorem State.setPch_hot (s : State) (n : Nat) (v : PseudoChannel) : (s.setPch n v).hot = s.hot := rfl
@[simp] theorem State.setPch_pwr (s : State) (n : Nat) (v : PseudoChannel) : (s.setPch n v).pwr = s.pwr := rfl
@[simp] theorem State.setPch_tdie0 (s : State) (n : Nat) (v : PseudoChannel) : (s.setPch n v).tdie0 = s.tdie0 := rfl
@[simp] theorem State.setPch_tdie1 (s : State) (n : Nat) (v : PseudoChannel) : (s.setPch n v).tdie1 = s.tdie1 := rfl
@[simp] theorem State.setPch_powered (s : State) (n : Nat) (v : PseudoChannel) : (s.setPch n v).powered = s.powered := rfl
@[simp] theorem State.setPch_harts (s : State) (n : Nat) (v : PseudoChannel) : (s.setPch n v).harts = s.harts := rfl
@[simp] theorem State.setPch_svns (s : State) (n : Nat) (v : PseudoChannel) : (s.setPch n v).svns = s.svns := rfl
@[simp] theorem State.setPch_etherUp (s : State) (n : Nat) (v : PseudoChannel) : (s.setPch n v).etherUp = s.etherUp := rfl
@[simp] theorem State.setPch_attested (s : State) (n : Nat) (v : PseudoChannel) : (s.setPch n v).attested = s.attested := rfl
@[simp] theorem State.setPch_fenced (s : State) (n : Nat) (v : PseudoChannel) : (s.setPch n v).fenced = s.fenced := rfl
@[simp] theorem State.setPch_inputs (s : State) (n : Nat) (v : PseudoChannel) : (s.setPch n v).inputs = s.inputs := rfl
@[simp] theorem State.setPch_tick (s : State) (n : Nat) (v : PseudoChannel) : (s.setPch n v).tick = s.tick := rfl

/-! The update of one partition. -/

@[simp] theorem State.setPart_cur (s : State) (n : Nat) (v : Partition) : (s.setPart n v).cur = s.cur := rfl
@[simp] theorem State.setPart_iss (s : State) (n : Nat) (v : Partition) : (s.setPart n v).iss = s.iss := rfl
@[simp] theorem State.setPart_threads (s : State) (n : Nat) (v : Partition) : (s.setPart n v).threads = s.threads := rfl
@[simp] theorem State.setPart_walks (s : State) (n : Nat) (v : Partition) : (s.setPart n v).walks = s.walks := rfl
@[simp] theorem State.setPart_ctxs (s : State) (n : Nat) (v : Partition) : (s.setPart n v).ctxs = s.ctxs := rfl
@[simp] theorem State.setPart_cores (s : State) (n : Nat) (v : Partition) : (s.setPart n v).cores = s.cores := rfl
@[simp] theorem State.setPart_clusters (s : State) (n : Nat) (v : Partition) : (s.setPart n v).clusters = s.clusters := rfl
@[simp] theorem State.setPart_quads (s : State) (n : Nat) (v : Partition) : (s.setPart n v).quads = s.quads := rfl
@[simp] theorem State.setPart_arrays (s : State) (n : Nat) (v : Partition) : (s.setPart n v).arrays = s.arrays := rfl
@[simp] theorem State.setPart_hbm (s : State) (n : Nat) (v : Partition) : (s.setPart n v).hbm = s.hbm := rfl
@[simp] theorem State.setPart_blockTags (s : State) (n : Nat) (v : Partition) : (s.setPart n v).blockTags = s.blockTags := rfl
@[simp] theorem State.setPart_weak (s : State) (n : Nat) (v : Partition) : (s.setPart n v).weak = s.weak := rfl
@[simp] theorem State.setPart_l2 (s : State) (n : Nat) (v : Partition) : (s.setPart n v).l2 = s.l2 := rfl
@[simp] theorem State.setPart_wbuf (s : State) (n : Nat) (v : Partition) : (s.setPart n v).wbuf = s.wbuf := rfl
@[simp] theorem State.setPart_paths (s : State) (n : Nat) (v : Partition) : (s.setPart n v).paths = s.paths := rfl
@[simp] theorem State.setPart_serial (s : State) (n : Nat) (v : Partition) : (s.setPart n v).serial = s.serial := rfl
@[simp] theorem State.setPart_regions (s : State) (n : Nat) (v : Partition) : (s.setPart n v).regions = s.regions := rfl
@[simp] theorem State.setPart_regionLock (s : State) (n : Nat) (v : Partition) : (s.setPart n v).regionLock = s.regionLock := rfl
@[simp] theorem State.setPart_ops (s : State) (n : Nat) (v : Partition) : (s.setPart n v).ops = s.ops := rfl
@[simp] theorem State.setPart_nextOp (s : State) (n : Nat) (v : Partition) : (s.setPart n v).nextOp = s.nextOp := rfl
@[simp] theorem State.setPart_pchs (s : State) (n : Nat) (v : Partition) : (s.setPart n v).pchs = s.pchs := rfl
@[simp] theorem State.setPart_syncs (s : State) (n : Nat) (v : Partition) : (s.setPart n v).syncs = s.syncs := rfl
@[simp] theorem State.setPart_barriers (s : State) (n : Nat) (v : Partition) : (s.setPart n v).barriers = s.barriers := rfl
@[simp] theorem State.setPart_domReports (s : State) (n : Nat) (v : Partition) : (s.setPart n v).domReports = s.domReports := rfl
@[simp] theorem State.setPart_tiles (s : State) (n : Nat) (v : Partition) : (s.setPart n v).tiles = s.tiles := rfl
@[simp] theorem State.setPart_gqcfg (s : State) (n : Nat) (v : Partition) : (s.setPart n v).gqcfg = s.gqcfg := rfl
@[simp] theorem State.setPart_tasks (s : State) (n : Nat) (v : Partition) : (s.setPart n v).tasks = s.tasks := rfl
@[simp] theorem State.setPart_nextTask (s : State) (n : Nat) (v : Partition) : (s.setPart n v).nextTask = s.nextTask := rfl
@[simp] theorem State.setPart_pctxs (s : State) (n : Nat) (v : Partition) : (s.setPart n v).pctxs = s.pctxs := rfl
@[simp] theorem State.setPart_records (s : State) (n : Nat) (v : Partition) : (s.setPart n v).records = s.records := rfl
@[simp] theorem State.setPart_stewardLog (s : State) (n : Nat) (v : Partition) : (s.setPart n v).stewardLog = s.stewardLog := rfl
@[simp] theorem State.setPart_errors (s : State) (n : Nat) (v : Partition) : (s.setPart n v).errors = s.errors := rfl
@[simp] theorem State.setPart_lasting (s : State) (n : Nat) (v : Partition) : (s.setPart n v).lasting = s.lasting := rfl
@[simp] theorem State.setPart_retired (s : State) (n : Nat) (v : Partition) : (s.setPart n v).retired = s.retired := rfl
@[simp] theorem State.setPart_outCores (s : State) (n : Nat) (v : Partition) : (s.setPart n v).outCores = s.outCores := rfl
@[simp] theorem State.setPart_cycle (s : State) (n : Nat) (v : Partition) : (s.setPart n v).cycle = s.cycle := rfl
@[simp] theorem State.setPart_timeOff (s : State) (n : Nat) (v : Partition) : (s.setPart n v).timeOff = s.timeOff := rfl
@[simp] theorem State.setPart_sinceFix (s : State) (n : Nat) (v : Partition) : (s.setPart n v).sinceFix = s.sinceFix := rfl
@[simp] theorem State.setPart_sinceBeat (s : State) (n : Nat) (v : Partition) : (s.setPart n v).sinceBeat = s.sinceBeat := rfl
@[simp] theorem State.setPart_memcfg (s : State) (n : Nat) (v : Partition) : (s.setPart n v).memcfg = s.memcfg := rfl
@[simp] theorem State.setPart_tlbinv (s : State) (n : Nat) (v : Partition) : (s.setPart n v).tlbinv = s.tlbinv := rfl
@[simp] theorem State.setPart_tlbinva (s : State) (n : Nat) (v : Partition) : (s.setPart n v).tlbinva = s.tlbinva := rfl
@[simp] theorem State.setPart_hrevoke (s : State) (n : Nat) (v : Partition) : (s.setPart n v).hrevoke = s.hrevoke := rfl
@[simp] theorem State.setPart_barage (s : State) (n : Nat) (v : Partition) : (s.setPart n v).barage = s.barage := rfl
@[simp] theorem State.setPart_dbarcnt (s : State) (n : Nat) (v : Partition) : (s.setPart n v).dbarcnt = s.dbarcnt := rfl
@[simp] theorem State.setPart_ports (s : State) (n : Nat) (v : Partition) : (s.setPart n v).ports = s.ports := rfl
@[simp] theorem State.setPart_domid (s : State) (n : Nat) (v : Partition) : (s.setPart n v).domid = s.domid := rfl
@[simp] theorem State.setPart_flagsSeen (s : State) (n : Nat) (v : Partition) : (s.setPart n v).flagsSeen = s.flagsSeen := rfl
@[simp] theorem State.setPart_packetsSeen (s : State) (n : Nat) (v : Partition) : (s.setPart n v).packetsSeen = s.packetsSeen := rfl
@[simp] theorem State.setPart_interrupts (s : State) (n : Nat) (v : Partition) : (s.setPart n v).interrupts = s.interrupts := rfl
@[simp] theorem State.setPart_nor (s : State) (n : Nat) (v : Partition) : (s.setPart n v).nor = s.nor := rfl
@[simp] theorem State.setPart_ufs (s : State) (n : Nat) (v : Partition) : (s.setPart n v).ufs = s.ufs := rfl
@[simp] theorem State.setPart_bootStage (s : State) (n : Nat) (v : Partition) : (s.setPart n v).bootStage = s.bootStage := rfl
@[simp] theorem State.setPart_bootErr (s : State) (n : Nat) (v : Partition) : (s.setPart n v).bootErr = s.bootErr := rfl
@[simp] theorem State.setPart_bootFailed (s : State) (n : Nat) (v : Partition) : (s.setPart n v).bootFailed = s.bootFailed := rfl
@[simp] theorem State.setPart_rootPort (s : State) (n : Nat) (v : Partition) : (s.setPart n v).rootPort = s.rootPort := rfl
@[simp] theorem State.setPart_meas (s : State) (n : Nat) (v : Partition) : (s.setPart n v).meas = s.meas := rfl
@[simp] theorem State.setPart_digest (s : State) (n : Nat) (v : Partition) : (s.setPart n v).digest = s.digest := rfl
@[simp] theorem State.setPart_mext (s : State) (n : Nat) (v : Partition) : (s.setPart n v).mext = s.mext := rfl
@[simp] theorem State.setPart_hot (s : State) (n : Nat) (v : Partition) : (s.setPart n v).hot = s.hot := rfl
@[simp] theorem State.setPart_pwr (s : State) (n : Nat) (v : Partition) : (s.setPart n v).pwr = s.pwr := rfl
@[simp] theorem State.setPart_tdie0 (s : State) (n : Nat) (v : Partition) : (s.setPart n v).tdie0 = s.tdie0 := rfl
@[simp] theorem State.setPart_tdie1 (s : State) (n : Nat) (v : Partition) : (s.setPart n v).tdie1 = s.tdie1 := rfl
@[simp] theorem State.setPart_powered (s : State) (n : Nat) (v : Partition) : (s.setPart n v).powered = s.powered := rfl
@[simp] theorem State.setPart_harts (s : State) (n : Nat) (v : Partition) : (s.setPart n v).harts = s.harts := rfl
@[simp] theorem State.setPart_svns (s : State) (n : Nat) (v : Partition) : (s.setPart n v).svns = s.svns := rfl
@[simp] theorem State.setPart_etherUp (s : State) (n : Nat) (v : Partition) : (s.setPart n v).etherUp = s.etherUp := rfl
@[simp] theorem State.setPart_attested (s : State) (n : Nat) (v : Partition) : (s.setPart n v).attested = s.attested := rfl
@[simp] theorem State.setPart_fenced (s : State) (n : Nat) (v : Partition) : (s.setPart n v).fenced = s.fenced := rfl
@[simp] theorem State.setPart_inputs (s : State) (n : Nat) (v : Partition) : (s.setPart n v).inputs = s.inputs := rfl
@[simp] theorem State.setPart_tick (s : State) (n : Nat) (v : Partition) : (s.setPart n v).tick = s.tick := rfl

/-! The update of one partition context. -/

@[simp] theorem State.setPctx_cur (s : State) (n : Nat) (c : Bool) (v : PartCtx) : (s.setPctx n c v).cur = s.cur := rfl
@[simp] theorem State.setPctx_iss (s : State) (n : Nat) (c : Bool) (v : PartCtx) : (s.setPctx n c v).iss = s.iss := rfl
@[simp] theorem State.setPctx_threads (s : State) (n : Nat) (c : Bool) (v : PartCtx) : (s.setPctx n c v).threads = s.threads := rfl
@[simp] theorem State.setPctx_walks (s : State) (n : Nat) (c : Bool) (v : PartCtx) : (s.setPctx n c v).walks = s.walks := rfl
@[simp] theorem State.setPctx_ctxs (s : State) (n : Nat) (c : Bool) (v : PartCtx) : (s.setPctx n c v).ctxs = s.ctxs := rfl
@[simp] theorem State.setPctx_cores (s : State) (n : Nat) (c : Bool) (v : PartCtx) : (s.setPctx n c v).cores = s.cores := rfl
@[simp] theorem State.setPctx_clusters (s : State) (n : Nat) (c : Bool) (v : PartCtx) : (s.setPctx n c v).clusters = s.clusters := rfl
@[simp] theorem State.setPctx_quads (s : State) (n : Nat) (c : Bool) (v : PartCtx) : (s.setPctx n c v).quads = s.quads := rfl
@[simp] theorem State.setPctx_arrays (s : State) (n : Nat) (c : Bool) (v : PartCtx) : (s.setPctx n c v).arrays = s.arrays := rfl
@[simp] theorem State.setPctx_hbm (s : State) (n : Nat) (c : Bool) (v : PartCtx) : (s.setPctx n c v).hbm = s.hbm := rfl
@[simp] theorem State.setPctx_blockTags (s : State) (n : Nat) (c : Bool) (v : PartCtx) : (s.setPctx n c v).blockTags = s.blockTags := rfl
@[simp] theorem State.setPctx_weak (s : State) (n : Nat) (c : Bool) (v : PartCtx) : (s.setPctx n c v).weak = s.weak := rfl
@[simp] theorem State.setPctx_l2 (s : State) (n : Nat) (c : Bool) (v : PartCtx) : (s.setPctx n c v).l2 = s.l2 := rfl
@[simp] theorem State.setPctx_wbuf (s : State) (n : Nat) (c : Bool) (v : PartCtx) : (s.setPctx n c v).wbuf = s.wbuf := rfl
@[simp] theorem State.setPctx_paths (s : State) (n : Nat) (c : Bool) (v : PartCtx) : (s.setPctx n c v).paths = s.paths := rfl
@[simp] theorem State.setPctx_serial (s : State) (n : Nat) (c : Bool) (v : PartCtx) : (s.setPctx n c v).serial = s.serial := rfl
@[simp] theorem State.setPctx_regions (s : State) (n : Nat) (c : Bool) (v : PartCtx) : (s.setPctx n c v).regions = s.regions := rfl
@[simp] theorem State.setPctx_regionLock (s : State) (n : Nat) (c : Bool) (v : PartCtx) : (s.setPctx n c v).regionLock = s.regionLock := rfl
@[simp] theorem State.setPctx_ops (s : State) (n : Nat) (c : Bool) (v : PartCtx) : (s.setPctx n c v).ops = s.ops := rfl
@[simp] theorem State.setPctx_nextOp (s : State) (n : Nat) (c : Bool) (v : PartCtx) : (s.setPctx n c v).nextOp = s.nextOp := rfl
@[simp] theorem State.setPctx_pchs (s : State) (n : Nat) (c : Bool) (v : PartCtx) : (s.setPctx n c v).pchs = s.pchs := rfl
@[simp] theorem State.setPctx_syncs (s : State) (n : Nat) (c : Bool) (v : PartCtx) : (s.setPctx n c v).syncs = s.syncs := rfl
@[simp] theorem State.setPctx_barriers (s : State) (n : Nat) (c : Bool) (v : PartCtx) : (s.setPctx n c v).barriers = s.barriers := rfl
@[simp] theorem State.setPctx_domReports (s : State) (n : Nat) (c : Bool) (v : PartCtx) : (s.setPctx n c v).domReports = s.domReports := rfl
@[simp] theorem State.setPctx_tiles (s : State) (n : Nat) (c : Bool) (v : PartCtx) : (s.setPctx n c v).tiles = s.tiles := rfl
@[simp] theorem State.setPctx_gqcfg (s : State) (n : Nat) (c : Bool) (v : PartCtx) : (s.setPctx n c v).gqcfg = s.gqcfg := rfl
@[simp] theorem State.setPctx_tasks (s : State) (n : Nat) (c : Bool) (v : PartCtx) : (s.setPctx n c v).tasks = s.tasks := rfl
@[simp] theorem State.setPctx_nextTask (s : State) (n : Nat) (c : Bool) (v : PartCtx) : (s.setPctx n c v).nextTask = s.nextTask := rfl
@[simp] theorem State.setPctx_parts (s : State) (n : Nat) (c : Bool) (v : PartCtx) : (s.setPctx n c v).parts = s.parts := rfl
@[simp] theorem State.setPctx_records (s : State) (n : Nat) (c : Bool) (v : PartCtx) : (s.setPctx n c v).records = s.records := rfl
@[simp] theorem State.setPctx_stewardLog (s : State) (n : Nat) (c : Bool) (v : PartCtx) : (s.setPctx n c v).stewardLog = s.stewardLog := rfl
@[simp] theorem State.setPctx_errors (s : State) (n : Nat) (c : Bool) (v : PartCtx) : (s.setPctx n c v).errors = s.errors := rfl
@[simp] theorem State.setPctx_lasting (s : State) (n : Nat) (c : Bool) (v : PartCtx) : (s.setPctx n c v).lasting = s.lasting := rfl
@[simp] theorem State.setPctx_retired (s : State) (n : Nat) (c : Bool) (v : PartCtx) : (s.setPctx n c v).retired = s.retired := rfl
@[simp] theorem State.setPctx_outCores (s : State) (n : Nat) (c : Bool) (v : PartCtx) : (s.setPctx n c v).outCores = s.outCores := rfl
@[simp] theorem State.setPctx_cycle (s : State) (n : Nat) (c : Bool) (v : PartCtx) : (s.setPctx n c v).cycle = s.cycle := rfl
@[simp] theorem State.setPctx_timeOff (s : State) (n : Nat) (c : Bool) (v : PartCtx) : (s.setPctx n c v).timeOff = s.timeOff := rfl
@[simp] theorem State.setPctx_sinceFix (s : State) (n : Nat) (c : Bool) (v : PartCtx) : (s.setPctx n c v).sinceFix = s.sinceFix := rfl
@[simp] theorem State.setPctx_sinceBeat (s : State) (n : Nat) (c : Bool) (v : PartCtx) : (s.setPctx n c v).sinceBeat = s.sinceBeat := rfl
@[simp] theorem State.setPctx_memcfg (s : State) (n : Nat) (c : Bool) (v : PartCtx) : (s.setPctx n c v).memcfg = s.memcfg := rfl
@[simp] theorem State.setPctx_tlbinv (s : State) (n : Nat) (c : Bool) (v : PartCtx) : (s.setPctx n c v).tlbinv = s.tlbinv := rfl
@[simp] theorem State.setPctx_tlbinva (s : State) (n : Nat) (c : Bool) (v : PartCtx) : (s.setPctx n c v).tlbinva = s.tlbinva := rfl
@[simp] theorem State.setPctx_hrevoke (s : State) (n : Nat) (c : Bool) (v : PartCtx) : (s.setPctx n c v).hrevoke = s.hrevoke := rfl
@[simp] theorem State.setPctx_barage (s : State) (n : Nat) (c : Bool) (v : PartCtx) : (s.setPctx n c v).barage = s.barage := rfl
@[simp] theorem State.setPctx_dbarcnt (s : State) (n : Nat) (c : Bool) (v : PartCtx) : (s.setPctx n c v).dbarcnt = s.dbarcnt := rfl
@[simp] theorem State.setPctx_ports (s : State) (n : Nat) (c : Bool) (v : PartCtx) : (s.setPctx n c v).ports = s.ports := rfl
@[simp] theorem State.setPctx_domid (s : State) (n : Nat) (c : Bool) (v : PartCtx) : (s.setPctx n c v).domid = s.domid := rfl
@[simp] theorem State.setPctx_flagsSeen (s : State) (n : Nat) (c : Bool) (v : PartCtx) : (s.setPctx n c v).flagsSeen = s.flagsSeen := rfl
@[simp] theorem State.setPctx_packetsSeen (s : State) (n : Nat) (c : Bool) (v : PartCtx) : (s.setPctx n c v).packetsSeen = s.packetsSeen := rfl
@[simp] theorem State.setPctx_interrupts (s : State) (n : Nat) (c : Bool) (v : PartCtx) : (s.setPctx n c v).interrupts = s.interrupts := rfl
@[simp] theorem State.setPctx_nor (s : State) (n : Nat) (c : Bool) (v : PartCtx) : (s.setPctx n c v).nor = s.nor := rfl
@[simp] theorem State.setPctx_ufs (s : State) (n : Nat) (c : Bool) (v : PartCtx) : (s.setPctx n c v).ufs = s.ufs := rfl
@[simp] theorem State.setPctx_bootStage (s : State) (n : Nat) (c : Bool) (v : PartCtx) : (s.setPctx n c v).bootStage = s.bootStage := rfl
@[simp] theorem State.setPctx_bootErr (s : State) (n : Nat) (c : Bool) (v : PartCtx) : (s.setPctx n c v).bootErr = s.bootErr := rfl
@[simp] theorem State.setPctx_bootFailed (s : State) (n : Nat) (c : Bool) (v : PartCtx) : (s.setPctx n c v).bootFailed = s.bootFailed := rfl
@[simp] theorem State.setPctx_rootPort (s : State) (n : Nat) (c : Bool) (v : PartCtx) : (s.setPctx n c v).rootPort = s.rootPort := rfl
@[simp] theorem State.setPctx_meas (s : State) (n : Nat) (c : Bool) (v : PartCtx) : (s.setPctx n c v).meas = s.meas := rfl
@[simp] theorem State.setPctx_digest (s : State) (n : Nat) (c : Bool) (v : PartCtx) : (s.setPctx n c v).digest = s.digest := rfl
@[simp] theorem State.setPctx_mext (s : State) (n : Nat) (c : Bool) (v : PartCtx) : (s.setPctx n c v).mext = s.mext := rfl
@[simp] theorem State.setPctx_hot (s : State) (n : Nat) (c : Bool) (v : PartCtx) : (s.setPctx n c v).hot = s.hot := rfl
@[simp] theorem State.setPctx_pwr (s : State) (n : Nat) (c : Bool) (v : PartCtx) : (s.setPctx n c v).pwr = s.pwr := rfl
@[simp] theorem State.setPctx_tdie0 (s : State) (n : Nat) (c : Bool) (v : PartCtx) : (s.setPctx n c v).tdie0 = s.tdie0 := rfl
@[simp] theorem State.setPctx_tdie1 (s : State) (n : Nat) (c : Bool) (v : PartCtx) : (s.setPctx n c v).tdie1 = s.tdie1 := rfl
@[simp] theorem State.setPctx_powered (s : State) (n : Nat) (c : Bool) (v : PartCtx) : (s.setPctx n c v).powered = s.powered := rfl
@[simp] theorem State.setPctx_harts (s : State) (n : Nat) (c : Bool) (v : PartCtx) : (s.setPctx n c v).harts = s.harts := rfl
@[simp] theorem State.setPctx_svns (s : State) (n : Nat) (c : Bool) (v : PartCtx) : (s.setPctx n c v).svns = s.svns := rfl
@[simp] theorem State.setPctx_etherUp (s : State) (n : Nat) (c : Bool) (v : PartCtx) : (s.setPctx n c v).etherUp = s.etherUp := rfl
@[simp] theorem State.setPctx_attested (s : State) (n : Nat) (c : Bool) (v : PartCtx) : (s.setPctx n c v).attested = s.attested := rfl
@[simp] theorem State.setPctx_fenced (s : State) (n : Nat) (c : Bool) (v : PartCtx) : (s.setPctx n c v).fenced = s.fenced := rfl
@[simp] theorem State.setPctx_inputs (s : State) (n : Nat) (c : Bool) (v : PartCtx) : (s.setPctx n c v).inputs = s.inputs := rfl
@[simp] theorem State.setPctx_tick (s : State) (n : Nat) (c : Bool) (v : PartCtx) : (s.setPctx n c v).tick = s.tick := rfl

/-! The update of one sync object. -/

@[simp] theorem State.setSync_cur (s : State) (n : Nat) (v : SyncObject) : (s.setSync n v).cur = s.cur := rfl
@[simp] theorem State.setSync_iss (s : State) (n : Nat) (v : SyncObject) : (s.setSync n v).iss = s.iss := rfl
@[simp] theorem State.setSync_threads (s : State) (n : Nat) (v : SyncObject) : (s.setSync n v).threads = s.threads := rfl
@[simp] theorem State.setSync_walks (s : State) (n : Nat) (v : SyncObject) : (s.setSync n v).walks = s.walks := rfl
@[simp] theorem State.setSync_ctxs (s : State) (n : Nat) (v : SyncObject) : (s.setSync n v).ctxs = s.ctxs := rfl
@[simp] theorem State.setSync_cores (s : State) (n : Nat) (v : SyncObject) : (s.setSync n v).cores = s.cores := rfl
@[simp] theorem State.setSync_clusters (s : State) (n : Nat) (v : SyncObject) : (s.setSync n v).clusters = s.clusters := rfl
@[simp] theorem State.setSync_quads (s : State) (n : Nat) (v : SyncObject) : (s.setSync n v).quads = s.quads := rfl
@[simp] theorem State.setSync_arrays (s : State) (n : Nat) (v : SyncObject) : (s.setSync n v).arrays = s.arrays := rfl
@[simp] theorem State.setSync_hbm (s : State) (n : Nat) (v : SyncObject) : (s.setSync n v).hbm = s.hbm := rfl
@[simp] theorem State.setSync_blockTags (s : State) (n : Nat) (v : SyncObject) : (s.setSync n v).blockTags = s.blockTags := rfl
@[simp] theorem State.setSync_weak (s : State) (n : Nat) (v : SyncObject) : (s.setSync n v).weak = s.weak := rfl
@[simp] theorem State.setSync_l2 (s : State) (n : Nat) (v : SyncObject) : (s.setSync n v).l2 = s.l2 := rfl
@[simp] theorem State.setSync_wbuf (s : State) (n : Nat) (v : SyncObject) : (s.setSync n v).wbuf = s.wbuf := rfl
@[simp] theorem State.setSync_paths (s : State) (n : Nat) (v : SyncObject) : (s.setSync n v).paths = s.paths := rfl
@[simp] theorem State.setSync_serial (s : State) (n : Nat) (v : SyncObject) : (s.setSync n v).serial = s.serial := rfl
@[simp] theorem State.setSync_regions (s : State) (n : Nat) (v : SyncObject) : (s.setSync n v).regions = s.regions := rfl
@[simp] theorem State.setSync_regionLock (s : State) (n : Nat) (v : SyncObject) : (s.setSync n v).regionLock = s.regionLock := rfl
@[simp] theorem State.setSync_ops (s : State) (n : Nat) (v : SyncObject) : (s.setSync n v).ops = s.ops := rfl
@[simp] theorem State.setSync_nextOp (s : State) (n : Nat) (v : SyncObject) : (s.setSync n v).nextOp = s.nextOp := rfl
@[simp] theorem State.setSync_pchs (s : State) (n : Nat) (v : SyncObject) : (s.setSync n v).pchs = s.pchs := rfl
@[simp] theorem State.setSync_barriers (s : State) (n : Nat) (v : SyncObject) : (s.setSync n v).barriers = s.barriers := rfl
@[simp] theorem State.setSync_domReports (s : State) (n : Nat) (v : SyncObject) : (s.setSync n v).domReports = s.domReports := rfl
@[simp] theorem State.setSync_tiles (s : State) (n : Nat) (v : SyncObject) : (s.setSync n v).tiles = s.tiles := rfl
@[simp] theorem State.setSync_gqcfg (s : State) (n : Nat) (v : SyncObject) : (s.setSync n v).gqcfg = s.gqcfg := rfl
@[simp] theorem State.setSync_tasks (s : State) (n : Nat) (v : SyncObject) : (s.setSync n v).tasks = s.tasks := rfl
@[simp] theorem State.setSync_nextTask (s : State) (n : Nat) (v : SyncObject) : (s.setSync n v).nextTask = s.nextTask := rfl
@[simp] theorem State.setSync_parts (s : State) (n : Nat) (v : SyncObject) : (s.setSync n v).parts = s.parts := rfl
@[simp] theorem State.setSync_pctxs (s : State) (n : Nat) (v : SyncObject) : (s.setSync n v).pctxs = s.pctxs := rfl
@[simp] theorem State.setSync_records (s : State) (n : Nat) (v : SyncObject) : (s.setSync n v).records = s.records := rfl
@[simp] theorem State.setSync_stewardLog (s : State) (n : Nat) (v : SyncObject) : (s.setSync n v).stewardLog = s.stewardLog := rfl
@[simp] theorem State.setSync_errors (s : State) (n : Nat) (v : SyncObject) : (s.setSync n v).errors = s.errors := rfl
@[simp] theorem State.setSync_lasting (s : State) (n : Nat) (v : SyncObject) : (s.setSync n v).lasting = s.lasting := rfl
@[simp] theorem State.setSync_retired (s : State) (n : Nat) (v : SyncObject) : (s.setSync n v).retired = s.retired := rfl
@[simp] theorem State.setSync_outCores (s : State) (n : Nat) (v : SyncObject) : (s.setSync n v).outCores = s.outCores := rfl
@[simp] theorem State.setSync_cycle (s : State) (n : Nat) (v : SyncObject) : (s.setSync n v).cycle = s.cycle := rfl
@[simp] theorem State.setSync_timeOff (s : State) (n : Nat) (v : SyncObject) : (s.setSync n v).timeOff = s.timeOff := rfl
@[simp] theorem State.setSync_sinceFix (s : State) (n : Nat) (v : SyncObject) : (s.setSync n v).sinceFix = s.sinceFix := rfl
@[simp] theorem State.setSync_sinceBeat (s : State) (n : Nat) (v : SyncObject) : (s.setSync n v).sinceBeat = s.sinceBeat := rfl
@[simp] theorem State.setSync_memcfg (s : State) (n : Nat) (v : SyncObject) : (s.setSync n v).memcfg = s.memcfg := rfl
@[simp] theorem State.setSync_tlbinv (s : State) (n : Nat) (v : SyncObject) : (s.setSync n v).tlbinv = s.tlbinv := rfl
@[simp] theorem State.setSync_tlbinva (s : State) (n : Nat) (v : SyncObject) : (s.setSync n v).tlbinva = s.tlbinva := rfl
@[simp] theorem State.setSync_hrevoke (s : State) (n : Nat) (v : SyncObject) : (s.setSync n v).hrevoke = s.hrevoke := rfl
@[simp] theorem State.setSync_barage (s : State) (n : Nat) (v : SyncObject) : (s.setSync n v).barage = s.barage := rfl
@[simp] theorem State.setSync_dbarcnt (s : State) (n : Nat) (v : SyncObject) : (s.setSync n v).dbarcnt = s.dbarcnt := rfl
@[simp] theorem State.setSync_ports (s : State) (n : Nat) (v : SyncObject) : (s.setSync n v).ports = s.ports := rfl
@[simp] theorem State.setSync_domid (s : State) (n : Nat) (v : SyncObject) : (s.setSync n v).domid = s.domid := rfl
@[simp] theorem State.setSync_flagsSeen (s : State) (n : Nat) (v : SyncObject) : (s.setSync n v).flagsSeen = s.flagsSeen := rfl
@[simp] theorem State.setSync_packetsSeen (s : State) (n : Nat) (v : SyncObject) : (s.setSync n v).packetsSeen = s.packetsSeen := rfl
@[simp] theorem State.setSync_interrupts (s : State) (n : Nat) (v : SyncObject) : (s.setSync n v).interrupts = s.interrupts := rfl
@[simp] theorem State.setSync_nor (s : State) (n : Nat) (v : SyncObject) : (s.setSync n v).nor = s.nor := rfl
@[simp] theorem State.setSync_ufs (s : State) (n : Nat) (v : SyncObject) : (s.setSync n v).ufs = s.ufs := rfl
@[simp] theorem State.setSync_bootStage (s : State) (n : Nat) (v : SyncObject) : (s.setSync n v).bootStage = s.bootStage := rfl
@[simp] theorem State.setSync_bootErr (s : State) (n : Nat) (v : SyncObject) : (s.setSync n v).bootErr = s.bootErr := rfl
@[simp] theorem State.setSync_bootFailed (s : State) (n : Nat) (v : SyncObject) : (s.setSync n v).bootFailed = s.bootFailed := rfl
@[simp] theorem State.setSync_rootPort (s : State) (n : Nat) (v : SyncObject) : (s.setSync n v).rootPort = s.rootPort := rfl
@[simp] theorem State.setSync_meas (s : State) (n : Nat) (v : SyncObject) : (s.setSync n v).meas = s.meas := rfl
@[simp] theorem State.setSync_digest (s : State) (n : Nat) (v : SyncObject) : (s.setSync n v).digest = s.digest := rfl
@[simp] theorem State.setSync_mext (s : State) (n : Nat) (v : SyncObject) : (s.setSync n v).mext = s.mext := rfl
@[simp] theorem State.setSync_hot (s : State) (n : Nat) (v : SyncObject) : (s.setSync n v).hot = s.hot := rfl
@[simp] theorem State.setSync_pwr (s : State) (n : Nat) (v : SyncObject) : (s.setSync n v).pwr = s.pwr := rfl
@[simp] theorem State.setSync_tdie0 (s : State) (n : Nat) (v : SyncObject) : (s.setSync n v).tdie0 = s.tdie0 := rfl
@[simp] theorem State.setSync_tdie1 (s : State) (n : Nat) (v : SyncObject) : (s.setSync n v).tdie1 = s.tdie1 := rfl
@[simp] theorem State.setSync_powered (s : State) (n : Nat) (v : SyncObject) : (s.setSync n v).powered = s.powered := rfl
@[simp] theorem State.setSync_harts (s : State) (n : Nat) (v : SyncObject) : (s.setSync n v).harts = s.harts := rfl
@[simp] theorem State.setSync_svns (s : State) (n : Nat) (v : SyncObject) : (s.setSync n v).svns = s.svns := rfl
@[simp] theorem State.setSync_etherUp (s : State) (n : Nat) (v : SyncObject) : (s.setSync n v).etherUp = s.etherUp := rfl
@[simp] theorem State.setSync_attested (s : State) (n : Nat) (v : SyncObject) : (s.setSync n v).attested = s.attested := rfl
@[simp] theorem State.setSync_fenced (s : State) (n : Nat) (v : SyncObject) : (s.setSync n v).fenced = s.fenced := rfl
@[simp] theorem State.setSync_inputs (s : State) (n : Nat) (v : SyncObject) : (s.setSync n v).inputs = s.inputs := rfl
@[simp] theorem State.setSync_tick (s : State) (n : Nat) (v : SyncObject) : (s.setSync n v).tick = s.tick := rfl

/-! The update of one barrier object. -/

@[simp] theorem State.setBarrier_cur (s : State) (n : Nat) (v : Barrier) : (s.setBarrier n v).cur = s.cur := rfl
@[simp] theorem State.setBarrier_iss (s : State) (n : Nat) (v : Barrier) : (s.setBarrier n v).iss = s.iss := rfl
@[simp] theorem State.setBarrier_threads (s : State) (n : Nat) (v : Barrier) : (s.setBarrier n v).threads = s.threads := rfl
@[simp] theorem State.setBarrier_walks (s : State) (n : Nat) (v : Barrier) : (s.setBarrier n v).walks = s.walks := rfl
@[simp] theorem State.setBarrier_ctxs (s : State) (n : Nat) (v : Barrier) : (s.setBarrier n v).ctxs = s.ctxs := rfl
@[simp] theorem State.setBarrier_cores (s : State) (n : Nat) (v : Barrier) : (s.setBarrier n v).cores = s.cores := rfl
@[simp] theorem State.setBarrier_clusters (s : State) (n : Nat) (v : Barrier) : (s.setBarrier n v).clusters = s.clusters := rfl
@[simp] theorem State.setBarrier_quads (s : State) (n : Nat) (v : Barrier) : (s.setBarrier n v).quads = s.quads := rfl
@[simp] theorem State.setBarrier_arrays (s : State) (n : Nat) (v : Barrier) : (s.setBarrier n v).arrays = s.arrays := rfl
@[simp] theorem State.setBarrier_hbm (s : State) (n : Nat) (v : Barrier) : (s.setBarrier n v).hbm = s.hbm := rfl
@[simp] theorem State.setBarrier_blockTags (s : State) (n : Nat) (v : Barrier) : (s.setBarrier n v).blockTags = s.blockTags := rfl
@[simp] theorem State.setBarrier_weak (s : State) (n : Nat) (v : Barrier) : (s.setBarrier n v).weak = s.weak := rfl
@[simp] theorem State.setBarrier_l2 (s : State) (n : Nat) (v : Barrier) : (s.setBarrier n v).l2 = s.l2 := rfl
@[simp] theorem State.setBarrier_wbuf (s : State) (n : Nat) (v : Barrier) : (s.setBarrier n v).wbuf = s.wbuf := rfl
@[simp] theorem State.setBarrier_paths (s : State) (n : Nat) (v : Barrier) : (s.setBarrier n v).paths = s.paths := rfl
@[simp] theorem State.setBarrier_serial (s : State) (n : Nat) (v : Barrier) : (s.setBarrier n v).serial = s.serial := rfl
@[simp] theorem State.setBarrier_regions (s : State) (n : Nat) (v : Barrier) : (s.setBarrier n v).regions = s.regions := rfl
@[simp] theorem State.setBarrier_regionLock (s : State) (n : Nat) (v : Barrier) : (s.setBarrier n v).regionLock = s.regionLock := rfl
@[simp] theorem State.setBarrier_ops (s : State) (n : Nat) (v : Barrier) : (s.setBarrier n v).ops = s.ops := rfl
@[simp] theorem State.setBarrier_nextOp (s : State) (n : Nat) (v : Barrier) : (s.setBarrier n v).nextOp = s.nextOp := rfl
@[simp] theorem State.setBarrier_pchs (s : State) (n : Nat) (v : Barrier) : (s.setBarrier n v).pchs = s.pchs := rfl
@[simp] theorem State.setBarrier_syncs (s : State) (n : Nat) (v : Barrier) : (s.setBarrier n v).syncs = s.syncs := rfl
@[simp] theorem State.setBarrier_domReports (s : State) (n : Nat) (v : Barrier) : (s.setBarrier n v).domReports = s.domReports := rfl
@[simp] theorem State.setBarrier_tiles (s : State) (n : Nat) (v : Barrier) : (s.setBarrier n v).tiles = s.tiles := rfl
@[simp] theorem State.setBarrier_gqcfg (s : State) (n : Nat) (v : Barrier) : (s.setBarrier n v).gqcfg = s.gqcfg := rfl
@[simp] theorem State.setBarrier_tasks (s : State) (n : Nat) (v : Barrier) : (s.setBarrier n v).tasks = s.tasks := rfl
@[simp] theorem State.setBarrier_nextTask (s : State) (n : Nat) (v : Barrier) : (s.setBarrier n v).nextTask = s.nextTask := rfl
@[simp] theorem State.setBarrier_parts (s : State) (n : Nat) (v : Barrier) : (s.setBarrier n v).parts = s.parts := rfl
@[simp] theorem State.setBarrier_pctxs (s : State) (n : Nat) (v : Barrier) : (s.setBarrier n v).pctxs = s.pctxs := rfl
@[simp] theorem State.setBarrier_records (s : State) (n : Nat) (v : Barrier) : (s.setBarrier n v).records = s.records := rfl
@[simp] theorem State.setBarrier_stewardLog (s : State) (n : Nat) (v : Barrier) : (s.setBarrier n v).stewardLog = s.stewardLog := rfl
@[simp] theorem State.setBarrier_errors (s : State) (n : Nat) (v : Barrier) : (s.setBarrier n v).errors = s.errors := rfl
@[simp] theorem State.setBarrier_lasting (s : State) (n : Nat) (v : Barrier) : (s.setBarrier n v).lasting = s.lasting := rfl
@[simp] theorem State.setBarrier_retired (s : State) (n : Nat) (v : Barrier) : (s.setBarrier n v).retired = s.retired := rfl
@[simp] theorem State.setBarrier_outCores (s : State) (n : Nat) (v : Barrier) : (s.setBarrier n v).outCores = s.outCores := rfl
@[simp] theorem State.setBarrier_cycle (s : State) (n : Nat) (v : Barrier) : (s.setBarrier n v).cycle = s.cycle := rfl
@[simp] theorem State.setBarrier_timeOff (s : State) (n : Nat) (v : Barrier) : (s.setBarrier n v).timeOff = s.timeOff := rfl
@[simp] theorem State.setBarrier_sinceFix (s : State) (n : Nat) (v : Barrier) : (s.setBarrier n v).sinceFix = s.sinceFix := rfl
@[simp] theorem State.setBarrier_sinceBeat (s : State) (n : Nat) (v : Barrier) : (s.setBarrier n v).sinceBeat = s.sinceBeat := rfl
@[simp] theorem State.setBarrier_memcfg (s : State) (n : Nat) (v : Barrier) : (s.setBarrier n v).memcfg = s.memcfg := rfl
@[simp] theorem State.setBarrier_tlbinv (s : State) (n : Nat) (v : Barrier) : (s.setBarrier n v).tlbinv = s.tlbinv := rfl
@[simp] theorem State.setBarrier_tlbinva (s : State) (n : Nat) (v : Barrier) : (s.setBarrier n v).tlbinva = s.tlbinva := rfl
@[simp] theorem State.setBarrier_hrevoke (s : State) (n : Nat) (v : Barrier) : (s.setBarrier n v).hrevoke = s.hrevoke := rfl
@[simp] theorem State.setBarrier_barage (s : State) (n : Nat) (v : Barrier) : (s.setBarrier n v).barage = s.barage := rfl
@[simp] theorem State.setBarrier_dbarcnt (s : State) (n : Nat) (v : Barrier) : (s.setBarrier n v).dbarcnt = s.dbarcnt := rfl
@[simp] theorem State.setBarrier_ports (s : State) (n : Nat) (v : Barrier) : (s.setBarrier n v).ports = s.ports := rfl
@[simp] theorem State.setBarrier_domid (s : State) (n : Nat) (v : Barrier) : (s.setBarrier n v).domid = s.domid := rfl
@[simp] theorem State.setBarrier_flagsSeen (s : State) (n : Nat) (v : Barrier) : (s.setBarrier n v).flagsSeen = s.flagsSeen := rfl
@[simp] theorem State.setBarrier_packetsSeen (s : State) (n : Nat) (v : Barrier) : (s.setBarrier n v).packetsSeen = s.packetsSeen := rfl
@[simp] theorem State.setBarrier_interrupts (s : State) (n : Nat) (v : Barrier) : (s.setBarrier n v).interrupts = s.interrupts := rfl
@[simp] theorem State.setBarrier_nor (s : State) (n : Nat) (v : Barrier) : (s.setBarrier n v).nor = s.nor := rfl
@[simp] theorem State.setBarrier_ufs (s : State) (n : Nat) (v : Barrier) : (s.setBarrier n v).ufs = s.ufs := rfl
@[simp] theorem State.setBarrier_bootStage (s : State) (n : Nat) (v : Barrier) : (s.setBarrier n v).bootStage = s.bootStage := rfl
@[simp] theorem State.setBarrier_bootErr (s : State) (n : Nat) (v : Barrier) : (s.setBarrier n v).bootErr = s.bootErr := rfl
@[simp] theorem State.setBarrier_bootFailed (s : State) (n : Nat) (v : Barrier) : (s.setBarrier n v).bootFailed = s.bootFailed := rfl
@[simp] theorem State.setBarrier_rootPort (s : State) (n : Nat) (v : Barrier) : (s.setBarrier n v).rootPort = s.rootPort := rfl
@[simp] theorem State.setBarrier_meas (s : State) (n : Nat) (v : Barrier) : (s.setBarrier n v).meas = s.meas := rfl
@[simp] theorem State.setBarrier_digest (s : State) (n : Nat) (v : Barrier) : (s.setBarrier n v).digest = s.digest := rfl
@[simp] theorem State.setBarrier_mext (s : State) (n : Nat) (v : Barrier) : (s.setBarrier n v).mext = s.mext := rfl
@[simp] theorem State.setBarrier_hot (s : State) (n : Nat) (v : Barrier) : (s.setBarrier n v).hot = s.hot := rfl
@[simp] theorem State.setBarrier_pwr (s : State) (n : Nat) (v : Barrier) : (s.setBarrier n v).pwr = s.pwr := rfl
@[simp] theorem State.setBarrier_tdie0 (s : State) (n : Nat) (v : Barrier) : (s.setBarrier n v).tdie0 = s.tdie0 := rfl
@[simp] theorem State.setBarrier_tdie1 (s : State) (n : Nat) (v : Barrier) : (s.setBarrier n v).tdie1 = s.tdie1 := rfl
@[simp] theorem State.setBarrier_powered (s : State) (n : Nat) (v : Barrier) : (s.setBarrier n v).powered = s.powered := rfl
@[simp] theorem State.setBarrier_harts (s : State) (n : Nat) (v : Barrier) : (s.setBarrier n v).harts = s.harts := rfl
@[simp] theorem State.setBarrier_svns (s : State) (n : Nat) (v : Barrier) : (s.setBarrier n v).svns = s.svns := rfl
@[simp] theorem State.setBarrier_etherUp (s : State) (n : Nat) (v : Barrier) : (s.setBarrier n v).etherUp = s.etherUp := rfl
@[simp] theorem State.setBarrier_attested (s : State) (n : Nat) (v : Barrier) : (s.setBarrier n v).attested = s.attested := rfl
@[simp] theorem State.setBarrier_fenced (s : State) (n : Nat) (v : Barrier) : (s.setBarrier n v).fenced = s.fenced := rfl
@[simp] theorem State.setBarrier_inputs (s : State) (n : Nat) (v : Barrier) : (s.setBarrier n v).inputs = s.inputs := rfl
@[simp] theorem State.setBarrier_tick (s : State) (n : Nat) (v : Barrier) : (s.setBarrier n v).tick = s.tick := rfl

/-! The update of one steward hart. -/

@[simp] theorem State.setHart_cur (s : State) (n : Nat) (v : Hart) : (s.setHart n v).cur = s.cur := rfl
@[simp] theorem State.setHart_iss (s : State) (n : Nat) (v : Hart) : (s.setHart n v).iss = s.iss := rfl
@[simp] theorem State.setHart_threads (s : State) (n : Nat) (v : Hart) : (s.setHart n v).threads = s.threads := rfl
@[simp] theorem State.setHart_walks (s : State) (n : Nat) (v : Hart) : (s.setHart n v).walks = s.walks := rfl
@[simp] theorem State.setHart_ctxs (s : State) (n : Nat) (v : Hart) : (s.setHart n v).ctxs = s.ctxs := rfl
@[simp] theorem State.setHart_cores (s : State) (n : Nat) (v : Hart) : (s.setHart n v).cores = s.cores := rfl
@[simp] theorem State.setHart_clusters (s : State) (n : Nat) (v : Hart) : (s.setHart n v).clusters = s.clusters := rfl
@[simp] theorem State.setHart_quads (s : State) (n : Nat) (v : Hart) : (s.setHart n v).quads = s.quads := rfl
@[simp] theorem State.setHart_arrays (s : State) (n : Nat) (v : Hart) : (s.setHart n v).arrays = s.arrays := rfl
@[simp] theorem State.setHart_hbm (s : State) (n : Nat) (v : Hart) : (s.setHart n v).hbm = s.hbm := rfl
@[simp] theorem State.setHart_blockTags (s : State) (n : Nat) (v : Hart) : (s.setHart n v).blockTags = s.blockTags := rfl
@[simp] theorem State.setHart_weak (s : State) (n : Nat) (v : Hart) : (s.setHart n v).weak = s.weak := rfl
@[simp] theorem State.setHart_l2 (s : State) (n : Nat) (v : Hart) : (s.setHart n v).l2 = s.l2 := rfl
@[simp] theorem State.setHart_wbuf (s : State) (n : Nat) (v : Hart) : (s.setHart n v).wbuf = s.wbuf := rfl
@[simp] theorem State.setHart_paths (s : State) (n : Nat) (v : Hart) : (s.setHart n v).paths = s.paths := rfl
@[simp] theorem State.setHart_serial (s : State) (n : Nat) (v : Hart) : (s.setHart n v).serial = s.serial := rfl
@[simp] theorem State.setHart_regions (s : State) (n : Nat) (v : Hart) : (s.setHart n v).regions = s.regions := rfl
@[simp] theorem State.setHart_regionLock (s : State) (n : Nat) (v : Hart) : (s.setHart n v).regionLock = s.regionLock := rfl
@[simp] theorem State.setHart_ops (s : State) (n : Nat) (v : Hart) : (s.setHart n v).ops = s.ops := rfl
@[simp] theorem State.setHart_nextOp (s : State) (n : Nat) (v : Hart) : (s.setHart n v).nextOp = s.nextOp := rfl
@[simp] theorem State.setHart_pchs (s : State) (n : Nat) (v : Hart) : (s.setHart n v).pchs = s.pchs := rfl
@[simp] theorem State.setHart_syncs (s : State) (n : Nat) (v : Hart) : (s.setHart n v).syncs = s.syncs := rfl
@[simp] theorem State.setHart_barriers (s : State) (n : Nat) (v : Hart) : (s.setHart n v).barriers = s.barriers := rfl
@[simp] theorem State.setHart_domReports (s : State) (n : Nat) (v : Hart) : (s.setHart n v).domReports = s.domReports := rfl
@[simp] theorem State.setHart_tiles (s : State) (n : Nat) (v : Hart) : (s.setHart n v).tiles = s.tiles := rfl
@[simp] theorem State.setHart_gqcfg (s : State) (n : Nat) (v : Hart) : (s.setHart n v).gqcfg = s.gqcfg := rfl
@[simp] theorem State.setHart_tasks (s : State) (n : Nat) (v : Hart) : (s.setHart n v).tasks = s.tasks := rfl
@[simp] theorem State.setHart_nextTask (s : State) (n : Nat) (v : Hart) : (s.setHart n v).nextTask = s.nextTask := rfl
@[simp] theorem State.setHart_parts (s : State) (n : Nat) (v : Hart) : (s.setHart n v).parts = s.parts := rfl
@[simp] theorem State.setHart_pctxs (s : State) (n : Nat) (v : Hart) : (s.setHart n v).pctxs = s.pctxs := rfl
@[simp] theorem State.setHart_records (s : State) (n : Nat) (v : Hart) : (s.setHart n v).records = s.records := rfl
@[simp] theorem State.setHart_stewardLog (s : State) (n : Nat) (v : Hart) : (s.setHart n v).stewardLog = s.stewardLog := rfl
@[simp] theorem State.setHart_errors (s : State) (n : Nat) (v : Hart) : (s.setHart n v).errors = s.errors := rfl
@[simp] theorem State.setHart_lasting (s : State) (n : Nat) (v : Hart) : (s.setHart n v).lasting = s.lasting := rfl
@[simp] theorem State.setHart_retired (s : State) (n : Nat) (v : Hart) : (s.setHart n v).retired = s.retired := rfl
@[simp] theorem State.setHart_outCores (s : State) (n : Nat) (v : Hart) : (s.setHart n v).outCores = s.outCores := rfl
@[simp] theorem State.setHart_cycle (s : State) (n : Nat) (v : Hart) : (s.setHart n v).cycle = s.cycle := rfl
@[simp] theorem State.setHart_timeOff (s : State) (n : Nat) (v : Hart) : (s.setHart n v).timeOff = s.timeOff := rfl
@[simp] theorem State.setHart_sinceFix (s : State) (n : Nat) (v : Hart) : (s.setHart n v).sinceFix = s.sinceFix := rfl
@[simp] theorem State.setHart_sinceBeat (s : State) (n : Nat) (v : Hart) : (s.setHart n v).sinceBeat = s.sinceBeat := rfl
@[simp] theorem State.setHart_memcfg (s : State) (n : Nat) (v : Hart) : (s.setHart n v).memcfg = s.memcfg := rfl
@[simp] theorem State.setHart_tlbinv (s : State) (n : Nat) (v : Hart) : (s.setHart n v).tlbinv = s.tlbinv := rfl
@[simp] theorem State.setHart_tlbinva (s : State) (n : Nat) (v : Hart) : (s.setHart n v).tlbinva = s.tlbinva := rfl
@[simp] theorem State.setHart_hrevoke (s : State) (n : Nat) (v : Hart) : (s.setHart n v).hrevoke = s.hrevoke := rfl
@[simp] theorem State.setHart_barage (s : State) (n : Nat) (v : Hart) : (s.setHart n v).barage = s.barage := rfl
@[simp] theorem State.setHart_dbarcnt (s : State) (n : Nat) (v : Hart) : (s.setHart n v).dbarcnt = s.dbarcnt := rfl
@[simp] theorem State.setHart_ports (s : State) (n : Nat) (v : Hart) : (s.setHart n v).ports = s.ports := rfl
@[simp] theorem State.setHart_domid (s : State) (n : Nat) (v : Hart) : (s.setHart n v).domid = s.domid := rfl
@[simp] theorem State.setHart_flagsSeen (s : State) (n : Nat) (v : Hart) : (s.setHart n v).flagsSeen = s.flagsSeen := rfl
@[simp] theorem State.setHart_packetsSeen (s : State) (n : Nat) (v : Hart) : (s.setHart n v).packetsSeen = s.packetsSeen := rfl
@[simp] theorem State.setHart_interrupts (s : State) (n : Nat) (v : Hart) : (s.setHart n v).interrupts = s.interrupts := rfl
@[simp] theorem State.setHart_nor (s : State) (n : Nat) (v : Hart) : (s.setHart n v).nor = s.nor := rfl
@[simp] theorem State.setHart_ufs (s : State) (n : Nat) (v : Hart) : (s.setHart n v).ufs = s.ufs := rfl
@[simp] theorem State.setHart_bootStage (s : State) (n : Nat) (v : Hart) : (s.setHart n v).bootStage = s.bootStage := rfl
@[simp] theorem State.setHart_bootErr (s : State) (n : Nat) (v : Hart) : (s.setHart n v).bootErr = s.bootErr := rfl
@[simp] theorem State.setHart_bootFailed (s : State) (n : Nat) (v : Hart) : (s.setHart n v).bootFailed = s.bootFailed := rfl
@[simp] theorem State.setHart_rootPort (s : State) (n : Nat) (v : Hart) : (s.setHart n v).rootPort = s.rootPort := rfl
@[simp] theorem State.setHart_meas (s : State) (n : Nat) (v : Hart) : (s.setHart n v).meas = s.meas := rfl
@[simp] theorem State.setHart_digest (s : State) (n : Nat) (v : Hart) : (s.setHart n v).digest = s.digest := rfl
@[simp] theorem State.setHart_mext (s : State) (n : Nat) (v : Hart) : (s.setHart n v).mext = s.mext := rfl
@[simp] theorem State.setHart_hot (s : State) (n : Nat) (v : Hart) : (s.setHart n v).hot = s.hot := rfl
@[simp] theorem State.setHart_pwr (s : State) (n : Nat) (v : Hart) : (s.setHart n v).pwr = s.pwr := rfl
@[simp] theorem State.setHart_tdie0 (s : State) (n : Nat) (v : Hart) : (s.setHart n v).tdie0 = s.tdie0 := rfl
@[simp] theorem State.setHart_tdie1 (s : State) (n : Nat) (v : Hart) : (s.setHart n v).tdie1 = s.tdie1 := rfl
@[simp] theorem State.setHart_powered (s : State) (n : Nat) (v : Hart) : (s.setHart n v).powered = s.powered := rfl
@[simp] theorem State.setHart_svns (s : State) (n : Nat) (v : Hart) : (s.setHart n v).svns = s.svns := rfl
@[simp] theorem State.setHart_etherUp (s : State) (n : Nat) (v : Hart) : (s.setHart n v).etherUp = s.etherUp := rfl
@[simp] theorem State.setHart_attested (s : State) (n : Nat) (v : Hart) : (s.setHart n v).attested = s.attested := rfl
@[simp] theorem State.setHart_fenced (s : State) (n : Nat) (v : Hart) : (s.setHart n v).fenced = s.fenced := rfl
@[simp] theorem State.setHart_inputs (s : State) (n : Nat) (v : Hart) : (s.setHart n v).inputs = s.inputs := rfl
@[simp] theorem State.setHart_tick (s : State) (n : Nat) (v : Hart) : (s.setHart n v).tick = s.tick := rfl

/-! The update of the current thread. -/

@[simp] theorem State.setTh_cur (s : State) (v : Thread) : (s.setTh v).cur = s.cur := rfl
@[simp] theorem State.setTh_iss (s : State) (v : Thread) : (s.setTh v).iss = s.iss := rfl
@[simp] theorem State.setTh_walks (s : State) (v : Thread) : (s.setTh v).walks = s.walks := rfl
@[simp] theorem State.setTh_ctxs (s : State) (v : Thread) : (s.setTh v).ctxs = s.ctxs := rfl
@[simp] theorem State.setTh_cores (s : State) (v : Thread) : (s.setTh v).cores = s.cores := rfl
@[simp] theorem State.setTh_clusters (s : State) (v : Thread) : (s.setTh v).clusters = s.clusters := rfl
@[simp] theorem State.setTh_quads (s : State) (v : Thread) : (s.setTh v).quads = s.quads := rfl
@[simp] theorem State.setTh_arrays (s : State) (v : Thread) : (s.setTh v).arrays = s.arrays := rfl
@[simp] theorem State.setTh_hbm (s : State) (v : Thread) : (s.setTh v).hbm = s.hbm := rfl
@[simp] theorem State.setTh_blockTags (s : State) (v : Thread) : (s.setTh v).blockTags = s.blockTags := rfl
@[simp] theorem State.setTh_weak (s : State) (v : Thread) : (s.setTh v).weak = s.weak := rfl
@[simp] theorem State.setTh_l2 (s : State) (v : Thread) : (s.setTh v).l2 = s.l2 := rfl
@[simp] theorem State.setTh_wbuf (s : State) (v : Thread) : (s.setTh v).wbuf = s.wbuf := rfl
@[simp] theorem State.setTh_paths (s : State) (v : Thread) : (s.setTh v).paths = s.paths := rfl
@[simp] theorem State.setTh_serial (s : State) (v : Thread) : (s.setTh v).serial = s.serial := rfl
@[simp] theorem State.setTh_regions (s : State) (v : Thread) : (s.setTh v).regions = s.regions := rfl
@[simp] theorem State.setTh_regionLock (s : State) (v : Thread) : (s.setTh v).regionLock = s.regionLock := rfl
@[simp] theorem State.setTh_ops (s : State) (v : Thread) : (s.setTh v).ops = s.ops := rfl
@[simp] theorem State.setTh_nextOp (s : State) (v : Thread) : (s.setTh v).nextOp = s.nextOp := rfl
@[simp] theorem State.setTh_pchs (s : State) (v : Thread) : (s.setTh v).pchs = s.pchs := rfl
@[simp] theorem State.setTh_syncs (s : State) (v : Thread) : (s.setTh v).syncs = s.syncs := rfl
@[simp] theorem State.setTh_barriers (s : State) (v : Thread) : (s.setTh v).barriers = s.barriers := rfl
@[simp] theorem State.setTh_domReports (s : State) (v : Thread) : (s.setTh v).domReports = s.domReports := rfl
@[simp] theorem State.setTh_tiles (s : State) (v : Thread) : (s.setTh v).tiles = s.tiles := rfl
@[simp] theorem State.setTh_gqcfg (s : State) (v : Thread) : (s.setTh v).gqcfg = s.gqcfg := rfl
@[simp] theorem State.setTh_tasks (s : State) (v : Thread) : (s.setTh v).tasks = s.tasks := rfl
@[simp] theorem State.setTh_nextTask (s : State) (v : Thread) : (s.setTh v).nextTask = s.nextTask := rfl
@[simp] theorem State.setTh_parts (s : State) (v : Thread) : (s.setTh v).parts = s.parts := rfl
@[simp] theorem State.setTh_pctxs (s : State) (v : Thread) : (s.setTh v).pctxs = s.pctxs := rfl
@[simp] theorem State.setTh_records (s : State) (v : Thread) : (s.setTh v).records = s.records := rfl
@[simp] theorem State.setTh_stewardLog (s : State) (v : Thread) : (s.setTh v).stewardLog = s.stewardLog := rfl
@[simp] theorem State.setTh_errors (s : State) (v : Thread) : (s.setTh v).errors = s.errors := rfl
@[simp] theorem State.setTh_lasting (s : State) (v : Thread) : (s.setTh v).lasting = s.lasting := rfl
@[simp] theorem State.setTh_retired (s : State) (v : Thread) : (s.setTh v).retired = s.retired := rfl
@[simp] theorem State.setTh_outCores (s : State) (v : Thread) : (s.setTh v).outCores = s.outCores := rfl
@[simp] theorem State.setTh_cycle (s : State) (v : Thread) : (s.setTh v).cycle = s.cycle := rfl
@[simp] theorem State.setTh_timeOff (s : State) (v : Thread) : (s.setTh v).timeOff = s.timeOff := rfl
@[simp] theorem State.setTh_sinceFix (s : State) (v : Thread) : (s.setTh v).sinceFix = s.sinceFix := rfl
@[simp] theorem State.setTh_sinceBeat (s : State) (v : Thread) : (s.setTh v).sinceBeat = s.sinceBeat := rfl
@[simp] theorem State.setTh_memcfg (s : State) (v : Thread) : (s.setTh v).memcfg = s.memcfg := rfl
@[simp] theorem State.setTh_tlbinv (s : State) (v : Thread) : (s.setTh v).tlbinv = s.tlbinv := rfl
@[simp] theorem State.setTh_tlbinva (s : State) (v : Thread) : (s.setTh v).tlbinva = s.tlbinva := rfl
@[simp] theorem State.setTh_hrevoke (s : State) (v : Thread) : (s.setTh v).hrevoke = s.hrevoke := rfl
@[simp] theorem State.setTh_barage (s : State) (v : Thread) : (s.setTh v).barage = s.barage := rfl
@[simp] theorem State.setTh_dbarcnt (s : State) (v : Thread) : (s.setTh v).dbarcnt = s.dbarcnt := rfl
@[simp] theorem State.setTh_ports (s : State) (v : Thread) : (s.setTh v).ports = s.ports := rfl
@[simp] theorem State.setTh_domid (s : State) (v : Thread) : (s.setTh v).domid = s.domid := rfl
@[simp] theorem State.setTh_flagsSeen (s : State) (v : Thread) : (s.setTh v).flagsSeen = s.flagsSeen := rfl
@[simp] theorem State.setTh_packetsSeen (s : State) (v : Thread) : (s.setTh v).packetsSeen = s.packetsSeen := rfl
@[simp] theorem State.setTh_interrupts (s : State) (v : Thread) : (s.setTh v).interrupts = s.interrupts := rfl
@[simp] theorem State.setTh_nor (s : State) (v : Thread) : (s.setTh v).nor = s.nor := rfl
@[simp] theorem State.setTh_ufs (s : State) (v : Thread) : (s.setTh v).ufs = s.ufs := rfl
@[simp] theorem State.setTh_bootStage (s : State) (v : Thread) : (s.setTh v).bootStage = s.bootStage := rfl
@[simp] theorem State.setTh_bootErr (s : State) (v : Thread) : (s.setTh v).bootErr = s.bootErr := rfl
@[simp] theorem State.setTh_bootFailed (s : State) (v : Thread) : (s.setTh v).bootFailed = s.bootFailed := rfl
@[simp] theorem State.setTh_rootPort (s : State) (v : Thread) : (s.setTh v).rootPort = s.rootPort := rfl
@[simp] theorem State.setTh_meas (s : State) (v : Thread) : (s.setTh v).meas = s.meas := rfl
@[simp] theorem State.setTh_digest (s : State) (v : Thread) : (s.setTh v).digest = s.digest := rfl
@[simp] theorem State.setTh_mext (s : State) (v : Thread) : (s.setTh v).mext = s.mext := rfl
@[simp] theorem State.setTh_hot (s : State) (v : Thread) : (s.setTh v).hot = s.hot := rfl
@[simp] theorem State.setTh_pwr (s : State) (v : Thread) : (s.setTh v).pwr = s.pwr := rfl
@[simp] theorem State.setTh_tdie0 (s : State) (v : Thread) : (s.setTh v).tdie0 = s.tdie0 := rfl
@[simp] theorem State.setTh_tdie1 (s : State) (v : Thread) : (s.setTh v).tdie1 = s.tdie1 := rfl
@[simp] theorem State.setTh_powered (s : State) (v : Thread) : (s.setTh v).powered = s.powered := rfl
@[simp] theorem State.setTh_harts (s : State) (v : Thread) : (s.setTh v).harts = s.harts := rfl
@[simp] theorem State.setTh_svns (s : State) (v : Thread) : (s.setTh v).svns = s.svns := rfl
@[simp] theorem State.setTh_etherUp (s : State) (v : Thread) : (s.setTh v).etherUp = s.etherUp := rfl
@[simp] theorem State.setTh_attested (s : State) (v : Thread) : (s.setTh v).attested = s.attested := rfl
@[simp] theorem State.setTh_fenced (s : State) (v : Thread) : (s.setTh v).fenced = s.fenced := rfl
@[simp] theorem State.setTh_inputs (s : State) (v : Thread) : (s.setTh v).inputs = s.inputs := rfl
@[simp] theorem State.setTh_tick (s : State) (v : Thread) : (s.setTh v).tick = s.tick := rfl

/-! The update of the current core context. -/

@[simp] theorem State.setCc_cur (s : State) (v : CoreCtx) : (s.setCc v).cur = s.cur := rfl
@[simp] theorem State.setCc_iss (s : State) (v : CoreCtx) : (s.setCc v).iss = s.iss := rfl
@[simp] theorem State.setCc_threads (s : State) (v : CoreCtx) : (s.setCc v).threads = s.threads := rfl
@[simp] theorem State.setCc_walks (s : State) (v : CoreCtx) : (s.setCc v).walks = s.walks := rfl
@[simp] theorem State.setCc_cores (s : State) (v : CoreCtx) : (s.setCc v).cores = s.cores := rfl
@[simp] theorem State.setCc_clusters (s : State) (v : CoreCtx) : (s.setCc v).clusters = s.clusters := rfl
@[simp] theorem State.setCc_quads (s : State) (v : CoreCtx) : (s.setCc v).quads = s.quads := rfl
@[simp] theorem State.setCc_arrays (s : State) (v : CoreCtx) : (s.setCc v).arrays = s.arrays := rfl
@[simp] theorem State.setCc_hbm (s : State) (v : CoreCtx) : (s.setCc v).hbm = s.hbm := rfl
@[simp] theorem State.setCc_blockTags (s : State) (v : CoreCtx) : (s.setCc v).blockTags = s.blockTags := rfl
@[simp] theorem State.setCc_weak (s : State) (v : CoreCtx) : (s.setCc v).weak = s.weak := rfl
@[simp] theorem State.setCc_l2 (s : State) (v : CoreCtx) : (s.setCc v).l2 = s.l2 := rfl
@[simp] theorem State.setCc_wbuf (s : State) (v : CoreCtx) : (s.setCc v).wbuf = s.wbuf := rfl
@[simp] theorem State.setCc_paths (s : State) (v : CoreCtx) : (s.setCc v).paths = s.paths := rfl
@[simp] theorem State.setCc_serial (s : State) (v : CoreCtx) : (s.setCc v).serial = s.serial := rfl
@[simp] theorem State.setCc_regions (s : State) (v : CoreCtx) : (s.setCc v).regions = s.regions := rfl
@[simp] theorem State.setCc_regionLock (s : State) (v : CoreCtx) : (s.setCc v).regionLock = s.regionLock := rfl
@[simp] theorem State.setCc_ops (s : State) (v : CoreCtx) : (s.setCc v).ops = s.ops := rfl
@[simp] theorem State.setCc_nextOp (s : State) (v : CoreCtx) : (s.setCc v).nextOp = s.nextOp := rfl
@[simp] theorem State.setCc_pchs (s : State) (v : CoreCtx) : (s.setCc v).pchs = s.pchs := rfl
@[simp] theorem State.setCc_syncs (s : State) (v : CoreCtx) : (s.setCc v).syncs = s.syncs := rfl
@[simp] theorem State.setCc_barriers (s : State) (v : CoreCtx) : (s.setCc v).barriers = s.barriers := rfl
@[simp] theorem State.setCc_domReports (s : State) (v : CoreCtx) : (s.setCc v).domReports = s.domReports := rfl
@[simp] theorem State.setCc_tiles (s : State) (v : CoreCtx) : (s.setCc v).tiles = s.tiles := rfl
@[simp] theorem State.setCc_gqcfg (s : State) (v : CoreCtx) : (s.setCc v).gqcfg = s.gqcfg := rfl
@[simp] theorem State.setCc_tasks (s : State) (v : CoreCtx) : (s.setCc v).tasks = s.tasks := rfl
@[simp] theorem State.setCc_nextTask (s : State) (v : CoreCtx) : (s.setCc v).nextTask = s.nextTask := rfl
@[simp] theorem State.setCc_parts (s : State) (v : CoreCtx) : (s.setCc v).parts = s.parts := rfl
@[simp] theorem State.setCc_pctxs (s : State) (v : CoreCtx) : (s.setCc v).pctxs = s.pctxs := rfl
@[simp] theorem State.setCc_records (s : State) (v : CoreCtx) : (s.setCc v).records = s.records := rfl
@[simp] theorem State.setCc_stewardLog (s : State) (v : CoreCtx) : (s.setCc v).stewardLog = s.stewardLog := rfl
@[simp] theorem State.setCc_errors (s : State) (v : CoreCtx) : (s.setCc v).errors = s.errors := rfl
@[simp] theorem State.setCc_lasting (s : State) (v : CoreCtx) : (s.setCc v).lasting = s.lasting := rfl
@[simp] theorem State.setCc_retired (s : State) (v : CoreCtx) : (s.setCc v).retired = s.retired := rfl
@[simp] theorem State.setCc_outCores (s : State) (v : CoreCtx) : (s.setCc v).outCores = s.outCores := rfl
@[simp] theorem State.setCc_cycle (s : State) (v : CoreCtx) : (s.setCc v).cycle = s.cycle := rfl
@[simp] theorem State.setCc_timeOff (s : State) (v : CoreCtx) : (s.setCc v).timeOff = s.timeOff := rfl
@[simp] theorem State.setCc_sinceFix (s : State) (v : CoreCtx) : (s.setCc v).sinceFix = s.sinceFix := rfl
@[simp] theorem State.setCc_sinceBeat (s : State) (v : CoreCtx) : (s.setCc v).sinceBeat = s.sinceBeat := rfl
@[simp] theorem State.setCc_memcfg (s : State) (v : CoreCtx) : (s.setCc v).memcfg = s.memcfg := rfl
@[simp] theorem State.setCc_tlbinv (s : State) (v : CoreCtx) : (s.setCc v).tlbinv = s.tlbinv := rfl
@[simp] theorem State.setCc_tlbinva (s : State) (v : CoreCtx) : (s.setCc v).tlbinva = s.tlbinva := rfl
@[simp] theorem State.setCc_hrevoke (s : State) (v : CoreCtx) : (s.setCc v).hrevoke = s.hrevoke := rfl
@[simp] theorem State.setCc_barage (s : State) (v : CoreCtx) : (s.setCc v).barage = s.barage := rfl
@[simp] theorem State.setCc_dbarcnt (s : State) (v : CoreCtx) : (s.setCc v).dbarcnt = s.dbarcnt := rfl
@[simp] theorem State.setCc_ports (s : State) (v : CoreCtx) : (s.setCc v).ports = s.ports := rfl
@[simp] theorem State.setCc_domid (s : State) (v : CoreCtx) : (s.setCc v).domid = s.domid := rfl
@[simp] theorem State.setCc_flagsSeen (s : State) (v : CoreCtx) : (s.setCc v).flagsSeen = s.flagsSeen := rfl
@[simp] theorem State.setCc_packetsSeen (s : State) (v : CoreCtx) : (s.setCc v).packetsSeen = s.packetsSeen := rfl
@[simp] theorem State.setCc_interrupts (s : State) (v : CoreCtx) : (s.setCc v).interrupts = s.interrupts := rfl
@[simp] theorem State.setCc_nor (s : State) (v : CoreCtx) : (s.setCc v).nor = s.nor := rfl
@[simp] theorem State.setCc_ufs (s : State) (v : CoreCtx) : (s.setCc v).ufs = s.ufs := rfl
@[simp] theorem State.setCc_bootStage (s : State) (v : CoreCtx) : (s.setCc v).bootStage = s.bootStage := rfl
@[simp] theorem State.setCc_bootErr (s : State) (v : CoreCtx) : (s.setCc v).bootErr = s.bootErr := rfl
@[simp] theorem State.setCc_bootFailed (s : State) (v : CoreCtx) : (s.setCc v).bootFailed = s.bootFailed := rfl
@[simp] theorem State.setCc_rootPort (s : State) (v : CoreCtx) : (s.setCc v).rootPort = s.rootPort := rfl
@[simp] theorem State.setCc_meas (s : State) (v : CoreCtx) : (s.setCc v).meas = s.meas := rfl
@[simp] theorem State.setCc_digest (s : State) (v : CoreCtx) : (s.setCc v).digest = s.digest := rfl
@[simp] theorem State.setCc_mext (s : State) (v : CoreCtx) : (s.setCc v).mext = s.mext := rfl
@[simp] theorem State.setCc_hot (s : State) (v : CoreCtx) : (s.setCc v).hot = s.hot := rfl
@[simp] theorem State.setCc_pwr (s : State) (v : CoreCtx) : (s.setCc v).pwr = s.pwr := rfl
@[simp] theorem State.setCc_tdie0 (s : State) (v : CoreCtx) : (s.setCc v).tdie0 = s.tdie0 := rfl
@[simp] theorem State.setCc_tdie1 (s : State) (v : CoreCtx) : (s.setCc v).tdie1 = s.tdie1 := rfl
@[simp] theorem State.setCc_powered (s : State) (v : CoreCtx) : (s.setCc v).powered = s.powered := rfl
@[simp] theorem State.setCc_harts (s : State) (v : CoreCtx) : (s.setCc v).harts = s.harts := rfl
@[simp] theorem State.setCc_svns (s : State) (v : CoreCtx) : (s.setCc v).svns = s.svns := rfl
@[simp] theorem State.setCc_etherUp (s : State) (v : CoreCtx) : (s.setCc v).etherUp = s.etherUp := rfl
@[simp] theorem State.setCc_attested (s : State) (v : CoreCtx) : (s.setCc v).attested = s.attested := rfl
@[simp] theorem State.setCc_fenced (s : State) (v : CoreCtx) : (s.setCc v).fenced = s.fenced := rfl
@[simp] theorem State.setCc_inputs (s : State) (v : CoreCtx) : (s.setCc v).inputs = s.inputs := rfl
@[simp] theorem State.setCc_tick (s : State) (v : CoreCtx) : (s.setCc v).tick = s.tick := rfl

/-! The update of one task. -/

@[simp] theorem State.setTask_cur (s : State) (v : Task) : (s.setTask v).cur = s.cur := rfl
@[simp] theorem State.setTask_iss (s : State) (v : Task) : (s.setTask v).iss = s.iss := rfl
@[simp] theorem State.setTask_threads (s : State) (v : Task) : (s.setTask v).threads = s.threads := rfl
@[simp] theorem State.setTask_walks (s : State) (v : Task) : (s.setTask v).walks = s.walks := rfl
@[simp] theorem State.setTask_ctxs (s : State) (v : Task) : (s.setTask v).ctxs = s.ctxs := rfl
@[simp] theorem State.setTask_cores (s : State) (v : Task) : (s.setTask v).cores = s.cores := rfl
@[simp] theorem State.setTask_clusters (s : State) (v : Task) : (s.setTask v).clusters = s.clusters := rfl
@[simp] theorem State.setTask_quads (s : State) (v : Task) : (s.setTask v).quads = s.quads := rfl
@[simp] theorem State.setTask_arrays (s : State) (v : Task) : (s.setTask v).arrays = s.arrays := rfl
@[simp] theorem State.setTask_hbm (s : State) (v : Task) : (s.setTask v).hbm = s.hbm := rfl
@[simp] theorem State.setTask_blockTags (s : State) (v : Task) : (s.setTask v).blockTags = s.blockTags := rfl
@[simp] theorem State.setTask_weak (s : State) (v : Task) : (s.setTask v).weak = s.weak := rfl
@[simp] theorem State.setTask_l2 (s : State) (v : Task) : (s.setTask v).l2 = s.l2 := rfl
@[simp] theorem State.setTask_wbuf (s : State) (v : Task) : (s.setTask v).wbuf = s.wbuf := rfl
@[simp] theorem State.setTask_paths (s : State) (v : Task) : (s.setTask v).paths = s.paths := rfl
@[simp] theorem State.setTask_serial (s : State) (v : Task) : (s.setTask v).serial = s.serial := rfl
@[simp] theorem State.setTask_regions (s : State) (v : Task) : (s.setTask v).regions = s.regions := rfl
@[simp] theorem State.setTask_regionLock (s : State) (v : Task) : (s.setTask v).regionLock = s.regionLock := rfl
@[simp] theorem State.setTask_ops (s : State) (v : Task) : (s.setTask v).ops = s.ops := rfl
@[simp] theorem State.setTask_nextOp (s : State) (v : Task) : (s.setTask v).nextOp = s.nextOp := rfl
@[simp] theorem State.setTask_pchs (s : State) (v : Task) : (s.setTask v).pchs = s.pchs := rfl
@[simp] theorem State.setTask_syncs (s : State) (v : Task) : (s.setTask v).syncs = s.syncs := rfl
@[simp] theorem State.setTask_barriers (s : State) (v : Task) : (s.setTask v).barriers = s.barriers := rfl
@[simp] theorem State.setTask_domReports (s : State) (v : Task) : (s.setTask v).domReports = s.domReports := rfl
@[simp] theorem State.setTask_tiles (s : State) (v : Task) : (s.setTask v).tiles = s.tiles := rfl
@[simp] theorem State.setTask_gqcfg (s : State) (v : Task) : (s.setTask v).gqcfg = s.gqcfg := rfl
@[simp] theorem State.setTask_nextTask (s : State) (v : Task) : (s.setTask v).nextTask = s.nextTask := rfl
@[simp] theorem State.setTask_parts (s : State) (v : Task) : (s.setTask v).parts = s.parts := rfl
@[simp] theorem State.setTask_pctxs (s : State) (v : Task) : (s.setTask v).pctxs = s.pctxs := rfl
@[simp] theorem State.setTask_records (s : State) (v : Task) : (s.setTask v).records = s.records := rfl
@[simp] theorem State.setTask_stewardLog (s : State) (v : Task) : (s.setTask v).stewardLog = s.stewardLog := rfl
@[simp] theorem State.setTask_errors (s : State) (v : Task) : (s.setTask v).errors = s.errors := rfl
@[simp] theorem State.setTask_lasting (s : State) (v : Task) : (s.setTask v).lasting = s.lasting := rfl
@[simp] theorem State.setTask_retired (s : State) (v : Task) : (s.setTask v).retired = s.retired := rfl
@[simp] theorem State.setTask_outCores (s : State) (v : Task) : (s.setTask v).outCores = s.outCores := rfl
@[simp] theorem State.setTask_cycle (s : State) (v : Task) : (s.setTask v).cycle = s.cycle := rfl
@[simp] theorem State.setTask_timeOff (s : State) (v : Task) : (s.setTask v).timeOff = s.timeOff := rfl
@[simp] theorem State.setTask_sinceFix (s : State) (v : Task) : (s.setTask v).sinceFix = s.sinceFix := rfl
@[simp] theorem State.setTask_sinceBeat (s : State) (v : Task) : (s.setTask v).sinceBeat = s.sinceBeat := rfl
@[simp] theorem State.setTask_memcfg (s : State) (v : Task) : (s.setTask v).memcfg = s.memcfg := rfl
@[simp] theorem State.setTask_tlbinv (s : State) (v : Task) : (s.setTask v).tlbinv = s.tlbinv := rfl
@[simp] theorem State.setTask_tlbinva (s : State) (v : Task) : (s.setTask v).tlbinva = s.tlbinva := rfl
@[simp] theorem State.setTask_hrevoke (s : State) (v : Task) : (s.setTask v).hrevoke = s.hrevoke := rfl
@[simp] theorem State.setTask_barage (s : State) (v : Task) : (s.setTask v).barage = s.barage := rfl
@[simp] theorem State.setTask_dbarcnt (s : State) (v : Task) : (s.setTask v).dbarcnt = s.dbarcnt := rfl
@[simp] theorem State.setTask_ports (s : State) (v : Task) : (s.setTask v).ports = s.ports := rfl
@[simp] theorem State.setTask_domid (s : State) (v : Task) : (s.setTask v).domid = s.domid := rfl
@[simp] theorem State.setTask_flagsSeen (s : State) (v : Task) : (s.setTask v).flagsSeen = s.flagsSeen := rfl
@[simp] theorem State.setTask_packetsSeen (s : State) (v : Task) : (s.setTask v).packetsSeen = s.packetsSeen := rfl
@[simp] theorem State.setTask_interrupts (s : State) (v : Task) : (s.setTask v).interrupts = s.interrupts := rfl
@[simp] theorem State.setTask_nor (s : State) (v : Task) : (s.setTask v).nor = s.nor := rfl
@[simp] theorem State.setTask_ufs (s : State) (v : Task) : (s.setTask v).ufs = s.ufs := rfl
@[simp] theorem State.setTask_bootStage (s : State) (v : Task) : (s.setTask v).bootStage = s.bootStage := rfl
@[simp] theorem State.setTask_bootErr (s : State) (v : Task) : (s.setTask v).bootErr = s.bootErr := rfl
@[simp] theorem State.setTask_bootFailed (s : State) (v : Task) : (s.setTask v).bootFailed = s.bootFailed := rfl
@[simp] theorem State.setTask_rootPort (s : State) (v : Task) : (s.setTask v).rootPort = s.rootPort := rfl
@[simp] theorem State.setTask_meas (s : State) (v : Task) : (s.setTask v).meas = s.meas := rfl
@[simp] theorem State.setTask_digest (s : State) (v : Task) : (s.setTask v).digest = s.digest := rfl
@[simp] theorem State.setTask_mext (s : State) (v : Task) : (s.setTask v).mext = s.mext := rfl
@[simp] theorem State.setTask_hot (s : State) (v : Task) : (s.setTask v).hot = s.hot := rfl
@[simp] theorem State.setTask_pwr (s : State) (v : Task) : (s.setTask v).pwr = s.pwr := rfl
@[simp] theorem State.setTask_tdie0 (s : State) (v : Task) : (s.setTask v).tdie0 = s.tdie0 := rfl
@[simp] theorem State.setTask_tdie1 (s : State) (v : Task) : (s.setTask v).tdie1 = s.tdie1 := rfl
@[simp] theorem State.setTask_powered (s : State) (v : Task) : (s.setTask v).powered = s.powered := rfl
@[simp] theorem State.setTask_harts (s : State) (v : Task) : (s.setTask v).harts = s.harts := rfl
@[simp] theorem State.setTask_svns (s : State) (v : Task) : (s.setTask v).svns = s.svns := rfl
@[simp] theorem State.setTask_etherUp (s : State) (v : Task) : (s.setTask v).etherUp = s.etherUp := rfl
@[simp] theorem State.setTask_attested (s : State) (v : Task) : (s.setTask v).attested = s.attested := rfl
@[simp] theorem State.setTask_fenced (s : State) (v : Task) : (s.setTask v).fenced = s.fenced := rfl
@[simp] theorem State.setTask_inputs (s : State) (v : Task) : (s.setTask v).inputs = s.inputs := rfl
@[simp] theorem State.setTask_tick (s : State) (v : Task) : (s.setTask v).tick = s.tick := rfl

/-! The removal of an operation. -/

@[simp] theorem State.removeOp_cur (s : State) (id : Nat) : (s.removeOp id).cur = s.cur := rfl
@[simp] theorem State.removeOp_iss (s : State) (id : Nat) : (s.removeOp id).iss = s.iss := rfl
@[simp] theorem State.removeOp_threads (s : State) (id : Nat) : (s.removeOp id).threads = s.threads := rfl
@[simp] theorem State.removeOp_walks (s : State) (id : Nat) : (s.removeOp id).walks = s.walks := rfl
@[simp] theorem State.removeOp_ctxs (s : State) (id : Nat) : (s.removeOp id).ctxs = s.ctxs := rfl
@[simp] theorem State.removeOp_cores (s : State) (id : Nat) : (s.removeOp id).cores = s.cores := rfl
@[simp] theorem State.removeOp_clusters (s : State) (id : Nat) : (s.removeOp id).clusters = s.clusters := rfl
@[simp] theorem State.removeOp_quads (s : State) (id : Nat) : (s.removeOp id).quads = s.quads := rfl
@[simp] theorem State.removeOp_arrays (s : State) (id : Nat) : (s.removeOp id).arrays = s.arrays := rfl
@[simp] theorem State.removeOp_hbm (s : State) (id : Nat) : (s.removeOp id).hbm = s.hbm := rfl
@[simp] theorem State.removeOp_blockTags (s : State) (id : Nat) : (s.removeOp id).blockTags = s.blockTags := rfl
@[simp] theorem State.removeOp_weak (s : State) (id : Nat) : (s.removeOp id).weak = s.weak := rfl
@[simp] theorem State.removeOp_l2 (s : State) (id : Nat) : (s.removeOp id).l2 = s.l2 := rfl
@[simp] theorem State.removeOp_wbuf (s : State) (id : Nat) : (s.removeOp id).wbuf = s.wbuf := rfl
@[simp] theorem State.removeOp_paths (s : State) (id : Nat) : (s.removeOp id).paths = s.paths := rfl
@[simp] theorem State.removeOp_serial (s : State) (id : Nat) : (s.removeOp id).serial = s.serial := rfl
@[simp] theorem State.removeOp_regions (s : State) (id : Nat) : (s.removeOp id).regions = s.regions := rfl
@[simp] theorem State.removeOp_regionLock (s : State) (id : Nat) : (s.removeOp id).regionLock = s.regionLock := rfl
@[simp] theorem State.removeOp_nextOp (s : State) (id : Nat) : (s.removeOp id).nextOp = s.nextOp := rfl
@[simp] theorem State.removeOp_pchs (s : State) (id : Nat) : (s.removeOp id).pchs = s.pchs := rfl
@[simp] theorem State.removeOp_syncs (s : State) (id : Nat) : (s.removeOp id).syncs = s.syncs := rfl
@[simp] theorem State.removeOp_barriers (s : State) (id : Nat) : (s.removeOp id).barriers = s.barriers := rfl
@[simp] theorem State.removeOp_domReports (s : State) (id : Nat) : (s.removeOp id).domReports = s.domReports := rfl
@[simp] theorem State.removeOp_tiles (s : State) (id : Nat) : (s.removeOp id).tiles = s.tiles := rfl
@[simp] theorem State.removeOp_gqcfg (s : State) (id : Nat) : (s.removeOp id).gqcfg = s.gqcfg := rfl
@[simp] theorem State.removeOp_tasks (s : State) (id : Nat) : (s.removeOp id).tasks = s.tasks := rfl
@[simp] theorem State.removeOp_nextTask (s : State) (id : Nat) : (s.removeOp id).nextTask = s.nextTask := rfl
@[simp] theorem State.removeOp_parts (s : State) (id : Nat) : (s.removeOp id).parts = s.parts := rfl
@[simp] theorem State.removeOp_pctxs (s : State) (id : Nat) : (s.removeOp id).pctxs = s.pctxs := rfl
@[simp] theorem State.removeOp_records (s : State) (id : Nat) : (s.removeOp id).records = s.records := rfl
@[simp] theorem State.removeOp_stewardLog (s : State) (id : Nat) : (s.removeOp id).stewardLog = s.stewardLog := rfl
@[simp] theorem State.removeOp_errors (s : State) (id : Nat) : (s.removeOp id).errors = s.errors := rfl
@[simp] theorem State.removeOp_lasting (s : State) (id : Nat) : (s.removeOp id).lasting = s.lasting := rfl
@[simp] theorem State.removeOp_retired (s : State) (id : Nat) : (s.removeOp id).retired = s.retired := rfl
@[simp] theorem State.removeOp_outCores (s : State) (id : Nat) : (s.removeOp id).outCores = s.outCores := rfl
@[simp] theorem State.removeOp_cycle (s : State) (id : Nat) : (s.removeOp id).cycle = s.cycle := rfl
@[simp] theorem State.removeOp_timeOff (s : State) (id : Nat) : (s.removeOp id).timeOff = s.timeOff := rfl
@[simp] theorem State.removeOp_sinceFix (s : State) (id : Nat) : (s.removeOp id).sinceFix = s.sinceFix := rfl
@[simp] theorem State.removeOp_sinceBeat (s : State) (id : Nat) : (s.removeOp id).sinceBeat = s.sinceBeat := rfl
@[simp] theorem State.removeOp_memcfg (s : State) (id : Nat) : (s.removeOp id).memcfg = s.memcfg := rfl
@[simp] theorem State.removeOp_tlbinv (s : State) (id : Nat) : (s.removeOp id).tlbinv = s.tlbinv := rfl
@[simp] theorem State.removeOp_tlbinva (s : State) (id : Nat) : (s.removeOp id).tlbinva = s.tlbinva := rfl
@[simp] theorem State.removeOp_hrevoke (s : State) (id : Nat) : (s.removeOp id).hrevoke = s.hrevoke := rfl
@[simp] theorem State.removeOp_barage (s : State) (id : Nat) : (s.removeOp id).barage = s.barage := rfl
@[simp] theorem State.removeOp_dbarcnt (s : State) (id : Nat) : (s.removeOp id).dbarcnt = s.dbarcnt := rfl
@[simp] theorem State.removeOp_ports (s : State) (id : Nat) : (s.removeOp id).ports = s.ports := rfl
@[simp] theorem State.removeOp_domid (s : State) (id : Nat) : (s.removeOp id).domid = s.domid := rfl
@[simp] theorem State.removeOp_flagsSeen (s : State) (id : Nat) : (s.removeOp id).flagsSeen = s.flagsSeen := rfl
@[simp] theorem State.removeOp_packetsSeen (s : State) (id : Nat) : (s.removeOp id).packetsSeen = s.packetsSeen := rfl
@[simp] theorem State.removeOp_interrupts (s : State) (id : Nat) : (s.removeOp id).interrupts = s.interrupts := rfl
@[simp] theorem State.removeOp_nor (s : State) (id : Nat) : (s.removeOp id).nor = s.nor := rfl
@[simp] theorem State.removeOp_ufs (s : State) (id : Nat) : (s.removeOp id).ufs = s.ufs := rfl
@[simp] theorem State.removeOp_bootStage (s : State) (id : Nat) : (s.removeOp id).bootStage = s.bootStage := rfl
@[simp] theorem State.removeOp_bootErr (s : State) (id : Nat) : (s.removeOp id).bootErr = s.bootErr := rfl
@[simp] theorem State.removeOp_bootFailed (s : State) (id : Nat) : (s.removeOp id).bootFailed = s.bootFailed := rfl
@[simp] theorem State.removeOp_rootPort (s : State) (id : Nat) : (s.removeOp id).rootPort = s.rootPort := rfl
@[simp] theorem State.removeOp_meas (s : State) (id : Nat) : (s.removeOp id).meas = s.meas := rfl
@[simp] theorem State.removeOp_digest (s : State) (id : Nat) : (s.removeOp id).digest = s.digest := rfl
@[simp] theorem State.removeOp_mext (s : State) (id : Nat) : (s.removeOp id).mext = s.mext := rfl
@[simp] theorem State.removeOp_hot (s : State) (id : Nat) : (s.removeOp id).hot = s.hot := rfl
@[simp] theorem State.removeOp_pwr (s : State) (id : Nat) : (s.removeOp id).pwr = s.pwr := rfl
@[simp] theorem State.removeOp_tdie0 (s : State) (id : Nat) : (s.removeOp id).tdie0 = s.tdie0 := rfl
@[simp] theorem State.removeOp_tdie1 (s : State) (id : Nat) : (s.removeOp id).tdie1 = s.tdie1 := rfl
@[simp] theorem State.removeOp_powered (s : State) (id : Nat) : (s.removeOp id).powered = s.powered := rfl
@[simp] theorem State.removeOp_harts (s : State) (id : Nat) : (s.removeOp id).harts = s.harts := rfl
@[simp] theorem State.removeOp_svns (s : State) (id : Nat) : (s.removeOp id).svns = s.svns := rfl
@[simp] theorem State.removeOp_etherUp (s : State) (id : Nat) : (s.removeOp id).etherUp = s.etherUp := rfl
@[simp] theorem State.removeOp_attested (s : State) (id : Nat) : (s.removeOp id).attested = s.attested := rfl
@[simp] theorem State.removeOp_fenced (s : State) (id : Nat) : (s.removeOp id).fenced = s.fenced := rfl
@[simp] theorem State.removeOp_inputs (s : State) (id : Nat) : (s.removeOp id).inputs = s.inputs := rfl
@[simp] theorem State.removeOp_tick (s : State) (id : Nat) : (s.removeOp id).tick = s.tick := rfl

/-! The update of one operation. -/

@[simp] theorem State.setOp_cur (s : State) (o : Op) : (s.setOp o).cur = s.cur := rfl
@[simp] theorem State.setOp_iss (s : State) (o : Op) : (s.setOp o).iss = s.iss := rfl
@[simp] theorem State.setOp_threads (s : State) (o : Op) : (s.setOp o).threads = s.threads := rfl
@[simp] theorem State.setOp_walks (s : State) (o : Op) : (s.setOp o).walks = s.walks := rfl
@[simp] theorem State.setOp_ctxs (s : State) (o : Op) : (s.setOp o).ctxs = s.ctxs := rfl
@[simp] theorem State.setOp_cores (s : State) (o : Op) : (s.setOp o).cores = s.cores := rfl
@[simp] theorem State.setOp_clusters (s : State) (o : Op) : (s.setOp o).clusters = s.clusters := rfl
@[simp] theorem State.setOp_quads (s : State) (o : Op) : (s.setOp o).quads = s.quads := rfl
@[simp] theorem State.setOp_arrays (s : State) (o : Op) : (s.setOp o).arrays = s.arrays := rfl
@[simp] theorem State.setOp_hbm (s : State) (o : Op) : (s.setOp o).hbm = s.hbm := rfl
@[simp] theorem State.setOp_blockTags (s : State) (o : Op) : (s.setOp o).blockTags = s.blockTags := rfl
@[simp] theorem State.setOp_weak (s : State) (o : Op) : (s.setOp o).weak = s.weak := rfl
@[simp] theorem State.setOp_l2 (s : State) (o : Op) : (s.setOp o).l2 = s.l2 := rfl
@[simp] theorem State.setOp_wbuf (s : State) (o : Op) : (s.setOp o).wbuf = s.wbuf := rfl
@[simp] theorem State.setOp_paths (s : State) (o : Op) : (s.setOp o).paths = s.paths := rfl
@[simp] theorem State.setOp_serial (s : State) (o : Op) : (s.setOp o).serial = s.serial := rfl
@[simp] theorem State.setOp_regions (s : State) (o : Op) : (s.setOp o).regions = s.regions := rfl
@[simp] theorem State.setOp_regionLock (s : State) (o : Op) : (s.setOp o).regionLock = s.regionLock := rfl
@[simp] theorem State.setOp_nextOp (s : State) (o : Op) : (s.setOp o).nextOp = s.nextOp := rfl
@[simp] theorem State.setOp_pchs (s : State) (o : Op) : (s.setOp o).pchs = s.pchs := rfl
@[simp] theorem State.setOp_syncs (s : State) (o : Op) : (s.setOp o).syncs = s.syncs := rfl
@[simp] theorem State.setOp_barriers (s : State) (o : Op) : (s.setOp o).barriers = s.barriers := rfl
@[simp] theorem State.setOp_domReports (s : State) (o : Op) : (s.setOp o).domReports = s.domReports := rfl
@[simp] theorem State.setOp_tiles (s : State) (o : Op) : (s.setOp o).tiles = s.tiles := rfl
@[simp] theorem State.setOp_gqcfg (s : State) (o : Op) : (s.setOp o).gqcfg = s.gqcfg := rfl
@[simp] theorem State.setOp_tasks (s : State) (o : Op) : (s.setOp o).tasks = s.tasks := rfl
@[simp] theorem State.setOp_nextTask (s : State) (o : Op) : (s.setOp o).nextTask = s.nextTask := rfl
@[simp] theorem State.setOp_parts (s : State) (o : Op) : (s.setOp o).parts = s.parts := rfl
@[simp] theorem State.setOp_pctxs (s : State) (o : Op) : (s.setOp o).pctxs = s.pctxs := rfl
@[simp] theorem State.setOp_records (s : State) (o : Op) : (s.setOp o).records = s.records := rfl
@[simp] theorem State.setOp_stewardLog (s : State) (o : Op) : (s.setOp o).stewardLog = s.stewardLog := rfl
@[simp] theorem State.setOp_errors (s : State) (o : Op) : (s.setOp o).errors = s.errors := rfl
@[simp] theorem State.setOp_lasting (s : State) (o : Op) : (s.setOp o).lasting = s.lasting := rfl
@[simp] theorem State.setOp_retired (s : State) (o : Op) : (s.setOp o).retired = s.retired := rfl
@[simp] theorem State.setOp_outCores (s : State) (o : Op) : (s.setOp o).outCores = s.outCores := rfl
@[simp] theorem State.setOp_cycle (s : State) (o : Op) : (s.setOp o).cycle = s.cycle := rfl
@[simp] theorem State.setOp_timeOff (s : State) (o : Op) : (s.setOp o).timeOff = s.timeOff := rfl
@[simp] theorem State.setOp_sinceFix (s : State) (o : Op) : (s.setOp o).sinceFix = s.sinceFix := rfl
@[simp] theorem State.setOp_sinceBeat (s : State) (o : Op) : (s.setOp o).sinceBeat = s.sinceBeat := rfl
@[simp] theorem State.setOp_memcfg (s : State) (o : Op) : (s.setOp o).memcfg = s.memcfg := rfl
@[simp] theorem State.setOp_tlbinv (s : State) (o : Op) : (s.setOp o).tlbinv = s.tlbinv := rfl
@[simp] theorem State.setOp_tlbinva (s : State) (o : Op) : (s.setOp o).tlbinva = s.tlbinva := rfl
@[simp] theorem State.setOp_hrevoke (s : State) (o : Op) : (s.setOp o).hrevoke = s.hrevoke := rfl
@[simp] theorem State.setOp_barage (s : State) (o : Op) : (s.setOp o).barage = s.barage := rfl
@[simp] theorem State.setOp_dbarcnt (s : State) (o : Op) : (s.setOp o).dbarcnt = s.dbarcnt := rfl
@[simp] theorem State.setOp_ports (s : State) (o : Op) : (s.setOp o).ports = s.ports := rfl
@[simp] theorem State.setOp_domid (s : State) (o : Op) : (s.setOp o).domid = s.domid := rfl
@[simp] theorem State.setOp_flagsSeen (s : State) (o : Op) : (s.setOp o).flagsSeen = s.flagsSeen := rfl
@[simp] theorem State.setOp_packetsSeen (s : State) (o : Op) : (s.setOp o).packetsSeen = s.packetsSeen := rfl
@[simp] theorem State.setOp_interrupts (s : State) (o : Op) : (s.setOp o).interrupts = s.interrupts := rfl
@[simp] theorem State.setOp_nor (s : State) (o : Op) : (s.setOp o).nor = s.nor := rfl
@[simp] theorem State.setOp_ufs (s : State) (o : Op) : (s.setOp o).ufs = s.ufs := rfl
@[simp] theorem State.setOp_bootStage (s : State) (o : Op) : (s.setOp o).bootStage = s.bootStage := rfl
@[simp] theorem State.setOp_bootErr (s : State) (o : Op) : (s.setOp o).bootErr = s.bootErr := rfl
@[simp] theorem State.setOp_bootFailed (s : State) (o : Op) : (s.setOp o).bootFailed = s.bootFailed := rfl
@[simp] theorem State.setOp_rootPort (s : State) (o : Op) : (s.setOp o).rootPort = s.rootPort := rfl
@[simp] theorem State.setOp_meas (s : State) (o : Op) : (s.setOp o).meas = s.meas := rfl
@[simp] theorem State.setOp_digest (s : State) (o : Op) : (s.setOp o).digest = s.digest := rfl
@[simp] theorem State.setOp_mext (s : State) (o : Op) : (s.setOp o).mext = s.mext := rfl
@[simp] theorem State.setOp_hot (s : State) (o : Op) : (s.setOp o).hot = s.hot := rfl
@[simp] theorem State.setOp_pwr (s : State) (o : Op) : (s.setOp o).pwr = s.pwr := rfl
@[simp] theorem State.setOp_tdie0 (s : State) (o : Op) : (s.setOp o).tdie0 = s.tdie0 := rfl
@[simp] theorem State.setOp_tdie1 (s : State) (o : Op) : (s.setOp o).tdie1 = s.tdie1 := rfl
@[simp] theorem State.setOp_powered (s : State) (o : Op) : (s.setOp o).powered = s.powered := rfl
@[simp] theorem State.setOp_harts (s : State) (o : Op) : (s.setOp o).harts = s.harts := rfl
@[simp] theorem State.setOp_svns (s : State) (o : Op) : (s.setOp o).svns = s.svns := rfl
@[simp] theorem State.setOp_etherUp (s : State) (o : Op) : (s.setOp o).etherUp = s.etherUp := rfl
@[simp] theorem State.setOp_attested (s : State) (o : Op) : (s.setOp o).attested = s.attested := rfl
@[simp] theorem State.setOp_fenced (s : State) (o : Op) : (s.setOp o).fenced = s.fenced := rfl
@[simp] theorem State.setOp_inputs (s : State) (o : Op) : (s.setOp o).inputs = s.inputs := rfl
@[simp] theorem State.setOp_tick (s : State) (o : Op) : (s.setOp o).tick = s.tick := rfl

/-! A new operation. -/

@[simp] theorem State.addOpOf_cur (s : State) (t : ThreadId) (d : Option Reg) (k : OpKind) : (s.addOpOf t d k).cur = s.cur := rfl
@[simp] theorem State.addOpOf_iss (s : State) (t : ThreadId) (d : Option Reg) (k : OpKind) : (s.addOpOf t d k).iss = s.iss := rfl
@[simp] theorem State.addOpOf_threads (s : State) (t : ThreadId) (d : Option Reg) (k : OpKind) : (s.addOpOf t d k).threads = s.threads := rfl
@[simp] theorem State.addOpOf_walks (s : State) (t : ThreadId) (d : Option Reg) (k : OpKind) : (s.addOpOf t d k).walks = s.walks := rfl
@[simp] theorem State.addOpOf_ctxs (s : State) (t : ThreadId) (d : Option Reg) (k : OpKind) : (s.addOpOf t d k).ctxs = s.ctxs := rfl
@[simp] theorem State.addOpOf_cores (s : State) (t : ThreadId) (d : Option Reg) (k : OpKind) : (s.addOpOf t d k).cores = s.cores := rfl
@[simp] theorem State.addOpOf_clusters (s : State) (t : ThreadId) (d : Option Reg) (k : OpKind) : (s.addOpOf t d k).clusters = s.clusters := rfl
@[simp] theorem State.addOpOf_quads (s : State) (t : ThreadId) (d : Option Reg) (k : OpKind) : (s.addOpOf t d k).quads = s.quads := rfl
@[simp] theorem State.addOpOf_arrays (s : State) (t : ThreadId) (d : Option Reg) (k : OpKind) : (s.addOpOf t d k).arrays = s.arrays := rfl
@[simp] theorem State.addOpOf_hbm (s : State) (t : ThreadId) (d : Option Reg) (k : OpKind) : (s.addOpOf t d k).hbm = s.hbm := rfl
@[simp] theorem State.addOpOf_blockTags (s : State) (t : ThreadId) (d : Option Reg) (k : OpKind) : (s.addOpOf t d k).blockTags = s.blockTags := rfl
@[simp] theorem State.addOpOf_weak (s : State) (t : ThreadId) (d : Option Reg) (k : OpKind) : (s.addOpOf t d k).weak = s.weak := rfl
@[simp] theorem State.addOpOf_l2 (s : State) (t : ThreadId) (d : Option Reg) (k : OpKind) : (s.addOpOf t d k).l2 = s.l2 := rfl
@[simp] theorem State.addOpOf_wbuf (s : State) (t : ThreadId) (d : Option Reg) (k : OpKind) : (s.addOpOf t d k).wbuf = s.wbuf := rfl
@[simp] theorem State.addOpOf_paths (s : State) (t : ThreadId) (d : Option Reg) (k : OpKind) : (s.addOpOf t d k).paths = s.paths := rfl
@[simp] theorem State.addOpOf_serial (s : State) (t : ThreadId) (d : Option Reg) (k : OpKind) : (s.addOpOf t d k).serial = s.serial := rfl
@[simp] theorem State.addOpOf_regions (s : State) (t : ThreadId) (d : Option Reg) (k : OpKind) : (s.addOpOf t d k).regions = s.regions := rfl
@[simp] theorem State.addOpOf_regionLock (s : State) (t : ThreadId) (d : Option Reg) (k : OpKind) : (s.addOpOf t d k).regionLock = s.regionLock := rfl
@[simp] theorem State.addOpOf_pchs (s : State) (t : ThreadId) (d : Option Reg) (k : OpKind) : (s.addOpOf t d k).pchs = s.pchs := rfl
@[simp] theorem State.addOpOf_syncs (s : State) (t : ThreadId) (d : Option Reg) (k : OpKind) : (s.addOpOf t d k).syncs = s.syncs := rfl
@[simp] theorem State.addOpOf_barriers (s : State) (t : ThreadId) (d : Option Reg) (k : OpKind) : (s.addOpOf t d k).barriers = s.barriers := rfl
@[simp] theorem State.addOpOf_domReports (s : State) (t : ThreadId) (d : Option Reg) (k : OpKind) : (s.addOpOf t d k).domReports = s.domReports := rfl
@[simp] theorem State.addOpOf_tiles (s : State) (t : ThreadId) (d : Option Reg) (k : OpKind) : (s.addOpOf t d k).tiles = s.tiles := rfl
@[simp] theorem State.addOpOf_gqcfg (s : State) (t : ThreadId) (d : Option Reg) (k : OpKind) : (s.addOpOf t d k).gqcfg = s.gqcfg := rfl
@[simp] theorem State.addOpOf_tasks (s : State) (t : ThreadId) (d : Option Reg) (k : OpKind) : (s.addOpOf t d k).tasks = s.tasks := rfl
@[simp] theorem State.addOpOf_nextTask (s : State) (t : ThreadId) (d : Option Reg) (k : OpKind) : (s.addOpOf t d k).nextTask = s.nextTask := rfl
@[simp] theorem State.addOpOf_parts (s : State) (t : ThreadId) (d : Option Reg) (k : OpKind) : (s.addOpOf t d k).parts = s.parts := rfl
@[simp] theorem State.addOpOf_pctxs (s : State) (t : ThreadId) (d : Option Reg) (k : OpKind) : (s.addOpOf t d k).pctxs = s.pctxs := rfl
@[simp] theorem State.addOpOf_records (s : State) (t : ThreadId) (d : Option Reg) (k : OpKind) : (s.addOpOf t d k).records = s.records := rfl
@[simp] theorem State.addOpOf_stewardLog (s : State) (t : ThreadId) (d : Option Reg) (k : OpKind) : (s.addOpOf t d k).stewardLog = s.stewardLog := rfl
@[simp] theorem State.addOpOf_errors (s : State) (t : ThreadId) (d : Option Reg) (k : OpKind) : (s.addOpOf t d k).errors = s.errors := rfl
@[simp] theorem State.addOpOf_lasting (s : State) (t : ThreadId) (d : Option Reg) (k : OpKind) : (s.addOpOf t d k).lasting = s.lasting := rfl
@[simp] theorem State.addOpOf_retired (s : State) (t : ThreadId) (d : Option Reg) (k : OpKind) : (s.addOpOf t d k).retired = s.retired := rfl
@[simp] theorem State.addOpOf_outCores (s : State) (t : ThreadId) (d : Option Reg) (k : OpKind) : (s.addOpOf t d k).outCores = s.outCores := rfl
@[simp] theorem State.addOpOf_cycle (s : State) (t : ThreadId) (d : Option Reg) (k : OpKind) : (s.addOpOf t d k).cycle = s.cycle := rfl
@[simp] theorem State.addOpOf_timeOff (s : State) (t : ThreadId) (d : Option Reg) (k : OpKind) : (s.addOpOf t d k).timeOff = s.timeOff := rfl
@[simp] theorem State.addOpOf_sinceFix (s : State) (t : ThreadId) (d : Option Reg) (k : OpKind) : (s.addOpOf t d k).sinceFix = s.sinceFix := rfl
@[simp] theorem State.addOpOf_sinceBeat (s : State) (t : ThreadId) (d : Option Reg) (k : OpKind) : (s.addOpOf t d k).sinceBeat = s.sinceBeat := rfl
@[simp] theorem State.addOpOf_memcfg (s : State) (t : ThreadId) (d : Option Reg) (k : OpKind) : (s.addOpOf t d k).memcfg = s.memcfg := rfl
@[simp] theorem State.addOpOf_tlbinv (s : State) (t : ThreadId) (d : Option Reg) (k : OpKind) : (s.addOpOf t d k).tlbinv = s.tlbinv := rfl
@[simp] theorem State.addOpOf_tlbinva (s : State) (t : ThreadId) (d : Option Reg) (k : OpKind) : (s.addOpOf t d k).tlbinva = s.tlbinva := rfl
@[simp] theorem State.addOpOf_hrevoke (s : State) (t : ThreadId) (d : Option Reg) (k : OpKind) : (s.addOpOf t d k).hrevoke = s.hrevoke := rfl
@[simp] theorem State.addOpOf_barage (s : State) (t : ThreadId) (d : Option Reg) (k : OpKind) : (s.addOpOf t d k).barage = s.barage := rfl
@[simp] theorem State.addOpOf_dbarcnt (s : State) (t : ThreadId) (d : Option Reg) (k : OpKind) : (s.addOpOf t d k).dbarcnt = s.dbarcnt := rfl
@[simp] theorem State.addOpOf_ports (s : State) (t : ThreadId) (d : Option Reg) (k : OpKind) : (s.addOpOf t d k).ports = s.ports := rfl
@[simp] theorem State.addOpOf_domid (s : State) (t : ThreadId) (d : Option Reg) (k : OpKind) : (s.addOpOf t d k).domid = s.domid := rfl
@[simp] theorem State.addOpOf_flagsSeen (s : State) (t : ThreadId) (d : Option Reg) (k : OpKind) : (s.addOpOf t d k).flagsSeen = s.flagsSeen := rfl
@[simp] theorem State.addOpOf_packetsSeen (s : State) (t : ThreadId) (d : Option Reg) (k : OpKind) : (s.addOpOf t d k).packetsSeen = s.packetsSeen := rfl
@[simp] theorem State.addOpOf_interrupts (s : State) (t : ThreadId) (d : Option Reg) (k : OpKind) : (s.addOpOf t d k).interrupts = s.interrupts := rfl
@[simp] theorem State.addOpOf_nor (s : State) (t : ThreadId) (d : Option Reg) (k : OpKind) : (s.addOpOf t d k).nor = s.nor := rfl
@[simp] theorem State.addOpOf_ufs (s : State) (t : ThreadId) (d : Option Reg) (k : OpKind) : (s.addOpOf t d k).ufs = s.ufs := rfl
@[simp] theorem State.addOpOf_bootStage (s : State) (t : ThreadId) (d : Option Reg) (k : OpKind) : (s.addOpOf t d k).bootStage = s.bootStage := rfl
@[simp] theorem State.addOpOf_bootErr (s : State) (t : ThreadId) (d : Option Reg) (k : OpKind) : (s.addOpOf t d k).bootErr = s.bootErr := rfl
@[simp] theorem State.addOpOf_bootFailed (s : State) (t : ThreadId) (d : Option Reg) (k : OpKind) : (s.addOpOf t d k).bootFailed = s.bootFailed := rfl
@[simp] theorem State.addOpOf_rootPort (s : State) (t : ThreadId) (d : Option Reg) (k : OpKind) : (s.addOpOf t d k).rootPort = s.rootPort := rfl
@[simp] theorem State.addOpOf_meas (s : State) (t : ThreadId) (d : Option Reg) (k : OpKind) : (s.addOpOf t d k).meas = s.meas := rfl
@[simp] theorem State.addOpOf_digest (s : State) (t : ThreadId) (d : Option Reg) (k : OpKind) : (s.addOpOf t d k).digest = s.digest := rfl
@[simp] theorem State.addOpOf_mext (s : State) (t : ThreadId) (d : Option Reg) (k : OpKind) : (s.addOpOf t d k).mext = s.mext := rfl
@[simp] theorem State.addOpOf_hot (s : State) (t : ThreadId) (d : Option Reg) (k : OpKind) : (s.addOpOf t d k).hot = s.hot := rfl
@[simp] theorem State.addOpOf_pwr (s : State) (t : ThreadId) (d : Option Reg) (k : OpKind) : (s.addOpOf t d k).pwr = s.pwr := rfl
@[simp] theorem State.addOpOf_tdie0 (s : State) (t : ThreadId) (d : Option Reg) (k : OpKind) : (s.addOpOf t d k).tdie0 = s.tdie0 := rfl
@[simp] theorem State.addOpOf_tdie1 (s : State) (t : ThreadId) (d : Option Reg) (k : OpKind) : (s.addOpOf t d k).tdie1 = s.tdie1 := rfl
@[simp] theorem State.addOpOf_powered (s : State) (t : ThreadId) (d : Option Reg) (k : OpKind) : (s.addOpOf t d k).powered = s.powered := rfl
@[simp] theorem State.addOpOf_harts (s : State) (t : ThreadId) (d : Option Reg) (k : OpKind) : (s.addOpOf t d k).harts = s.harts := rfl
@[simp] theorem State.addOpOf_svns (s : State) (t : ThreadId) (d : Option Reg) (k : OpKind) : (s.addOpOf t d k).svns = s.svns := rfl
@[simp] theorem State.addOpOf_etherUp (s : State) (t : ThreadId) (d : Option Reg) (k : OpKind) : (s.addOpOf t d k).etherUp = s.etherUp := rfl
@[simp] theorem State.addOpOf_attested (s : State) (t : ThreadId) (d : Option Reg) (k : OpKind) : (s.addOpOf t d k).attested = s.attested := rfl
@[simp] theorem State.addOpOf_fenced (s : State) (t : ThreadId) (d : Option Reg) (k : OpKind) : (s.addOpOf t d k).fenced = s.fenced := rfl
@[simp] theorem State.addOpOf_inputs (s : State) (t : ThreadId) (d : Option Reg) (k : OpKind) : (s.addOpOf t d k).inputs = s.inputs := rfl
@[simp] theorem State.addOpOf_tick (s : State) (t : ThreadId) (d : Option Reg) (k : OpKind) : (s.addOpOf t d k).tick = s.tick := rfl

/-! A record on its way. -/

@[simp] theorem State.record_cur (s : State) (u p : Nat) (c f : Bool) (ty : Nat) (l : List (Nat × Nat)) : (s.record u p c f ty l).cur = s.cur := rfl
@[simp] theorem State.record_iss (s : State) (u p : Nat) (c f : Bool) (ty : Nat) (l : List (Nat × Nat)) : (s.record u p c f ty l).iss = s.iss := rfl
@[simp] theorem State.record_threads (s : State) (u p : Nat) (c f : Bool) (ty : Nat) (l : List (Nat × Nat)) : (s.record u p c f ty l).threads = s.threads := rfl
@[simp] theorem State.record_walks (s : State) (u p : Nat) (c f : Bool) (ty : Nat) (l : List (Nat × Nat)) : (s.record u p c f ty l).walks = s.walks := rfl
@[simp] theorem State.record_ctxs (s : State) (u p : Nat) (c f : Bool) (ty : Nat) (l : List (Nat × Nat)) : (s.record u p c f ty l).ctxs = s.ctxs := rfl
@[simp] theorem State.record_cores (s : State) (u p : Nat) (c f : Bool) (ty : Nat) (l : List (Nat × Nat)) : (s.record u p c f ty l).cores = s.cores := rfl
@[simp] theorem State.record_clusters (s : State) (u p : Nat) (c f : Bool) (ty : Nat) (l : List (Nat × Nat)) : (s.record u p c f ty l).clusters = s.clusters := rfl
@[simp] theorem State.record_quads (s : State) (u p : Nat) (c f : Bool) (ty : Nat) (l : List (Nat × Nat)) : (s.record u p c f ty l).quads = s.quads := rfl
@[simp] theorem State.record_arrays (s : State) (u p : Nat) (c f : Bool) (ty : Nat) (l : List (Nat × Nat)) : (s.record u p c f ty l).arrays = s.arrays := rfl
@[simp] theorem State.record_hbm (s : State) (u p : Nat) (c f : Bool) (ty : Nat) (l : List (Nat × Nat)) : (s.record u p c f ty l).hbm = s.hbm := rfl
@[simp] theorem State.record_blockTags (s : State) (u p : Nat) (c f : Bool) (ty : Nat) (l : List (Nat × Nat)) : (s.record u p c f ty l).blockTags = s.blockTags := rfl
@[simp] theorem State.record_weak (s : State) (u p : Nat) (c f : Bool) (ty : Nat) (l : List (Nat × Nat)) : (s.record u p c f ty l).weak = s.weak := rfl
@[simp] theorem State.record_l2 (s : State) (u p : Nat) (c f : Bool) (ty : Nat) (l : List (Nat × Nat)) : (s.record u p c f ty l).l2 = s.l2 := rfl
@[simp] theorem State.record_wbuf (s : State) (u p : Nat) (c f : Bool) (ty : Nat) (l : List (Nat × Nat)) : (s.record u p c f ty l).wbuf = s.wbuf := rfl
@[simp] theorem State.record_paths (s : State) (u p : Nat) (c f : Bool) (ty : Nat) (l : List (Nat × Nat)) : (s.record u p c f ty l).paths = s.paths := rfl
@[simp] theorem State.record_serial (s : State) (u p : Nat) (c f : Bool) (ty : Nat) (l : List (Nat × Nat)) : (s.record u p c f ty l).serial = s.serial := rfl
@[simp] theorem State.record_regions (s : State) (u p : Nat) (c f : Bool) (ty : Nat) (l : List (Nat × Nat)) : (s.record u p c f ty l).regions = s.regions := rfl
@[simp] theorem State.record_regionLock (s : State) (u p : Nat) (c f : Bool) (ty : Nat) (l : List (Nat × Nat)) : (s.record u p c f ty l).regionLock = s.regionLock := rfl
@[simp] theorem State.record_ops (s : State) (u p : Nat) (c f : Bool) (ty : Nat) (l : List (Nat × Nat)) : (s.record u p c f ty l).ops = s.ops := rfl
@[simp] theorem State.record_nextOp (s : State) (u p : Nat) (c f : Bool) (ty : Nat) (l : List (Nat × Nat)) : (s.record u p c f ty l).nextOp = s.nextOp := rfl
@[simp] theorem State.record_pchs (s : State) (u p : Nat) (c f : Bool) (ty : Nat) (l : List (Nat × Nat)) : (s.record u p c f ty l).pchs = s.pchs := rfl
@[simp] theorem State.record_syncs (s : State) (u p : Nat) (c f : Bool) (ty : Nat) (l : List (Nat × Nat)) : (s.record u p c f ty l).syncs = s.syncs := rfl
@[simp] theorem State.record_barriers (s : State) (u p : Nat) (c f : Bool) (ty : Nat) (l : List (Nat × Nat)) : (s.record u p c f ty l).barriers = s.barriers := rfl
@[simp] theorem State.record_domReports (s : State) (u p : Nat) (c f : Bool) (ty : Nat) (l : List (Nat × Nat)) : (s.record u p c f ty l).domReports = s.domReports := rfl
@[simp] theorem State.record_tiles (s : State) (u p : Nat) (c f : Bool) (ty : Nat) (l : List (Nat × Nat)) : (s.record u p c f ty l).tiles = s.tiles := rfl
@[simp] theorem State.record_gqcfg (s : State) (u p : Nat) (c f : Bool) (ty : Nat) (l : List (Nat × Nat)) : (s.record u p c f ty l).gqcfg = s.gqcfg := rfl
@[simp] theorem State.record_tasks (s : State) (u p : Nat) (c f : Bool) (ty : Nat) (l : List (Nat × Nat)) : (s.record u p c f ty l).tasks = s.tasks := rfl
@[simp] theorem State.record_nextTask (s : State) (u p : Nat) (c f : Bool) (ty : Nat) (l : List (Nat × Nat)) : (s.record u p c f ty l).nextTask = s.nextTask := rfl
@[simp] theorem State.record_parts (s : State) (u p : Nat) (c f : Bool) (ty : Nat) (l : List (Nat × Nat)) : (s.record u p c f ty l).parts = s.parts := rfl
@[simp] theorem State.record_pctxs (s : State) (u p : Nat) (c f : Bool) (ty : Nat) (l : List (Nat × Nat)) : (s.record u p c f ty l).pctxs = s.pctxs := rfl
@[simp] theorem State.record_stewardLog (s : State) (u p : Nat) (c f : Bool) (ty : Nat) (l : List (Nat × Nat)) : (s.record u p c f ty l).stewardLog = s.stewardLog := rfl
@[simp] theorem State.record_errors (s : State) (u p : Nat) (c f : Bool) (ty : Nat) (l : List (Nat × Nat)) : (s.record u p c f ty l).errors = s.errors := rfl
@[simp] theorem State.record_lasting (s : State) (u p : Nat) (c f : Bool) (ty : Nat) (l : List (Nat × Nat)) : (s.record u p c f ty l).lasting = s.lasting := rfl
@[simp] theorem State.record_retired (s : State) (u p : Nat) (c f : Bool) (ty : Nat) (l : List (Nat × Nat)) : (s.record u p c f ty l).retired = s.retired := rfl
@[simp] theorem State.record_outCores (s : State) (u p : Nat) (c f : Bool) (ty : Nat) (l : List (Nat × Nat)) : (s.record u p c f ty l).outCores = s.outCores := rfl
@[simp] theorem State.record_cycle (s : State) (u p : Nat) (c f : Bool) (ty : Nat) (l : List (Nat × Nat)) : (s.record u p c f ty l).cycle = s.cycle := rfl
@[simp] theorem State.record_timeOff (s : State) (u p : Nat) (c f : Bool) (ty : Nat) (l : List (Nat × Nat)) : (s.record u p c f ty l).timeOff = s.timeOff := rfl
@[simp] theorem State.record_sinceFix (s : State) (u p : Nat) (c f : Bool) (ty : Nat) (l : List (Nat × Nat)) : (s.record u p c f ty l).sinceFix = s.sinceFix := rfl
@[simp] theorem State.record_sinceBeat (s : State) (u p : Nat) (c f : Bool) (ty : Nat) (l : List (Nat × Nat)) : (s.record u p c f ty l).sinceBeat = s.sinceBeat := rfl
@[simp] theorem State.record_memcfg (s : State) (u p : Nat) (c f : Bool) (ty : Nat) (l : List (Nat × Nat)) : (s.record u p c f ty l).memcfg = s.memcfg := rfl
@[simp] theorem State.record_tlbinv (s : State) (u p : Nat) (c f : Bool) (ty : Nat) (l : List (Nat × Nat)) : (s.record u p c f ty l).tlbinv = s.tlbinv := rfl
@[simp] theorem State.record_tlbinva (s : State) (u p : Nat) (c f : Bool) (ty : Nat) (l : List (Nat × Nat)) : (s.record u p c f ty l).tlbinva = s.tlbinva := rfl
@[simp] theorem State.record_hrevoke (s : State) (u p : Nat) (c f : Bool) (ty : Nat) (l : List (Nat × Nat)) : (s.record u p c f ty l).hrevoke = s.hrevoke := rfl
@[simp] theorem State.record_barage (s : State) (u p : Nat) (c f : Bool) (ty : Nat) (l : List (Nat × Nat)) : (s.record u p c f ty l).barage = s.barage := rfl
@[simp] theorem State.record_dbarcnt (s : State) (u p : Nat) (c f : Bool) (ty : Nat) (l : List (Nat × Nat)) : (s.record u p c f ty l).dbarcnt = s.dbarcnt := rfl
@[simp] theorem State.record_ports (s : State) (u p : Nat) (c f : Bool) (ty : Nat) (l : List (Nat × Nat)) : (s.record u p c f ty l).ports = s.ports := rfl
@[simp] theorem State.record_domid (s : State) (u p : Nat) (c f : Bool) (ty : Nat) (l : List (Nat × Nat)) : (s.record u p c f ty l).domid = s.domid := rfl
@[simp] theorem State.record_flagsSeen (s : State) (u p : Nat) (c f : Bool) (ty : Nat) (l : List (Nat × Nat)) : (s.record u p c f ty l).flagsSeen = s.flagsSeen := rfl
@[simp] theorem State.record_packetsSeen (s : State) (u p : Nat) (c f : Bool) (ty : Nat) (l : List (Nat × Nat)) : (s.record u p c f ty l).packetsSeen = s.packetsSeen := rfl
@[simp] theorem State.record_interrupts (s : State) (u p : Nat) (c f : Bool) (ty : Nat) (l : List (Nat × Nat)) : (s.record u p c f ty l).interrupts = s.interrupts := rfl
@[simp] theorem State.record_nor (s : State) (u p : Nat) (c f : Bool) (ty : Nat) (l : List (Nat × Nat)) : (s.record u p c f ty l).nor = s.nor := rfl
@[simp] theorem State.record_ufs (s : State) (u p : Nat) (c f : Bool) (ty : Nat) (l : List (Nat × Nat)) : (s.record u p c f ty l).ufs = s.ufs := rfl
@[simp] theorem State.record_bootStage (s : State) (u p : Nat) (c f : Bool) (ty : Nat) (l : List (Nat × Nat)) : (s.record u p c f ty l).bootStage = s.bootStage := rfl
@[simp] theorem State.record_bootErr (s : State) (u p : Nat) (c f : Bool) (ty : Nat) (l : List (Nat × Nat)) : (s.record u p c f ty l).bootErr = s.bootErr := rfl
@[simp] theorem State.record_bootFailed (s : State) (u p : Nat) (c f : Bool) (ty : Nat) (l : List (Nat × Nat)) : (s.record u p c f ty l).bootFailed = s.bootFailed := rfl
@[simp] theorem State.record_rootPort (s : State) (u p : Nat) (c f : Bool) (ty : Nat) (l : List (Nat × Nat)) : (s.record u p c f ty l).rootPort = s.rootPort := rfl
@[simp] theorem State.record_meas (s : State) (u p : Nat) (c f : Bool) (ty : Nat) (l : List (Nat × Nat)) : (s.record u p c f ty l).meas = s.meas := rfl
@[simp] theorem State.record_digest (s : State) (u p : Nat) (c f : Bool) (ty : Nat) (l : List (Nat × Nat)) : (s.record u p c f ty l).digest = s.digest := rfl
@[simp] theorem State.record_mext (s : State) (u p : Nat) (c f : Bool) (ty : Nat) (l : List (Nat × Nat)) : (s.record u p c f ty l).mext = s.mext := rfl
@[simp] theorem State.record_hot (s : State) (u p : Nat) (c f : Bool) (ty : Nat) (l : List (Nat × Nat)) : (s.record u p c f ty l).hot = s.hot := rfl
@[simp] theorem State.record_pwr (s : State) (u p : Nat) (c f : Bool) (ty : Nat) (l : List (Nat × Nat)) : (s.record u p c f ty l).pwr = s.pwr := rfl
@[simp] theorem State.record_tdie0 (s : State) (u p : Nat) (c f : Bool) (ty : Nat) (l : List (Nat × Nat)) : (s.record u p c f ty l).tdie0 = s.tdie0 := rfl
@[simp] theorem State.record_tdie1 (s : State) (u p : Nat) (c f : Bool) (ty : Nat) (l : List (Nat × Nat)) : (s.record u p c f ty l).tdie1 = s.tdie1 := rfl
@[simp] theorem State.record_powered (s : State) (u p : Nat) (c f : Bool) (ty : Nat) (l : List (Nat × Nat)) : (s.record u p c f ty l).powered = s.powered := rfl
@[simp] theorem State.record_harts (s : State) (u p : Nat) (c f : Bool) (ty : Nat) (l : List (Nat × Nat)) : (s.record u p c f ty l).harts = s.harts := rfl
@[simp] theorem State.record_svns (s : State) (u p : Nat) (c f : Bool) (ty : Nat) (l : List (Nat × Nat)) : (s.record u p c f ty l).svns = s.svns := rfl
@[simp] theorem State.record_etherUp (s : State) (u p : Nat) (c f : Bool) (ty : Nat) (l : List (Nat × Nat)) : (s.record u p c f ty l).etherUp = s.etherUp := rfl
@[simp] theorem State.record_attested (s : State) (u p : Nat) (c f : Bool) (ty : Nat) (l : List (Nat × Nat)) : (s.record u p c f ty l).attested = s.attested := rfl
@[simp] theorem State.record_fenced (s : State) (u p : Nat) (c f : Bool) (ty : Nat) (l : List (Nat × Nat)) : (s.record u p c f ty l).fenced = s.fenced := rfl
@[simp] theorem State.record_inputs (s : State) (u p : Nat) (c f : Bool) (ty : Nat) (l : List (Nat × Nat)) : (s.record u p c f ty l).inputs = s.inputs := rfl
@[simp] theorem State.record_tick (s : State) (u p : Nat) (c f : Bool) (ty : Nat) (l : List (Nat × Nat)) : (s.record u p c f ty l).tick = s.tick := rfl


end Sys2Proof.Machine
end

