-- ==== Sys2Proof/Laws/Slot.lean ====
section
/-!
SUPPORT. What the shared steps of a slot do: its predicate, its sources, its outcome, its queues and its landing entry.
-/
namespace Sys2Proof.Machine

/-! ## The outcome of a slot (R22, R29) -/

/-- A predicated-off slot changes nothing. -/
theorem slot_off {s : State} {p : Pred} (h : s.predOn p = false) (body : Except Stop State) : s.slot p body = .next s := by
  simp [State.slot, h]
theorem slot_ok {s : State} {p : Pred} (h : s.predOn p = true) (t : State) : s.slot p (.ok t) = .next t := by
  simp [State.slot, h]
theorem slot_trap {s : State} {p : Pred} (h : s.predOn p = true) (c : Nat) (v : Word) :
    s.slot p (.error (.trap c v)) = .next (s.takeTrap c v) := by
  simp [State.slot, h]
theorem slot_park {s : State} {p : Pred} (h : s.predOn p = true) (w : Wait) :
    s.slot p (.error (.park w)) = .next (s.park w) := by
  simp [State.slot, h]
/-- A slot always answers a next state. -/
theorem slot_next (s : State) (p : Pred) (body : Except Stop State) : ∃ t, s.slot p body = .next t := by
  unfold State.slot
  split
  · split <;> exact ⟨_, rfl⟩
  · exact ⟨_, rfl⟩

/-! ## Sources (R36, step 8) -/

/-- A slot that issues reads its three sources. -/
theorem sources_ok {M : Type} {s : State} {o : Fmt M} (h : s.Issues o) :
    s.sources o = .ok (s.read o.imm o.a, s.read o.imm o.b, s.read o.imm o.c) := by
  simp [State.sources, firstFault, h.a, h.b, h.c, h.free]

/-- The monadic reading of the same: a body that begins by its sources. -/
theorem sources_bind {M : Type} {s : State} {o : Fmt M} (h : s.Issues o) (f : Src × Src × Src → Except Stop State) :
    (s.sources o >>= f) = f (s.read o.imm o.a, s.read o.imm o.b, s.read o.imm o.c) := by
  rw [sources_ok h]; rfl

/-- A slot parks where a source is pending or the destination is not free. -/
theorem sources_park {M : Type} {s : State} {o : Fmt M}
    (h : (s.read o.imm o.a).st = .pending ∨ (s.read o.imm o.b).st = .pending ∨ (s.read o.imm o.c).st = .pending
      ∨ s.destBusy o.d [o.a, o.b, o.c] = true) : s.sources o = .error (.park .none) := by
  simp [State.sources, h]

/-- Nothing bounded among the sources: the check of R217 passes. -/
theorem noBounded_ok {s : State} {l : List Src} (h : ∀ a ∈ l, a.b = false) : s.noBounded l = .ok () := by
  have : l.any (·.b) = false := by simpa using h
  simp [State.noBounded, this]
theorem noBounded_trap {s : State} {l : List Src} (h : ∃ a ∈ l, a.b = true) :
    s.noBounded l = .error (.trap 26 s.iss.pc) := by
  have : l.any (·.b) = true := by simpa using h
  simp [State.noBounded, this, State.pcTrap]

/-! ## Reading a thread and a core context back -/

theorem thread_setThread (s : State) (t u : ThreadId) (th : Thread) :
    (s.setThread t th).thread u = if threadKey u = threadKey t then th else s.thread u := by
  simp [State.thread, State.setThread, SMap.get_set]
@[simp] theorem thread_setThread_same (s : State) (t : ThreadId) (th : Thread) : (s.setThread t th).thread t = th := by
  simp [thread_setThread]
theorem coreCtx_setCoreCtx (s : State) (c d : Nat) (x y : Bool) (k : CoreCtx) :
    (s.setCoreCtx c x k).coreCtx d y = if ctxKey d y = ctxKey c x then k else s.coreCtx d y := by
  simp [State.coreCtx, State.setCoreCtx, SMap.get_set]
@[simp] theorem coreCtx_setCoreCtx_same (s : State) (c : Nat) (x : Bool) (k : CoreCtx) : (s.setCoreCtx c x k).coreCtx c x = k := by
  simp [coreCtx_setCoreCtx]
@[simp] theorem th_setTh (s : State) (th : Thread) : (s.setTh th).th = th := by simp [State.th, State.setTh, State.setThread, State.thread]
@[simp] theorem cc_setCc (s : State) (c : CoreCtx) : (s.setCc c).cc = c := by simp [State.cc, State.setCc, State.setCoreCtx, State.coreCtx]
@[simp] theorem thread_setCoreCtx (s : State) (c : Nat) (x : Bool) (k : CoreCtx) (u : ThreadId) :
    (s.setCoreCtx c x k).thread u = s.thread u := rfl
@[simp] theorem coreCtx_setThread (s : State) (t : ThreadId) (th : Thread) (c : Nat) (x : Bool) :
    (s.setThread t th).coreCtx c x = s.coreCtx c x := rfl
@[simp] theorem th_setCc (s : State) (c : CoreCtx) : (s.setCc c).th = s.th := rfl
@[simp] theorem cc_setTh (s : State) (th : Thread) : (s.setTh th).cc = s.cc := rfl

end Sys2Proof.Machine
end

