-- ==== Sys2Proof/Laws/Scratch.lean ====
section
/-!
SUPPORT. What a store to the scratchpad changes: its bytes, and the tag of its block (R103); and what the shared checks of the
SPAD family answer (R108).
-/
namespace Sys2Proof.Machine

@[simp] theorem byte_setByte (c : CoreCtx) (a x : Nat) (v : Byte) :
    (c.setByte a v).byte x = if x = a then v else c.byte x := by
  simp [CoreCtx.setByte, CoreCtx.byte, SMap.get_set]
@[simp] theorem tag_setByte (c : CoreCtx) (a x : Nat) (v : Byte) : (c.setByte a v).tag x = c.tag x := rfl
@[simp] theorem byte_setTag (c : CoreCtx) (a x : Nat) (t : BitVec 16) : (c.setTag a t).byte x = c.byte x := rfl
@[simp] theorem tag_setTag (c : CoreCtx) (a x : Nat) (t : BitVec 16) :
    (c.setTag a t).tag x = if x / 64 = a / 64 then t else c.tag x := by
  simp [CoreCtx.setTag, CoreCtx.tag, SMap.get_set]
theorem byte_storeByte (c : CoreCtx) (a x : Nat) (v : Byte) (b : Bool) :
    (c.storeByte a v b).byte x = if x = a then v else c.byte x := by simp [CoreCtx.storeByte]
theorem tag_storeByte (c : CoreCtx) (a x : Nat) (v : Byte) (b : Bool) :
    (c.storeByte a v b).tag x = if x / 64 = a / 64 then storeTag (c.tag a) b else c.tag x := by simp [CoreCtx.storeByte]

/-- A store that is under way, byte by byte. -/
theorem store_cons (c : CoreCtx) (a : Nat) (v : Byte) (l : List Byte) (b : Bool) :
    c.store a (v :: l) b = (c.storeByte a v b).store (a + 1) l b := rfl
@[simp] theorem store_nil (c : CoreCtx) (a : Nat) (b : Bool) : c.store a [] b = c := rfl

/-- The bytes after a store. -/
theorem byte_store (c : CoreCtx) (a x : Nat) (l : List Byte) (b : Bool) :
    (c.store a l b).byte x = if a ≤ x ∧ x < a + l.length then l.getD (x - a) 0 else c.byte x := by
  induction l generalizing c a with
  | nil => simp
  | cons v l ih =>
    rw [store_cons, ih, byte_storeByte]
    by_cases h1 : a + 1 ≤ x ∧ x < a + 1 + l.length
    · rw [if_pos h1, if_pos (by simp only [List.length_cons]; omega)]
      obtain ⟨k, rfl⟩ := Nat.exists_eq_add_of_le h1.1
      simp [show a + 1 + k - a = k + 1 by omega]
    · rw [if_neg h1]
      by_cases h2 : x = a
      · subst h2; simp
      · rw [if_neg h2, if_neg (by simp only [List.length_cons]; omega)]

/-- A store changes nothing of a core context but bytes and tags. -/
theorem store_rest (c : CoreCtx) (a : Nat) (l : List Byte) (b : Bool) :
    c.store a l b = { c with spad := (c.store a l b).spad, tags := (c.store a l b).tags } := by
  induction l generalizing c a with
  | nil => rfl
  | cons v l ih =>
    rw [store_cons, ih]
    rfl

/-- The format code of a tag is its bits 8 to 14. -/
theorem tagFmt_eq (t : BitVec 16) : tagFmt t = ((t >>> 8).setWidth 7).toNat := by
  simp [tagFmt, BitVec.toNat_setWidth, BitVec.toNat_ushiftRight, Nat.shiftRight_eq_div_pow]

/-- Setting B leaves the format code alone. -/
theorem tagFmt_or (t : BitVec 16) : tagFmt (t ||| 0x8000) = tagFmt t := by
  rw [tagFmt_eq, tagFmt_eq]
  congr 1
  ext i hi
  simp only [BitVec.getElem_setWidth, BitVec.getLsbD_ushiftRight, BitVec.getLsbD_or]
  have : (0x8000#16).getLsbD (8 + i) = false := by interval_cases i <;> decide
  simp [this]

theorem storeTag_twice (t : BitVec 16) (b : Bool) : storeTag (storeTag t b) b = storeTag t b := by
  by_cases hp : tagPoison t = true
  · simp [storeTag, hp]
  · by_cases hz : (tagZero t || tagConst t) = true
    · have h : storeTag t b = mkTag (tagB t || b) 0 0 := by simp [storeTag, hp, hz]
      rw [h]
      cases tagB t <;> cases b <;> decide
    · have h : storeTag t b = if b then t ||| 0x8000 else t := by simp [storeTag, hp, hz]
      rw [h]
      cases b
      · simp [storeTag, hp, hz]
      · have hp' : tagPoison (t ||| 0x8000) = false := by
          unfold tagPoison; rw [tagFmt_or]; simpa [tagPoison] using hp
        have hz' : (tagZero (t ||| 0x8000) || tagConst (t ||| 0x8000)) = false := by
          unfold tagZero tagConst; rw [tagFmt_or]; simpa [tagZero, tagConst] using hz
        simp only [storeTag, if_true, hp', hz', Bool.false_eq_true, if_false, BitVec.or_assoc, BitVec.or_self]

/-- The tags after a store within one block. -/
theorem tag_store (c : CoreCtx) (a x : Nat) (l : List Byte) (b : Bool) (hl : l ≠ [])
    (hb : a / 64 = (a + l.length - 1) / 64) :
    (c.store a l b).tag x = if x / 64 = a / 64 then storeTag (c.tag a) b else c.tag x := by
  induction l generalizing c a with
  | nil => exact absurd rfl hl
  | cons v l ih =>
    rw [store_cons]
    by_cases he : l = []
    · subst he; simp [tag_storeByte]
    · have hlen : 0 < l.length := List.length_pos_iff.mpr he
      simp only [List.length_cons] at hb
      have h1 : (a + 1) / 64 = a / 64 := by omega
      rw [ih _ _ he (by omega), h1, tag_storeByte, tag_storeByte]
      simp only [h1, if_true, storeTag_twice]
      split <;> simp_all

end Sys2Proof.Machine
end

