-- ==== Sys2Proof/Tests/Slice0.lean ====
section
/-!
SUPPORT. Tests: terms that the well-formedness check refuses, words of the spec's encodings, single steps with results taken from the
spec, and for each statement a concrete state and operands that meet the hypotheses of each of its clauses.
-/
set_option Elab.async false

namespace Sys2Proof.Tests
open Sys2Proof Sys2Proof.Machine Sys2Proof.Claims

/-! ## Building states -/

def always : Pred := ⟨false, 0⟩
def never : Pred := ⟨true, 0⟩
def fmt {M : Type} (m : M) (d a b c : Reg) (imm : BitVec 32) : Fmt M := ⟨always, d, a, b, c, m, imm⟩
/-- x1 from x2 and x3, and with x4. -/
def rr {M : Type} (m : M) : Fmt M := fmt m (.x 1) (.x 2) (.x 3) (.x 0) 0
def rrr {M : Type} (m : M) : Fmt M := fmt m (.x 1) (.x 2) (.x 3) (.x 4) 0
/-- The current thread with a word in an x register, with a whole cell in one, or with an update of its own. -/
def putX (s : State) (n : Fin 32) (w : Word) : State := s.setTh (s.th.writeX n ⟨w, false, .present⟩)
def putCell (s : State) (n : Fin 32) (w : Word) (b : Bool) (st : RState) : State := s.setTh (s.th.writeX n ⟨w, b, st⟩)
def handler (s : State) : State := s.setTh { s.th with hm := true }
def s0 : State := State.reset
/-- The state in which the current thread issues, with its core's and its thread's records as at launch. -/
def run0 : State := s0.setTh { s0.th with run := .running }

theorem issues_iff {M : Type} (s : State) (o : Fmt M) : s.Issues o ↔ s.predOn o.pred = true ∧ (s.read o.imm o.a).st = .present
    ∧ (s.read o.imm o.b).st = .present ∧ (s.read o.imm o.c).st = .present ∧ s.destBusy o.d [o.a, o.b, o.c] = false :=
  ⟨fun h => ⟨h.on, h.a, h.b, h.c, h.free⟩, fun ⟨p, a, b, c, d⟩ => ⟨p, a, b, c, d⟩⟩

/-- A check that answers a value, in a form that can be decided. -/
def answers {α : Type} [DecidableEq α] (r : Except Stop α) (a : α) : Bool :=
  match r with | .ok b => decide (b = a) | .error _ => false
theorem answers_ok {α : Type} [DecidableEq α] {r : Except Stop α} {a : α} (h : answers r a = true) : r = .ok a := by
  unfold answers at h
  split at h
  · rw [of_decide_eq_true h]
  · exact absurd h (by decide)
/-- A step that answers a state with a property. -/
def goes (r : Host.Outcome State Fault Refusal) (p : State → Bool) : Bool := match r with | .next t => p t | _ => false

/-! ## Witnesses: slots and scalars -/

def bounded2 : State := putCell s0 2 5 true .present

theorem witness_SlotReadiness :
    (fieldsOf (.add (⟨never, .x 1, .x 2, .x 3, (.x 0), ⟨false, .wrap⟩, 0⟩)) = some ⟨never, .x 1, .x 2, .x 3, (.x 0), (), 0⟩
      ∧ s0.predOn never = false)
    ∧ (fieldsOf (.add (rr ⟨false, .wrap⟩)) = some (rr ()) ∧ readsFirst (.add (rr ⟨false, .wrap⟩)) = true ∧ s0.predOn always = true)
    ∧ ((putCell s0 2 0 false .pending).read 0 (.x 2)).st = .pending
    ∧ ((putCell s0 1 0 false .pending).destBusy (.x 1) [.x 2, .x 3, .x 0] = true)
    ∧ (let s := putCell s0 2 0 false (.faulted 29 64);
      (s.read 0 (.x 2)).st = .faulted 29 64 ∧ (s.read 0 (.x 3)).st ≠ .pending ∧ s.destBusy (.x 1) [.x 2, .x 3, .x 0] = false)
    ∧ (let s := putCell s0 3 0 false (.faulted 5 8);
      (s.read 0 (.x 2)).st = .present ∧ (s.read 0 (.x 3)).st = .faulted 5 8) := by decide
theorem witness_IntegerResults : s0.Issues (rr (⟨false, .wrap⟩ : IntMod)) ∧ bounded2.Issues (rr (⟨true, .sats⟩ : IntMod)) := by
  simp only [issues_iff]; and_intros <;> decide +kernel
theorem witness_BitFieldAndSelectResults : s0.Issues (rrr true) ∧ s0.Issues (rrr ()) ∧ s0.Issues (rrr (⟨true, 3⟩ : LeaMod))
    ∧ s0.Issues (fmt () (.x 1) (.p 0) (.x 3) (.x 4) 0) := by
  simp only [issues_iff]; and_intros <;> decide +kernel
def cmpMod : CondMod := ⟨false, .eq⟩
theorem witness_PredicatesNopAndMovi :
    (s0.predOn always = true ∧ (s0.th.readX 1).st ≠ .pending) ∧ ((putCell s0 1 0 false .pending).th.readX 1).st = .pending
    ∧ s0.predOn never = false
    ∧ (s0.Issues (rr cmpMod) ∧ s0.bitA (rr cmpMod) = false ∧ s0.bitB (rr cmpMod) = false)
    ∧ (s0.Issues (fmt () (.p 1) (.p 2) .imm (.x 0) 1) ∧ isPImm (.p 2) = true ∧ isPImm .imm = true)
    ∧ (s0.Issues (fmt () (.p 1) (.p 2) (.x 0) (.x 0) 1) ∧ isZero (.x 0) = true)
    ∧ s0.Issues (fmt () (.x 1) (.x 0) (.x 0) (.x 0) 0)
    ∧ (s0.Issues (fmt () (.x 0) (.x 2) (.x 0) (.x 0) 0) ∧ s0.bitA (fmt () (.x 0) (.x 2) (.x 0) (.x 0) 0) = false)
    ∧ (bounded2.Issues (rr cmpMod) ∧ bounded2.bitA (rr cmpMod) = true)
    ∧ (bounded2.Issues (fmt () (.x 0) (.x 2) (.x 0) (.x 0) 0) ∧ bounded2.bitA (fmt () (.x 0) (.x 2) (.x 0) (.x 0) 0) = true) := by
  simp only [issues_iff]; and_intros <;> decide +kernel

/-! ## Witnesses: the core of the machine -/

/-- Two writes in flight, one of them due. -/
def flying : State := s0.setTh { s0.th with
  landing := [⟨.x 5, 7, false, 1⟩, ⟨.v 2, 9, true, 16⟩]
  q0 := ⟨0x400001, true, false, false⟩
  q1 := ⟨0x400002, false, false, false⟩
  q2 := ⟨0x400040, false, true, false⟩ }

/-- ADD x1, x2, x3 as the next instruction. -/
def addNext : State := s0.withFetchWord 96 0x010000102030000000000000
def cur0 : ThreadId := ⟨0, false, 0⟩
def addLine : LineBuf := (addNext.thread cur0).line.getD ⟨0, [], false⟩

theorem witness_RegisterFrame : registersOf (.add (rr ⟨false, .wrap⟩)) = some [.x 1] ∧ s0.iss.status = .running
    ∧ exec (.add (rr ⟨false, .wrap⟩)) s0 = .next (s0.land (.x 1) 0 false 1) ∧ (s0.land (.x 1) 0 false 1).iss.status = .running := by
  and_intros <;> first | decide | rfl
theorem witness_LandingAndLatency : (s0.th.landing = [] ∧ (s0.th.readX 5).st ≠ .pending)
    ∧ ((⟨.c 2, (7 : Word).setWidth 256, true, 1⟩ : Landing).dest = .c 2 ∧ (s0.cc.readC 2).st ≠ .pending ∧ s0.cc.cnew = []) := by decide
theorem witness_TrapEntrySavesAndEnters : flying.th.hm = false ∧ flying.th.verdict ≠ some .waiting ∧ s0.th.landing = [] := by decide
theorem witness_DoubleTrapStopsTheThread : (handler s0).th.hm = true ∧ (handler s0).th.group = none
    ∧ (handler s0).th.verdict ≠ some .waiting := by decide
theorem witness_TrapThenReturnRestores : flying.th.hm = false ∧ flying.cur.thr < 8 ∧ flying.th.landing.length ≤ 4
    ∧ (∀ l ∈ flying.th.landing, savable l) ∧ inLandingOrder flying.th.landing
    ∧ goodPc flying.th.q0 ∧ goodPc flying.th.q1 ∧ goodPc flying.th.q2 ∧ flying.th.q0.sq = false
    ∧ flying.th.verdict ≠ some .waiting := by
  refine ⟨by decide, by decide, by decide, ?_, ⟨by decide, trivial⟩, by unfold goodPc; decide, by unfold goodPc; decide,
    by unfold goodPc; decide, by decide, by decide⟩
  intro l hl
  have : l = ⟨.x 5, 7, false, 1⟩ ∨ l = ⟨.v 2, 9, true, 16⟩ := by
    have h : flying.th.landing = [⟨.x 5, 7, false, 1⟩, ⟨.v 2, 9, true, 16⟩] := by decide
    simpa [h] using hl
  rcases this with rfl | rfl
  · exact ⟨by decide, by decide, .inl ⟨5, by decide, rfl⟩⟩
  · exact ⟨by decide, by decide, .inr (.inl ⟨2, rfl⟩)⟩

theorem witness_EncodeThenDecode : WellFormed (.add (rr ⟨false, .wrap⟩)) = true
    ∧ (encode (.add (rr ⟨false, .wrap⟩))).isSome = true := by decide
theorem witness_DecodeThenEncode : decodeBytes (natToBytes 12 0x010000102030000000000000) = some (.add (rr ⟨false, .wrap⟩)) := by decide

theorem witness_StandsAt : StandsAt addNext cur0 addLine where
  resident := by decide
  runs := by decide
  waits := by decide
  rests := by decide
  fresh := by decide
  judged := by decide
  crossed := by decide
  halted := by decide
  out := by decide
  serves := by decide
  breaks := by decide
  line := by decide
  here := by decide
  good := by decide
  slot := by decide
  zeros := by decide
  short := by decide
  kept := by decide
  target := by decide
  alone := by decide
  noStop := by decide
  spaced := by decide
theorem witness_OnlyThread : OnlyThread addNext cur0 where
  thr := by decide
  works := by decide
  booted := by decide
  due := by decide
  moved := by decide
  inputs := by decide
  agenda := by decide
  evictions := by decide
  publications := by decide
  core := by decide
  others := by
    intro u h1 h2
    match u, h1 with
    | 0, _ => exact absurd rfl h2
    | 1, _ => decide
    | 2, _ => decide
    | 3, _ => decide
    | 4, _ => decide
    | 5, _ => decide
    | 6, _ => decide
    | 7, _ => decide
/-- The thread issued in the last clk. -/
def addBarred : State := addNext.issuedLast 0 0
theorem witness_StandsAtBarred : StandsAt addBarred cur0 addLine := by constructor <;> decide +kernel
theorem witness_OnlyThreadBarred : OnlyThread addBarred cur0 := by constructor <;> decide +kernel
theorem witness_TheBarredThread : (addBarred.barred 0).contains 0 = true ∧ (addNext.barred 0).contains 0 = false
    ∧ (addBarred.slotEmpty 0).barred 0 = [] ∧ ({ addBarred with cycle := 2 } : State).barred 0 = [] := by decide
theorem witness_StepRunsTheDecodedInstruction :
    let w := lineSlot addLine.bytes (pcSlot (addNext.thread cur0).q0.pc)
    decodeBytes w = some (.add (rr ⟨false, .wrap⟩)) ∧ foreign (isCox cur0.core) (bytesToNat w) = false
      ∧ queueMisuse (bytesToNat w) = false := by decide
theorem witness_StepKeepsMemoryCanonical : canonical s0 ∧ (∃ t, step addNext = .next t) := by
  exact ⟨by unfold canonical; decide, _, rfl⟩

/-! ## Witnesses: control flow -/

def upd (s : State) (f : Thread → Thread) : State := s.setTh (f s.th)
def at400 : State := { addNext with iss := { addNext.iss with pc := 0x400000 } }
def jumpTo : Fmt Unit := fmt () (.x 0) (.x 2) (.x 0) (.x 0) 0
/-- A stop is honoured at the group in Q[0], and interrupt 11 is pending. -/
def stopped : State := upd addNext fun t => { t with line := some ⟨0x400000, [0x20], true⟩, ipDbg := true }

theorem witness_TransfersOfControl :
    (at400.predOn always = true ∧ 0 ≤ leadsTo at400.iss.pc 5 ∧ leadsTo at400.iss.pc 5 < 5 * 2 ^ 58)
    ∧ (at400.Issues (rr cmpMod) ∧ at400.bitA (rr cmpMod) = false ∧ at400.bitB (rr cmpMod) = false)
    ∧ at400.predOn never = false
    ∧ (at400.Issues jumpTo ∧ at400.bitA jumpTo = false)
    ∧ ((at400.th.readX 31).st ≠ .pending ∧ at400.th.q2.sq = false ∧ at400.pairsAt at400.th.q2.pc = some 0
      ∧ at400.th.group.bind (·.link) = none)
    -- a MATRIX operation of the group waits and has kept the address that follows
    ∧ (upd at400 fun t => { t with group := some ⟨.nop, none, [], false, [], [], some 0x400100, none, false⟩ }).th.group.bind (·.link)
      = some 0x400100 := by
  simp only [issues_iff]; and_intros <;> decide +kernel
theorem witness_GroupAdvancesTheQueue : at400.iss.noAdvance = false ∧ at400.th.q1.sq = false ∧ at400.th.q2.sq = false
    ∧ (at400.iss.redirect = none ∧ at400.th.pairs at400.th.q2.pc = some 0)
    ∧ ({ at400 with iss := { at400.iss with redirect := some 0x400040 } } : State).iss.redirect = some 0x400040 := by
  and_intros <;> decide +kernel
/-- A handler with one saved write, whose area holds uncorrectable words or none. -/
def saving (bad : List Nat) : State :=
  let s := upd (handler s0) fun t => { t with lbn := 1 }
  s.setCc { s.cc with badWords := bad }
theorem witness_ReturnsAndWaits :
    (s0.predOn always = true ∧ s0.th.hm = false)
    ∧ ((handler s0).predOn always = true ∧ (handler s0).th.hm = true ∧ ({ handler s0 with iss := { s0.iss with held := 1 } } : State).iss.held ≠ 0)
    ∧ ((handler s0).iss.held = 0 ∧ (upd (handler s0) fun t => { t with lbn := 5 }).savedWords = []
      ∧ (upd (handler s0) fun t => { t with lbn := 5 }).returnFrom = none)
    ∧ ((handler s0).savedWords = [] ∧ (handler s0).returnFrom.isSome = true)
    ∧ (saving [24064]).th.hm = true ∧ (saving [24064]).iss.held = 0 ∧ (saving []).th.hm = true ∧ (saving []).savedWords.length = 8
    ∧ (s0.Issues jumpTo ∧ s0.bitA jumpTo = false ∧ (s0.opA jumpTo).toNat ≤ s0.cycle.toNat)
    ∧ ((putX s0 2 1).Issues jumpTo ∧ (putX s0 2 1).bitA jumpTo = false ∧ (putX s0 2 1).cycle.toNat < ((putX s0 2 1).opA jumpTo).toNat)
    ∧ (bounded2.Issues jumpTo ∧ bounded2.bitA jumpTo = true)
    ∧ (upd s0 fun t => { t with pause := .yield }).th.pause = .yield
    ∧ (let s := upd s0 fun t => { t with pause := .wfi };
      s.th.pause = .wfi ∧ ∀ c ∈ [1, 5, 7, 9, 11], s.pendingInt s.th c = true → s.th.ien.getLsbD c = false) := by
  simp only [issues_iff]; and_intros <;> decide +kernel
/-- The first word of the area at 0x2F000 is uncorrectable, or none is. -/
theorem witness_SavedWords :
    (∃ a ∈ (saving [24064]).savedWords, (saving [24064]).cc.badIn [a.toNat] 8 ≠ [])
    ∧ (∀ a ∈ (saving []).savedWords, (saving []).cc.badIn [a.toNat] 8 = []) := by
  refine ⟨⟨0x2F000, List.mem_of_head? (by decide +kernel), by decide +kernel⟩, fun a _ => ?_⟩
  unfold CoreCtx.badIn
  rw [show (saving []).cc.badWords = [] from by decide +kernel]
  rfl
theorem witness_InterruptsAndTurns :
    (stopped.th.hm = false ∧ stopped.th.stopHonoured = true ∧ qualifies stopped 11 ∧ ∀ d, qualifies stopped d → d ≤ 11)
    ∧ (handler s0).th.hm = true ∧ s0.th.stopHonoured = false
    ∧ (flying.th.q0.an = true ∧ flying.th.q1.sq = false)
    ∧ (let s := upd s0 fun t => { t with stop := 24 };
      s.th.hm = false ∧ s.th.stopHonoured = false ∧ s.th.stop = s.th.stopmax.toNat)
    ∧ (let s := { upd s0 (fun t => { t with pause := .wfi, ien := 0x0A20, cyccmp := 7 }) with cycle := 7 };
      s.th.pause = .wfi ∧ s.th.ien.getLsbD 5 = true ∧ s.th.cyccmp ≠ 0 ∧ s.th.cyccmp.toNat ≤ s.cycle.toNat)
    ∧ (let s := upd s0 fun t => { t with thresholds := [(1, 3)] };
      s.th.hm = false ∧ s.th.thresholds = [(1, 3)]) := by
  refine ⟨⟨by decide, by decide, ⟨by decide, .inr (.inl rfl)⟩, ?_⟩, ?_⟩
  · rintro d ⟨-, h⟩; omega
  · and_intros <;> decide +kernel

/-! ## Witnesses: the scratchpad -/

def memory (w : Width) : SpadMod := ⟨w, true, 0, false⟩
/-- x1 or x7 at the address in x2 and the immediate; a v register at the lanes of v3. -/
def mem {M : Type} (m : M) (imm : BitVec 32) : Fmt M := fmt m (.x 1) (.x 2) (.x 0) (.x 7) imm
def memU (imm : BitVec 32) : Fmt Unit := fmt () (.x 1) (.x 2) (.x 0) (.x 7) imm
def vmem (imm : BitVec 32) : Fmt SpadMod := fmt (memory .w32) (.v 1) (.x 2) (.v 3) (.v 4) imm
def vmemX (imm : BitVec 32) : Fmt SpadMod := fmt (memory .w32) (.v 1) (.x 2) (.x 0) (.v 4) imm
def atom : Fmt SamoMod := fmt ⟨.w32, .add⟩ (.x 1) (.x 2) (.x 3) (.x 4) 0x16FFC
def withTag (s : State) (a : Nat) (t : BitVec 16) : State := s.setCc (s.cc.setTag a t)

theorem witness_ScratchScalarAccess :
    -- the last word of the data rows below 0x17000, and the first and last of the rows above
    (s0.Issues (mem (memory .w32) 0x16FFC) ∧ s0.bitA (mem (memory .w32) 0x16FFC) = false ∧ s0.bitB (mem (memory .w32) 0x16FFC) = false
      ∧ unwatched s0 ∧ (eaOf s0 (mem (memory .w32) 0x16FFC)).toNat % 4 = 0
      ∧ reaches s0 (eaOf s0 (mem (memory .w32) 0x16FFC)).toNat true ∧ sound s0 0x16FFC 4)
    ∧ reaches s0 0x2EFF8 true ∧ reaches (handler s0) 0x2F000 true ∧ reaches s0 0x2FFF8 false
    ∧ (s0.Issues (memU 0x2EFC0) ∧ s0.bitC (memU 0x2EFC0) = false ∧ (eaOf s0 (memU 0x2EFC0)).toNat % 64 = 0
      ∧ reaches s0 (eaOf s0 (memU 0x2EFC0)).toNat true) := by
  simp only [issues_iff, unwatched, reaches, sound]; and_intros <;> decide +kernel
theorem sound0 (a n : Nat) : sound s0 a n := ⟨fun w h => absurd (show w ∈ ([] : List Nat) from h) List.not_mem_nil, by
  rw [show s0.cc.tag a = 0 from rfl]; decide⟩
theorem witness_ScratchVectorAccess :
    (s0.Issues (vmemX 64) ∧ keptPresent s0 (memory .w32) 1 ∧ ∀ j, j < 32 → (s0.th.readM 0).getLsbD j = true →
      (eaOf s0 (vmemX 64)).toNat % 8 = 0 ∧ reaches s0 (eaOf s0 (vmemX 64) + BitVec.ofNat 64 j).toNat true
        ∧ sound s0 (eaOf s0 (vmemX 64) + BitVec.ofNat 64 j).toNat 1)
    ∧ (s0.Issues (vmem 64) ∧ s0.bitA (vmem 64) = false ∧ s0.bitB (vmem 64) = false ∧ wideWidth .w32 = true
      ∧ ∀ i, i < 32 / 4 → (s0.th.readM 0).getLsbD (i * 4) = true → (eaLane s0 (vmem 64) 4 i).toNat % 4 = 0
        ∧ reaches s0 (eaLane s0 (vmem 64) 4 i).toNat true ∧ sound s0 (eaLane s0 (vmem 64) 4 i).toNat 4) := by
  have a : ∀ j, j < 32 → (eaOf s0 (vmemX 64) + BitVec.ofNat 64 j).toNat < 0x17000 := by decide
  have b : ∀ i, i < 8 → (eaLane s0 (vmem 64) 4 i).toNat % 4 = 0 ∧ (eaLane s0 (vmem 64) 4 i).toNat < 0x17000 := by decide
  refine ⟨⟨?_, ?_, fun j h _ => ⟨by decide, .inl (a j h), sound0 _ _⟩⟩, ?_, by decide, by decide, by decide,
    fun i h _ => ⟨(b i h).1, .inl (b i h).2, sound0 _ _⟩⟩
  all_goals first | (rw [issues_iff]; decide) | (unfold keptPresent; decide)
theorem witness_ScratchAtomic : s0.Issues atom ∧ s0.bitA atom = false ∧ s0.bitB atom = false ∧ s0.bitC atom = false ∧ unwatched s0
    ∧ 4 = Width.bytes atom.mod.w ∧ wideWidth atom.mod.w = true ∧ (atom.mod.op = .fadd → atom.mod.w = .w32)
    ∧ reaches s0 (s0.opA atom + atom.imm.signExtend 64).toNat true ∧ sound s0 0x16FFC 4 ∧ (s0.cc.tag 0x16FFC).msb = false := by
  simp only [issues_iff, unwatched, reaches, sound]; and_intros <;> decide +kernel
theorem witness_ScratchChecks :
    (bounded2.Issues (mem (memory .w32) 0) ∧ bounded2.bitA (mem (memory .w32) 0) = true)
    ∧ (s0.Issues (mem (memory .w32) 2) ∧ (eaOf s0 (mem (memory .w32) 2)).toNat % 4 ≠ 0)
    ∧ ((eaOf s0 (mem (memory .w32) 0x2F000)).toNat % 4 = 0 ∧ ¬ reaches s0 (eaOf s0 (mem (memory .w32) 0x2F000)).toNat false)
    ∧ ¬ reaches s0 (eaOf s0 (mem (memory .w32) 0x2F800)).toNat true
    ∧ (reaches s0 0 false ∧ (withTag s0 0 poisonTag).cc.badWords = [] ∧ tagPoison ((withTag s0 0 poisonTag).cc.tag 0) = true)
    ∧ ((withTag s0 0x16FC0 0x8000).Issues atom ∧ tagB ((withTag s0 0x16FC0 0x8000).cc.tag 0x16FFC) = true) := by
  simp only [issues_iff, reaches]; and_intros <;> decide +kernel

/-! ## Witnesses: global loads and stores -/

/-- A leaf that maps the 64 KiB from 0x10000, of a class and a region. -/
def leafOf (cls region : Nat) : TlbEntry := ⟨0, false, 0x10000, 0x10000, 0x20000, 1, region, false, true, true, cls⟩
/-- x2 holds 0x10000, which the leaf maps; regions 5, 6 and 7 are INT32 and BITS32, and FX64 with ADD; m1 has two lanes. -/
def mapped (leaf : TlbEntry) : State :=
  upd (putX ({ s0 with regions := [(5, 0x101), (6, 0x61), (7, 0x141)] }.setCore 0 { Core.initial with tlb := [leaf] }) 2 0x10000)
    fun t => t.writeM 1 0x11
def g32 : GlobMod := ⟨false, .none, false, 1, true⟩
def g64 : GlobMod := ⟨true, .none, false, 1, true⟩
def gf32 : GlobMod := ⟨true, .f32, false, 1, true⟩
def gvec : Fmt GlobMod := fmt g32 (.v 1) (.x 2) (.x 0) (.v 4) 0
def gidx : Fmt GlobMod := fmt g32 (.v 1) (.x 2) (.v 3) (.v 4) 0

theorem fits_of {s : State} {m : GlobMod} {k : Access} {cls : Nat} {ea : Word} {leaf : TlbEntry} (hm : s.translate ea k = .ok leaf)
    (hl : s.regionLock = none) (h : ea.toNat % globWm m = 0 ∧ leaf.cls = cls ∧ (cls ≠ 1 → regV (s.region leaf.region) = true)
      ∧ (cls ≠ 1 → regBytes (s.region leaf.region) = globWm m)
      ∧ (m.fc ≠ .none → cls ≠ 1 ∧ regType (s.region leaf.region) = 4)) : Fits s m k cls ea leaf :=
  ⟨h.1, hm, h.2.1, fun _ l e => by rw [hl] at e; exact absurd e (by simp), h.2.2.1, h.2.2.2.1, h.2.2.2.2⟩
theorem fits_scalar (k : Access) (hk : k = .load ∨ k = .store) (cls : Nat) (hc : cls = 0 ∨ cls = 1 ∨ cls = 2) :
    Fits (mapped (leafOf cls 5)) g32 k cls 0x10000 (leafOf cls 5) := by
  rcases hk with rfl | rfl <;> rcases hc with rfl | rfl | rfl <;> exact fits_of rfl rfl (by decide)
theorem fits_lanes (k : Access) (hk : k = .load ∨ k = .store) : ∀ i ∈ lanesOn (mapped (leafOf 0 5)) gvec,
    Fits (mapped (leafOf 0 5)) g32 k 0 (contiguousAddr (mapped (leafOf 0 5)) gvec i) (leafOf 0 5)
      ∧ Fits (mapped (leafOf 0 5)) g32 k 0 (indexedAddr (mapped (leafOf 0 5)) gidx i) (leafOf 0 5) := by
  intro i hi
  have h : i = 0 ∨ i = 1 := by simpa [show lanesOn (mapped (leafOf 0 5)) gvec = [0, 1] from by decide] using hi
  rcases hk with rfl | rfl <;> rcases h with rfl | rfl <;> exact ⟨fits_of rfl rfl (by decide), fits_of rfl rfl (by decide)⟩

theorem witness_GlobalStores :
    (let s := mapped (leafOf 0 5);
      s.Issues (mem g32 0) ∧ s.bitA (mem g32 0) = false ∧ s.bitB (mem g32 0) = false ∧ s.bitC (mem g32 0) = false ∧ unwatched s
        ∧ portFree s ∧ eaOf s (mem g32 0) = 0x10000 ∧ globValue (s.region 5) g32 (dataLane s (mem g32 0) 0) = some 0
        ∧ regOp (s.region 5) ≠ 0)
    ∧ (let s := mapped (leafOf 0 6);
      (eaOf s (mem g64 0)).toNat % 8 = 0 ∧ s.regionLock = none ∧ regV (s.region 6) = true ∧ regType (s.region 6) = 6)
    ∧ (let s := putX (mapped (leafOf 0 7)) 7 0x7F800000;
      globWm gf32 = regBytes (s.region 7) ∧ regType (s.region 7) = 4 ∧ globValue (s.region 7) gf32 (dataLane s (mem gf32 0) 0) = none)
    ∧ (let s := mapped (leafOf 0 5);
      s.Issues gvec ∧ s.Issues gidx ∧ lanesOn s gvec = [0, 1]
        ∧ (∀ i ∈ lanesOn s gvec, globValue (s.region 5) g32 (dataLane s gvec i) = some 0)) := by
  simp only [issues_iff, unwatched, portFree]; and_intros <;> decide +kernel
theorem witness_GlobalStoresTranslate :
    (mapped (leafOf 0 6)).translate 0x10000 .store = .ok (leafOf 0 6)
    ∧ Fits (putX (mapped (leafOf 0 7)) 7 0x7F800000) gf32 .store 0 0x10000 (leafOf 0 7) :=
  ⟨rfl, fits_of rfl rfl (by decide)⟩
theorem witness_InsertionFillsTheFirstRun : portFree s0 ∧ s0.cc.l0.length < 16 := by unfold portFree; decide
theorem witness_GlobalLoadStarts :
    (let s := mapped (leafOf 0 5);
      s.Issues (mem g32 0) ∧ (s.Issues gvec ∧ ((gvec.mod.zm = false ∧ gvec.mod.mask ≠ 0) → (s.th.readV 1).st = .present)))
    ∧ (let s := mapped (leafOf 0 6);
      s.Issues (mem g64 0) ∧ (eaOf s (mem g64 0)).toNat % 8 = 0 ∧ regType (s.region 6) = 6)
    ∧ (mapped (leafOf 0 6)).translate (eaOf (mapped (leafOf 0 6)) (mem g64 0)) .load = .ok (leafOf 0 6) := by
  simp only [issues_iff]; and_intros <;> first | decide | rfl
theorem witness_GlobalChecks :
    (bounded2.Issues (mem g32 0) ∧ bounded2.bitA (mem g32 0) = true)
    ∧ (s0.Issues (mem g32 2) ∧ (eaOf s0 (mem g32 2)).toNat % globWm g32 ≠ 0)
    ∧ (putX s0 2 0x1000000000000).translate 0x1000000000000 .load = .error (.trap 5 0x1000000000000)
    ∧ ((mapped (leafOf 0 9)).translate 0x10000 .load = .ok (leafOf 0 9) ∧ regV ((mapped (leafOf 0 9)).region 9) = false)
    ∧ (let s := { mapped (leafOf 0 5) with regionLock := some (5, 0x101, ⟨1, false, 0⟩) };
      s.translate 0x10000 .load = .ok (leafOf 0 5))
    ∧ (let s := putCell (mapped (leafOf 0 5)) 7 1 true .present;
      s.Issues (mem g32 0) ∧ s.bitC (mem g32 0) = true ∧ s.translate 0x10000 .store = .ok (leafOf 0 5)) := by
  simp only [issues_iff]; and_intros <;> first | decide | rfl
def entry5 (kind : EntryKind) (region : Nat) : RunEntry := ⟨0x8000, kind, 3, region, 0, false, 0⟩
def lane5 : LaneReq := ⟨0, 0, 4, 0x20000, 0x10000, 0, 0, 5, [], .waiting, 0⟩
/-- A load of one element that waits at the head of its path. -/
def loadOp (lanes : List LaneReq) : Op := ⟨1, 0, false, 0, some (.x 1), false, 0, .load ⟨false, false, .none, false, 4, 0, false⟩ lanes⟩
def loading : State :=
  { mapped (leafOf 0 5) with ops := [loadOp [lane5]], nextOp := 2, paths := [⟨0, 0, 0, .load 1 0⟩] }
/-- Block 0x20000's pseudo-channel is reserved. -/
def kept (s : State) : State := s.setPch (s.pchOf 0x20000) { PseudoChannel.initial with rsv := true }
theorem witness_GlobalLoadsResolve :
    tagPoison ((s0.setBlockTag 0x20000 poisonTag).blockTag lane5.pa) = true ∧ tagPoison (s0.blockTag lane5.pa) = false
    ∧ (entry5 .set 5).kind = .set ∧ (entry5 .combine 5).kind = .combine ∧ (entry5 .combine 5).region = lane5.region
    ∧ (entry5 .set 5).region ≠ (entry5 .combine 6).region
    ∧ (let l := { lane5 with result := .value 7 false }
      let s := { loading with ops := [loadOp [l]], paths := [] };
      s.op 1 = some (loadOp [l]) ∧ (loadOp [l]).dest = some (.x 1) ∧ (∀ k ∈ [l], k.result ≠ .waiting) ∧ laneFault [l] = none)
    ∧ laneFault [{ lane5 with result := .fault 29 64 }] = some (29, 64)
    ∧ (loading.op 1 = some (loadOp [lane5]) ∧ lane5.result = .waiting ∧ loading.paths = [⟨0, 0, 0, .load 1 0⟩]
      ∧ loading.reserved lane5.pa lane5.width = false ∧ loading.weak = [])
    ∧ (kept loading).reserved lane5.pa lane5.width = true := by
  and_intros <;> decide +kernel

/-! ## Witnesses: merge space and synchronisation -/

/-- A task of one cluster with four sync objects on die 0 and barrier 0, placed at the origin. -/
def theTask : Task := ⟨1, 0, false, none, .placed, BitVec.ofNat 1024 (2 ^ 64 + 2 ^ 69 + 4 * 2 ^ 192), none, [], [], [], 0, 0, 0, 0, [(0, 7)], 0, false⟩
def tasked (s : State) : State := ({ s with tasks := [theTask], nextTask := 2 }).setBarrier 7 { Barrier.initial with count := 2 }
def owner : State := s0.setPctx 0 false { PartCtx.initial with own := 0x20 }
def one : Fmt Unit := fmt () (.x 1) (.x 2) (.x 3) (.x 0) 0
def withOp (k : OpKind) : State := { mapped (leafOf 0 5) with ops := [⟨1, 0, false, 0, some (.x 1), false, 0, k⟩], nextOp := 2 }
def noFence : FenceWait := ⟨[], 0, 0⟩
def judged (v : Verdict) : State := upd s0 fun t => { t with verdict := some v }

theorem witness_MergeControlInstructionsAndEvents :
    (s0.Issues (rr (⟨.device⟩ : ScopeMod)) ∧ s0.bitA (rr (⟨.device⟩ : ScopeMod)) = false)
    ∧ (let s := putX (tasked s0) 2 0x01030000;
      s.rectOk 0x01030000 = true ∧ s.opA one = 0x01030000)
    ∧ (let s := putX owner 2 5;
      s.Issues one ∧ s.bitA one = false ∧ (s.opA one).toNat ≤ 255 ∧ s.ownsRegion s.cur (s.opA one).toNat = true
        ∧ s.bitB one = false ∧ s.th.verdict = none ∧ s.regionLock = none)
    ∧ ((putX s0 2 255).opA one).toNat ≤ 255 ∧ (putX s0 2 255).ownsRegion s0.cur 255 = false ∧ s0.opA one = 0
    ∧ (judged (.pass 0)).th.verdict = some (.pass 0) ∧ (judged (.trap 50 5)).th.verdict = some (.trap 50 5)
    ∧ (let s := mapped (leafOf 0 5);
      s.Issues (mem g32 0) ∧ globValue (s.region 5) g32 (dataLane s (mem g32 0) 0) = some 0)
    ∧ (let s := withOp (.mdrain true false true noFence 3);
      s.op 1 = some ⟨1, 0, false, 0, some (.x 1), false, 0, .mdrain true false true noFence 3⟩ ∧ s.fenceDone noFence = true)
    ∧ ((withOp (.mdrainRegion 5 96 3)).op 1 = some ⟨1, 0, false, 0, some (.x 1), false, 0, .mdrainRegion 5 96 3⟩)
    ∧ ((withOp (.rgget 5)).op 1 = some ⟨1, 0, false, 0, some (.x 1), false, 0, .rgget 5⟩)
    ∧ (let s := { owner with regionLock := some (5, 0x101, cur0) };
      s.ownsRegion cur0 5 = true ∧ regLegal ((0x101 : Word).setWidth 128) = true ∧ s.census 5 = false)
    ∧ s0.ownsRegion cur0 5 = false := by
  simp only [issues_iff]; and_intros <;> decide +kernel
/-- A core whose L0 has 16 entries, three of one key, and one entry behind them in its port; L1 holds that key. -/
def inL0 (core : Nat) : State :=
  let c := fun (k : Nat) => { entry5 .combine 5 with key := k, value := 3 }
  ((mapped (leafOf 0 5)).setCoreCtx core false { CoreCtx.initial with
    l0 := [c 0x8000, c 0x8000, c 0x8000] ++ (List.range 13).map (fun i => c (0x8001 + i)), port := [c 0x8000], merging := true }).setCluster 0
    { Cluster.initial with l1 := [{ entry5 .set 5 with value := 3 }] }
def inL1 : State := (mapped (leafOf 0 5)).setCluster 0 { Cluster.initial with l1 := [entry5 .set 5] }
def onPath : State := { mapped (leafOf 0 5) with paths := [⟨0, 7, 1, .entries [entry5 .set 5]⟩], serial := 2 }
def inL2 : State := { mapped (leafOf 0 5) with l2 := [(0x8000, ⟨entry5 .set 5, 0⟩)] }
def leaving : State := { mapped (leafOf 0 5) with wbuf := [(0x8000, entry5 .set 5)] }
theorem witness_RunsReachMemory :
    (s0.coreCtx 0 false).merging = false
    ∧ ((inL0 0).coreCtx 0 false).merging = true ∧ (∀ f ∈ ((inL0 0).coreCtx 0 false).l0, f.ctx = false) ∧ isCox 0 = false
    ∧ (((inL0 0).cluster 0).l1.filter fun f => f.ctx == false || !(inL0 0).split2 0).length
      + ((keysOf ((inL0 0).coreCtx 0 false).l0).filter fun k => ((inL0 0).l1Find 0 k false).isNone).length ≤ (inL0 0).l1Cap 0
    ∧ runFold (inL0 0).region ((inL0 0).l1Find 0 0x8000 false) (((inL0 0).coreCtx 0 false).l0.filter fun f => f.key == 0x8000)
      = some { entry5 .set 5 with value := 12 }
    ∧ ((inL0 0).coreCtx 0 false).l0.length = 16 ∧ ((inL0 0).coreCtx 0 false).port.length = 1
    ∧ (((inL0 2048).coreCtx 2048 false).merging = true ∧ (∀ f ∈ ((inL0 2048).coreCtx 2048 false).l0, f.ctx = false) ∧ isCox 2048 = true)
    ∧ (onPath.paths = [⟨0, 7, 1, .entries [entry5 .set 5]⟩] ∧ (entry5 .set 5).kind ≠ .poison ∧ onPath.l2Find 0x8000 = none ∧ onPath.l2 = [])
    ∧ (inL2.l2Find 0x8000 = some (entry5 .set 5) ∧ SMap.find inL2.wbuf 0x8000 = none)
    ∧ (SMap.find leaving.wbuf 0x8000 = some (entry5 .set 5) ∧ tagPoison (leaving.blockTag 0x20000) = false
      ∧ 0x8000 * 4 % regBytes (leaving.region 5) = 0 ∧ regFit (leaving.region 5) 3 = some 3
      ∧ leaving.reserved (0x8000 * 4) 8 = false ∧ leaving.weak = [])
    ∧ (kept leaving).reserved (0x8000 * 4) 8 = true := by
  and_intros <;> decide +kernel

/-- BIND of object 0 to the list at 64 in the scratchpad, whose one range is the first word of the page. -/
def bindOp : Fmt ScopeMod := fmt ⟨.device⟩ (.x 0) (.x 5) (.x 6) (.x 0) 1
def binding : State :=
  let s := putX (tasked (mapped (leafOf 0 5))) 6 64
  s.setCc (s.cc.store 64 (natToBytes 16 (0x10000 + 4 * 2 ^ 64)) false)
def objOp : Fmt Unit := fmt () (.x 1) (.x 5) (.x 6) (.x 0) 0
def bound : State := (tasked s0).setSync 0 ⟨true, .device, 0, [], 3⟩
def relOp (stage : RelStage) (ops : List Nat) : RelOp := ⟨0, stage, ⟨ops, 0, 0⟩, 2, [], 0⟩
/-- A store to device 3 that has no path, and a domain of four devices whose port 0 is up. -/
def cutOff : State := { withOp (.rel (relOp .acks [2])) with
  ops := [⟨1, 0, false, 0, some (.x 1), false, 0, .rel (relOp .acks [2])⟩, ⟨2, 0, false, 0, none, false, 0, .remoteUpdate 3 0 .set 1 5⟩] }
def linked (s : State) : State := { s with domid := 4 * 0x200 }.setPort 0 { Port.initial with up := true }
theorem witness_SyncObjectsAndReleases :
    (binding.Issues bindOp ∧ binding.bitA bindOp = false ∧ binding.bitB bindOp = false ∧ binding.bitC bindOp = false
      ∧ (binding.opB bindOp).toNat % 16 = 0 ∧ (binding.opB bindOp).toNat + 16 * (bindOp.imm.toNat % 16) ≤ 0x2F000
      ∧ binding.cc.badWords = [] ∧ binding.rangeEntry 64 0 = (0x10000, 4) ∧ unwatched binding
      ∧ binding.relOpen 0 = false)
    ∧ (bound.Issues objOp ∧ bound.bitA objOp = false ∧ (bound.sync 0).bound = true ∧ bound.bitB objOp = false
      ∧ (bound.sync 0).scope ≠ .rect)
    ∧ ((tasked s0).Issues objOp ∧ ((tasked s0).sync 0).bound = false)
    -- the stages of a release: an acknowledgement is missing, a path is lost, the moves are over, flags are out, all is done
    ∧ (let s := withOp (.rel (relOp .acks [1]));
      s.op 1 = some ⟨1, 0, false, 0, some (.x 1), false, 0, .rel (relOp .acks [1])⟩
        ∧ s.fenceDone (relOp .acks [1]).wait = false ∧ s.lostAck (relOp .acks [1]).wait = none)
    ∧ ((relOp .acks [2]).stage = .acks ∧ cutOff.fenceDone (relOp .acks [2]).wait = false
      ∧ cutOff.lostAck (relOp .acks [2]).wait = some 3)
    ∧ (let s := withOp (.rel (relOp .moves []));
      s.op 1 = some ⟨1, 0, false, 0, some (.x 1), false, 0, .rel (relOp .moves [])⟩ ∧ s.fenceDone (relOp .moves []).wait = true
        ∧ (s.sync 0).scope ≠ .domain)
    ∧ (let s := withOp (.rel { relOp .flags [] with flags := [(3, 1)] });
      (relOp .flags []).stage = .flags ∧ [(3, (1 : BitVec 32))].find? (fun f => !s.pathTo f.1) = some (3, 1))
    ∧ (let s := linked (withOp (.rel { relOp .flags [] with flags := [(3, 1)] }));
      ∀ f ∈ [(3, (1 : BitVec 32))], s.pathTo f.1 = true)
    ∧ (relOp .flags []).flags = [] := by
  simp only [issues_iff, unwatched]; and_intros <;> decide +kernel
theorem witness_SyncObjectsTranslate :
    binding.objectOf (binding.opA bindOp) = .ok 0 ∧ bound.objectOf (bound.opA objOp) = .ok 0
    ∧ binding.rangeLeaves [(0x10000, 4)] = .ok [((0x10000, 4), leafOf 0 5, leafOf 0 5)] :=
  ⟨answers_ok (by decide +kernel), answers_ok (by decide +kernel), answers_ok (by decide +kernel)⟩
theorem witness_Fences :
    (s0.Issues (rr (⟨.core⟩ : ScopeMod)) ∧ s0.bitA (rr (⟨.core⟩ : ScopeMod)) = false ∧ commonLevel .core 0 = 0)
    ∧ (commonLevel .device 0 ≠ 0 ∧ s0.moveWaits s0.cur.core s0.cur.ctx s0.nextOp = false)
    ∧ (let s := withOp (.mdrain true false false noFence 0);
      s.Issues (rr (⟨.device⟩ : ScopeMod)) ∧ s.moveWaits s.cur.core s.cur.ctx s.nextOp = true)
    ∧ (let s := upd (withOp (.rgget 5)) fun t => { t with wait := .fence ⟨[1], 0, 0⟩ .nothing };
      s.th.wait = .fence ⟨[1], 0, 0⟩ .nothing ∧ s.fenceDone ⟨[1], 0, 0⟩ = false)
    ∧ (s0.Issues one ∧ s0.bitA one = false ∧ bankWordOk (s0.opA one) = true)
    ∧ bankWordOk ((putX s0 2 0xC0000000).opA one) = false := by
  simp only [issues_iff]; and_intros <;> decide +kernel
def barrMod : BarrMod := ⟨.add, 0⟩
def arrival : Arrival := ⟨0, 7, none, 0, .x 0⟩
def arriving (f : FenceWait) : State := upd (tasked s0) fun t => { t with wait := .arrive f arrival, verdict := some .waiting }
theorem witness_Barriers :
    (let s := upd s0 fun t => { t with wait := .arrive noFence arrival, verdict := some (.pass 3) };
      s.predOn always = true ∧ s.th.verdict = some (.pass 3) ∧ s.th.wait = .arrive noFence arrival)
    ∧ (judged (.trap 55 1)).th.verdict = some (.trap 55 1)
    ∧ (s0.Issues (rr ()) ∧ s0.bitA (rr ()) = false ∧ s0.bitB (rr ()) = false ∧ s0.th.verdict = none ∧ s0.th.wait = .none)
    ∧ (s0.Issues (rr barrMod) ∧ s0.bitA (rr barrMod) = false ∧ s0.bitB (rr barrMod) = false)
    ∧ s0.barrierOf s0.cur (s0.opA (rr ())) = none ∧ (tasked s0).barrierOf s0.cur 0 = some (7, 2)
    ∧ ((arriving noFence).fenceDone noFence = true ∧ ((arriving noFence).thread cur0).wait = .arrive noFence arrival
      ∧ (arriving noFence).barrierOf cur0 (BitVec.ofNat 64 0) = some (7, 2) ∧ ((arriving noFence).barrier 7).kind = .empty
      ∧ ((arriving noFence).barrier 7).arrived + 1 < 2)
    ∧ 2 ≤ (((arriving noFence).setBarrier 7 { Barrier.initial with count := 2, arrived := 1, kind := .plain }).barrier 7).arrived + 1
    ∧ ({ arriving ⟨[1], 0, 0⟩ with ops := [⟨1, 0, false, 0, none, false, 0, .rgget 5⟩] } : State).fenceDone ⟨[1], 0, 0⟩ = false
    ∧ (s0.barrierOf cur0 (BitVec.ofNat 64 15) = none)
    ∧ ({ tasked s0 with barage := 1, cycle := 0x100000000 }.setBarrier 7 { Barrier.initial with arrived := 1 }).tooOld 7 = true
    ∧ SMap.get (0 : BitVec 32) s0.dbarcnt (4095 - 512) = 0
    ∧ ({ s0 with domid := 0x203 } : State).dev ≠ 0 := by
  simp only [issues_iff]; and_intros <;> decide +kernel
/-- No phase is too old where AGE is 0. -/
theorem witness_PhasesAreYoung : ∀ k, s0.tooOld k = false := fun _ => rfl

/-! ## Witnesses: futures, messages, work and system -/

def fut (s : State) : State := { putCell s 2 0 false .pending with ops := [⟨1, 0, false, 0, some (.x 2), false, 0, .rgget 5⟩], nextOp := 2 }
def toC : Fmt Unit := fmt () (.c 3) (.x 2) (.x 0) (.x 0) 0
theorem witness_FutureInstructions :
    (s0.predOn always = true ∧ (s0.read 0 (.x 2)).st ≠ .pending ∧ (s0.read 0 (.x 3)).st ≠ .pending)
    ∧ ((putCell s0 2 0 false (.faulted 29 64)).read 0 (.x 2)).st = .faulted 29 64
    ∧ (((fut s0).read 0 (.x 2)).st = .pending ∧ (fut s0).boundOp (.x 2) = some ⟨1, 0, false, 0, some (.x 2), false, 0, .rgget 5⟩)
    ∧ (toC.d = .c 3 ∧ toC.a = .x 2 ∧ (s0.cc.readC 3).st ≠ .pending)
    ∧ ((s0.setCc (s0.cc.writeC 3 ⟨0, false, .pending⟩)).cc.readC 3).st = .pending := by
  and_intros <;> decide +kernel
/-- Partition 0 holds the whole grid, and thread 0 of core 0 runs. -/
def whole : State := run0.setPart 0 { Partition.initial with v := true, x1 := 15, y1 := 15 }
def sendMod : SendMod := ⟨4⟩
def takeI : Fmt Unit := fmt () (.x 1) (.i 4) (.x 0) (.x 0) 0
def filled (s : State) : State := s.setCc (s.cc.writeI 4 ⟨9, true, .present⟩)
/-- Core 0's message of the task with number 1, or of none, to inbox 4. -/
def letter (task : Option Nat) : Message := ⟨4, 9, true, 0, 0, task, 5⟩
def sendOp (ctx arrived : Bool) : Op := ⟨1, 0, ctx, 0, none, false, 0, .send 0 (letter none) arrived⟩
def waits (s : State) : State := s.setCc { s.cc with waiting := [letter none] }
/-- Gradient queue 1 of cox core 2048 is for partition 0. -/
def trained : State := putX { whole with gqcfg := [(1, 0x800000)] } 2 2048
def sent (ctx arrived : Bool) (s : State) : State := { s with ops := [sendOp ctx arrived], nextOp := 2 }
theorem witness_MessageInstructionsAndEvents :
    (whole.Issues (rr sendMod) ∧ whole.bitA (rr sendMod) = false ∧ (whole.opA (rr sendMod)).toNat < 2048
      ∧ reachable whole (whole.opA (rr sendMod)).toNat)
    ∧ (trained.Issues (rr sendMod) ∧ trained.bitA (rr sendMod) = false ∧ (trained.opA (rr sendMod)).toNat = 2048
      ∧ reachable trained 2048)
    ∧ ¬ reachable (putX whole 2 2048) 2048 ∧ ¬ reachable s0 0
    ∧ ((filled s0).Issues takeI ∧ takeI.a = .i 4 ∧ (filled s0).cc.waiting = [])
    ∧ (waits (filled s0)).cc.waiting.find? (fun m => m.inbox == (4 : Fin 32).val) = some (letter none)
    ∧ (let s := sent false false whole;
      s.op 1 = some (sendOp false false) ∧ (s.part (s.partOf 0)).res = false ∧ (s.part (s.partOf 0)).swapping = false
        ∧ s.holdsThread (letter none) false 0 = true ∧ (letter none).core = 0 ∧ ((s.coreCtx 0 false).readI 4).st = .pending ∧ (s.coreCtx 0 false).waiting = [])
    ∧ (let s := sent false false (filled whole);
      ((s.coreCtx 0 false).readI 4).st ≠ .pending ∧ (s.coreCtx 0 false).waiting.length < 32)
    ∧ (sent false false s0).holdsThread (letter none) false 0 = false ∧ (sent false false whole).holdsThread (letter (some 1)) false 0 = false
    ∧ (let s := (sent true false whole).setPctx 0 true { PartCtx.initial with msgsave := 0x1000000000000 };
      (s.part (s.partOf 0)).res ≠ true ∧ (s.coreCtx 0 true).waiting = [] ∧ (s.pctx 0 true).spilled < 256 * bits (s.pctx 0 true).msgsave.toNat 48 16
        ∧ (s.pctx 0 true).spillAt (s.pctx 0 true).spilled + 16 ≤ hbmEnd)
    ∧ (sendOp false true).kind = .send 0 (letter none) true := by
  simp only [issues_iff, reachable]; and_intros <;> decide +kernel
def triggers (s : State) : State := { s with tasks := [{ theTask with header := theTask.header ||| BitVec.ofNat 1024 (2 ^ 89) }] }
theorem witness_WorkInstructions :
    (s0.Issues one ∧ s0.taskOf s0.cur.core s0.cur.ctx = none)
    ∧ ((tasked s0).Issues one ∧ (tasked s0).taskOf 0 false = some theTask)
    ∧ (s0.bitA one = false ∧ (s0.opA one).toNat % 64 = 0 ∧ (s0.opA one).toNat + 128 ≤ 0x2F000 ∧ s0.cc.badWords = []
      ∧ tagPoison (s0.cc.tag 0) = false ∧ tagPoison (s0.cc.tag 64) = false)
    ∧ ((putX s0 2 0x2EF80).opA one).toNat + 128 ≤ 0x2F000
    ∧ (s0.predOn always = true ∧ s0.iss.held = 0 ∧ s0.endBusy = false ∧ s0.owesTrigger = false ∧ s0.cc.waiting = [])
    ∧ (fut s0).endBusy = true
    ∧ (let s := triggers s0; s.iss.held = 0 ∧ s.endBusy = false ∧ s.owesTrigger = true) := by
  simp only [issues_iff]; and_intros <;> decide +kernel
def deck (l : List Word) (s : State) : State := s.setCc { s.cc with deque := l }
def stealing (s : State) (walk : Bool) (victims : List Nat) (cancelled probed : Bool) : State :=
  { s with ops := [⟨1, 0, false, 0, some (.x 1), cancelled, 0, .steal walk victims probed (some 1)⟩], nextOp := 2 }
theorem witness_DequesAndSteals :
    (let s := putX s0 2 0x0000000300000002;
      s.Issues one ∧ s.bitA one = false ∧ lower (s.opA one) < upper (s.opA one) ∧ s.cc.deque.length + s.cc.reserved < 16)
    ∧ upper (s0.opA one) ≤ lower (s0.opA one)
    ∧ 16 ≤ (deck (List.replicate 16 1) s0).cc.deque.length + (deck (List.replicate 16 1) s0).cc.reserved
    ∧ ((deck [0x0000000300000002] s0).cc.deque = [] ++ [0x0000000300000002] ∧ upper 0x0000000300000002 = lower 0x0000000300000002 + 1)
    ∧ lower 0x0000000400000002 + 1 < upper 0x0000000400000002
    ∧ s0.cc.deque = []
    ∧ (let s := putX (tasked s0) 2 1;
      s.Issues one ∧ s.bitA one = false ∧ s.victimOk (s.opA one) = true ∧ s.opA one ≠ BitVec.allOnes 64)
    ∧ ((putX (tasked s0) 2 (BitVec.allOnes 64)).victimOk (BitVec.allOnes 64) = true
      ∧ s0.taskOf s0.cur.core s0.cur.ctx = none ∧ (tasked s0).taskOf s0.cur.core s0.cur.ctx = some theTask)
    ∧ (putX s0 2 1).victimOk 1 = false
    -- the steal's task stands on the thief's core, and has left it
    ∧ (∀ walk cancelled probed, (((stealing (tasked s0) walk [1] cancelled probed).taskOf 0 false).map (·.id) = some 1)
      ∧ (((stealing s0 walk [1] cancelled probed).taskOf 0 false).map (·.id) ≠ some 1))
    ∧ (∀ walk cancelled probed, let s := stealing (tasked s0) walk [1] cancelled probed;
      s.op 1 = some ⟨1, 0, false, 0, some (.x 1), cancelled, 0, .steal walk [1] probed (some 1)⟩
        ∧ s.hasThread false 1 = false ∧ (s.coreCtx 1 false).deque = [])
    ∧ (∀ cancelled, (stealing (tasked s0) true [] cancelled true).op 1
      = some ⟨1, 0, false, 0, some (.x 1), cancelled, 0, .steal true [] true (some 1)⟩)
    ∧ ((stealing (tasked s0) true [100] false false).task 1 = some theTask ∧ theTask.hasCore 100 = false)
    ∧ (let s := (stealing (tasked whole) true [1] false false).setThread ⟨1, false, 0⟩ { Thread.initial with run := .running };
      s.stealable ⟨1, 0, false, 0, none, false, 0, .matrix true⟩ (some 1) 1 = true)
    ∧ (let s := (stealing (tasked s0) false [1] false false).setCoreCtx 1 false { CoreCtx.initial with deque := [0x0000000400000002] };
      lower 0x0000000400000002 < upper 0x0000000400000002 ∧ ctxKey 1 false ≠ ctxKey 0 false
        ∧ (s.coreCtx 1 false).deque = 0x0000000400000002 :: []) := by
  simp only [issues_iff]; and_intros <;> decide +kernel
def csr (n : BitVec 32) : Fmt Unit := fmt () (.x 1) (.x 2) (.x 0) (.x 0) n
theorem witness_CsrAccess :
    (s0.Issues (csr 0x06C) ∧ s0.bitA (csr 0x06C) = false ∧ (csr 0x06C).imm.toNat % 4096 = 0x06C ∧ s0.th.hm = false)
    ∧ ((handler s0).Issues (csr 0) ∧ (handler s0).th.hm = true ∧ (csr 0).imm.toNat % 4096 = 0)
    ∧ (csr 0x06D).imm.toNat % 4096 = 0x06D ∧ (csr 0xFFF).imm.toNat % 4096 = 4095 ∧ (csr 9).imm.toNat % 4096 = 9 := by
  simp only [issues_iff]; and_intros <;> decide +kernel
theorem witness_StopmaxRegister :
    (s0.Issues (csr 8) ∧ s0.bitA (csr 8) = false ∧ (csr 8).imm.toNat % 4096 = 8 ∧ s0.th.hm = false)
    ∧ ((handler s0).th.hm = true ∧ ((handler s0).opA (csr 8)).setWidth 12 = 0)
    ∧ ((putX (handler s0) 2 4095).opA (csr 8)).setWidth 12 ≠ 0 := by
  simp only [issues_iff]; and_intros <;> decide +kernel
theorem witness_SystemCalls : addNext.predOn always = true ∧ addNext.th.hm = false ∧ addNext.iss.noAdvance = false
    ∧ addNext.th.q1.sq = false ∧ addNext.th.landing = [] ∧ (handler s0).th.hm = true ∧ addNext.cur.core < 2048
    ∧ 2048 ≤ ({ s0 with cur := ⟨2048, false, 0⟩ } : State).cur.core := by
  and_intros <;> decide +kernel

/-! ## Witnesses: vectors -/

def vm (t : ElType) (mask : Fin 8) : VecMod := ⟨t, mask, false, .rne, false⟩
def vvv (m : VecMod) : Fmt VecMod := fmt m (.v 1) (.v 2) (.v 3) (.v 4) 0
def vx (m : VecMod) (d a b : Reg) : Fmt VecMod := fmt m d a b (.x 0) 0
theorem witness_VectorIntegerLanes : VecIssues s0 (vvv (vm .int32 1)) (keepsOld (vm .int32 1)) ∧ keepsOld (vm .int32 1) = true
    ∧ (vm .int32 1).type.isInteger = true := by
  simp only [VecIssues, issues_iff]; and_intros <;> decide +kernel
theorem witness_VectorFloatLanes : VecIssues s0 (vvv (vm .fp32 1)) (keepsOld (vm .fp32 1)) ∧ (vm .fp32 1).type.isInteger = false := by
  simp only [VecIssues, issues_iff]; and_intros <;> decide +kernel
theorem witness_VectorMovesAndCompares :
    (VecIssues s0 (vvv (vm .int32 1)) true ∧ s0.bitA (vvv (vm .int32 1)) = false ∧ s0.bitB (vvv (vm .int32 1)) = false)
    ∧ (s0.Issues (vx (vm .int32 0) (.x 1) (.v 2) (.x 3)) ∧ s0.bitB (vx (vm .int32 0) (.x 1) (.v 2) (.x 3)) = false)
    ∧ (VecIssues s0 (vx (vm .int32 0) (.v 1) (.x 2) (.x 3)) true ∧ s0.bitB (vx (vm .int32 0) (.v 1) (.x 2) (.x 3)) = false)
    ∧ (s0.Issues (vx (vm .int32 0) (.v 4) (.v 2) (.v 3)) ∧ s0.isPending s0.cur (nextV (.v 4)) = false
      ∧ ∀ i, i < 8 → on s0 (vx (vm .int32 0) (.v 4) (.v 2) (.v 3)) i = true) := by
  simp only [VecIssues, issues_iff]; and_intros <;> decide +kernel
theorem witness_VectorReductionsAndMasks :
    (s0.Issues (vx (vm .int32 0) (.x 1) (.v 2) .none) ∧ reduced s0 (vx (vm .int32 0) (.x 1) (.v 2) .none) ≠ [])
    ∧ reduced s0 (vx (vm .int32 2) (.x 1) (.v 2) .none) = []
    ∧ (vm .fp32 0).type.isInteger = false
    ∧ (s0.Issues (vx (vm .int32 0) (.x 1) (.m 3) .none) ∧ ∀ i, i < 8 → (s0.read 0 (.m 3)).val.getLsbD (i * 4) = false)
    ∧ (let s := upd s0 fun t => t.writeM 3 0x10000000;
      (s.read 0 (.m 3)).val.getLsbD (7 * 4) = true ∧ ∀ k, k < 7 → (s.read 0 (.m 3)).val.getLsbD (k * 4) = false)
    ∧ (s0.Issues (rr ()) ∧ bounded2.bitA (rr ()) = true) := by
  simp only [issues_iff]; and_intros <;> decide +kernel

/-! ## Witnesses: the matrix unit -/

/-- An operand word of a format, a pitch and an address. -/
def tileWord (f pitch a : Nat) : Word := BitVec.ofNat 64 (f * 2 ^ 36 + pitch * 2 ^ 18 + a)
def mat : MatMod := ⟨0, false⟩
def mmaOp : Fmt MatMod := fmt mat (.x 0) (.x 2) (.x 3) (.x 0) (BitVec.ofNat 32 (1 + 2 ^ 7 + 32 * 2 ^ 15))
def accOp : Fmt MatMod := fmt mat (.x 0) (.x 2) (.x 0) (.x 0) (BitVec.ofNat 32 (1 + 16 * 2 ^ 7))
def words (a b c : Word) (s : State) : State := putX (putX (putX s 2 a) 3 b) 4 c
def mmaAt : State := words (tileWord 3 64 0) (tileWord 3 64 0x1000) 0 s0
def mmvOp : Fmt MatMod := fmt mat (.x 1) (.x 2) (.x 3) (.x 4) 0
def streamWord : Word := BitVec.ofNat 64 (32 + 2 ^ 16 + 2 ^ 24 + 64 * 2 ^ 32)
/-- A handle of some bytes at 0x40000, readable and writable, V 1 or 0, as handle 0 of the table at 0x30000. -/
def handleOf (v len : Nat) : Nat := v * 2 ^ 96 + 2 ^ 84 + 2 ^ 83 + len * 2 ^ 40 + 0x40000
def table (v len : Nat) (s : State) : State :=
  (s.dramStore 0x30000 (natToBytes 16 (handleOf v len)) false).setPctx 0 false { PartCtx.initial with htbase := 0x30000, htcount := 1 }
def mmvAt (len : Nat) : State := words 0 (tileWord 3 64 0) streamWord (table 1 len s0)
def topkOp : Fmt TopkMod := fmt ⟨false, false⟩ (.x 1) (.x 2) (.x 3) (.x 4) (BitVec.ofNat 32 (2 + 2 ^ 11 + 2 ^ 19))
def topkAt : State := words (tileWord 3 64 0) (BitVec.ofNat 64 (0x2000 + 0x3000 * 2 ^ 18)) 0 s0
/-- The MMV of mmvAt as a command, with operation 1. -/
def streamCmd : MatrixCmd := ⟨0, false, 0, .mmv mmvOp, 0, 0, tileWord 3 64 0, streamWord, some 1, 0, none⟩
theorem witness_MatrixInstructions :
    ((judged (.pass 0)).Issues mmaOp ∧ (judged (.trap 30 0)).Issues mmaOp)
    ∧ (mmaAt.Issues mmaOp ∧ mmaAt.th.verdict = none ∧ mmaAt.cc.dispatch.length < 2 ∧ mmaAt.slotBeyond mat = false
      ∧ mmaAt.bitA mmaOp = false ∧ mmaAt.bitB mmaOp = false ∧ mmaAt.bitC mmaOp = false
      ∧ mmaAt.cc.dispatch = [] ∧ MmaFits (mmaAt.opA mmaOp) (mmaAt.opB mmaOp) mmaOp.imm ∧ TileFits mmaAt (mmaAt.opA mmaOp) 1 32
      ∧ TileFits mmaAt (mmaAt.opB mmaOp) 1 32)
    ∧ (let s := putX s0 2 (tileWord 5 64 0);
      s.Issues accOp ∧ AccFits mat (s.opA accOp) accOp.imm ∧ TileFits s (s.opA accOp) (mxM accOp.imm) (mxN accOp.imm))
    ∧ (let s := s0.setPart 0 { Partition.initial with v := true, split := true };
      s.slotBeyond ⟨3, false⟩ = true)
    ∧ ((mmvAt 4096).Issues mmvOp ∧ (mmvAt 4096).bitA mmvOp = false ∧ (mmvAt 4096).bitB mmvOp = false ∧ (mmvAt 4096).bitC mmvOp = false
      ∧ (mmvAt 4096).resolveHandle 0 false ((mmvAt 4096).opA mmvOp) = some (BitVec.ofNat 128 (handleOf 1 4096))
      ∧ heRd (BitVec.ofNat 128 (handleOf 1 4096)) = true ∧ MmvFits 0 (tileWord 3 64 0) streamWord 0
      ∧ TileFits (mmvAt 4096) (tileWord 3 64 0) (swBatch streamWord) (swK streamWord)
      ∧ (mmvAt 4096).weak = [] ∧ (mmvAt 4096).reserved ((mmvAt 4096).handlePlace 0 false 0) 16 = false
      ∧ streamInside 0 streamWord 3 (BitVec.ofNat 128 (handleOf 1 4096)) = true)
    -- no rows, and no picks, which IMM may not give; a bounded register; a full queue
    ∧ (s0.Issues (rr mat) ∧ s0.bitA (rr mat) = false ∧ s0.bitB (rr mat) = false ∧ s0.bitC (rr mat) = false ∧ ¬ MmaShape 0 ∧ ¬ TileShape 0)
    ∧ ¬ TopkShape 0 ∧ (bounded2.Issues (rr mat) ∧ bounded2.bitA (rr mat) = true ∧ bounded2.th.verdict = none)
    ∧ 2 ≤ (s0.setCc { s0.cc with dispatch := [streamCmd, streamCmd] }).cc.dispatch.length
    ∧ streamInside 0 streamWord 3 (BitVec.ofNat 128 (handleOf 1 63)) = false
    ∧ (s0.Issues one ∧ s0.bitA one = false) ∧ (s0.Issues (fmt (⟨true⟩ : ClrMod) (.x 1) (.x 0) (.x 0) (.x 0) 3) ∧ s0.split2 0 = false)
    ∧ (topkAt.Issues topkOp ∧ topkAt.bitA topkOp = false ∧ topkAt.bitB topkOp = false ∧ topkAt.bitC topkOp = false
      ∧ topkOp.mod.mark = false ∧ TopkFits topkAt (topkAt.opA topkOp) (topkAt.opB topkOp) topkOp.imm) := by
  simp only [issues_iff, MmaFits, TileFits, AccFits, MmvFits, TopkFits, MmaShape, TileShape, TopkShape]; and_intros <;> decide +kernel
/-- The operation of thread 0 of core 0 at the head of its queue; the blocks of its tiles are ZERO. -/
def cmdOf (i : Instr) (a b : Word) (op : Option Nat) : MatrixCmd := ⟨0, false, 0, i, 0, a, b, 0, op, 0, none⟩
def waiting (q : MatrixCmd) (tag : BitVec 16) : State :=
  s0.setCoreCtx 0 false { ((CoreCtx.initial.setTag 0 tag).setTag 0x1000 tag) with dispatch := [q] }
def mmaCmd : MatrixCmd := cmdOf (.mma mmaOp) (tileWord 3 64 0) (tileWord 3 64 0x1000) none
def acldCmd : MatrixCmd := cmdOf (.acld accOp) (tileWord 5 64 0) 0 none
/-- A TOPKC, with operation 1. -/
def pickCmd : MatrixCmd := cmdOf (.topkc topkOp) (tileWord 3 64 0) (BitVec.ofNat 64 (0x2000 + 0x3000 * 2 ^ 18)) (some 1)
def matrixOp : Op := ⟨1, 0, false, 0, some (.x 1), false, 0, .matrix true⟩
def future (s : State) : State := { s with ops := [matrixOp], nextOp := 2 }
theorem witness_MatrixServiceBegins :
    (Heads (waiting mmaCmd zeroTag) 0 mmaCmd ∧ (waiting mmaCmd zeroTag).matrixCancelled mmaCmd = false ∧ mmaCmd.status = 0
      ∧ (waiting mmaCmd zeroTag).serviceFault mmaCmd = none
      ∧ ∀ x ∈ mmaCmd.tiles, ∀ a ∈ tileWords x.1 x.2.1 x.2.2, a < 0x30000)
    ∧ (Heads (waiting acldCmd poisonTag) 0 acldCmd ∧ ((waiting acldCmd poisonTag).serviceFault acldCmd).map (·.1) = some 29)
    ∧ (Heads (future (waiting pickCmd poisonTag)) 0 pickCmd ∧ (future (waiting pickCmd poisonTag)).op 1 = some matrixOp
      ∧ (future (waiting pickCmd poisonTag)).matrixCancelled pickCmd = false
      ∧ ((future (waiting pickCmd poisonTag)).serviceFault pickCmd).map (·.1) = some 29)
    ∧ (let s := { waiting pickCmd 0 with ops := [{ matrixOp with cancelled := true }], nextOp := 2 };
      Heads s 0 pickCmd ∧ s.op 1 = some { matrixOp with cancelled := true })
    ∧ (let q := { pickCmd with status := 2 };
      Heads (future (waiting q 0)) 0 q ∧ (future (waiting q 0)).op 1 = some matrixOp ∧ q.status ≠ 0) := by
  simp only [Heads]; and_intros <;> decide +kernel
/-- An operation that has read its operands; one with a word to read; one with a word to store. -/
def hasRead (q : MatrixCmd) : State := s0.setQuad 0 { Quad.initial with service := some q }
def toRead : State := s0.setQuad 0 { Quad.initial with service := some mmaCmd, todo := [(0, 8)] }
def aStore : UnitStore := ⟨0, 8, [1, 2, 3, 4, 5, 6, 7, 8], some 0x0500⟩
def toStore : State := s0.setQuad 0 { Quad.initial with service := some acldCmd, stage := .writing, outs := [aStore] }
theorem witness_MatrixService :
    (∀ i ∈ [Instr.acz accOp, .mma mmaOp, .acld accOp, .acst accOp, .mxseed one, .mxthr one,
        .mxstat (fmt ⟨true⟩ (.x 1) (.x 0) (.x 0) (.x 0) 3)],
      HasRead (hasRead (cmdOf i (tileWord 5 64 0) 0 none)) 0 (cmdOf i (tileWord 5 64 0) 0 none))
    ∧ (HasRead (hasRead mmaCmd) 0 mmaCmd ∧ mmaOp.mod.accf = false ∧ mxM mmaOp.imm ≤ 64 ∧ mxCol mmaOp.imm + mxN mmaOp.imm ≤ 128
      ∧ mxK mmaOp.imm = chunkOf (mwFmt mmaCmd.a))
    ∧ (accOp.mod.accf = false ∧ mwFmt acldCmd.a = 5 ∧ mxM accOp.imm ≤ 64 ∧ mxCol accOp.imm + mxN accOp.imm ≤ 128
      ∧ mwOrd acldCmd.a = false ∧ mwSwz acldCmd.a = false ∧ 4 * mxN accOp.imm ≤ mwPitch acldCmd.a)
    ∧ ((toRead.quad 0).service = some mmaCmd ∧ (toRead.quad 0).stage = .reading ∧ (toRead.quad 0).todo ≠ []
      ∧ ∀ p ∈ (toRead.quad 0).todo, p.2 + 8 ≤ 0x30000)
    ∧ ((toStore.quad 0).service = some acldCmd ∧ (toStore.quad 0).stage = .writing ∧ (toStore.quad 0).outs = [aStore]) := by
  simp only [HasRead]; and_intros <;> decide +kernel
def serving (q : MatrixCmd) (s : State) : State := s.setQuad 0 { Quad.initial with service := some q, stage := .writing }
def streaming (v : Nat) : State :=
  { (table v 4096 s0).setCoreCtx 0 false { CoreCtx.initial with dispatch := [streamCmd] } with ops := [matrixOp], nextOp := 2 }
theorem witness_MatrixEvents :
    (s0.quad 0).service = none
    ∧ ((serving (cmdOf (.acz accOp) 0 0 none) s0).quad 0).service = some (cmdOf (.acz accOp) 0 0 none)
    ∧ (((serving mmaCmd s0).quad 0).stage = .writing ∧ ((serving mmaCmd s0).quad 0).outs = [])
    ∧ ({ cmdOf (.acz accOp) 0 0 none with cross := some (1, 3) } : MatrixCmd).cross = some (1, 3)
    ∧ ((streaming 1).op 1 = some matrixOp ∧ ((serving streamCmd (streaming 1)).quad 0).service = some streamCmd ∧ streamCmd.op = some 1)
    ∧ (let s := { streaming 1 with ops := [{ matrixOp with cancelled := true }] };
      s.op 1 = some { matrixOp with cancelled := true } ∧ s.nextStream 0 = some (1, streamCmd))
    ∧ ((streaming 0).nextStream (quadOf matrixOp.core) = some (1, streamCmd) ∧ (streaming 0).weak = []
      ∧ heV ((streaming 0).handleEntry ((streaming 0).partOf 0) false 0) = false)
    ∧ (let s := (streaming 1).setBlockTag 0x40000 zeroTag;
      let e := s.handleEntry (s.partOf 0) false 0;
      s.nextStream (quadOf matrixOp.core) = some (1, streamCmd) ∧ heV e = true ∧ heCls e = 0 ∧ s.weak = []
        ∧ (∀ a ∈ streamBlocks 0 streamWord 3, s.reserved (heBase e + a) 64 = false)
        ∧ (∃ a ∈ streamBlocks 0 streamWord 3,
          (s.setPch (pchOfGranule 0x40000) { PseudoChannel.initial with rsv := true }).reserved (heBase e + a) 64 = true)
        ∧ streamFault 3 0 ((streamBlocks 0 streamWord 3).map fun a =>
          (a, ((List.range 64).map fun i => (s.handleRead e (heBase e + a + i)).1), (s.handleRead e (heBase e + a)).2)) = none) := by
  and_intros <;> decide +kernel

/-! ## Witnesses: arrays, stack atomics and bank units -/

def calm : State := s0.setArray 0 { PewterArray.initial with calibrated := true }
def xb (n : Nat) : Fmt Unit := fmt () (.x 1) (.x 2) (.x 3) (.x 4) (BitVec.ofNat 32 n)
def cmdArr (fn rows : Nat) (marked started : Bool) : ArrayCmd := ⟨0, fn, 0, 0x1000, 0, 2, false, marked, started, [], rows, [], none, 0⟩
def arrOp (c : ArrayCmd) : Op := ⟨1, 0, false, 0, some (.x 1), false, 0, .array c⟩
def arrAt (c : ArrayCmd) : State := { s0 with ops := [arrOp c], nextOp := 2 }
theorem maySend_of {M : Type} {s : State} {o : Fmt M} (h : s.Issues o) (k : s.bitA o = false ∧ s.bitB o = false ∧ s.bitC o = false
    ∧ (s.opC o).toNat ≤ 3 ∧ (s.arrayQueue (quadOf s.cur.core * 4 + (s.opC o).toNat)).length < 8 ∧ s.th.xbinj.getLsbD 31 = false) :
    MaySend s o := ⟨h, k.1, k.2.1, k.2.2.1, k.2.2.2.1, k.2.2.2.2.1, k.2.2.2.2.2⟩
theorem witness_ArrayCommands :
    MaySend calm (xb 2) ∧ MaySend s0 (fmt true (.x 1) (.x 2) (.x 3) (.x 4) 0)
    ∧ ((calm.array 0).calibrated = true ∧ (calm.opA (xb 2)).toNat % 64 = 0 ∧ (calm.opB (xb 2)).toNat + 1024 ≤ rowsEnd calm
      ∧ (s0.array 0).calibrated = false ∧ (calm.opA (xb 2)).toNat + 256 * 2 ≤ rowsEnd calm ∧ (calm.opA (xb 2)).toNat + 2176 ≤ rowsEnd calm)
    ∧ (let c := cmdArr 0 0 false false;
      (arrAt c).op 1 = some (arrOp c) ∧ (arrAt c).arrayQueue 0 = [(arrOp c, c)] ∧ (arrOp c).cancelled = false)
    ∧ (arrAt (cmdArr 3 0 false false)).arrayQueue 0 = [(arrOp (cmdArr 3 0 false false), cmdArr 3 0 false false)]
    ∧ (∀ c ∈ [cmdArr 0 0 false true, cmdArr 0 0 true true, cmdArr 1 2 false true, cmdArr 1 1 false true, cmdArr 2 0 false true,
      cmdArr 3 0 false true], Serves (arrAt c) 1 (arrOp c) c)
    ∧ (let c := { cmdArr 2 0 false true with answer := some 0 }; Serves (arrAt c) 1 (arrOp c) c ∧ c.outs = [])
    ∧ (let c := { cmdArr 2 0 false true with answer := some 0, outs := [aStore] };
      Serves (arrAt c) 1 (arrOp c) c ∧ c.outs = [aStore] ∧ c.fn ≠ 4)
    ∧ ((cmdArr 1 2 false true).n ≤ (cmdArr 1 2 false true).rows ∧ (cmdArr 1 1 false true).rows < (cmdArr 1 1 false true).n) := by
  refine ⟨maySend_of ((issues_iff _ _).2 (by decide)) (by decide), maySend_of ((issues_iff _ _).2 (by decide)) (by decide), ?_⟩
  simp only [Serves, rowsEnd]; and_intros <;> decide +kernel
/-- A leaf of a BANK page at the start of the linear zone of a module with one linear frame. -/
def bankLeaf : TlbEntry := ⟨0, false, 0x10000, 0x10000, 127 * (6 * 2 ^ 30), 0, 0, false, true, true, 1⟩
def onBank : State := { mapped bankLeaf with memcfg := 1 }
def sm : StackMod := ⟨.add, false, 0⟩
def stackAt (fn : Nat) (done : Option Word) : Op := ⟨1, 0, false, 0, some (.x 1), false, 0,
  .stack ⟨fn, .add, false, 0, 0, 0x10000, 127 * (6 * 2 ^ 30), 5, 1, 0, 1⟩ done⟩
/-- Operations stand in the queue of the pseudo-channel of the leaf. -/
def atSau (l : List Nat) (s : State) : State := s.setPch (s.pchOf bankLeaf.pa) { s.pch (s.pchOf bankLeaf.pa) with queue := l }
def stacking (fn : Nat) (done : Option Word) : State := { onBank with ops := [stackAt fn done], nextOp := 2 }
theorem witness_StackAtomics :
    (onBank.Issues (mem sm 0) ∧ onBank.bitA (mem sm 0) = false ∧ onBank.bitB (mem sm 0) = false ∧ onBank.bitC (mem sm 0) = false
      ∧ bankLeaf.cls = 1 ∧ bankLeaf.wr = true ∧ (eaOf onBank (mem sm 0)).toNat % 32 = 0 ∧ stacksOf onBank < 32
      ∧ onBank.stackLanes 1 sm ≠ 0 ∧ onBank.stackLanes 1 ⟨.add, false, 2⟩ = 0 ∧ (eaOf onBank (mem sm 2)).toNat % 4 ≠ 0)
    ∧ ((stacking 0 none).op 1 = some (stackAt 0 none) ∧ (stacking 0 none).inNetwork ((stacking 0 none).pchOf bankLeaf.pa) 1 = true
      ∧ (∀ p ∈ (stacking 0 none).ops, 1 ≤ p.id))
    ∧ (atSau (List.replicate 64 2) (stacking 0 none)).inNetwork ((stacking 0 none).pchOf bankLeaf.pa) 1 = true
    ∧ (let s := atSau [1] (stacking 0 none);
      s.op 1 = some (stackAt 0 none) ∧ AtSau s 1 bankLeaf.pa ∧ s.weak = []
      ∧ (∀ c, (stackAt 0 none).kind = .stack c none → s.stackReady (stackAt 0 none) c = true ∧ c.active = 1 ∧ c.pa % 4 = 0)
      ∧ tagPoison (onBank.blockTag bankLeaf.pa) = false ∧ tagB (onBank.blockTag bankLeaf.pa) = false
      ∧ tagZero (onBank.blockTag bankLeaf.pa) = true ∧ tagConst (onBank.blockTag bankLeaf.pa) = false)
    ∧ tagZero ((onBank.setBlockTag bankLeaf.pa rawTag).blockTag bankLeaf.pa) = false
    ∧ tagPoison ((onBank.setBlockTag bankLeaf.pa poisonTag).blockTag bankLeaf.pa) = true
    ∧ (stacking 2 (some 7)).op 1 = some (stackAt 2 (some 7)) := by
  simp only [issues_iff]
  refine ⟨by and_intros <;> decide +kernel, by and_intros <;> decide +kernel, by decide +kernel,
    ⟨by decide +kernel, by unfold AtSau; decide +kernel, by decide +kernel, ?_, ?_⟩, by decide +kernel, by decide +kernel, by decide +kernel⟩
  · intro c h
    cases h
    decide +kernel
  · decide +kernel
theorem witness_StackAtomicsTranslate : onBank.translate 0x10000 .bank = .ok bankLeaf ∧ onBank.translate 0x10000 .load = .ok bankLeaf :=
  ⟨answers_ok (by decide +kernel), answers_ok (by decide +kernel)⟩
theorem mayBank_of {M : Type} {s : State} {o : Fmt M} {n : Nat} {leaf : TlbEntry} (h : s.Issues o)
    (t : answers (s.translate (eaOf s o) .bank) leaf = true) (k : s.bitA o = false ∧ s.bitB o = false ∧ s.bitC o = false
    ∧ (eaOf s o).toNat % n = 0 ∧ leaf.cls = 1 ∧ (s.ops.filter fun p => p.core == s.cur.core && p.kind.isBank).length < 16) :
    MayBank s o n leaf := ⟨h, k.1, k.2.1, k.2.2.1, k.2.2.2.1, answers_ok t, k.2.2.2.2.1, k.2.2.2.2.2⟩
def bk : Fmt Unit := fmt () (.x 1) (.x 2) (.x 0) (.x 5) 0
def bkm : Fmt BankMod := fmt ⟨1, 0⟩ (.x 1) (.x 2) (.x 0) (.x 5) 0
def cmdBank (fn : Nat) (on started : Bool) : BankCmd := ⟨fn, on, 0x10000, bankLeaf.pa, [], 0, 2, 0, 0, started, 0, 1⟩
def bankOp (k : OpKind) : Op := ⟨1, 0, false, 0, some (.x 1), false, 0, k⟩
def banking (c : BankCmd) : State := atSau [1] { onBank with ops := [bankOp (.bank c)], nextOp := 2 }
def moded (s : State) : State := s.setPch (s.pchOf bankLeaf.pa) { s.pch (s.pchOf bankLeaf.pa) with mode := some (s.linSid bankLeaf.pa, 0, false) }
def plainStore : OpKind := .bankStore 4 [⟨0, bankLeaf.pa, 0x10000, 5⟩] false true
theorem witness_BankCommands :
    MayBank onBank bk 32 bankLeaf ∧ MayBank onBank bkm 512 bankLeaf ∧ MayBank onBank bkm 32 bankLeaf
    ∧ ((onBank.opC bk).toNat + 512 ≤ rowsEnd onBank ∧ onBank.cc.badWords = [] ∧ onBank.weak = [] ∧ unwatched onBank ∧ (∀ i, i < 8 → weightBlock onBank (64 * i))
      ∧ (eaOf onBank bkm).toNat / 512 % 64 + 2 ≤ 64)
    ∧ (∀ c ∈ [cmdBank 0 true false, cmdBank 0 false false, cmdBank 1 false false, cmdBank 2 false true, cmdBank 3 false false],
      BankTurn (banking c) 1 (bankOp (.bank c)) c ∧ BankTurn (moded (banking c)) 1 (bankOp (.bank c)) c)
    ∧ ((onBank.pch (onBank.pchOf bankLeaf.pa)).mode = none ∧ (banking (cmdBank 0 true false)).pchDrained (bankOp (.bank (cmdBank 0 true false)))
      (onBank.pchOf bankLeaf.pa) = true)
    ∧ ((moded (banking (cmdBank 2 false true))).pch (onBank.pchOf bankLeaf.pa)).mode = some (onBank.linSid bankLeaf.pa, 0, false)
    ∧ (∀ i, i < 8 → tagPoison (onBank.blockTag (bankLeaf.pa + 512 * 0 + 64 * i)) = false)
    ∧ (let s := { onBank with ops := [bankOp plainStore], nextOp := 2 };
      s.op 1 = some (bankOp plainStore) ∧ s.plainReady (bankOp plainStore) (s.pchOf bankLeaf.pa) = true ∧ bankLeaf.pa % 4 = 0)
    ∧ (s0.pch 767).mode = none ∧ (s0.pch 0).busy = false
    ∧ SMap.get 0 ((moded onBank).pch (onBank.pchOf bankLeaf.pa)).debt (16 * onBank.linSid bankLeaf.pa) = 0
    ∧ SMap.get 0 ({ PseudoChannel.initial with debt := [(0, 7)] } : PseudoChannel).debt (16 * 0 + 0) = 7
    ∧ (let s := s0.setPch 0 { PseudoChannel.initial with busy := true, op := 1 };
      (s.pch 0).busy = true ∧ (s.pch 0).op = 1 ∧ (s.pch 0).rsv = false ∧ s.finishing 0 = false)
    ∧ ((s0.setPch 0 { PseudoChannel.initial with busy := true, op := 1, rsv := true }).pch 0).rsv = true
    ∧ ((s0.setPch 0 { PseudoChannel.initial with busy := true, op := 3 }).pch 0).op = 3 := by
  refine ⟨mayBank_of ((issues_iff _ _).2 (by decide +kernel)) (by decide +kernel) (by decide +kernel),
    mayBank_of ((issues_iff _ _).2 (by decide +kernel)) (by decide +kernel) (by decide +kernel),
    mayBank_of ((issues_iff _ _).2 (by decide +kernel)) (by decide +kernel) (by decide +kernel), ?_⟩
  simp only [BankTurn, rowsEnd, weightBlock, AtSau, unwatched]; and_intros <;> decide +kernel

/-! ## Witnesses: copies and the training path -/

def cpy (imm : Nat) : Fmt Unit := fmt () (.x 1) (.x 2) (.x 3) (.x 4) (BitVec.ofNat 32 imm)
def cpy2 : Fmt SwzMod := fmt ⟨false⟩ (.x 1) (.x 2) (.x 3) (.x 4) 8
def entryOf (len : Nat) : BitVec 128 := BitVec.ofNat 128 (handleOf 1 len)
def shapeWord : Word := BitVec.ofNat 64 (8 + 2 ^ 20 + 8 * 2 ^ 36)
def rowWord : Word := BitVec.ofNat 64 (0x100 + 2 ^ 18 + 8 * 2 ^ 34)
theorem mayCopy_of {M : Type} {s : State} {o : Fmt M} {out : Bool} {e : BitVec 128} (h : s.Issues o)
    (k : s.bitA o = false ∧ s.bitB o = false ∧ s.bitC o = false
      ∧ s.resolveHandle (s.partOf s.cur.core) s.cur.ctx (s.opA o) = some e ∧ (if out then heWr e else heRd e) = true
      ∧ s.weak = [] ∧ s.reserved (s.handlePlace (s.partOf s.cur.core) s.cur.ctx (s.opA o)) 16 = false
      ∧ s.th.copyHeld = none ∧ s.copyEntries < (if s.split2 s.cur.core then 256 else 512)) : MayCopy s o out e :=
  ⟨h, k.1, k.2.1, k.2.2.1, k.2.2.2.1, k.2.2.2.2.1,
    ⟨fun _ hw => absurd (k.2.2.2.2.2.1 ▸ hw) List.not_mem_nil, k.2.2.2.2.2.2.1⟩, k.2.2.2.2.2.2.2.1, k.2.2.2.2.2.2.2.2⟩
/-- A CPY of 256 bytes, its copy, and the copy table of the core full of such copies. -/
def cpyAt : State := words 0 0x1000 0x100 (table 1 4096 s0)
def cpyOf : CopyOp := { CopyOp.initial with handle := 0, spad := 0x1000, length := 0x100, entry := entryOf 4096 }
def crowded : State := { cpyAt with ops := List.replicate 512 ⟨1, 0, false, 0, none, false, 0, .copy cpyOf⟩ }
def retrying : State := upd crowded fun t => { t with copyHeld := some cpyOf }
/-- A handle that permits neither direction. -/
def closedEntry : Nat := 2 ^ 96 + 4096 * 2 ^ 40 + 0x40000
def closed : State :=
  words 0 0 64 ((s0.dramStore 0x30000 (natToBytes 16 closedEntry) false).setPctx 0 false { PartCtx.initial with htbase := 0x30000, htcount := 1 })
theorem witness_CopyInstructions :
    (∀ out, MayCopy (words 0 0x2EF00 0x100 (table 1 4096 s0)) (cpy 0) out (entryOf 4096)) ∧ 0x2EF00 + 0x100 ≤ rowsEnd s0
    ∧ (∀ out, MayCopy (words 0 0 shapeWord (table 1 4096 s0)) cpy2 out (entryOf 4096))
    ∧ (shapeLen shapeWord % 8 = 0 ∧ shapePitch shapeWord % 8 = 0 ∧ shapeRows shapeWord = 1 ∧ ∀ r, r < 1 → r * 8 + 8 ≤ rowsEnd s0)
    ∧ (∀ out, MayCopy (words 0 0 rowWord (table 1 4096 s0)) (cpy 8) out (entryOf 4096))
    ∧ (rowPitch rowWord % 8 = 0 ∧ rowList rowWord % 4 = 0 ∧ rowRows rowWord = 1 ∧ rowList rowWord + 4 ≤ rowsEnd s0)
    ∧ ((words 0 0x1000 64 s0).Issues (cpy 0) ∧ (copyTargets 0 0).contains 0 = false ∧ s0.copyEntries < 512)
    ∧ (∀ k ∈ copyTargets 0 2, s0.split2 k = false) ∧ copyTargets 0 2 = [1]
    ∧ (closed.Issues (cpy 0) ∧ closed.resolveHandle 0 false 0 = some (BitVec.ofNat 128 closedEntry)
      ∧ heRd (BitVec.ofNat 128 closedEntry) = false ∧ heWr (BitVec.ofNat 128 closedEntry) = false)
    ∧ s0.resolveHandle 0 false 0 = none
    ∧ ((words 0 4 64 (table 1 4096 s0)).Issues (cpy 0) ∧ ((words 0 4 64 (table 1 4096 s0)).opB (cpy 0)).toNat % 8 ≠ 0
      ∧ heRd (entryOf 4096) = true ∧ heWr (entryOf 4096) = true)
    ∧ (cpyOf.entered = true ∧ crowded.Issues (cpy 0) ∧ 512 ≤ crowded.copyEntries ∧ crowded.th.copyHeld = none ∧ crowded.weak = []
      ∧ crowded.resolveHandle 0 false 0 = some (entryOf 4096) ∧ (crowded.opB (cpy 0)).toNat + (crowded.opC (cpy 0)).toNat ≤ rowsEnd crowded)
    ∧ (retrying.Issues (cpy 0) ∧ 512 ≤ retrying.copyEntries ∧ retrying.th.copyHeld = some cpyOf)
    ∧ withEntry (entryOf 4096) { CopyOp.initial with
        out := false, handle := retrying.opA (cpy 0), spad := (retrying.opB (cpy 0)).toNat
        length := (retrying.opC (cpy 0)).toNat } = cpyOf
    ∧ ({ retrying with ops := [] } : State).copyEntries < 512 := by
  refine ⟨fun out => mayCopy_of ((issues_iff _ _).2 (by decide +kernel)) (by cases out <;> decide +kernel), by decide +kernel,
    fun out => mayCopy_of ((issues_iff _ _).2 (by decide +kernel)) (by cases out <;> decide +kernel), by decide +kernel,
    fun out => mayCopy_of ((issues_iff _ _).2 (by decide +kernel)) (by cases out <;> decide +kernel), ?_⟩
  simp only [issues_iff, rowsEnd]; and_intros <;> decide +kernel
/-- Handle 0, of the linear zone. -/
def linearEntry : Nat := 2 ^ 96 + 2 ^ 84 + 2 ^ 83 + 2 ^ 81 + 4096 * 2 ^ 40 + bankLeaf.pa
/-- A copy of 64 bytes, at its byte `next`, with what its engine holds and has written of a transfer. -/
def copyC (out : Bool) (next : Nat) (poison status : Option Nat) (buf : List (Byte × BitVec 16)) (done : Nat) : CopyOp :=
  { CopyOp.initial with
    out := out, entry := BitVec.ofNat 128 linearEntry, spad := 0x100, length := 64, next := next, poison := poison, status := status
    buf := buf, done := done }
/-- One that begins; an inward one that has written 8 bytes of what it read, and an outward one that has read 8 of its bytes. -/
def fresh (out : Bool) : CopyOp := copyC out 0 none none [] 0
def half (out : Bool) : CopyOp := if out then copyC out 0 none none (List.replicate 8 (3, 0)) 0 else copyC out 0 none none (List.replicate 64 (3, 0)) 8
def copying (c : CopyOp) (v : Nat) : State := { table v 4096 onBank with ops := [bankOp (.copy c)], nextOp := 2 }
theorem transfers_of {s : State} {out : Bool} {c : CopyOp} (hs : s = copying c 1) (hc : c = fresh out ∨ c = half out) :
    Transfers s 1 (bankOp (.copy c)) c 64 := by
  subst hs
  have weak : (copying c 1).weak = [] := by rcases hc with rfl | rfl <;> cases out <;> decide +kernel
  constructor
  case sound => exact fun w hw => absurd (weak ▸ hw) List.not_mem_nil
  case begins => rcases hc with rfl | rfl <;> cases out <;> intro h
    <;> first | exact ⟨by decide +kernel, by decide +kernel, by decide +kernel, fun w hw => absurd (weak ▸ hw) List.not_mem_nil,
      by decide +kernel⟩ | exact absurd h (by decide +kernel)
  all_goals rcases hc with rfl | rfl <;> cases out <;> decide +kernel
theorem witness_CopyEngine :
    (∀ out, Transfers (copying (fresh out) 1) 1 (bankOp (.copy (fresh out))) (fresh out) 64)
    ∧ (∀ out, Transfers (copying (half out) 1) 1 (bankOp (.copy (half out))) (half out) 64)
    ∧ (let s := copying (half true) 1;
      hePol (BitVec.ofNat 128 linearEntry) = 0 ∧ (s.coreCtx 0 false).badWords = [] ∧ (∀ a, (s.coreCtx 0 false).tag a = 0)
        ∧ (∀ p ∈ (half true).buf, p.2 = 0) ∧ s.pchOpen (s.pchOf bankLeaf.pa) = true
        ∧ ∀ a, bankLeaf.pa ≤ a → a < bankLeaf.pa + 64 → tagPoison (s.blockTag a) = false)
    ∧ (let s := copying (fresh false) 0;
      s.op 1 = some (bankOp (.copy (fresh false))) ∧ s.handleLive (s.partOf 0) false 0 = false ∧ s.weak = []
        ∧ s.engineNext (engineOf 0) = some (bankOp (.copy (fresh false))))
    ∧ ((copyC false 64 none none [] 0).rows * (copyC false 64 none none [] 0).length ≤ 64
      ∧ (copyC false 64 (some 8) none [] 0).poison = some 8 ∧ (copyC false 8 none (some 3) [] 0).status = some 3
      ∧ heCls (BitVec.ofNat 128 linearEntry) ≠ 2) := by
  refine ⟨fun out => transfers_of rfl (.inl rfl), fun out => transfers_of rfl (.inr rfl),
    ⟨by decide +kernel, by decide +kernel, fun a => ?_,
      fun p hp => by rw [List.eq_of_mem_replicate (show p ∈ List.replicate 8 (3, 0) from hp)], by decide +kernel, ?_⟩, by decide +kernel, by decide +kernel⟩
  · rw [show (copying (half true) 1).coreCtx 0 false = CoreCtx.initial by decide +kernel]; rfl
  intro a h1 h2
  obtain ⟨i, rfl⟩ := Nat.exists_eq_add_of_le h1
  have h : ∀ i, i < 64 → tagPoison ((copying (half true) 1).blockTag (bankLeaf.pa + i)) = false := by decide +kernel
  exact h i (by omega)

/-- Queue 0 of cox core 2048: bfloat16, one block, partition 0, context A. -/
def queued : State := { s0 with gqcfg := [(0, 0x800001)] }
def tileAtCore : State := putX (queued.setCc (s0.cc.setTag 0 zeroTag)) 2 2048
def gq : Fmt Bool := fmt false (.x 1) (.x 2) (.x 3) (.x 4) 1
def onCox : State := { queued with cur := ⟨2048, false, 0⟩ }
def gqwOp (fp : Bool) : Op := bankOp (.gqw 2048 0 fp 2048 (List.replicate 64 0))
def gqrOp : Op := bankOp (.gqr 0 none 0)
def params0 : Nat := 0x20 * 2 ^ 256 + 0x40 * 2 ^ 320
def updating : State :=
  let s := putX onBank 3 0
  s.setCc (s.cc.store 0x1000 (natToBytes 64 params0) false)
def oupd : Fmt Bool := fmt false (.x 1) (.x 2) (.x 3) (.x 4) 0x1000
theorem mayUpdate : MayUpdate updating oupd fun _ => bankLeaf where
  issues := (issues_iff _ _).2 (by decide +kernel)
  a := by decide +kernel
  b := by decide +kernel
  c := by decide +kernel
  block := by unfold rowsEnd; decide +kernel
  gradient := by unfold rowsEnd; decide +kernel
  ecc := by decide +kernel
  tags := by decide +kernel
  legal := by decide +kernel
  aligned := by decide +kernel
  apart := by decide +kernel
  mapped := by
    have h : ∀ i, i < 3 → answers (updating.translate ((optAddrs (updating.opA oupd) (params updating oupd)).getD i 0) .bank) bankLeaf = true := by
      decide +kernel
    exact fun i hi => answers_ok (h i hi)
  page := by decide +kernel
  ready := by
    have h : ∀ i, i < 3 → let pa := bankLeaf.paOf ((optAddrs (updating.opA oupd) (params updating oupd)).getD i 0).toNat
        updating.plainOpen (updating.pchOf pa) = true ∧ tagPoison (updating.blockTag pa) = false := by decide +kernel
    exact fun i hi => ⟨(h i hi).1, (h i hi).2, fun w hw => absurd (show w ∈ ([] : List _) from hw) List.not_mem_nil⟩
  unwatched := by unfold unwatched; decide +kernel
theorem witness_TrainingPath :
    (tileAtCore.Issues gq ∧ tileAtCore.bitA gq = false ∧ tileAtCore.bitB gq = false ∧ tileAtCore.queueWordOk (tileAtCore.opA gq) = true
      ∧ (tileAtCore.opB gq).toNat % 64 = 0 ∧ (tileAtCore.opB gq).toNat + 64 ≤ rowsEnd tileAtCore ∧ tileAtCore.cc.badWords = [] ∧ unwatched tileAtCore
      ∧ ∀ i, i < 1 → tileBlock tileAtCore false (0 + 64 * i))
    ∧ (onCox.Issues gq ∧ onCox.bitB gq = false ∧ onCox.bitC gq = false ∧ (onCox.opA gq).toNat ≤ 7
      ∧ onCox.queueMine (queueKey onCox.cur.core 0) = true ∧ (onCox.opC gq).toNat + 64 * qcBlocks (onCox.queueCfg 0) ≤ rowsEnd onCox)
    ∧ (let s := { queued with ops := [gqwOp false], nextOp := 2 };
      s.op 1 = some (gqwOp false) ∧ s.tileTurn (gqwOp false) (queueKey 2048 0) = true ∧ qcFp32 (s.queueCfg (queueKey 2048 0)) = false
        ∧ 64 * qcBlocks (s.queueCfg (queueKey 2048 0)) = (List.replicate 64 (0 : Byte)).length ∧ s.bufferBytes 2048 + 64 ≤ 262144)
    ∧ (let s := { queued with ops := [gqwOp true], nextOp := 2 };
      s.op 1 = some (gqwOp true) ∧ qcFp32 (s.queueCfg (queueKey 2048 0)) ≠ true)
    ∧ (let s := { onCox with ops := [gqrOp], nextOp := 2, tiles := [⟨0, 5, 9, List.replicate 64 7⟩] };
      s.op 1 = some gqrOp ∧ gqrOp.cancelled = false ∧ s.tileFor gqrOp 0 = some ⟨0, 5, 9, List.replicate 64 7⟩)
    ∧ (let s := { onCox with ops := [bankOp (.delivery 0 0x1000 5 (List.replicate 64 7))], nextOp := 2 };
      s.op 1 = some (bankOp (.delivery 0 0x1000 5 (List.replicate 64 7))) ∧ List.replicate 64 (7 : Byte) ≠ [])
    ∧ MayUpdate updating oupd fun _ => bankLeaf := by
  simp only [issues_iff, rowsEnd, tileBlock, unwatched]; and_intros <;> first | exact mayUpdate | decide +kernel

/-! ## Witnesses: the device -/

/-- A header of one cluster and one thread with tag 5, priority 3. -/
def header5 : BitVec 1024 := BitVec.ofNat 1024 (2 ^ 64 + 2 ^ 69 + 3 * 2 ^ 86 + 5 * 2 ^ 224)
def taskAt (stage : TaskStage) (header : BitVec 1024) (op : Option Nat) : Task :=
  ⟨1, 0, false, op, stage, header, none, [], [], [], 0, 0, 0, 0, [], 0, false⟩
def launching (k : Task) : State :=
  { whole with tasks := [k], nextTask := 2, ops := [⟨9, 0, false, 0, some (.x 1), false, 0, .launch 1⟩], nextOp := 10 }
def endedOn (s : State) : State :=
  { s with threads := (List.range 8).map fun i => (threadKey ⟨clusterCore 0 i, false, 0⟩, { Thread.initial with run := .ended }) }
def finishing (stage : TaskStage) (op : Option Nat) : State := endedOn (launching (taskAt stage header5 op))
/-- The one thread that each core of the rectangle runs has ended. -/
def allEnded (k : Task) : State :=
  k.threadIds.foldl (fun (s : State) t => s.setThread t { s.thread t with run := .ended }) (launching k)
theorem witness_TaskLifecycle :
    (handleOff 0 % 64 = 0 ∧ s0.weak = [] ∧ s0.tasks.length < 64) ∧ handleOff 8 % 64 ≠ 0
    ∧ (let k := taskAt .intake header5 (some 9);
      (launching k).task 1 = some k ∧ (launching k).launchCancelled k = false ∧ (launching k).headerFault k = none
        ∧ (launching k).refFault k = none ∧ (launching k).unitNext ((launching k).launchDie 0) = some k ∧ (launching k).weak = [])
    -- the entries that the header needs can be read, and the one of its region entries cannot
    ∧ (launching (taskAt .intake header5 (some 9))).refsHeld (taskAt .intake header5 (some 9)) = false
    ∧ (let k := taskAt .intake (BitVec.ofNat 1024 (2 ^ 64 + 2 ^ 69 + 2 ^ 95)) (some 9);
      ((launching k).setPch (pchOfGranule 0) { PseudoChannel.initial with rsv := true }).refsHeld k = true)
    ∧ (let k := taskAt .intake 0 (some 9);
      (launching k).headerFault k = some 8 ∧ (launching k).unitNext ((launching k).launchDie 0) = some k ∧ k.op = some 9 ∧ ((launching k).op 9).isSome = true)
    ∧ (let k := taskAt .reading header5 none;
      (launching k).tasks = [k] ∧ k.nrec = 0 ∧ k.spadLen = 0 ∧ k.nreg = 0)
    ∧ (let k := taskAt .queued header5 none;
      ((launching k).part 0).v = true ∧ ((launching k).part 0).swapping = false ∧ (launching k).queueHead 0 false 3 = some k
        ∧ (launching k).launchCancelled k = false ∧ (launching k).pinOutside k = false ∧ (launching k).headReady k = true
        ∧ (launching k).roomFor k = some (0, 0) ∧ k.regions = [] ∧ k.ctx = ((launching k).part 0).res)
    ∧ (let k := taskAt .placed header5 (some 9);
      (∀ t ∈ k.threadIds, ((allEnded k).thread t).run = .ended) ∧ (allEnded k).taskRuns k = false ∧ (allEnded k).taskQuiet k = true
        ∧ (allEnded k).taskModes k = [] ∧ ((allEnded k).pctx 0 false).ckcnt = 0 ∧ k.removed = false)
    ∧ (((allEnded (taskAt .placed header5 none)).setPctx 0 false { PartCtx.initial with ckcnt := 1 }).pctx 0 false).ckcnt ≠ 0
    ∧ (taskAt .retiring header5 none).stage = .retiring ∧ (taskAt .queued header5 (some 9)).stage = .queued := by
  and_intros <;> decide +kernel
/-- A task that retires, of a context without handles, has no checksum to wait for. -/
theorem witness_ChecksumsCanBeRead : ∀ i, (launching (taskAt .retiring header5 none)).checksumHeld (taskAt .retiring header5 none) i = false := by
  intro i
  unfold State.checksumHeld
  split
  · rfl
  · rename_i w _
    have none_ : ∀ w : Word, (launching (taskAt .retiring header5 none)).resolveHandle 0 false w = none := fun w => by
      unfold State.resolveHandle
      exact if_neg fun h => absurd h.1 (Nat.not_lt_zero _)
    simp only [State.refHeld, State.refOk, none_, Bool.false_and, Bool.or_false, show (taskAt .retiring header5 none).part = 0 from rfl,
      show (taskAt .retiring header5 none).ctx = false from rfl]
    rfl
def splitPart : Partition := { Partition.initial with v := true, split := true }
theorem witness_SwapsAndDebug :
    (s0.part 15).v = false
    ∧ (let s := s0.setPart 15 splitPart;
      (s.part 15).v = true ∧ (s.part 15).split = true ∧ (s.part 15).swapping = false)
    ∧ s0.haltDone 0 = false
    ∧ (let value : Word := 0x00FF085F;
      value.toNat % 2 ^ 12 = 2143 ∧ (value >>> 12).toNat % 16 = 0 ∧ value.toNat / 2 ^ 24 = 0)
    ∧ (let s := s0.setCore 0 { Core.initial with dbg := ⟨true, [], [], 5⟩ };
      (s.core 0).dbg.halted = true ∧ selReg (s.core 0).dbg.dbgsel = some (.x 5)
        ∧ ((s.thread (s.residentThread 0 (selThread (s.core 0).dbg.dbgsel))).readX 5).st ≠ .pending)
    ∧ (let s := addNext.setCore 0 { Core.initial with dbg := ⟨false, [(3, 0x8001000000400000)], [], 0⟩ };
      s.breakpoint = some 3 ∧ (SMap.get (0 : Word) (s.core s.cur.core).dbg.dbp 3).getLsbD 62 = false)
    ∧ (let s := addNext.setCore 0 { Core.initial with dbg := ⟨false, [(3, 0xC001000000400000)], [], 0⟩ };
      s.breakpoint = some 3 ∧ (SMap.get (0 : Word) (s.core s.cur.core).dbg.dbp 3).getLsbD 62 = true) := by
  and_intros <;> decide +kernel
/-- A partition that no core serves has nothing to wait for. -/
theorem witness_SwapExchange : (s0.setPart 5 { splitPart with x0 := 1, swapping := true }).haltDone 5 = true := by decide +kernel
/-- Tables that map the page at 0x10000 to 0x20000; an entry of the first that leads outside HBM. -/
def putEntry (at_ e : Nat) (s : State) : State := s.dramStore at_ (natToBytes 8 e) false
def walking (first : Nat) : State :=
  (putEntry 0x120008 (3 + 16 + 32 + 5 * 2 ^ 8 + 2 * 2 ^ 16) (putEntry 0x110000 (1 + 0x12 * 2 ^ 16) (putEntry 0x100000 first
    (upd s0 fun t => { t with wait := .walk 0x10000 .load })))).setPctx 0 false { PartCtx.initial with ptroot := 0x100000 }
def goodFirst : Nat := 1 + 0x11 * 2 ^ 16
def execLeaf : TlbEntry := ⟨0, false, 0x10000, 0x10000, 0x20000, 0, 0, true, false, true, 0⟩
/-- What a walk comes to. -/
def walkIs (s : State) (r : Except WalkFail TlbEntry) : Bool :=
  match s.walk 0 false 0x10000, r with
  | .ok a, .ok b => decide (a = b)
  | .error a, .error b => decide (a = b)
  | _, _ => false
theorem walkIs_eq {s : State} {r : Except WalkFail TlbEntry} (h : walkIs s r = true) : s.walk 0 false 0x10000 = r := by
  unfold walkIs at h
  split at h
  · simp_all
  · simp_all
  · exact absurd h (by decide)
def walkNow (s : State) : State := { s with walks := [⟨0, cur0, 0x10000⟩] }
theorem witness_FetchEvents :
    (let s := walkNow (walking goodFirst);
      (s.thread cur0).wait = .walk 0x10000 .load ∧ s.weak = []
      ∧ (s.walks.find? fun w => w.owner == cur0 && s.walkerHas w) = some ⟨0, cur0, 0x10000⟩
      ∧ s.walkReserved 0x10000 3 (s.rootTable 0 false) = false ∧ s.walkers ⟨0, cur0, 0x10000⟩ = [(cur0, 0x10000, .load)])
    ∧ (walkNow (walking goodFirst)).walk 0 false 0x10000 = .ok ⟨0, false, 0x10000, 0x10000, 0x20000, 0, 5, false, true, true, 0⟩
    ∧ (walkNow (walking 0)).walk 0 false 0x10000 = .error .page
    ∧ (walkNow (walking (1 + 0xD00000 * 2 ^ 16))).walk 0 false 0x10000 = .error .access
    ∧ (walkNow ((walking goodFirst).setBlockTag 0x100000 poisonTag)).walk 0 false 0x10000 = .error (.poison 0x100000)
    ∧ (let s := mapped execLeaf;
      s.tlbLookup 0 0 false 0x10000 = some execLeaf ∧ cacheFind (s.cluster (sharedCache 0)).icache (execLeaf.paOf 0x10000) = none
        ∧ s.weak = [] ∧ s.reserved (execLeaf.paOf 0x10000) 64 = false
        ∧ s.lineBytes (execLeaf.paOf 0x10000) = some (List.replicate 64 0))
    ∧ (let s := (mapped execLeaf).setCluster (sharedCache 0) { Cluster.initial with icache := [(execLeaf.paOf 0x10000, [9])] };
      cacheFind (s.cluster (sharedCache 0)).icache (execLeaf.paOf 0x10000) = some [9])
    ∧ tagPoison (((mapped execLeaf).setBlockTag 0x20000 poisonTag).blockTag (execLeaf.paOf 0x10000)) = true := by
  refine ⟨by and_intros <;> decide +kernel, walkIs_eq (by decide +kernel), walkIs_eq (by decide +kernel), walkIs_eq (by decide +kernel),
    walkIs_eq (by decide +kernel), ?_⟩
  and_intros <;> decide +kernel
def rec9 (fatal : Bool) : Record := ⟨10000, 0, false, fatal, 9⟩
def recording (fatal : Bool) (lane : Word) : State :=
  { whole.setPctx 0 false { PartCtx.initial with flane := lane, rlane := lane } with records := [rec9 fatal] }
def tracing0 : State :=
  ({ s0 with cycle := 7 }.setCluster 0 { Cluster.initial with trcbase := 1, trcctl := 0x0000010000000000 }).setCore 0
    { Core.initial with trace := [5], traceLost := 2 }
theorem witness_RecordsAndErrors :
    (∀ fatal, let s := recording fatal 1; s.records = [rec9 fatal] ∧ s.ctxExists 0 false = true
      ∧ laneAccepts 1 0 fatal (9 % 256) = true ∧ (1 : Word).toNat / 2 ^ 6 % 2 ^ 34 * 64 + 2 ^ 22 ≤ hbmEnd
      ∧ s.reserved (laneAt 1 0) 64 = false)
    ∧ laneAccepts 0 0 false 9 = false ∧ 64 * 0x2FFFFFFFF < hbmEnd
    ∧ (s0.lasting.contains (.frame 0) = false
      ∧ (let s := { s0 with lasting := [.frame 0] };
        s.lasting.contains (.frame 0) = true ∧ s.retired = [] ∧ s.lasting.contains (.frame 1) = false
          ∧ 1 * 2 ^ 21 < hbmEnd ∧ s.frameFree 0 = true ∧ s.frameBusy 0 = false ∧ s.wideLeaves 0 s.midTables = [] ∧ s.interleaved (0 * 2 ^ 21) = s.interleaved (1 * 2 ^ 21)))
    ∧ ((tracing0.cluster 0).trcbase.getLsbD 0 = true ∧ tracing0.tracing 0 = [0] ∧ (tracing0.core 0).trace = 5 :: []
      ∧ (tracing0.cluster (clusterOf 0)).trcctl.getLsbD (40 + coreInCluster 0) = true ∧ (tracing0.core 0).trace.length < 64
      ∧ (tracing0.core 0).traceLost ≠ 0
      ∧ tracing0.reserved ((tracing0.cluster 0).trcbase.toNat / 2 ^ 6 % 2 ^ 34 * 64
        + 16 * ((tracing0.cluster 0).ringTail % (tracing0.cluster 0).ringCap)) 16 = false)
    -- a timestamp that is due, and none; an uncorrectable event beside four earlier ones
    ∧ (let s := { tracing0 with cycle := 0x10000000 }.setCore 0 { Core.initial with trace := [5] };
      s.stampDue 0 = true ∧ (s.core 0).traceLost = 0)
    ∧ s0.stampDue 0 = false
    ∧ (let s := { s0 with errors := List.replicate 4 (.frame 0, 0) };
      (errorLimit (.frame 0)).1 ≤ s.windowCount (.frame 0) 0 + 1 ∧ s.lasting.contains (.frame 0) = false) := by
  and_intros <;> decide +kernel
def onLink : State := ({ onBank with domid := 0x401 }).setPort 0 { Port.initial with up := true }
def update0 : OpKind := .remoteUpdate 0 0x20000 .set 3 5
theorem witness_LinkEvents :
    (let s := { onLink with ops := [bankOp update0], nextOp := 2 };
      s.op 1 = some (bankOp update0) ∧ s.pathTo 0 = true)
    ∧ (s0.port 17).up = false ∧ ((onLink.port 0).up = true ∧ onLink.lasting.contains (.port 0) = false ∧ onLink.weak = [])
    ∧ (onLink.seen 1 2 = false ∧ onLink.interleaved bankLeaf.pa = false ∧ onLink.linear bankLeaf.pa = true
      ∧ onLink.pchOpen (onLink.pchOf bankLeaf.pa) = true)
    ∧ (∀ i, tagPoison (onLink.blockTag (bankLeaf.pa + i)) = false)
    ∧ ((SMap.get (0 : BitVec 32) s0.flagsSeen 0).toNat < (1 : BitVec 32).toNat
      ∧ (0 : BitVec 32).toNat ≤ (SMap.get (0 : BitVec 32) s0.flagsSeen 0).toNat)
    ∧ ((0x3E : Word).getLsbD 0 = false ∧ (1 : Word).getLsbD 0 = true ∧ (onLink.port 0).lasting = false
      ∧ ((s0.setPort 0 { Port.initial with lasting := true }).port 0).lasting = true)
    ∧ (({ s0 with domid := 0x1000200 } : State).domid.getLsbD 24 = true ∧ s0.domid.getLsbD 24 = false)
    ∧ (s0.dev = 0 ∧ onLink.dev ≠ 0)
    -- the clock stands behind device 0's, before it, and is due or not due for a correction; a beat is missing
    ∧ (s0.timeOff = 0 ∧ s0.sinceFix + 0 < 1024 ∧ s0.sinceBeat < beatLimit)
    ∧ (let s := { s0 with timeOff := 3, sinceFix := 1023, sinceBeat := beatLimit };
      0 < s.timeOff ∧ 1023 ≤ s.sinceFix ∧ beatLimit ≤ s.sinceBeat)
    ∧ ({ s0 with timeOff := -3, sinceFix := 1023 } : State).timeOff < 0 := by
  refine ⟨by decide +kernel, by decide +kernel, by decide +kernel, by decide +kernel, fun i => ?_, by decide +kernel, by decide +kernel,
    by decide +kernel, by decide +kernel, by decide +kernel, by decide +kernel, by decide +kernel⟩
  rw [show onLink.blockTag (bankLeaf.pa + i) = zeroTag from rfl]; decide
/-- HREVOKE names handle 0 of partition 0, through which a transfer is under way. -/
def revoked : State := { copying { fresh false with done := 8, buf := List.replicate 64 (3, 0) } 1 with hrevoke := 0x8000000000000000 }
theorem witness_StewardEvents :
    (({ s0 with memcfg := 0x80 } : State).memcfg.getLsbD 7 = true ∧ s0.memcfg.getLsbD 7 = false)
    ∧ (({ s0 with tlbinv := 0x8000000000000000 } : State).tlbinv.getLsbD 63 = true ∧ s0.tlbinv.getLsbD 63 = false
      ∧ s0.hrevoke.getLsbD 63 = false)
    ∧ (s0.regionLock = none ∧ regLegal 0x101 = true ∧ s0.census 255 = false ∧ regLegal 0x1FF = false)
    ∧ (s0.mext = none ∧ ({ s0 with mext := some 7 } : State).mext = some 7)
    ∧ ((399 : BitVec 16).toInt < 400 ∧ 400 ≤ (400 : BitVec 16).toInt)
    ∧ (s0.powered = true ∧ ({ s0 with powered := false } : State).powered = false)
    ∧ (s0.revoking = false ∧ revoked.revoking = true)
    -- a place that is interleaved, and one of the linear zone
    ∧ (s0.interleaved 0x40000 = true ∧ s0.weak = [] ∧ tagPoison (s0.blockTag 0x40000) = false ∧ ∀ i, i < 8 → s0.coveringKey (0x40000 + i) = none)
    ∧ (onBank.interleaved bankLeaf.pa = false ∧ bankLeaf.pa % 8 = 0 ∧ bankLeaf.pa + 8 ≤ hbmEnd
      ∧ tagPoison (onBank.blockTag bankLeaf.pa) = false)
    ∧ (let op := ⟨1, stewardThread.core, stewardThread.ctx, stewardThread.thr, none, false, 0, .stewardLoad 2 ⟨8, 5, 0, false, 4, none⟩ bankLeaf.pa⟩
      let s := { onBank with ops := [op], nextOp := 2 };
      s.op 1 = some op ∧ s.plainReady op (s.pchOf bankLeaf.pa) = true ∧ s.weak = [])
    ∧ (hbmEnd % 8 = 0 ∧ hbmEnd < hbmEnd + 8 ∧ hbmEnd < mmioBase)
    -- an atomic memory operation; a compressed instruction and a whole one; interrupts that are heard, pending, and not
    ∧ ((⟨8, 5, 0, false, 4, some (.add, 1)⟩ : HartLoad).amo = some (.add, 1) ∧ ∀ length ∈ [2, 4], length ∈ [0, 2, 4])
    ∧ (s0.interrupts = [] ∧ (s0.hart 0).pends 7 = false ∧ (s0.hart 0).hears 11 = false ∧ 7 ∈ [1, 3, 5, 7, 9, 11])
    ∧ (let s := ({ s0 with interrupts := [3] } : State).setHart 0 ((s0.hart 0).putCsrs [(0x300, 8), (0x304, 0x800)]);
      s.interrupts ≠ [] ∧ (s.hart 0).hears 11 = true ∧ (s.hart 0).handsDown 11 = false ∧ (s.hart 0).priv = 3) := by
  and_intros <;> decide +kernel

/-! ## Decoding: the words that the spec writes out, family by family (SAMO, FLOW.YIELD, VLOGIC and MASK from the field tables of R109,
R25, R30 and R173, which give no example) -/

def vt (t : ElType) : VecMod := ⟨t, 0, false, .rne, false⟩
def gmod (w64 : Bool) (fc : Fc) : GlobMod := ⟨w64, fc, false, 0, false⟩
theorem test_decode_int : decodeTableWord 96 0x010000506E10000000000001 = some (.add (fmt ⟨false, .wrap⟩ (.x 5) (.x 6) .imm (.x 0) 1))
    ∧ decodeTableWord 96 0x012000506E10000000000064 = some (.add ⟨⟨false, 2⟩, .x 5, .x 6, .imm, .x 0, ⟨false, .wrap⟩, 100⟩)
    ∧ decodeTableWord 96 0x010000908080000000000000 = some (.add (fmt ⟨false, .wrap⟩ (.x 9) (.x 8) (.x 8) (.x 0) 0)) := by decide
theorem test_decode_bit : decodeTableWord 96 0x020050506070000400000010 = some (.lea (fmt ⟨false, 2⟩ (.x 5) (.x 6) (.x 7) (.x 0) 16))
    ∧ decodeTableWord 96 0x020060762080900000000000 = some (.sel (fmt () (.x 7) (.p 2) (.x 8) (.x 9) 0)) := by decide
theorem test_decode_spad : decodeTableWord 96 0x100000506000000600000010
      = some (.lds (fmt ⟨.w32, true, 0, false⟩ (.x 5) (.x 6) (.x 0) (.x 0) 16)) := by decide
theorem test_decode_movi : decodeTableWord 96 0x03000050123456789ABCDEF0 = some (.movi always 5 0x123456789ABCDEF0)
    ∧ decodeTableWord 96 0x030000100000002002001000 = some (.movi always 1 0x0000002002001000) := by decide
theorem test_decode_pred : decodeTableWord 96 0x040006205E10000400000064 = some (.cmp (fmt ⟨false, .lt⟩ (.p 2) (.x 5) .imm (.x 0) 100)) := by decide
theorem test_decode_branch : decodeTableWord 96 0x0500100040500004FFFFFFF7 = some (.brc (fmt ⟨false, .lt⟩ (.x 0) (.x 4) (.x 5) (.x 0) (-9)))
    ∧ decodeTableWord 96 0x05003000803000000000000A = some (.brct (fmt ⟨false, .eq⟩ (.x 0) (.x 8) (.x 3) (.x 0) 10))
    ∧ decodeTableWord 96 0x05404001F000000000000000 = some (.jmp ⟨⟨false, 4⟩, .x 0, .x 31, .x 0, .x 0, (), 0⟩)
    ∧ decodeTableWord 96 0x050050000000000000000009 = some (.call (fmt () (.x 0) (.x 0) (.x 0) (.x 0) 9))
    ∧ decodeTableWord 96 0x050060000000000000000000 = some (.eret (fmt () (.x 0) (.x 0) (.x 0) (.x 0) 0)) := by decide
theorem test_decode_flow : decodeTableWord 96 0x060000000000000000000000 = some (.yield (fmt () (.x 0) (.x 0) (.x 0) (.x 0) 0))
    ∧ decodeTableWord 96 0x060010005000000000000000 = some (.waitt (fmt () (.x 0) (.x 5) (.x 0) (.x 0) 0))
    ∧ decodeTableWord 96 0x060020000000000000000000 = some (.wfi (fmt () (.x 0) (.x 0) (.x 0) (.x 0) 0)) := by decide
theorem test_decode_samo : decodeTableWord 96 0x110000506000700200000000 = some (.samo (fmt ⟨.w32, .add⟩ (.x 5) (.x 6) (.x 0) (.x 7) 0)) := by decide
theorem test_decode_global : decodeTableWord 96 0x140060006000700000000010 = some (.cmb (fmt (gmod false .none) (.x 0) (.x 6) (.x 0) (.x 7) 16))
    ∧ decodeTableWord 96 0x140060006000700300000000 = some (.cmb (fmt (gmod true .f32) (.x 0) (.x 6) (.x 0) (.x 7) 0))
    ∧ decodeTableWord 96 0x140012306000001300000000 = some (.ldgv (fmt ⟨true, .f32, false, 1, false⟩ (.v 3) (.x 6) (.x 0) (.x 0) 0))
    ∧ decodeTableWord 96 0x140080006222400300000000 = some (.cmbx (fmt (gmod true .f32) (.x 0) (.x 6) (.v 2) (.v 4) 0)) := by decide
theorem test_decode_mergectl : decodeTableWord 96 0x150000900000000300000000 = some (.mdrain (fmt ⟨.device⟩ (.x 9) (.x 0) (.x 0) (.x 0) 0))
    ∧ decodeTableWord 96 0x1500009E1000000800000007 = some (.mdrainRegion (fmt () (.x 9) .imm (.x 0) (.x 0) 7))
    ∧ decodeTableWord 96 0x150010906000700000000008 = some (.mresolve (fmt (gmod false .none) (.x 9) (.x 6) (.x 0) (.x 7) 8))
    ∧ decodeTableWord 96 0x1500200E1080000000000007 = some (.rgset (fmt () (.x 0) .imm (.x 8) (.x 0) 7))
    ∧ decodeTableWord 96 0x1500308E1000000000000007 = some (.rgget (fmt () (.x 8) .imm (.x 0) (.x 0) 7)) := by decide
theorem test_decode_sync : decodeTableWord 96 0x180000004050000300000001 = some (.bind (fmt ⟨.device⟩ (.x 0) (.x 4) (.x 5) (.x 0) 1))
    ∧ decodeTableWord 96 0x180010004E10000000000001 = some (.acq (fmt () (.x 0) (.x 4) .imm (.x 0) 1))
    ∧ decodeTableWord 96 0x180020904000000000000000 = some (.rel (fmt () (.x 9) (.x 4) (.x 0) (.x 0) 0))
    ∧ decodeTableWord 96 0x180030000000000300000000 = some (.fence (fmt ⟨.device⟩ (.x 0) (.x 0) (.x 0) (.x 0) 0))
    ∧ decodeTableWord 96 0x180040007000000000000000 = some (.bfence (fmt () (.x 0) (.x 7) (.x 0) (.x 0) 0)) := by decide
theorem test_decode_barrier : decodeTableWord 96 0x1900000E1000000000000007 = some (.bar (fmt () (.x 0) .imm (.x 0) (.x 0) 7))
    ∧ decodeTableWord 96 0x1900309E1080000100000258 = some (.barr (fmt ⟨.fsum, 0⟩ (.x 9) .imm (.x 8) (.x 0) 600)) := by decide
theorem test_decode_future : decodeTableWord 96 0x1A0006309000000000000000 = some (.ftest (fmt false (.p 3) (.x 9) (.x 0) (.x 0) 0))
    ∧ decodeTableWord 96 0x1A0006309000000100000000 = some (.ftest (fmt true (.p 3) (.x 9) (.x 0) (.x 0) 0))
    ∧ decodeTableWord 96 0x1A0038209000000000000000 = some (.fmovc (fmt () (.c 2) (.x 9) (.x 0) (.x 0) 0)) := by decide
theorem test_decode_msg : decodeTableWord 96 0x1B0000004060001100000000 = some (.send (fmt ⟨17⟩ (.x 0) (.x 4) (.x 6) (.x 0) 0))
    ∧ decodeTableWord 96 0x1B00105D1000000000000000 = some (.recv (fmt () (.x 5) (.i 17) (.x 0) (.x 0) 0)) := by decide
theorem test_decode_deque : decodeTableWord 96 0x1C0006205000000000000000 = some (.dqpush (fmt () (.p 2) (.x 5) (.x 0) (.x 0) 0))
    ∧ decodeTableWord 96 0x1C0010600000000000000000 = some (.dqpop (fmt () (.x 6) (.x 0) (.x 0) (.x 0) 0))
    ∧ decodeTableWord 96 0x1C0020600000000000000000 = some (.dqsplit (fmt () (.x 6) (.x 0) (.x 0) (.x 0) 0))
    ∧ decodeTableWord 96 0x1C00309E10000000FFFFFFFF = some (.dqsteal (fmt () (.x 9) .imm (.x 0) (.x 0) (-1))) := by decide
theorem test_decode_work : decodeTableWord 96 0x1D0000500000000000000002 = some (.widf (fmt () (.x 5) (.x 0) (.x 0) (.x 0) 2))
    ∧ decodeTableWord 96 0x1D0010600000000000000003 = some (.lvlrect (fmt () (.x 6) (.x 0) (.x 0) (.x 0) 3))
    ∧ decodeTableWord 96 0x1D0020904000000000000000 = some (.launch (fmt () (.x 9) (.x 4) (.x 0) (.x 0) 0))
    ∧ decodeTableWord 96 0x1D0030000000000000000000 = some (.trig (fmt () (.x 0) (.x 0) (.x 0) (.x 0) 0))
    ∧ decodeTableWord 96 0x1D0040000000000000000000 = some (.end_ (fmt () (.x 0) (.x 0) (.x 0) (.x 0) 0)) := by decide
theorem test_decode_sys : decodeTableWord 96 0x1E0010000000000000000000 = some (.brk (fmt () (.x 0) (.x 0) (.x 0) (.x 0) 0))
    ∧ decodeTableWord 96 0x1E0020500000000000000020 = some (.csrr (fmt () (.x 5) (.x 0) (.x 0) (.x 0) 0x20))
    ∧ decodeTableWord 96 0x1E003000100000000000000B = some (.csrw (fmt () (.x 0) (.x 1) (.x 0) (.x 0) 0xB))
    ∧ decodeTableWord 96 0x1E0050000000000000000000 = some (.fencei (fmt () (.x 0) (.x 0) (.x 0) (.x 0) 0)) := by decide
theorem test_decode_vector : decodeTableWord 96 0x200002324250000B00000000 = some (.vadd (fmt (vt .fp32) (.v 3) (.v 4) (.v 5) (.x 0) 0))
    ∧ decodeTableWord 96 0x200032122232400B00000000 = some (.vfma (fmt (vt .fp32) (.v 1) (.v 2) (.v 3) (.v 4) 0))
    ∧ decodeTableWord 96 0x210022122230000200000000 = some (.vxor (fmt (vt .int32) (.v 1) (.v 2) (.v 3) (.x 0) 0)) := by decide
theorem test_decode_vconv : decodeTableWord 96 0x22000252600000080001FD0B = some (.vcvt (fmt (vt .mk8) (.v 5) (.v 6) (.x 0) (.x 0) 0x1FD0B))
    ∧ decodeTableWord 96 0x230004224260009200000000
      = some (.vcmp (fmt ⟨.int32, 1, true, .rne, false⟩ (.m 2) (.v 4) (.v 6) (.x 0) 0)) := by decide
theorem test_decode_vlane : decodeTableWord 96 0x240062422230001200000000
      = some (.vsortkv (fmt ⟨.int32, 1, false, .rne, false⟩ (.v 4) (.v 2) (.v 3) (.x 0) 0))
    ∧ decodeTableWord 96 0x250000528E00000900000000 = some (.vredadd (fmt (vt .fp16) (.x 5) (.v 8) .none (.x 0) 0))
    ∧ decodeTableWord 96 0x260004142430000000000000 = some (.mand (fmt (vt .int8) (.m 1) (.m 2) (.m 3) (.x 0) 0)) := by decide
theorem test_decode_matrix : decodeTableWord 96 0x300000001020000000400801 = some (.mma (fmt ⟨0, false⟩ (.x 0) (.x 1) (.x 2) (.x 0) 0x400801))
    ∧ decodeTableWord 96 0x300020000000000000000000 = some (.acz (fmt ⟨0, false⟩ (.x 0) (.x 0) (.x 0) (.x 0) 0))
    ∧ decodeTableWord 96 0x300040003000000000000801 = some (.acst (fmt ⟨0, false⟩ (.x 0) (.x 3) (.x 0) (.x 0) 0x801))
    ∧ decodeTableWord 96 0x30008090A0B0C00200802040
      = some (.topkc (fmt ⟨false, true⟩ (.x 9) (.x 10) (.x 11) (.x 12) 0x802040)) := by decide
theorem test_decode_xbar : decodeTableWord 96 0x340000911120800000000008 = some (.xbmv (fmt () (.x 9) (.x 17) (.x 18) (.x 8) 8))
    ∧ decodeTableWord 96 0x34001090A000800000000008 = some (.xbprog (fmt () (.x 9) (.x 10) (.x 0) (.x 8) 8))
    ∧ decodeTableWord 96 0x340031500001400000000000 = some (.xbcal (fmt () (.x 21) (.x 0) (.x 0) (.x 20) 0)) := by decide
theorem test_decode_bound : decodeTableWord 96 0x350002221000000000000000 = some (.acpt (fmt () (.v 2) (.v 1) (.x 0) (.x 0) 0))
    ∧ decodeTableWord 96 0x350016121000000000000000 = some (.btest (fmt () (.p 1) (.v 1) (.x 0) (.x 0) 0)) := by decide
theorem test_decode_stack : decodeTableWord 96 0x380000006000700200000000 = some (.namo (fmt ⟨.min, false, 0⟩ (.x 0) (.x 6) (.x 0) (.x 7) 0))
    ∧ decodeTableWord 96 0x38201000A082B00100000000
      = some (.namov ⟨⟨false, 2⟩, .x 0, .x 10, .x 8, .v 11, ⟨.fadd, false, 0⟩, 0⟩)
    ∧ decodeTableWord 96 0x380020506000700800000008 = some (.namor (fmt ⟨.add, true, 0⟩ (.x 5) (.x 6) (.x 0) (.x 7) 8)) := by decide
theorem test_decode_bank : decodeTableWord 96 0x39000140A000000100000000 = some (.bkmodeOn (fmt () (.x 20) (.x 10) (.x 0) (.x 0) 0))
    ∧ decodeTableWord 96 0x39001150A000B00000000000 = some (.bkldr (fmt () (.x 21) (.x 10) (.x 0) (.x 11) 0))
    ∧ decodeTableWord 96 0x39002160A000003F00000000 = some (.bkmac (fmt ⟨63, 0⟩ (.x 22) (.x 10) (.x 0) (.x 0) 0))
    ∧ decodeTableWord 96 0x39003170A000C03F00000000 = some (.bkrd (fmt ⟨63, 0⟩ (.x 23) (.x 10) (.x 0) (.x 12) 0)) := by decide
theorem test_decode_copy : decodeTableWord 96 0x3C000090A0BE100000001000 = some (.cpyIn (fmt () (.x 9) (.x 10) (.x 11) .imm 0x1000))
    ∧ decodeTableWord 96 0x3C0010C0A0B0D00200000100 = some (.cpy2In (fmt ⟨true⟩ (.x 12) (.x 10) (.x 11) (.x 13) 0x100)) := by decide
theorem test_decode_cox : decodeTableWord 96 0x3E0000904050000100000010 = some (.gqw (fmt true (.x 9) (.x 4) (.x 5) (.x 0) 16))
    ∧ decodeTableWord 96 0x3E0010AE1060700000000002 = some (.gqr (fmt false (.x 10) .imm (.x 6) (.x 7) 2))
    ∧ decodeTableWord 96 0x3E002000A0B0900000000100 = some (.oupd (fmt false (.x 0) (.x 10) (.x 11) (.x 9) 0x100)) := by decide

/-- The line that 02 assembles under 'One line, assembled': its line word holds, and with byte 0x09 changed to 1 it does not. -/
def lineOfSpec (b9 : Byte) : List Byte :=
  natToBytes 8 0x00620481 ++ [0x0B, b9] ++ ((natToBytes 12 0x200002324250000B00000000).drop 6) ++ natToBytes 12 0x012000506E10000000000064
    ++ List.replicate 36 0
theorem test_line_of_the_spec : lineOk (lineOfSpec 0) = true ∧ lineOk (lineOfSpec 1) = false ∧ linePairs (lineOfSpec 0) = 1
    ∧ lineStops (lineOfSpec 0) = 4 ∧ lineTargets (lineOfSpec 0) = 1 := by decide
/-- Reserved encodings are refused: another bit with OPC 0 (R33), an unassigned OPC and FN (R32), an i register as destination, index 8
of class m, and a special regspec above 1 (R26), and OV 3 (R133). -/
theorem test_decode_refuses : decodeTableWord 96 0x000000000000000000000001 = none ∧ decodeTableWord 96 0x070000000000000000000000 = none
    ∧ decodeTableWord 96 0x060030000000000000000000 = none ∧ decodeTableWord 96 0x01000C106070000000000000 = none
    ∧ decodeTableWord 96 0x010004806070000000000000 = none ∧ decodeTableWord 96 0x01000E206070000000000000 = none
    ∧ decodeTableWord 96 0x010010506070000600000000 = none := by decide

/-! ## Well-formedness: a term for each check, which the check refuses -/

theorem test_illformed_classes :
    WellFormed (.add (fmt ⟨false, .wrap⟩ (.v 1) (.x 2) (.x 3) (.x 0) 0)) = false
    ∧ WellFormed (.add (fmt ⟨false, .wrap⟩ .imm (.x 2) (.x 3) (.x 0) 0)) = false
    ∧ WellFormed (.add (fmt ⟨false, .wrap⟩ (.x 1) (.v 2) (.x 3) (.x 0) 0)) = false
    ∧ WellFormed (.add (fmt ⟨false, .wrap⟩ (.x 1) (.x 2) (.i 3) (.x 0) 0)) = false
    ∧ WellFormed (.add (fmt ⟨false, .wrap⟩ (.x 1) (.x 2) (.x 3) (.x 4) 0)) = false
    ∧ WellFormed (.lea (fmt ⟨false, 0⟩ (.x 1) (.x 2) .imm (.x 0) 0)) = false
    ∧ WellFormed (.sel (fmt () (.x 1) (.x 2) (.x 3) (.x 4) 0)) = false
    ∧ WellFormed (.cmp (fmt ⟨false, .eq⟩ (.x 1) (.x 2) (.x 3) (.x 0) 0)) = false
    ∧ WellFormed (.pand (fmt () (.p 1) (.x 2) (.p 3) (.x 0) 0)) = false
    ∧ WellFormed (.brc (fmt ⟨false, .eq⟩ (.x 0) (.q 1) (.x 3) (.x 0) 0)) = false
    ∧ WellFormed (.ldsv (fmt ⟨.w8, false, 0, false⟩ (.x 1) (.x 2) (.x 3) (.x 0) 0)) = false
    ∧ WellFormed (.rel (fmt () (.x 0) (.x 2) (.x 0) (.x 0) 0)) = false
    ∧ WellFormed (.recv (fmt () (.x 1) (.x 2) (.x 0) (.x 0) 0)) = false
    ∧ WellFormed (.fmovc (fmt () (.x 1) (.x 2) (.x 0) (.x 0) 0)) = false
    ∧ WellFormed (.ftest (fmt false (.p 1) (.q 2) (.x 0) (.x 0) 0)) = false
    ∧ WellFormed (.fcancel (fmt () (.x 0) (.v 2) (.x 0) (.x 0) 0)) = false
    ∧ WellFormed (.vadd (fmt (vt .int32) (.v 1) (.x 2) (.v 3) (.x 0) 0)) = false
    ∧ WellFormed (.vcmp (fmt (vt .int32) (.v 1) (.v 2) (.v 3) (.x 0) 0)) = false
    ∧ WellFormed (.vsortkv (fmt (vt .int32) (.v 5) (.v 2) (.v 3) (.x 0) 0)) = false
    ∧ WellFormed (.vredadd (fmt (vt .int32) (.x 1) (.v 2) (.v 3) (.x 0) 0)) = false
    ∧ WellFormed (.vslide (fmt (vt .int32) (.v 1) (.v 2) (.x 0) (.x 0) 0)) = false
    ∧ WellFormed (.mand (fmt (vt .int8) (.m 1) (.p 2) (.m 3) (.x 0) 0)) = false
    ∧ WellFormed (.acpt (fmt () (.v 1) (.x 1) (.x 0) (.x 0) 0)) = false
    ∧ WellFormed (.cpyIn (fmt () (.x 1) .imm (.x 2) (.x 3) 0)) = false := by decide
theorem test_illformed_immediates :
    WellFormed (.add (fmt ⟨false, .wrap⟩ (.x 1) (.x 2) (.x 3) (.x 0) 1)) = false
    ∧ WellFormed (.pmovTox (fmt () (.x 1) (.x 0) (.x 0) (.x 0) 1)) = false
    ∧ WellFormed (.bind (fmt ⟨.core⟩ (.x 0) (.x 2) (.x 3) (.x 0) 0)) = false
    ∧ WellFormed (.bind (fmt ⟨.core⟩ (.x 0) (.x 2) (.x 3) (.x 0) 9)) = false
    ∧ WellFormed (.widf (fmt () (.x 1) (.x 0) (.x 0) (.x 0) 6)) = false
    ∧ WellFormed (.lvlrect (fmt () (.x 1) (.x 0) (.x 0) (.x 0) 7)) = false
    ∧ WellFormed (.csrr (fmt () (.x 1) (.x 0) (.x 0) (.x 0) 4096)) = false
    ∧ WellFormed (.vcmp (fmt (vt .int32) (.m 1) (.v 2) (.v 3) (.x 0) 6)) = false
    ∧ WellFormed (.vcvt (fmt (vt .int8) (.v 1) (.v 2) (.x 0) (.x 0) 13)) = false
    ∧ WellFormed (.vcvt (fmt (vt .int8) (.v 1) (.v 2) (.x 0) (.x 0) 0x10)) = false
    ∧ WellFormed (.vcvt (fmt (vt .int8) (.v 1) (.v 2) (.x 0) (.x 0) 0x40002)) = false
    ∧ WellFormed (.vslide (fmt (vt .int32) (.v 1) (.v 2) .none (.x 0) 9)) = false
    ∧ WellFormed (.vslide (fmt (vt .int32) (.v 1) (.v 2) .none (.x 0) (-9))) = false
    ∧ WellFormed (.mmv (fmt ⟨0, false⟩ (.x 9) (.x 1) (.x 2) (.x 3) 1)) = false
    ∧ WellFormed (.mxstat (fmt ⟨false⟩ (.x 1) (.x 0) (.x 0) (.x 0) 4)) = false
    ∧ WellFormed (.xbmv (fmt () (.x 9) (.x 17) (.x 18) (.x 8) 0x80000)) = false
    ∧ WellFormed (.xbprog (fmt () (.x 9) (.x 10) (.x 0) (.x 8) 0x80001)) = false
    ∧ WellFormed (.cpy2In (fmt ⟨true⟩ (.x 12) (.x 10) (.x 11) (.x 13) 0x40000)) = false
    ∧ WellFormed (.cpyg (fmt () (.x 12) (.x 10) (.x 11) (.x 13) 0x100000)) = false
    ∧ WellFormed (.cpyr (fmt () (.x 12) (.x 10) (.x 11) (.x 13) 256)) = false
    ∧ WellFormed (.gqw (fmt true (.x 9) (.x 4) (.x 5) (.x 0) 65)) = false := by decide
theorem test_illformed_modifiers :
    WellFormed (.mulh (fmt ⟨false, .sats⟩ (.x 1) (.x 2) (.x 3) (.x 0) 0)) = false
    ∧ WellFormed (.lds (fmt ⟨.w32, false, 1, false⟩ (.x 1) (.x 2) (.x 3) (.x 0) 0)) = false
    ∧ WellFormed (.sts (fmt ⟨.w32, true, 0, false⟩ (.x 0) (.x 2) (.x 3) (.x 4) 0)) = false
    ∧ WellFormed (.ldsv (fmt ⟨.w32, false, 0, false⟩ (.v 1) (.x 2) (.x 3) (.x 0) 0)) = false
    ∧ WellFormed (.stsv (fmt ⟨.w8, false, 0, true⟩ (.x 0) (.x 2) (.x 3) (.v 1) 0)) = false
    ∧ WellFormed (.vgaths (fmt ⟨.w8, false, 0, false⟩ (.v 1) (.x 2) (.v 3) (.x 0) 0)) = false
    ∧ WellFormed (.samo (fmt ⟨.w16, .add⟩ (.x 1) (.x 2) (.x 0) (.x 4) 0)) = false
    ∧ WellFormed (.samo (fmt ⟨.w64, .fadd⟩ (.x 1) (.x 2) (.x 0) (.x 4) 0)) = false
    ∧ WellFormed (.samo (fmt ⟨.w32, .add⟩ (.x 1) (.x 2) (.x 3) (.x 4) 0)) = false
    ∧ WellFormed (.ldg (fmt ⟨false, .f32, false, 0, false⟩ (.x 1) (.x 2) (.x 3) (.x 0) 0)) = false
    ∧ WellFormed (.ldg (fmt ⟨true, .none, true, 0, false⟩ (.x 1) (.x 2) (.x 3) (.x 0) 0)) = false
    ∧ WellFormed (.cmb (fmt ⟨true, .none, false, 1, false⟩ (.x 0) (.x 2) (.x 3) (.x 4) 0)) = false
    ∧ WellFormed (.stgv (fmt ⟨true, .none, false, 1, true⟩ (.x 0) (.x 2) (.x 3) (.v 4) 0)) = false
    ∧ WellFormed (.mdrain (fmt ⟨.thread⟩ (.x 9) (.x 0) (.x 0) (.x 0) 0)) = false
    ∧ WellFormed (.mdrain (fmt ⟨.device⟩ (.x 9) (.x 1) (.x 0) (.x 0) 0)) = false
    ∧ WellFormed (.bind (fmt ⟨.bank⟩ (.x 0) (.x 2) (.x 3) (.x 0) 1)) = false
    ∧ WellFormed (.fence (fmt ⟨.bank⟩ (.x 0) (.x 0) (.x 0) (.x 0) 0)) = false
    ∧ WellFormed (.fence (fmt ⟨.core⟩ (.x 0) (.x 1) (.x 0) (.x 0) 0)) = false
    ∧ WellFormed (.barr (fmt ⟨.add, 1⟩ (.x 9) .imm (.x 8) (.x 0) 600)) = false
    ∧ WellFormed (.vadd (fmt ⟨.fp32, 0, false, .rne, true⟩ (.v 1) (.v 2) (.v 3) (.x 0) 0)) = false
    ∧ WellFormed (.vadd (fmt ⟨.int32, 0, false, .rz, false⟩ (.v 1) (.v 2) (.v 3) (.x 0) 0)) = false
    ∧ WellFormed (.vdiv (fmt (vt .int32) (.v 1) (.v 2) (.v 3) (.x 0) 0)) = false
    ∧ WellFormed (.vshl (fmt (vt .fp32) (.v 1) (.v 2) (.v 3) (.x 0) 0)) = false
    ∧ WellFormed (.vcmp (fmt (vt .fp32) (.m 1) (.v 2) (.v 3) (.x 0) 4)) = false
    ∧ WellFormed (.vsel (fmt ⟨.int32, 0, true, .rne, false⟩ (.v 1) (.v 2) (.v 3) (.x 0) 0)) = false
    ∧ WellFormed (.vext (fmt ⟨.int32, 1, false, .rne, false⟩ (.x 1) (.v 2) (.x 3) (.x 0) 0)) = false
    ∧ WellFormed (.viota (fmt (vt .fp32) (.v 1) (.x 0) (.x 0) (.x 0) 0)) = false
    ∧ WellFormed (.vsortkv (fmt (vt .int64) (.v 4) (.v 2) (.v 3) (.x 0) 0)) = false
    ∧ WellFormed (.mand (fmt (vt .int16) (.m 1) (.m 2) (.m 3) (.x 0) 0)) = false
    ∧ WellFormed (.acz (fmt ⟨2, false⟩ (.x 0) (.x 0) (.x 0) (.x 0) 0)) = false
    ∧ WellFormed (.topkc (fmt ⟨false, false⟩ (.x 9) (.x 10) (.x 11) (.x 12) 0x802040)) = false
    ∧ WellFormed (.namo (fmt ⟨.fadd, true, 0⟩ (.x 0) (.x 2) (.x 3) (.x 4) 0)) = false
    ∧ WellFormed (.namo (fmt ⟨.add, true, 1⟩ (.x 0) (.x 2) (.x 3) (.x 4) 0)) = false
    ∧ WellFormed (.bkmac (fmt ⟨63, 1⟩ (.x 22) (.x 10) (.x 0) (.x 0) 0)) = false
    ∧ WellFormed (.gqr (fmt true (.x 10) .imm (.x 6) (.x 7) 2)) = false := by decide

/-! ## Single steps, with results from the spec -/

/-- The step ends with a result on its way to a register. -/
def lands (r : Host.Outcome State Fault Refusal) (d : Reg) (v : Nat) (b : Bool) : Bool :=
  goes r fun t => t.th.landing.any fun l => l.dest == d && l.value.toNat == v && l.b == b
/-- x2 and x3 given, for the form of `rr`. -/
def two (a b : Word) : State := putX (putX s0 2 a) 3 b
def vec (s : State) (n : Fin 32) (lanes : List Nat) (w : Nat) : State :=
  upd s fun t => t.writeV n ⟨BitVec.ofNat 256 (lanes.foldr (fun a r => a + 2 ^ w * r) 0), false, .present⟩

/-- R134: wrap, and the signed and unsigned bounds. -/
theorem test_add_wraps : lands (exec (.add (rr ⟨false, .wrap⟩)) (two 0xFFFFFFFFFFFFFFFF 2)) (.x 1) 1 false = true := by decide +kernel
theorem test_add_saturates : lands (exec (.add (rr ⟨true, .sats⟩)) (two 0x7FFFFFFF 1)) (.x 1) 0x7FFFFFFF false = true := by decide +kernel
theorem test_sub_floors_at_zero : lands (exec (.sub (rr ⟨false, .satu⟩)) (two 1 2)) (.x 1) 0 false = true := by decide +kernel
/-- R134: x / 0 is all ones, x mod 0 is x, and the quotient that overflows wraps. -/
theorem test_div_by_zero : lands (exec (.div (rr ⟨false, .wrap⟩)) (two 7 0)) (.x 1) (2 ^ 64 - 1) false = true := by decide +kernel
theorem test_div_overflow : lands (exec (.div (rr ⟨false, .wrap⟩)) (two (1 <<< 63) (-1))) (.x 1) (2 ^ 63) false = true := by decide +kernel
theorem test_rem_sign : lands (exec (.rem (rr ⟨false, .wrap⟩)) (two (-7) 2)) (.x 1) (2 ^ 64 - 1) false = true := by decide +kernel
theorem test_mulh : lands (exec (.mulh (rr ⟨false, .wrap⟩)) (two (-1) 1)) (.x 1) (2 ^ 64 - 1) false = true := by decide +kernel
theorem test_mulhu : lands (exec (.mulhu (rr ⟨false, .wrap⟩)) (two (-1) (-1))) (.x 1) (2 ^ 64 - 2) false = true := by decide +kernel
theorem test_sra_word : lands (exec (.sra (rr ⟨true, .wrap⟩)) (two 0x80000000 33)) (.x 1) 0xFFFFFFFFC0000000 false = true := by decide +kernel
/-- R136: a field of 8 bits at position 4, with its sign. -/
theorem test_bfx : lands (exec (.bfx (rr true)) (two 0xFF5 (4 + 8 * 256))) (.x 1) (2 ^ 64 - 1) false = true := by decide +kernel
theorem test_lea : lands (exec (.lea (fmt ⟨false, 2⟩ (.x 1) (.x 2) (.x 3) (.x 0) 16)) (two 100 3)) (.x 1) 128 false = true := by decide +kernel
/-- R132: a bounded source gives a bounded result. -/
theorem test_add_bounded : lands (exec (.add (rr ⟨false, .wrap⟩)) (putCell (two 1 2) 3 2 true .present)) (.x 1) 3 true = true := by decide +kernel
/-- R133: CMP.lt of a signed pair. -/
theorem test_cmp_signed : goes (exec (.cmp (fmt ⟨false, .lt⟩ (.p 1) (.x 2) (.x 3) (.x 0) 0)) (two (-1) 0))
    (fun t => t.th.landing.any fun l => l.dest == .p 1 && l.value == 1) = true := by decide +kernel
/-- R29: an instruction predicated off changes nothing. -/
theorem test_predicated_off : goes (exec (.add ⟨never, .x 1, .x 2, .x 3, .x 0, ⟨false, .wrap⟩, 0⟩) (two 1 2))
    (fun t => decide (t = two 1 2)) = true := by decide +kernel

/-- R161 and the example of 11: 2048 + 15 ones in FP16, by the tree, is 2062, with NX. -/
theorem test_vredadd_tree : goes (exec (.vredadd (fmt (vt .fp16) (.x 5) (.v 8) .none (.x 0) 0))
    (vec s0 8 (0x6800 :: List.replicate 15 0x3C00) 16))
    (fun t => t.th.landing.any (fun l => l.dest == .x 5 && l.value == 0x6807) && t.th.fpflags == 1) = true := by decide +kernel
/-- The same with lane 0 off: 15, exact. -/
theorem test_vredadd_masked : goes (exec (.vredadd (fmt ⟨.fp16, 1, false, .rne, false⟩ (.x 5) (.v 8) .none (.x 0) 0))
    (upd (vec s0 8 (0x6800 :: List.replicate 15 0x3C00) 16) fun t => t.writeM 1 0xFFFFFFFC))
    (fun t => t.th.landing.any (fun l => l.dest == .x 5 && l.value == 0x4B80) && t.th.fpflags == 0) = true := by decide +kernel
/-- The quantisation of 11: 24, -5.25, 1000 and 0.01 under a scale of -3, into bytes 8-11. -/
theorem test_vcvt_mk8 : goes (exec (.vcvt (fmt (vt .mk8) (.v 5) (.v 6) (.x 0) (.x 0) 0x1FD0B))
    (vec s0 6 [0x41C00000, 0xC0A80000, 0x447A0000, 0x3C23D70A] 32))
    (fun t => t.th.landing.any fun l => l.dest == .v 5 && (l.value >>> 64).setWidth 24 == 0x7AB558#24) = true := by decide +kernel
/-- R64 and the example of 04: the first three draws from LfsrLoad(0). -/
theorem test_lfsr : (lfsrDraw (lfsrLoad 0)).1 = 1 ∧ (lfsrDraw (lfsrDraw (lfsrLoad 0)).2).1 = 3
    ∧ (lfsrDraw (lfsrDraw (lfsrDraw (lfsrLoad 0)).2).2).1 = 2 := by decide +kernel
/-- R152, R348: TRAP 7 saves the resume queue, enters the handler and leaves cause and value. -/
theorem test_trap : goes (exec (.trap (fmt () (.x 0) (.x 0) (.x 0) (.x 0) 7)) s0)
    (fun t => t.th.hm && t.th.tval == 7 && t.th.tcause.toNat % 64 == 8) = true := by decide +kernel

/-! ## Witnesses: further clauses -/

/-- A run that stands sorted, and a thread whose last write in flight is the fifth. -/
theorem witness_MoreOfTheCore :
    [entry5 .set 5, { entry5 .set 5 with key := 0x8001 }].Pairwise (fun e f => e.key ≤ f.key)
    ∧ s0.cc.l0.Pairwise (fun e f => e.key ≤ f.key) ∧ s0.th.verdict = none
    ∧ (let s := upd (handler s0) fun t =>
        { t with group := some ⟨.eret one, none, [], false, [], [], none, some [⟨.x 5, 7, false, 2⟩], false⟩ };
      s.th.hm = true ∧ s.iss.held = 0 ∧ s.th.reload = some [⟨.x 5, 7, false, 2⟩] ∧ (s.core s.cur.core).dbg.dwp = [])
    ∧ ((handler s0).th.reload = none ∧ (handler s0).predOn always = true ∧ (handler s0).th.hm = true) := by
  and_intros <;> decide +kernel
theorem witness_MoreOfTheCsrs :
    (s0.Issues (csr 0x00B) ∧ (csr 0x00B).imm.toNat % 4096 = 0x00B ∧ (csr 0x060).imm.toNat % 4096 = 0x060 + 0 ∧ (csr 0x06B).imm.toNat % 4096 = 0x060 + 11
      ∧ (csr 0x050).imm.toNat % 4096 = 0x050)
    ∧ ((handler s0).Issues (csr 0x00B) ∧ (handler s0).bitA (csr 0x00B) = false ∧ (handler s0).Issues (csr 0x060))
    ∧ (unassigned 0x00D ∧ unassigned 0x011 ∧ unassigned 0x01F ∧ unassigned 0x02F ∧ unassigned 0x03F ∧ unassigned 0x04F ∧ unassigned 0x05F
      ∧ ¬ unassigned 0x00C ∧ ¬ unassigned 0x010 ∧ ¬ unassigned 0x050 ∧ ¬ unassigned 0x060) := by
  simp only [issues_iff, unassigned]; and_intros <;> decide +kernel
/-- A bounded word goes to a BANK page, whose controller judges it. -/
def doubtful : State := putCell { onBank with memcfg := 1 } 7 1 true .present
theorem witness_MoreOfGlobalAccess :
    (doubtful.Issues (mem g32 0) ∧ doubtful.bitA (mem g32 0) = false ∧ doubtful.bitB (mem g32 0) = false
      ∧ doubtful.bitC (mem g32 0) = true ∧ doubtful.th.verdict = none)
    ∧ Fits doubtful g32 .store 1 0x10000 bankLeaf ∧ eaOf doubtful (mem g32 0) = 0x10000 := by
  simp only [issues_iff]
  exact ⟨by decide +kernel, ⟨by decide, rfl, rfl, fun h => absurd rfl h, fun h => absurd rfl h, fun h => absurd rfl h, fun h => absurd rfl h⟩,
    by decide +kernel⟩

/-- A release whose moves are complete, with a device to tell; another of its object is before it. -/
def telling (r : RelOp) : State :=
  (withOp (.rel r)).setSync 0 ⟨true, .domain, 0, [(0x20000, 4, some 3)], 5⟩
def beforeIt (s : State) (r : RelOp) (id : Nat) : State := { s with ops := ⟨id, 0, false, 0, none, false, 0, .rel r⟩ :: s.ops }
theorem witness_MoreOfReleases :
    (let s := telling (relOp .moves []);
      s.op 1 = some ⟨1, 0, false, 0, some (.x 1), false, 0, .rel (relOp .moves [])⟩ ∧ s.fenceDone (relOp .moves []).wait = true
        ∧ s.flagDevices (relOp .moves []) ≠ [])
    ∧ (withOp (.rel (relOp .moves []))).flagDevices (relOp .moves []) = []
    ∧ (let r := relOp .acks []
      let s := beforeIt (withOp (.rel r)) (relOp .flags []) 0;
      s.op 1 = some ⟨1, 0, false, 0, some (.x 1), false, 0, .rel r⟩ ∧ r.stage = .acks ∧ s.fenceDone r.wait = true
        ∧ s.relEarlier ⟨1, 0, false, 0, some (.x 1), false, 0, .rel r⟩ r = true)
    ∧ (let r := { relOp .flags [] with moved := 9 }
      let s := beforeIt (telling r) { relOp .flags [] with moved := 8 } 2;
      s.op 1 = some ⟨1, 0, false, 0, some (.x 1), false, 0, .rel r⟩ ∧ r.flags = [] ∧ s.relAhead r = true ∧ (telling r).relAhead r = false) := by
  and_intros <;> decide +kernel
/-- Arrivals of several kinds at a barrier whose phase is open in some way. -/
def arrives (a : Arrival) (b : Barrier) : State :=
  (upd (tasked s0) fun t => { t with wait := .arrive noFence a, verdict := some .waiting }).setBarrier 7 b
def sums (p : Word) : Arrival := ⟨0, 7, some (.fsum, 0), p, .x 5⟩
def openFor (kind : PhaseKind) (arrived : Nat) : Barrier := { Barrier.initial with count := 2, arrived := arrived, kind := kind }
theorem witness_MoreOfBarriers :
    -- a payload that does not convert, and one that does; a phase of another kind; the last arrival of a phase
    (toFX 128 (0 : BitVec 8).toInt (fp64.decode (sums 0x7FF0000000000000).payload.toNat) = none
      ∧ toFX 128 (0 : BitVec 8).toInt (fp64.decode (sums 0).payload.toNat) ≠ none)
    ∧ (let s := arrives (sums 0) (openFor .plain 1);
      s.fenceDone noFence = true ∧ (s.thread cur0).wait = .arrive noFence (sums 0) ∧ (s.thread cur0).verdict = some .waiting
        ∧ s.barrierOf cur0 (BitVec.ofNat 64 0) = some (7, 2) ∧ phaseClash (s.barrier 7).kind (sums 0).reduce = true)
    ∧ (let s := arrives (sums 0) (openFor (.reduce .fsum 0) 1);
      s.barrierOf cur0 (BitVec.ofNat 64 0) = some (7, 2) ∧ phaseClash (s.barrier 7).kind (sums 0).reduce = false
        ∧ 2 ≤ s.arrivals 7 (sums 0).id + 1 ∧ (sums 0).id < 512 ∧ (sums 0).dest = .x 5
        ∧ s.arrivals 7 0 + 1 = 2 ∧ s.ops = [] ∧ combineAll .fsum 0 ((s.barrier 7).payloads ++ [0] ++ (s.barrier 7).reported) = some 0)
    ∧ (let s := arrives (sums 0) (openFor .empty 0); phaseClash (s.barrier 7).kind (sums 0).reduce = false ∧ s.arrivals 7 0 + 1 < 2) := by
  and_intros <;> decide +kernel
/-- Domain barrier 512 has a count, and its object on this device some arrivals of its own. -/
def domain (dev : BitVec 64) (count : BitVec 32) (arrived : Nat) (kind : PhaseKind) : State :=
  ({ s0 with domid := dev, dbarcnt := [(0, count)] }).setBarrier (8192 + 512) (openFor kind arrived)
theorem witness_DomainReports :
    (let s := domain 0x200 0 0 .empty; SMap.get (0 : BitVec 32) s.dbarcnt (512 - 512) = 0 ∧ phaseClash (s.barrier (8192 + 512)).kind none = false)
    ∧ (let s := domain 0x200 3 1 .plain;
      s.dev = 0 ∧ phaseClash (s.barrier (8192 + 512)).kind none = false ∧ SMap.get 0 s.domReports 512 = 0
        ∧ (s.barrier (8192 + 512)).arrived + SMap.get 0 s.domReports 512 + 1 < 3
        ∧ (s.barrier (8192 + 512)).arrived + SMap.get 0 s.domReports 512 + 2 = 3
        ∧ phaseClash (s.barrier (8192 + 512)).kind (some (.add, 0)) = true)
    ∧ (domain 0x203 3 1 .plain).dev ≠ 0 := by
  and_intros <;> decide +kernel
theorem witness_MoreOfWork : (s0.core s0.cur.core).dbg.dwp = [] ∧ fencesAll s0 s0.nextOp ⟨[], 0, 0⟩
    ∧ ((handler addNext).predOn always = true ∧ (handler addNext).th.hm = true) := by
  unfold fencesAll; and_intros <;> decide +kernel

theorem witness_MoreOfTheMatrixUnit :
    (∀ p ∈ (toRead.quad 0).todo, (toRead.coreCtx p.1 mmaCmd.ctx).badIn [p.2] 8 = [])
    ∧ (let s := toRead.setCoreCtx 0 false { CoreCtx.initial with badWords := [1] };
      (s.quad 0).service = some mmaCmd ∧ (s.quad 0).stage = .reading ∧ (s.quad 0).todo = [(0, 8)]
        ∧ (s.coreCtx 0 mmaCmd.ctx).badIn [8] 8 = [1]) := by
  refine ⟨fun p _ => ?_, by and_intros <;> decide +kernel⟩
  rw [show toRead.coreCtx p.1 mmaCmd.ctx = CoreCtx.initial from rfl]
  rfl
/-- Two values from row 0; none, and 65; with one from row 511 the shape just fits. -/
theorem witness_MoreOfArrays :
    ((xb 2).imm.toNat % 1024 = 2 ∧ (xb 2).imm.toNat / 1024 % 512 = 0)
    ∧ ((xb 0).imm.toNat % 1024 = 0 ∧ (xb 0).imm.toNat / 1024 % 512 = 0 ∧ MaySend calm (xb 0))
    ∧ ((xb 65).imm.toNat % 1024 = 65 ∧ MaySend calm (xb 65))
    ∧ ((xb (511 * 1024 + 1)).imm.toNat / 1024 % 512 + (xb (511 * 1024 + 1)).imm.toNat % 1024 = 512)
    ∧ (fmt true (.x 1) (.x 2) (.x 3) (.x 4) 0).imm.toNat % 2 ^ 19 = 0 := by
  refine ⟨by decide, ⟨by decide, by decide, maySend_of ((issues_iff _ _).2 (by decide)) (by decide)⟩,
    ⟨by decide, maySend_of ((issues_iff _ _).2 (by decide)) (by decide)⟩, by decide, by decide⟩
theorem witness_MoreOfTheDevice :
    -- a retiring task has no store, and a record's block, and the target of a moved frame, are free
    ((allEnded (taskAt .placed header5 (some 9))).taskHas (taskAt .placed header5 (some 9)) OpKind.isStore = false)
    ∧ flawless (recording false 1) (laneAt 1 0) 64
    ∧ ({ s0 with lasting := [.frame 0] } : State).users (.frame 1) = []
    -- an event whose window of 600 s has ended, and one whose window has not
    ∧ ((0 : Nat) + (errorLimit (.frame 0)).2 < ({ s0 with cycle := 1 <<< 60 } : State).now ∧ s0.now ≤ 0 + (errorLimit (.frame 0)).2)
    -- two temperatures between which a die is hot, and one at which it trips
    ∧ (400 ≤ (439 : BitVec 16).toInt ∧ (439 : BitVec 16).toInt < 440 ∧ 440 ≤ (440 : BitVec 16).toInt) := by
  refine ⟨by decide +kernel, fun w h => absurd (show w ∈ ([] : List _) from h) List.not_mem_nil, by decide +kernel, by decide +kernel,
    by decide⟩
theorem witness_MoreOfLinks :
    (let s := { onLink with ops := [bankOp update0], nextOp := 2 };
      s.op 1 = some (bankOp update0) ∧ (bankOp update0).id = 1 ∧ (7 : Nat) ≠ 0 ∧ unlisted 7 = false ∧ unlisted 64 = true ∧ (s.port 0).up = true)
    ∧ (onLink.seen 1 2 = false ∧ onLink.interleaved bankLeaf.pa = false ∧ onLink.linear bankLeaf.pa = true
      ∧ onLink.pchOpen (onLink.pchOf bankLeaf.pa) = true ∧ bankLeaf.pa % regBytes (onLink.region 5) = 0
      ∧ tagPoison (onLink.blockTag bankLeaf.pa) = false)
    ∧ flawless onLink bankLeaf.pa (regBytes (onLink.region 5)) := by
  refine ⟨by decide +kernel, by decide +kernel, fun w h => absurd (show w ∈ ([] : List _) from h) List.not_mem_nil⟩
theorem witness_MoreOfTheSteward : (s0.hart 0).priv = 3 ∧ (0 : Nat) < 16 ∧ (15 : Nat) < 16 := by decide
/-- The other slot of a group traps: what its unit judges does not happen; and a steward core that hears an interrupt. -/
def doomedOne (s : State) : State := s.setThread cur0 { s.thread cur0 with group := some ⟨.nop, none, [], false, [], [], none, none, true⟩ }
def hearing : State := { s0 with interrupts := [1] }.setHart 2 { Hart.initial with csr := [(0x300, 8), (0x304, 0x800)] }
theorem witness_MoreOfDoomedGroups :
    (let s := doomedOne { owner with regionLock := some (5, 0x101, cur0) };
      (s.thread cur0).doomed = true ∧ (s.thread cur0).thresholdDue = false ∧ s.ownsRegion cur0 5 = true ∧ s.census 5 = false)
    ∧ (let s := doomedOne (arrives (sums 0) (openFor .empty 0));
      s.fenceDone noFence = true ∧ (s.thread cur0).wait = .arrive noFence (sums 0) ∧ (s.thread cur0).verdict = some .waiting
        ∧ s.barrierOf cur0 (BitVec.ofNat 64 0) = some (7, 2) ∧ phaseClash (s.barrier 7).kind (sums 0).reduce = false
        ∧ (s.thread cur0).doomed = true)
    ∧ (let s := doomedOne (waiting mmaCmd zeroTag);
      (s.quad 0).service = none ∧ s.nextMatrix 0 = some mmaCmd ∧ s.matrixCancelled mmaCmd = false ∧ mmaCmd.status = 0
        ∧ s.serviceFault mmaCmd = none ∧ mmaCmd.op = none ∧ (s.thread (MatrixCmd.owner mmaCmd)).doomed = true) := by
  and_intros <;> decide +kernel
theorem witness_MoreOfHarts :
    (hearing.interrupts ≠ [] ∧ (hearing.hart 2).hears 11 = true ∧ (hearing.hart 2).handsDown 11 = false)
    ∧ (s0.interrupts = [] ∧ ({ s0 with interrupts := [1] } : State).interrupts ≠ []
      ∧ (({ s0 with interrupts := [1] } : State).hart 2).hears 11 = false)
    ∧ ((⟨8, 5, 0, false, 2, none⟩ : HartLoad).size = 8 ∧ (0 : Nat) < 5 ∧ (5 : Nat) < 32) := by and_intros <;> decide +kernel
/-- A load of four bytes extends its sign, one into `f3` is boxed, and one into `x0` only goes on. -/
theorem test_hartLoad :
    SMap.get (0 : Word) ((s0.answerAt 2 0 ⟨4, 5, 0, true, 4, none⟩ (.data 0x80000000)).hart 2).x 5 = 0xFFFFFFFF80000000
    ∧ SMap.get (0 : Word) ((s0.answerAt 2 0 ⟨4, 35, 0, false, 4, none⟩ (.data 0x80000000)).hart 2).f 3 = 0xFFFFFFFF80000000
    ∧ ((s0.answerAt 2 0 ⟨4, 0, 0, false, 2, none⟩ (.data 7)).hart 2).x = [] ∧ ((s0.answerAt 2 0 ⟨4, 0, 0, false, 2, none⟩ (.data 7)).hart 2).pc = 2 := by
  decide +kernel
/-- An L1 that is full, so that an L0 merge moves all of it out first. -/
theorem witness_FullL1 :
    let s := (inL0 0).setCluster 0 { Cluster.initial with l1 := List.replicate 4096 (entry5 .set 5) };
    s.l1Cap 0 < ((s.cluster 0).l1.filter fun f => f.ctx == false || !s.split2 0).length
        + ((keysOf (s.coreCtx 0 false).l0).filter fun k => (s.l1Find 0 k false).isNone).length
      ∧ s.l1Find 0 0x8000 false = some (entry5 .set 5) := by and_intros <;> decide +kernel
theorem witness_PendingLink : ((s0.writeReg cur0 (.x 31) 0 false .pending).th.readX 31).st = .pending
    ∧ (s0.writeReg cur0 (.x 31) 0 false .pending).predOn always = true ∧ (s0.th.readX 31).st ≠ .pending
    ∧ (let c := { copyC false 0 (none) (some 2) [] 0 with entry := 0xFF };
      c.fn ≤ 1 ∧ c.status = some 2 ∧ ((copying c 1).op 1).map (·.kind) = some (.copy c)) := by and_intros <;> decide +kernel
/-- The RISC-V architecture's AMOMIN.W is signed and AMOMAXU.W is not. -/
theorem test_amo : amoResult .min 4 0xFFFFFFFF 1 = 0xFFFFFFFF ∧ amoResult .maxu 4 0xFFFFFFFF 1 = 0xFFFFFFFF
    ∧ amoResult .max 4 0xFFFFFFFF 1 = 1 := by decide +kernel
/-- R200: of three commands issued at one CYCLE the one of the lower core goes first, and one of a later CYCLE after them. -/
theorem test_arrayOrder :
    let c : Word → ArrayCmd := fun clk => ⟨0, 0, 0, 0, 0, 1, false, false, false, [], 0, [], none, clk⟩
    let o : Nat → Nat → Word → Op := fun id core clk => ⟨id, core, false, 0, none, false, 0, .array (c clk)⟩
    (({ s0 with ops := [o 1 3 5, o 2 0 5, o 3 2 5, o 4 1 6] } : State).arrayQueue 0).map (·.1.id) = [2, 3, 1, 4] := by decide +kernel
/-- R153: of the value of an x register's entry only bytes 0-7 come back. -/
theorem test_loadEntry : loadEntry (natToBytes 64 (2 ^ 200 + 7 + 3 * 2 ^ 256 + 2 ^ 264)) = some ⟨.x 3, 7, false, 1⟩ := by decide +kernel

end Sys2Proof.Tests
end

section
/-!
PROOF. Slots (02 R22, R28, R29, R112, R115): what a predicated-off instruction, one with an operand that is not there and one with a
faulted source do, whatever the instruction.
-/
namespace Sys2Proof.Machine
open Sys2Proof.Claims

/-! ## A slot whose sources are there, and one whose sources stop it -/

/-- A slot that reads its sources and goes on from them to a next state. -/
theorem slot_sources_ok {M : Type} {s t : State} {p : Pred} {o : Fmt M} {rest : Src × Src × Src → Except Stop State}
    (hp : s.predOn p = true) (h : s.Issues o)
    (ht : rest (s.read o.imm o.a, s.read o.imm o.b, s.read o.imm o.c) = .ok t) : s.slot p (s.sources o >>= rest) = .next t := by
  rw [sources_bind h, ht, slot_ok hp]

theorem slot_sources_error {M : Type} {s : State} {p : Pred} {o : Fmt M} {e : Stop} (h : s.sources o = .error e)
    (rest : Src × Src × Src → Except Stop State) : s.slot p (s.sources o >>= rest) = s.slot p (.error e) := by
  rw [h]; rfl
theorem slot_vecSources_error {s : State} {p : Pred} {o : Fmt VecMod} {e : Stop} (h : s.sources o = .error e) (old : Bool)
    (rest : VecIn → Except Stop State) : s.slot p (s.vecSources o old >>= rest) = s.slot p (.error e) := by
  have hv : s.vecSources o old = .error e := by rw [State.vecSources, h]; rfl
  rw [hv]; rfl

/-- An instruction of the families that read their sources first does nothing but stop as its sources do. The lane-wise vector
instructions read theirs through `vecSources`, which reads the three fields before the old vd. -/
theorem exec_of_sources_error {i : Instr} {o : Fmt Unit} (h : fieldsOf i = some o) (hr : readsFirst i = true) {s : State}
    {e : Stop} (he : s.sources o = .error e) : exec i s = s.slot o.pred (.error e) := by
  cases i
  all_goals cases hr -- the instructions of other families, and the events
  all_goals cases h
  case vredadd o =>
    change execVredadd o s = _
    unfold execVredadd
    dsimp only
    split <;> exact slot_sources_error (o := o) he _
  case vadd | vsub | vmul | vfma | vfms | vmin | vmax | vabs | vneg | vdiv | vsqrt | vand | vor | vxor | vshl | vshr | vsra
      | vcvt | vsel | vslide | viota => exact slot_vecSources_error he _ _
  all_goals exact slot_sources_error he _

/-- Where nothing is pending and the destination is free, the sources stop a slot by the first fault among them. -/
theorem sources_fault {M : Type} {s : State} {o : Fmt M} {cause : Nat} {tval : Word}
    (ha : (s.read o.imm o.a).st ≠ .pending) (hb : (s.read o.imm o.b).st ≠ .pending) (hc : (s.read o.imm o.c).st ≠ .pending)
    (hd : s.destBusy o.d [o.a, o.b, o.c] = false)
    (hf : firstFault [s.read o.imm o.a, s.read o.imm o.b, s.read o.imm o.c] = some (cause, tval)) :
    s.sources o = .error (.trap cause tval) := by
  simp [State.sources, ha, hb, hc, hd, hf]

/-! ## The three statements -/

/-- R29: every instruction but the conditional branches is one slot; TRAP and BRK, which keep their PC, test its predicate
themselves. -/
theorem predicatedOffChangesNothing : PredicatedOffChangesNothing := by
  intro i o s h hb hp
  cases i
  all_goals cases h -- the events, which have no operand fields
  all_goals cases hb
  case trap o | brk o => exact if_neg (Bool.eq_false_iff.mp hp)
  case br | yield | wfi | ftest | trig | fencei => exact slot_off hp (.ok _)
  case vredadd o =>
    change execVredadd o s = _
    unfold execVredadd
    dsimp only
    split <;> exact slot_off (p := o.pred) hp _
  all_goals exact slot_off hp _

/-- A group that parks for nothing in particular changes only its thread's wait. -/
theorem park_none_changes (s : State) :
    (s.park .none).iss.status = .parked ∧ (s.park .none).th = { s.th with wait := .none }
      ∧ s.park .none = { s with threads := (s.park .none).threads, iss := (s.park .none).iss } ∧ SameOthers s (s.park .none) := by
  refine ⟨rfl, th_setTh s _, rfl, fun u hu => ?_⟩
  exact (thread_setThread s s.cur u _).trans (if_neg hu)

theorem pendingOperandParks : PendingOperandParks := by
  intro i o s h hr hp hpend
  exact ⟨_, (exec_of_sources_error h hr (sources_park hpend)).trans (slot_park hp _), park_none_changes s⟩

theorem faultedSourceTraps : FaultedSourceTraps := by
  intro i o s cause tval h hr hp ha hb hc hd hf
  have hfirst : firstFault [s.read o.imm o.a, s.read o.imm o.b, s.read o.imm o.c] = some (cause, tval) := by
    obtain hf | ⟨ha, hf⟩ | ⟨ha, hb, hf⟩ := hf <;> simp [firstFault, *]
  exact (exec_of_sources_error h hr (sources_fault ha hb hc hd hfirst)).trans (slot_trap hp cause tval)

/-- Settles O1: a slot that is predicated off is its state, and one of the families that read their sources first stops as its
sources do. -/
theorem slotReadiness : Obligations.SlotReadiness :=
  ⟨predicatedOffChangesNothing, pendingOperandParks, faultedSourceTraps⟩

end Sys2Proof.Machine
end

section
/-!
PROOF. Encoding and then decoding (02 R25, R32): the round trip of every instruction, from that of each constructor.
-/
namespace Sys2Proof

/-- R25, R32: the word of a well-formed instruction decodes to that instruction; an event has no word. -/
theorem decodeWord_encodeWord (i : Instr) : Laws.RoundTrip.Statement i := by
  cases i with
  | nop => exact Laws.RoundTrip.nop
  | movi p d imm => exact Laws.RoundTrip.movi p d imm
  | add o => exact Laws.RoundTrip.add o
  | sub o => exact Laws.RoundTrip.sub o
  | mul o => exact Laws.RoundTrip.mul o
  | mulh o => exact Laws.RoundTrip.mulh o
  | mulhu o => exact Laws.RoundTrip.mulhu o
  | div o => exact Laws.RoundTrip.div o
  | divu o => exact Laws.RoundTrip.divu o
  | rem o => exact Laws.RoundTrip.rem o
  | remu o => exact Laws.RoundTrip.remu o
  | and o => exact Laws.RoundTrip.and o
  | or o => exact Laws.RoundTrip.or o
  | xor o => exact Laws.RoundTrip.xor o
  | shl o => exact Laws.RoundTrip.shl o
  | shr o => exact Laws.RoundTrip.shr o
  | sra o => exact Laws.RoundTrip.sra o
  | min o => exact Laws.RoundTrip.min o
  | max o => exact Laws.RoundTrip.max o
  | minu o => exact Laws.RoundTrip.minu o
  | maxu o => exact Laws.RoundTrip.maxu o
  | clz o => exact Laws.RoundTrip.clz o
  | ctz o => exact Laws.RoundTrip.ctz o
  | popc o => exact Laws.RoundTrip.popc o
  | bfx o => exact Laws.RoundTrip.bfx o
  | bfi o => exact Laws.RoundTrip.bfi o
  | lea o => exact Laws.RoundTrip.lea o
  | sel o => exact Laws.RoundTrip.sel o
  | cmp o => exact Laws.RoundTrip.cmp o
  | pand o => exact Laws.RoundTrip.pand o
  | por o => exact Laws.RoundTrip.por o
  | pxor o => exact Laws.RoundTrip.pxor o
  | pnot o => exact Laws.RoundTrip.pnot o
  | pmov o => exact Laws.RoundTrip.pmov o
  | pmovTox o => exact Laws.RoundTrip.pmovTox o
  | pmovFromx o => exact Laws.RoundTrip.pmovFromx o
  | br o => exact Laws.RoundTrip.br o
  | brc o => exact Laws.RoundTrip.brc o
  | brca o => exact Laws.RoundTrip.brca o
  | brct o => exact Laws.RoundTrip.brct o
  | jmp o => exact Laws.RoundTrip.jmp o
  | call o => exact Laws.RoundTrip.call o
  | callIndirect o => exact Laws.RoundTrip.callIndirect o
  | eret o => exact Laws.RoundTrip.eret o
  | yield o => exact Laws.RoundTrip.yield o
  | waitt o => exact Laws.RoundTrip.waitt o
  | wfi o => exact Laws.RoundTrip.wfi o
  | lds o => exact Laws.RoundTrip.lds o
  | sts o => exact Laws.RoundTrip.sts o
  | ldsv o => exact Laws.RoundTrip.ldsv o
  | stsv o => exact Laws.RoundTrip.stsv o
  | vgaths o => exact Laws.RoundTrip.vgaths o
  | vscats o => exact Laws.RoundTrip.vscats o
  | ldt o => exact Laws.RoundTrip.ldt o
  | stt o => exact Laws.RoundTrip.stt o
  | samo o => exact Laws.RoundTrip.samo o
  | samon o => exact Laws.RoundTrip.samon o
  | ldg o => exact Laws.RoundTrip.ldg o
  | ldgv o => exact Laws.RoundTrip.ldgv o
  | ldgx o => exact Laws.RoundTrip.ldgx o
  | stg o => exact Laws.RoundTrip.stg o
  | stgv o => exact Laws.RoundTrip.stgv o
  | stgx o => exact Laws.RoundTrip.stgx o
  | cmb o => exact Laws.RoundTrip.cmb o
  | cmbv o => exact Laws.RoundTrip.cmbv o
  | cmbx o => exact Laws.RoundTrip.cmbx o
  | mdrain o => exact Laws.RoundTrip.mdrain o
  | mdrainRegion o => exact Laws.RoundTrip.mdrainRegion o
  | mresolve o => exact Laws.RoundTrip.mresolve o
  | rgset o => exact Laws.RoundTrip.rgset o
  | rgget o => exact Laws.RoundTrip.rgget o
  | bind o => exact Laws.RoundTrip.bind o
  | acq o => exact Laws.RoundTrip.acq o
  | rel o => exact Laws.RoundTrip.rel o
  | fence o => exact Laws.RoundTrip.fence o
  | bfence o => exact Laws.RoundTrip.bfence o
  | bar o => exact Laws.RoundTrip.bar o
  | bara o => exact Laws.RoundTrip.bara o
  | barw o => exact Laws.RoundTrip.barw o
  | barr o => exact Laws.RoundTrip.barr o
  | ftest o => exact Laws.RoundTrip.ftest o
  | fcancel o => exact Laws.RoundTrip.fcancel o
  | fwait o => exact Laws.RoundTrip.fwait o
  | fmovc o => exact Laws.RoundTrip.fmovc o
  | send o => exact Laws.RoundTrip.send o
  | recv o => exact Laws.RoundTrip.recv o
  | dqpush o => exact Laws.RoundTrip.dqpush o
  | dqpop o => exact Laws.RoundTrip.dqpop o
  | dqsplit o => exact Laws.RoundTrip.dqsplit o
  | dqsteal o => exact Laws.RoundTrip.dqsteal o
  | widf o => exact Laws.RoundTrip.widf o
  | lvlrect o => exact Laws.RoundTrip.lvlrect o
  | launch o => exact Laws.RoundTrip.launch o
  | trig o => exact Laws.RoundTrip.trig o
  | end_ o => exact Laws.RoundTrip.end_ o
  | trap o => exact Laws.RoundTrip.trap o
  | brk o => exact Laws.RoundTrip.brk o
  | csrr o => exact Laws.RoundTrip.csrr o
  | csrw o => exact Laws.RoundTrip.csrw o
  | csrx o => exact Laws.RoundTrip.csrx o
  | fencei o => exact Laws.RoundTrip.fencei o
  | vadd o => exact Laws.RoundTrip.vadd o
  | vsub o => exact Laws.RoundTrip.vsub o
  | vmul o => exact Laws.RoundTrip.vmul o
  | vfma o => exact Laws.RoundTrip.vfma o
  | vfms o => exact Laws.RoundTrip.vfms o
  | vmin o => exact Laws.RoundTrip.vmin o
  | vmax o => exact Laws.RoundTrip.vmax o
  | vabs o => exact Laws.RoundTrip.vabs o
  | vneg o => exact Laws.RoundTrip.vneg o
  | vdiv o => exact Laws.RoundTrip.vdiv o
  | vsqrt o => exact Laws.RoundTrip.vsqrt o
  | vand o => exact Laws.RoundTrip.vand o
  | vor o => exact Laws.RoundTrip.vor o
  | vxor o => exact Laws.RoundTrip.vxor o
  | vshl o => exact Laws.RoundTrip.vshl o
  | vshr o => exact Laws.RoundTrip.vshr o
  | vsra o => exact Laws.RoundTrip.vsra o
  | vcvt o => exact Laws.RoundTrip.vcvt o
  | vcmp o => exact Laws.RoundTrip.vcmp o
  | vsel o => exact Laws.RoundTrip.vsel o
  | vbcast o => exact Laws.RoundTrip.vbcast o
  | vext o => exact Laws.RoundTrip.vext o
  | vins o => exact Laws.RoundTrip.vins o
  | vperm o => exact Laws.RoundTrip.vperm o
  | vslide o => exact Laws.RoundTrip.vslide o
  | viota o => exact Laws.RoundTrip.viota o
  | vsortkv o => exact Laws.RoundTrip.vsortkv o
  | vredadd o => exact Laws.RoundTrip.vredadd o
  | vredmin o => exact Laws.RoundTrip.vredmin o
  | vredmax o => exact Laws.RoundTrip.vredmax o
  | vpopm o => exact Laws.RoundTrip.vpopm o
  | mand o => exact Laws.RoundTrip.mand o
  | mor o => exact Laws.RoundTrip.mor o
  | mxor o => exact Laws.RoundTrip.mxor o
  | mnot o => exact Laws.RoundTrip.mnot o
  | mfirst o => exact Laws.RoundTrip.mfirst o
  | mma o => exact Laws.RoundTrip.mma o
  | mmv o => exact Laws.RoundTrip.mmv o
  | acz o => exact Laws.RoundTrip.acz o
  | acld o => exact Laws.RoundTrip.acld o
  | acst o => exact Laws.RoundTrip.acst o
  | mxseed o => exact Laws.RoundTrip.mxseed o
  | mxstat o => exact Laws.RoundTrip.mxstat o
  | mxthr o => exact Laws.RoundTrip.mxthr o
  | topkc o => exact Laws.RoundTrip.topkc o
  | xbmv o => exact Laws.RoundTrip.xbmv o
  | xbprog o => exact Laws.RoundTrip.xbprog o
  | xbver o => exact Laws.RoundTrip.xbver o
  | xbcal o => exact Laws.RoundTrip.xbcal o
  | xbrd o => exact Laws.RoundTrip.xbrd o
  | xbwr o => exact Laws.RoundTrip.xbwr o
  | acpt o => exact Laws.RoundTrip.acpt o
  | btest o => exact Laws.RoundTrip.btest o
  | namo o => exact Laws.RoundTrip.namo o
  | namov o => exact Laws.RoundTrip.namov o
  | namor o => exact Laws.RoundTrip.namor o
  | bkmodeOn o => exact Laws.RoundTrip.bkmodeOn o
  | bkmodeOff o => exact Laws.RoundTrip.bkmodeOff o
  | bkldr o => exact Laws.RoundTrip.bkldr o
  | bkmac o => exact Laws.RoundTrip.bkmac o
  | bkrd o => exact Laws.RoundTrip.bkrd o
  | cpyIn o => exact Laws.RoundTrip.cpyIn o
  | cpyOut o => exact Laws.RoundTrip.cpyOut o
  | cpy2In o => exact Laws.RoundTrip.cpy2In o
  | cpy2Out o => exact Laws.RoundTrip.cpy2Out o
  | cpyg o => exact Laws.RoundTrip.cpyg o
  | cpys o => exact Laws.RoundTrip.cpys o
  | cpyr o => exact Laws.RoundTrip.cpyr o
  | gqw o => exact Laws.RoundTrip.gqw o
  | gqr o => exact Laws.RoundTrip.gqr o
  | oupd o => exact Laws.RoundTrip.oupd o
  | _ =>
    intro w _ h
    simp only [encodeWord, reduceCtorEq] at h

/-! ## The bits above the word -/

theorem bits_mod_word {lo n : Nat} (h : lo + n ≤ 96) (w : Nat) : bits (w % 256 ^ 12) lo n = bits w lo n := by
  have hword : 256 ^ 12 = 2 ^ lo * 2 ^ (96 - lo) := by rw [← Nat.pow_add, Nat.add_sub_cancel' (by omega)]; rfl
  rw [bits, bits, hword, Nat.mod_mul_right_div_self, Nat.mod_mod_of_dvd _ (Nat.pow_dvd_pow 2 (by omega))]

/-- A format-G row and a MOVI are read from the 96 bits of the word alone. -/
theorem decodeG_mod_word (w : Nat) : decodeG (w % 256 ^ 12) = decodeG w := by
  simp (disch := decide) only [decodeG, readG, bits_mod_word]
theorem decodeMovi_mod_word (w : Nat) : decodeMovi (w % 256 ^ 12) = decodeMovi w := by
  simp (disch := decide) only [decodeMovi, bits_mod_word]

/-- OPC 0x00 has the one word 0 (R33): no other number whose opcode is 0 decodes. -/
theorem decodeG_of_opc_zero {w : Nat} (h : bits w 88 8 = 0) : decodeG w = none := by
  simp [decodeG, h, decodeRow]

/-- A number that decodes does so by its low 96 bits. -/
theorem decodeWord_mod_word {w : Nat} {i : Instr} (h : decodeWord w = some i) : decodeWord (w % 256 ^ 12) = some i := by
  by_cases hw : w % 256 ^ 12 = 0
  · have hopc : bits w 88 8 = 0 := by rw [← bits_mod_word (by decide), hw]; rfl
    by_cases h0 : w = 0
    · rw [h0] at h ⊢; exact h
    · simp [decodeWord, h0, hopc, decodeG_of_opc_zero] at h
  · have h0 : w ≠ 0 := fun h0 => hw (by rw [h0, Nat.zero_mod])
    rw [decodeWord, if_neg h0] at h
    rw [decodeWord, if_neg hw, bits_mod_word (by decide), decodeMovi_mod_word, decodeG_mod_word]
    exact h

/-- Settles O10: the twelve bytes are read back as the word's low 96 bits, and those decode as the word does. -/
theorem encodeThenDecode : Obligations.EncodeThenDecode := by
  intro i bs hwf h
  obtain ⟨w, hw, rfl⟩ := Option.map_eq_some_iff.mp h
  rw [decodeBytes, length_natToBytes, if_pos rfl, bytesToNat_natToBytes]
  exact decodeWord_mod_word (decodeWord_encodeWord i w hwf hw)

end Sys2Proof
end

section
/-!
PROOF. Decoding and then encoding (02 R25, R32, R35): what each reader of the decoder accepted, its writer writes again, field by
field, then row by row of the map of R32, then for the whole word.
-/
namespace Sys2Proof

/-! ## The codes of the fields -/

theorem bits_one_eq_toNat (w i : Nat) : (bits w i 1 == 1).toNat = bits w i 1 := by
  have h : bits w i 1 < 2 := Nat.mod_lt _ (by decide)
  generalize bits w i 1 = n at *
  interval_cases n <;> rfl

theorem Reg.code_of_ofCode {b : Nat} {r : Reg} (h : Reg.ofCode b = some r) : r.code = b := by
  unfold Reg.ofCode at h
  dsimp only at h
  split at h
  case h_1 | h_2 | h_7 =>
    cases h
    simp only [Reg.code, Fin.val_ofNat]
    omega
  case h_3 | h_4 | h_5 | h_6 =>
    split at h <;> cases h
    simp only [Reg.code, Fin.val_ofNat]
    omega
  case h_8 =>
    split at h
    · cases h; simp only [Reg.code]; omega
    · split at h <;> cases h
      simp only [Reg.code]; omega
  case h_9 => cases h

theorem Pred.code_ofCode_bits (w lo : Nat) : (Pred.ofCode (bits w lo 4)).code = bits w lo 4 := by
  have h : bits w lo 4 < 16 := Nat.mod_lt _ (by decide)
  generalize bits w lo 4 = k at *
  interval_cases k <;> rfl

theorem Rnd.code_of_ofCode {k : Nat} {r : Rnd} (h : Rnd.ofCode k = some r) : r.code = k := by
  unfold Rnd.ofCode at h
  split at h <;> cases h <;> rfl
theorem Cond.code_of_ofCode {k : Nat} {c : Cond} (h : Cond.ofCode k = some c) : c.code = k := by
  unfold Cond.ofCode at h
  split at h <;> cases h <;> rfl
theorem Width.code_of_ofCode {k : Nat} {w : Width} (h : Width.ofCode k = some w) : w.code = k := by
  unfold Width.ofCode at h
  split at h <;> cases h <;> rfl
theorem Scope.code_of_ofCode {k : Nat} {s : Scope} (h : Scope.ofCode k = some s) : s.code = k := by
  unfold Scope.ofCode at h
  split at h <;> cases h <;> rfl
theorem Ov.code_of_ofCode {k : Nat} {o : Ov} (h : Ov.ofCode k = some o) : o.code = k := by
  unfold Ov.ofCode at h
  split at h <;> cases h <;> rfl
theorem SamoOp.code_of_ofCode {k : Nat} {o : SamoOp} (h : SamoOp.ofCode k = some o) : o.code = k := by
  unfold SamoOp.ofCode at h
  split at h <;> cases h <;> rfl
theorem StackOp.code_of_ofCode {k : Nat} {o : StackOp} (h : StackOp.ofCode k = some o) : o.code = k := by
  unfold StackOp.ofCode at h
  split at h <;> cases h <;> rfl
theorem Fc.code_of_ofCode {k : Nat} {c : Fc} (h : Fc.ofCode k = some c) : c.code = k := by
  unfold Fc.ofCode at h
  split at h <;> cases h <;> rfl
theorem BarrOp.code_of_ofCode {k : Nat} {o : BarrOp} (h : BarrOp.ofCode k = some o) : o.code = k := by
  unfold BarrOp.ofCode at h
  split at h <;> cases h <;> rfl
theorem ElType.code_of_ofCode {k : Nat} {t : ElType} (h : ElType.ofCode k = some t) : t.code = k := by
  unfold ElType.ofCode at h
  split at h <;> cases h <;> rfl

/-! ## The MOD layouts -/

/-- The writer of a layout writes again what its reader accepted of the 12 bits of MOD. -/
def WritesBack {M : Type} (dec : Nat → Option M) (enc : M → Nat) : Prop := ∀ k m, k < 4096 → dec k = some m → enc m = k

theorem decUnit_writesBack (fixed : Nat) : WritesBack (decUnit fixed) fun _ => fixed := by
  intro k m _ h
  rw [decUnit, Option.ite_none_right_eq_some] at h
  exact h.1.symm
theorem decBool_writesBack : WritesBack decBool encBool := by
  intro k m _ h
  rw [decBool, Option.ite_none_right_eq_some] at h
  obtain ⟨hk, h⟩ := h
  cases h
  interval_cases k <;> rfl
theorem decIntMod_writesBack : WritesBack decIntMod encIntMod := by
  intro k m _ h
  rw [decIntMod, Option.ite_none_right_eq_some, Option.map_eq_some_iff] at h
  obtain ⟨hk, ov, hov, rfl⟩ := h
  simp only [encIntMod, Ov.code_of_ofCode hov, bits_one_eq_toNat]
  simp only [bits]
  omega
theorem decLeaMod_writesBack : WritesBack decLeaMod encLeaMod := by
  intro k m _ h
  rw [decLeaMod, Option.ite_none_right_eq_some] at h
  obtain ⟨hk, h⟩ := h
  cases h
  simp only [encLeaMod, bits_one_eq_toNat, Fin.val_ofNat]
  simp only [bits]
  omega
theorem decCondMod_writesBack : WritesBack decCondMod encCondMod := by
  intro k m _ h
  rw [decCondMod, Option.ite_none_right_eq_some, Option.map_eq_some_iff] at h
  obtain ⟨hk, c, hc, rfl⟩ := h
  simp only [encCondMod, Cond.code_of_ofCode hc, bits_one_eq_toNat]
  simp only [bits]
  omega
theorem decSpadMod_writesBack : WritesBack decSpadMod encSpadMod := by
  intro k m _ h
  rw [decSpadMod, Option.ite_none_right_eq_some, Option.map_eq_some_iff] at h
  obtain ⟨⟨hk, hz⟩, w, hw, rfl⟩ := h
  simp only [encSpadMod, Width.code_of_ofCode hw, bits_one_eq_toNat, Fin.val_ofNat]
  simp only [bits] at hz ⊢
  omega
theorem decSamoMod_writesBack : WritesBack decSamoMod encSamoMod := by
  intro k m _ h
  rw [decSamoMod, Option.ite_none_right_eq_some, Option.bind_eq_some_iff] at h
  obtain ⟨hk, w, hw, h⟩ := h
  obtain ⟨op, hop, rfl⟩ := Option.map_eq_some_iff.mp h
  simp only [encSamoMod, Width.code_of_ofCode hw, SamoOp.code_of_ofCode hop]
  simp only [bits]
  omega
theorem decGlobMod_writesBack : WritesBack decGlobMod encGlobMod := by
  intro k m _ h
  rw [decGlobMod, Option.ite_none_right_eq_some, Option.map_eq_some_iff] at h
  obtain ⟨hk, fc, hfc, rfl⟩ := h
  simp only [encGlobMod, Fc.code_of_ofCode hfc, bits_one_eq_toNat, Fin.val_ofNat]
  simp only [bits]
  omega
theorem decScopeMod_writesBack : WritesBack decScopeMod encScopeMod := by
  intro k m _ h
  rw [decScopeMod, Option.ite_none_right_eq_some, Option.map_eq_some_iff] at h
  obtain ⟨_, s, hs, rfl⟩ := h
  exact Scope.code_of_ofCode hs
theorem decBarrMod_writesBack : WritesBack decBarrMod encBarrMod := by
  intro k m _ h
  rw [decBarrMod, Option.ite_none_right_eq_some, Option.map_eq_some_iff] at h
  obtain ⟨hk, op, hop, rfl⟩ := h
  simp only [encBarrMod, BarrOp.code_of_ofCode hop, BitVec.toNat_ofNat]
  simp only [bits]
  omega
theorem decSendMod_writesBack : WritesBack decSendMod encSendMod := by
  intro k m _ h
  rw [decSendMod, Option.ite_none_right_eq_some] at h
  obtain ⟨hk, h⟩ := h
  cases h
  exact Nat.mod_eq_of_lt hk
theorem decVecMod_writesBack : WritesBack decVecMod encVecMod := by
  intro k m hk h
  rw [decVecMod, Option.bind_eq_some_iff] at h
  obtain ⟨t, ht, h⟩ := h
  obtain ⟨r, hr, rfl⟩ := Option.map_eq_some_iff.mp h
  simp only [encVecMod, ElType.code_of_ofCode ht, Rnd.code_of_ofCode hr, bits_one_eq_toNat, Fin.val_ofNat]
  simp only [bits]
  omega
theorem decMatMod_writesBack : WritesBack decMatMod encMatMod := by
  intro k m _ h
  rw [decMatMod, Option.ite_none_right_eq_some] at h
  obtain ⟨hk, h⟩ := h
  cases h
  simp only [encMatMod, bits_one_eq_toNat, Fin.val_ofNat]
  simp only [bits]
  omega
theorem decClrMod_writesBack : WritesBack decClrMod encClrMod := by
  intro k m _ h
  unfold decClrMod at h
  split at h
  · cases h; subst k; rfl
  · obtain ⟨rfl, h⟩ := Option.ite_none_right_eq_some.mp h
    cases h; rfl
theorem decTopkMod_writesBack : WritesBack decTopkMod encTopkMod := by
  intro k m _ h
  rw [decTopkMod, Option.ite_none_right_eq_some] at h
  obtain ⟨hk, h⟩ := h
  cases h
  simp only [encTopkMod, bits_one_eq_toNat]
  simp only [bits]
  omega
theorem decStackMod_writesBack : WritesBack decStackMod encStackMod := by
  intro k m _ h
  rw [decStackMod, Option.ite_none_right_eq_some, Option.map_eq_some_iff] at h
  obtain ⟨hk, op, hop, rfl⟩ := h
  simp only [encStackMod, StackOp.code_of_ofCode hop, bits_one_eq_toNat, Fin.val_ofNat]
  simp only [bits]
  omega
theorem decBankMod_writesBack : WritesBack decBankMod encBankMod := by
  intro k m _ h
  rw [decBankMod, Option.ite_none_right_eq_some] at h
  obtain ⟨hk, h⟩ := h
  cases h
  simp only [encBankMod, BitVec.toNat_ofNat]
  simp only [bits]
  omega
theorem decSwzMod_writesBack (fixed : Nat) : WritesBack (decSwzMod fixed) (encSwzMod fixed) := by
  intro k m _ h
  unfold decSwzMod at h
  split at h
  · cases h; exact .symm ‹k = fixed›
  · obtain ⟨hk, h⟩ := Option.ite_none_right_eq_some.mp h
    cases h; exact hk.symm

/-! ## The rows of the map of R32 -/

/-- What a row of the decoder answers for the fields of a format-G word encodes as those fields in the same OPC and FN. -/
def EncodesBack (opc fn : Nat) (f : Fmt Nat) (row : Option Instr) : Prop :=
  ∀ i, row = some i → encodeWord i = some (packG opc fn f.mod f)

theorem encodesBack_none (opc fn : Nat) (f : Fmt Nat) : EncodesBack opc fn f none := fun _ h => absurd h (by simp)

/-- A row whose MOD has one layout: the encoder writes the same OPC, FN and layout for its constructor. -/
theorem encodesBack_map {M : Type} {dec : Nat → Option M} {enc : M → Nat} (hm : WritesBack dec enc) {opc fn : Nat} {f : Fmt Nat}
    (hf : f.mod < 4096) {c : Fmt M → Instr} (hc : ∀ o, encodeWord (c o) = some (packG opc fn (enc o.mod) o)) :
    EncodesBack opc fn f ((dec f.mod).map fun m => c (f.withMod m)) := by
  intro i h
  obtain ⟨m, hd, rfl⟩ := Option.map_eq_some_iff.mp h
  rw [hc, ← hm _ _ hf hd]
  rfl

/-- Two rows that share OPC and FN, told apart by a bit of MOD. -/
theorem encodesBack_orElse {opc fn : Nat} {f : Fmt Nat} {a b : Option Instr} (ha : EncodesBack opc fn f a)
    (hb : EncodesBack opc fn f b) : EncodesBack opc fn f (a <|> b) := by
  intro i h
  obtain h | ⟨_, h⟩ := (Option.orElse_eq_some _ _ _).mp h
  · exact ha i h
  · exact hb i h

section
variable {fn : Nat} {f : Fmt Nat} (hf : f.mod < 4096)
include hf

theorem decode01_encodesBack : EncodesBack 1 fn f (decode01 fn f) := by
  unfold decode01
  split
  case h_1 | h_2 | h_3 | h_4 | h_5 | h_6 | h_7 | h_8 | h_9 | h_10 | h_11 | h_12 | h_13 | h_14 | h_15 | h_16 | h_17 | h_18 | h_19 =>
    exact encodesBack_map decIntMod_writesBack hf fun _ => rfl
  case h_20 => exact encodesBack_none _ _ _
theorem decode02_encodesBack : EncodesBack 2 fn f (decode02 fn f) := by
  unfold decode02
  split
  case h_1 | h_2 | h_3 | h_4 => exact encodesBack_map decBool_writesBack hf fun _ => rfl
  case h_5 | h_7 => exact encodesBack_map (decUnit_writesBack 0) hf fun _ => rfl
  case h_6 => exact encodesBack_map decLeaMod_writesBack hf fun _ => rfl
  case h_8 => exact encodesBack_none _ _ _
theorem decode04_encodesBack : EncodesBack 4 fn f (decode04 fn f) := by
  unfold decode04
  split
  case h_1 => exact encodesBack_map decCondMod_writesBack hf fun _ => rfl
  case h_2 | h_3 | h_4 | h_5 => exact encodesBack_map (decUnit_writesBack 0) hf fun _ => rfl
  case h_6 =>
    exact encodesBack_orElse (encodesBack_map (decUnit_writesBack 0) hf fun _ => rfl)
      (encodesBack_orElse (encodesBack_map (decUnit_writesBack 1) hf fun _ => rfl)
      (encodesBack_map (decUnit_writesBack 2) hf fun _ => rfl))
  case h_7 => exact encodesBack_none _ _ _
theorem decode05_encodesBack : EncodesBack 5 fn f (decode05 fn f) := by
  unfold decode05
  split
  case h_1 | h_5 | h_7 => exact encodesBack_map (decUnit_writesBack 0) hf fun _ => rfl
  case h_2 | h_3 | h_4 => exact encodesBack_map decCondMod_writesBack hf fun _ => rfl
  case h_6 =>
    exact encodesBack_orElse (encodesBack_map (decUnit_writesBack 0) hf fun _ => rfl)
      (encodesBack_map (decUnit_writesBack 1) hf fun _ => rfl)
  case h_8 => exact encodesBack_none _ _ _
theorem decode06_encodesBack : EncodesBack 6 fn f (decode06 fn f) := by
  unfold decode06
  split
  case h_1 | h_2 | h_3 => exact encodesBack_map (decUnit_writesBack 0) hf fun _ => rfl
  case h_4 => exact encodesBack_none _ _ _
theorem decode10_encodesBack : EncodesBack 16 fn f (decode10 fn f) := by
  unfold decode10
  split
  case h_1 | h_2 | h_3 | h_4 | h_5 | h_6 => exact encodesBack_map decSpadMod_writesBack hf fun _ => rfl
  case h_7 | h_8 => exact encodesBack_map (decUnit_writesBack 0) hf fun _ => rfl
  case h_9 => exact encodesBack_none _ _ _
theorem decode11_encodesBack : EncodesBack 17 fn f (decode11 fn f) := by
  unfold decode11
  split
  case h_1 | h_2 => exact encodesBack_map decSamoMod_writesBack hf fun _ => rfl
  case h_3 => exact encodesBack_none _ _ _
theorem decode14_encodesBack : EncodesBack 20 fn f (decode14 fn f) := by
  unfold decode14
  split
  case h_1 | h_2 | h_3 | h_4 | h_5 | h_6 | h_7 | h_8 | h_9 => exact encodesBack_map decGlobMod_writesBack hf fun _ => rfl
  case h_10 => exact encodesBack_none _ _ _
theorem decode15_encodesBack : EncodesBack 21 fn f (decode15 fn f) := by
  unfold decode15
  split
  case h_1 =>
    exact encodesBack_orElse (encodesBack_map decScopeMod_writesBack hf fun _ => rfl)
      (encodesBack_map (decUnit_writesBack 8) hf fun _ => rfl)
  case h_2 => exact encodesBack_map decGlobMod_writesBack hf fun _ => rfl
  case h_3 | h_4 => exact encodesBack_map (decUnit_writesBack 0) hf fun _ => rfl
  case h_5 => exact encodesBack_none _ _ _
theorem decode18_encodesBack : EncodesBack 24 fn f (decode18 fn f) := by
  unfold decode18
  split
  case h_1 | h_4 => exact encodesBack_map decScopeMod_writesBack hf fun _ => rfl
  case h_2 | h_3 | h_5 => exact encodesBack_map (decUnit_writesBack 0) hf fun _ => rfl
  case h_6 => exact encodesBack_none _ _ _
theorem decode19_encodesBack : EncodesBack 25 fn f (decode19 fn f) := by
  unfold decode19
  split
  case h_1 | h_2 | h_3 => exact encodesBack_map (decUnit_writesBack 0) hf fun _ => rfl
  case h_4 => exact encodesBack_map decBarrMod_writesBack hf fun _ => rfl
  case h_5 => exact encodesBack_none _ _ _
theorem decode1A_encodesBack : EncodesBack 26 fn f (decode1A fn f) := by
  unfold decode1A
  split
  case h_1 => exact encodesBack_map decBool_writesBack hf fun _ => rfl
  case h_2 | h_3 | h_4 => exact encodesBack_map (decUnit_writesBack 0) hf fun _ => rfl
  case h_5 => exact encodesBack_none _ _ _
theorem decode1B_encodesBack : EncodesBack 27 fn f (decode1B fn f) := by
  unfold decode1B
  split
  case h_1 => exact encodesBack_map decSendMod_writesBack hf fun _ => rfl
  case h_2 => exact encodesBack_map (decUnit_writesBack 0) hf fun _ => rfl
  case h_3 => exact encodesBack_none _ _ _
theorem decode1C_encodesBack : EncodesBack 28 fn f (decode1C fn f) := by
  unfold decode1C
  split
  case h_1 | h_2 | h_3 | h_4 => exact encodesBack_map (decUnit_writesBack 0) hf fun _ => rfl
  case h_5 => exact encodesBack_none _ _ _
theorem decode1D_encodesBack : EncodesBack 29 fn f (decode1D fn f) := by
  unfold decode1D
  split
  case h_1 | h_2 | h_3 | h_4 | h_5 => exact encodesBack_map (decUnit_writesBack 0) hf fun _ => rfl
  case h_6 => exact encodesBack_none _ _ _
theorem decode1E_encodesBack : EncodesBack 30 fn f (decode1E fn f) := by
  unfold decode1E
  split
  case h_1 | h_2 | h_3 | h_4 | h_5 | h_6 => exact encodesBack_map (decUnit_writesBack 0) hf fun _ => rfl
  case h_7 => exact encodesBack_none _ _ _
theorem decode20_encodesBack : EncodesBack 32 fn f (decode20 fn f) := by
  unfold decode20
  split
  case h_1 | h_2 | h_3 | h_4 | h_5 | h_6 | h_7 | h_8 | h_9 | h_10 | h_11 =>
    exact encodesBack_map decVecMod_writesBack hf fun _ => rfl
  case h_12 => exact encodesBack_none _ _ _
theorem decode21_encodesBack : EncodesBack 33 fn f (decode21 fn f) := by
  unfold decode21
  split
  case h_1 | h_2 | h_3 | h_4 | h_5 | h_6 => exact encodesBack_map decVecMod_writesBack hf fun _ => rfl
  case h_7 => exact encodesBack_none _ _ _
theorem decode22_encodesBack : EncodesBack 34 fn f (decode22 fn f) := by
  unfold decode22
  split
  case h_1 => exact encodesBack_map decVecMod_writesBack hf fun _ => rfl
  case h_2 => exact encodesBack_none _ _ _
theorem decode23_encodesBack : EncodesBack 35 fn f (decode23 fn f) := by
  unfold decode23
  split
  case h_1 | h_2 => exact encodesBack_map decVecMod_writesBack hf fun _ => rfl
  case h_3 => exact encodesBack_none _ _ _
theorem decode24_encodesBack : EncodesBack 36 fn f (decode24 fn f) := by
  unfold decode24
  split
  case h_1 | h_2 | h_3 | h_4 | h_5 | h_6 | h_7 => exact encodesBack_map decVecMod_writesBack hf fun _ => rfl
  case h_8 => exact encodesBack_none _ _ _
theorem decode25_encodesBack : EncodesBack 37 fn f (decode25 fn f) := by
  unfold decode25
  split
  case h_1 | h_2 | h_3 | h_4 => exact encodesBack_map decVecMod_writesBack hf fun _ => rfl
  case h_5 => exact encodesBack_none _ _ _
theorem decode26_encodesBack : EncodesBack 38 fn f (decode26 fn f) := by
  unfold decode26
  split
  case h_1 | h_2 | h_3 | h_4 | h_5 => exact encodesBack_map decVecMod_writesBack hf fun _ => rfl
  case h_6 => exact encodesBack_none _ _ _
theorem decode30_encodesBack : EncodesBack 48 fn f (decode30 fn f) := by
  unfold decode30
  split
  case h_1 | h_2 | h_3 | h_4 | h_5 => exact encodesBack_map decMatMod_writesBack hf fun _ => rfl
  case h_6 | h_8 => exact encodesBack_map (decUnit_writesBack 0) hf fun _ => rfl
  case h_7 => exact encodesBack_map decClrMod_writesBack hf fun _ => rfl
  case h_9 => exact encodesBack_map decTopkMod_writesBack hf fun _ => rfl
  case h_10 => exact encodesBack_none _ _ _
theorem decode34_encodesBack : EncodesBack 52 fn f (decode34 fn f) := by
  unfold decode34
  split
  case h_1 | h_2 | h_3 | h_4 | h_5 => exact encodesBack_map (decUnit_writesBack 0) hf fun _ => rfl
  case h_6 => exact encodesBack_map decBool_writesBack hf fun _ => rfl
  case h_7 => exact encodesBack_none _ _ _
theorem decode35_encodesBack : EncodesBack 53 fn f (decode35 fn f) := by
  unfold decode35
  split
  case h_1 | h_2 => exact encodesBack_map (decUnit_writesBack 0) hf fun _ => rfl
  case h_3 => exact encodesBack_none _ _ _
theorem decode38_encodesBack : EncodesBack 56 fn f (decode38 fn f) := by
  unfold decode38
  split
  case h_1 | h_2 | h_3 => exact encodesBack_map decStackMod_writesBack hf fun _ => rfl
  case h_4 => exact encodesBack_none _ _ _
theorem decode39_encodesBack : EncodesBack 57 fn f (decode39 fn f) := by
  unfold decode39
  split
  case h_1 =>
    exact encodesBack_orElse (encodesBack_map (decUnit_writesBack 1) hf fun _ => rfl)
      (encodesBack_map (decUnit_writesBack 0) hf fun _ => rfl)
  case h_2 => exact encodesBack_map (decUnit_writesBack 0) hf fun _ => rfl
  case h_3 | h_4 => exact encodesBack_map decBankMod_writesBack hf fun _ => rfl
  case h_5 => exact encodesBack_none _ _ _
theorem decode3C_encodesBack : EncodesBack 60 fn f (decode3C fn f) := by
  unfold decode3C
  split
  case h_1 =>
    exact encodesBack_orElse (encodesBack_map (decUnit_writesBack 0) hf fun _ => rfl)
      (encodesBack_map (decUnit_writesBack 1) hf fun _ => rfl)
  case h_2 =>
    exact encodesBack_orElse (encodesBack_map (decSwzMod_writesBack 0) hf fun _ => rfl)
      (encodesBack_map (decSwzMod_writesBack 1) hf fun _ => rfl)
  case h_3 | h_4 | h_5 => exact encodesBack_map (decUnit_writesBack 0) hf fun _ => rfl
  case h_6 => exact encodesBack_none _ _ _
theorem decode3E_encodesBack : EncodesBack 62 fn f (decode3E fn f) := by
  unfold decode3E
  split
  case h_1 | h_2 | h_3 => exact encodesBack_map decBool_writesBack hf fun _ => rfl
  case h_4 => exact encodesBack_none _ _ _

/-- The map of R32: whatever row answers, its instruction encodes as the fields that it was given. -/
theorem decodeRow_encodesBack (opc : Nat) : EncodesBack opc fn f (decodeRow opc fn f) := by
  unfold decodeRow
  split
  case h_1 => exact decode01_encodesBack hf
  case h_2 => exact decode02_encodesBack hf
  case h_3 => exact decode04_encodesBack hf
  case h_4 => exact decode05_encodesBack hf
  case h_5 => exact decode06_encodesBack hf
  case h_6 => exact decode10_encodesBack hf
  case h_7 => exact decode11_encodesBack hf
  case h_8 => exact decode14_encodesBack hf
  case h_9 => exact decode15_encodesBack hf
  case h_10 => exact decode18_encodesBack hf
  case h_11 => exact decode19_encodesBack hf
  case h_12 => exact decode1A_encodesBack hf
  case h_13 => exact decode1B_encodesBack hf
  case h_14 => exact decode1C_encodesBack hf
  case h_15 => exact decode1D_encodesBack hf
  case h_16 => exact decode1E_encodesBack hf
  case h_17 => exact decode20_encodesBack hf
  case h_18 => exact decode21_encodesBack hf
  case h_19 => exact decode22_encodesBack hf
  case h_20 => exact decode23_encodesBack hf
  case h_21 => exact decode24_encodesBack hf
  case h_22 => exact decode25_encodesBack hf
  case h_23 => exact decode26_encodesBack hf
  case h_24 => exact decode30_encodesBack hf
  case h_25 => exact decode34_encodesBack hf
  case h_26 => exact decode35_encodesBack hf
  case h_27 => exact decode38_encodesBack hf
  case h_28 => exact decode39_encodesBack hf
  case h_29 => exact decode3C_encodesBack hf
  case h_30 => exact decode3E_encodesBack hf
  case h_31 => exact encodesBack_none _ _ _

end

/-! ## The whole word -/

theorem readG_mod_lt {w : Nat} {f : Fmt Nat} (h : readG w = some f) : f.mod < 4096 := by
  simp only [readG, Option.bind_eq_some_iff, Option.map_eq_some_iff] at h
  obtain ⟨d, -, a, -, b, -, c, -, rfl⟩ := h
  exact Nat.mod_lt _ (by decide)

/-- The packed fields of a format-G word are the word: the fields of R25 cover all 96 bits. -/
theorem packG_readG {w : Nat} {f : Fmt Nat} (hw : w < 256 ^ 12) (h : readG w = some f) :
    packG (bits w 88 8) (bits w 76 8) f.mod f = w := by
  simp only [readG, Option.bind_eq_some_iff, Option.map_eq_some_iff] at h
  obtain ⟨d, hd, a, ha, b, hb, c, hc, rfl⟩ := h
  simp only [packG, Reg.code_of_ofCode hd, Reg.code_of_ofCode ha, Reg.code_of_ofCode hb, Reg.code_of_ofCode hc,
    Pred.code_ofCode_bits, BitVec.toNat_ofNat]
  simp only [bits, Nat.reducePow] at hw ⊢
  omega

theorem decodeG_encodesBack {w : Nat} {i : Instr} (hw : w < 256 ^ 12) (h : decodeG w = some i) :
    WellFormed i = true ∧ encodeWord i = some w := by
  obtain ⟨f, hf, h⟩ := Option.bind_eq_some_iff.mp h
  obtain ⟨hrow, hwf⟩ := Option.filter_eq_some_iff.mp h
  have he := decodeRow_encodesBack (readG_mod_lt hf) _ i hrow
  rw [packG_readG hw hf] at he
  exact ⟨hwf, he⟩

theorem decodeMovi_encodesBack {w : Nat} {i : Instr} (hw : w < 256 ^ 12) (hopc : bits w 88 8 = 3)
    (h : decodeMovi w = some i) : WellFormed i = true ∧ encodeWord i = some w := by
  obtain ⟨⟨hfn, hlo, hhi⟩, h⟩ := Option.ite_none_right_eq_some.mp h
  cases h
  refine ⟨rfl, congrArg some ?_⟩
  rw [Pred.code_ofCode_bits, BitVec.toNat_ofNat, Fin.val_ofNat]
  simp only [bits, Nat.reducePow] at *
  omega

/-- R25, R32, R35: a word that decodes is the word of the well-formed instruction that it decodes to. -/
theorem encodeWord_of_decodeWord {w : Nat} {i : Instr} (hw : w < 256 ^ 12) (h : decodeWord w = some i) :
    WellFormed i = true ∧ encodeWord i = some w := by
  unfold decodeWord at h
  split at h
  · cases h; subst w; exact ⟨rfl, rfl⟩
  · split at h
    · exact decodeMovi_encodesBack hw ‹_› h
    · exact decodeG_encodesBack hw h

/-- Settles O11: the bytes are those of the word that they make, and a word that decodes is encoded again. -/
theorem decodeThenEncode : Obligations.DecodeThenEncode := by
  intro i bs h
  obtain ⟨hlen, h⟩ := Option.ite_none_right_eq_some.mp h
  have hlt : bytesToNat bs < 256 ^ 12 := hlen ▸ bytesToNat_lt bs
  obtain ⟨hwf, he⟩ := encodeWord_of_decodeWord hlt h
  refine ⟨hwf, ?_⟩
  rw [encode, he, Option.map_some, ← hlen, natToBytes_bytesToNat]

end Sys2Proof
end

section
/-!
PROOF. The words written out from the spec's encodings (02 R25, R26 and the field tables).
-/
namespace Sys2Proof

/-- Settles O12: the decoder evaluates on each of the eight words. -/
theorem wordsOfTheSpecDecode : Obligations.WordsOfTheSpecDecode := by
  refine ⟨?sub, ?lea, ?sel, ?lds, ?trap, ?reservedRegspec, ?ldg, ?reservedFc⟩ <;> rfl

end Sys2Proof
end

section
/-!
PROOF. The predicate operations (09 R138): the statement about PAND leaves the third source field free, which a well-formed PAND
has zero (R26). Where that field names a queue, the statement pops it and the model, whose predicate operations read no queue,
does not.
-/
namespace Sys2Proof.Machine
open Sys2Proof.Claims

/-- The reset state with one entry in q0. -/
def oneQueued : State := State.reset.setCc (State.reset.cc.writeQ 0 [(7, false)])
/-- PAND p1, p0, p0 with q0 in the field that it does not use. -/
def pandNamingQueue : Fmt Unit := ⟨⟨false, 0⟩, .p 1, .p 0, .p 0, .q 0, (), 0⟩

theorem pandNamingQueue_issues : oneQueued.Issues pandNamingQueue :=
  ⟨by decide +kernel, by decide +kernel, by decide +kernel, by decide +kernel, by decide +kernel⟩

/-- A PAND that issues pops no queue. -/
theorem exec_pand {s : State} {o : Fmt Unit} (h : s.Issues o) : exec (.pand o) s
    = .next (s.land o.d (BitVec.ofNat 256 (predOf o.a (s.read o.imm o.a) && predOf o.b (s.read o.imm o.b)).toNat) false 1) :=
  slot_sources_ok h.on h rfl

/-- The model's PAND leaves the entry where it is. -/
theorem exec_pand_keeps_queue :
    ∃ t, exec (.pand pandNamingQueue) oneQueued = .next t ∧ t.cc.readQ 0 = [(7, false)] :=
  ⟨_, exec_pand pandNamingQueue_issues, by decide +kernel⟩

/-- The statement's PAND takes the entry. -/
theorem decided_pops_queue (r : Bool) : (decided oneQueued pandNamingQueue r).cc.readQ 0 = [] := by
  cases r <;> decide +kernel

/-- Refutes O4: `oneQueued` issues `pandNamingQueue`, which leaves q0 with its entry, where the statement has q0 empty. -/
theorem not_predicatesNopAndMovi : ¬ Obligations.PredicatesNopAndMovi := by
  rintro ⟨hpred, -, -⟩
  obtain ⟨-, hlogic, -⟩ := hpred oneQueued ⟨⟨false, 0⟩, .x 0, .x 0, .x 0, .x 0, ⟨false, .eq⟩, 0⟩ pandNamingQueue
  obtain ⟨hpand, -, -⟩ := hlogic pandNamingQueue_issues rfl rfl
  obtain ⟨t, ht, hq⟩ := exec_pand_keeps_queue
  cases ht.symm.trans hpand
  exact absurd (hq.symm.trans (decided_pops_queue _)) (by decide)

end Sys2Proof.Machine
end

section
/-!
PROOF. Transfers of control (10 R24, R140, R141, R143, R144): the PC of a linear index, the conditions on two words, and what a
branch, a JMP and a CALL leave in the group's record.
-/
namespace Sys2Proof.Machine
open Sys2Proof.Claims

/-! ## Targets (R24) -/

theorem toNat_ofLinear {n : Int} (h0 : 0 ≤ n) (h1 : n < 5 * 2 ^ 58) : ((ofLinear n).toNat : Int) = n / 5 * 64 + n % 5 := by
  rw [ofLinear, BitVec.toNat_ofInt]
  omega

theorem ofLinear_namesIndex {n : Int} (h0 : 0 ≤ n) (h1 : n < 5 * 2 ^ 58) : namesIndex (ofLinear n) n := by
  have h := toNat_ofLinear h0 h1
  refine ⟨?_, ?_, ?_⟩ <;> omega

/-- A displacement counts instructions from the group's own PC. -/
theorem branchTarget_namesIndex {pc : Word} {d : BitVec 32} (h0 : 0 ≤ leadsTo pc d) (h1 : leadsTo pc d < 5 * 2 ^ 58) :
    namesIndex (branchTarget pc d) (leadsTo pc d) := ofLinear_namesIndex h0 h1

/-! ## Conditions (R139) -/

theorem lowU_false (v : Word) : lowU false v = v.toNat := Nat.mod_eq_of_lt v.isLt

theorem beq_toNat {n : Nat} (a b : BitVec n) : (a.toNat == b.toNat) = (a == b) :=
  Bool.eq_iff_iff.mpr (by simp [BitVec.toNat_inj])

theorem compare_half (c : Cond) (a b : Word) : compare c true a b = holds c (a.setWidth 32) (b.setWidth 32) := by
  cases c with
  | eq => exact beq_toNat (a.setWidth 32) (b.setWidth 32)
  | ne => exact congrArg not (beq_toNat (a.setWidth 32) (b.setWidth 32))
  | lt | ge | ltu | geu => rfl
theorem compare_full (c : Cond) (a b : Word) : compare c false a b = holds c a b := by
  cases c with
  | eq => exact (congrArg₂ (· == ·) (lowU_false a) (lowU_false b)).trans (beq_toNat a b)
  | ne => exact congrArg not ((congrArg₂ (· == ·) (lowU_false a) (lowU_false b)).trans (beq_toNat a b))
  | lt | ge => rfl
  | ltu | geu => simp only [compare, holds, lowU_false, BitVec.ult, BitVec.ule]

theorem compare_eq_holdsBy (m : CondMod) (a b : Word) : compare m.cond m.h a b = holdsBy m a b := by
  obtain ⟨_ | _, c⟩ := m
  · exact compare_full c a b
  · exact compare_half c a b

/-! ## Trace (R382) -/

/-- A trace message changes only its core's encoder. -/
theorem emit_onlyCores (s : State) (t : ThreadId) (kind : Nat) (value : Word) :
    s.emit t kind value = { s with cores := (s.emit t kind value).cores } := by
  unfold State.emit
  dsimp only
  split <;> rfl

/-! ## Branches (R140, R141, R143, R144) -/

theorem branchOutcome_goes (s : State) (o : Fmt CondMod) (annul : Option Bool) (taken : Bool) :
    BranchGoes s o annul taken (.next (s.branchOutcome annul o.imm taken)) := by
  refine ⟨_, branchTarget s.iss.pc o.imm, rfl, ?only, ?iss, branchTarget_namesIndex⟩
  case only =>
    rw [OnlyIssue, State.branchOutcome, emit_onlyCores]
    cases taken <;> dsimp only <;> split <;> rfl
  case iss =>
    rw [State.branchOutcome, emit_onlyCores, branched]
    by_cases h : annul = some taken
    · cases taken <;> simp [h, State.transfer, State.annulSlots]
    · cases taken <;> simp [h, beq_eq_false_iff_ne.mpr h, State.transfer]

/-- A conditional branch that issues on words that are not bounded is judged by its condition. -/
theorem condBranch_goes {s : State} {o : Fmt CondMod} (h : s.Issues o) (ha : s.bitA o = false) (hb : s.bitB o = false)
    (annul : Option Bool) : BranchGoes s o annul (holdsBy o.mod (s.opA o) (s.opB o)) (s.condBranch o annul) := by
  have hgo : s.condBranch o annul = .next (s.branchOutcome annul o.imm (holdsBy o.mod (s.opA o) (s.opB o))) := by
    rw [State.condBranch, if_pos h.on, ← compare_eq_holdsBy]
    refine slot_sources_ok h.on h ?_
    dsimp only
    rw [noBounded_ok (by simp_all [State.bitA, State.bitB])]
    rfl
  rw [hgo]
  exact branchOutcome_goes ..

theorem condBranch_off_goes {s : State} {o : Fmt CondMod} (h : s.predOn o.pred = false) (annul : Option Bool) :
    BranchGoes s o annul false (s.condBranch o annul) := by
  rw [State.condBranch, if_neg (Bool.eq_false_iff.mp h)]
  exact branchOutcome_goes ..

theorem branchOutcome : BranchOutcome := by
  intro s u o
  refine ⟨fun hp => ?br, fun h ha hb => ?judged, fun hp => ?off⟩
  case br =>
    refine ⟨_, branchTarget s.iss.pc u.imm, slot_ok hp _, ?_, ?_, branchTarget_namesIndex⟩
    · rw [OnlyIssue, emit_onlyCores]; rfl
    · rw [emit_onlyCores]; rfl
  case judged => exact ⟨condBranch_goes h ha hb _, condBranch_goes h ha hb _, condBranch_goes h ha hb _⟩
  case off => exact ⟨condBranch_off_goes hp _, condBranch_off_goes hp _, condBranch_off_goes hp _⟩

/-! ## JMP and CALL (R144) -/

theorem linkPairs_ok {s : State} {pc : Word} {pairs : Nat} (h : s.pairsAt pc = some pairs) : s.linkPairs pc = .ok pairs := by
  rw [State.linkPairs, h]
/-- The link as it stands, where the line of Q[2] is at hand. -/
theorem link_atHand {s : State} {pairs : Nat} (hg : s.th.group.bind (·.link) = none) (hsq : s.th.q2.sq = false)
    (h : s.pairsAt s.th.q2.pc = some pairs) : s.link = .ok (seqPc pairs s.th.q2.pc) := by
  rw [State.link, hg]
  dsimp only
  rw [State.linkNow, hsq]
  exact congrArg (· >>= fun p => .ok (seqPc p s.th.q2.pc)) (linkPairs_ok h)
/-- The link that the group saved as it issued (R22). -/
theorem link_saved {s : State} {l : Word} (h : s.th.group.bind (·.link) = some l) : s.link = .ok l := by
  rw [State.link, h]

/-- What a CALL leaves: its redirect, and the link on its way to x31. -/
def called (s : State) (target : Word) (kind : Nat) (value link : Word) : State :=
  ((s.transfer target).emit s.cur kind value).land (.x 31) (link.setWidth 256) false 1

theorem callTo_ok {s : State} {link : Word} (hx : (s.th.readX 31).st ≠ .pending) (hl : s.link = .ok link) (target : Word)
    (kind : Nat) (value : Word) : s.callTo target kind value = .ok (called s target kind value link) := by
  have hfree : s.isPending s.cur (.x 31) = false := decide_eq_false hx
  rw [State.callTo, hfree, hl]
  rfl

theorem called_changes (s : State) (target : Word) (kind : Nat) (value link : Word) :
    let t := called s target kind value link
    t = { s with iss := branched s (some target) false, cores := t.cores, threads := t.threads }
      ∧ t.th = { s.th with landing := s.th.landing ++ [⟨.x 31, link.setWidth 256, false, 2⟩] } ∧ SameOthers s t := by
  dsimp only
  rw [called, emit_onlyCores]
  refine ⟨rfl, th_setTh _ _, fun u hu => ?_⟩
  exact (thread_setThread _ _ u _).trans (if_neg hu)

theorem exec_jmp {s : State} {o : Fmt Unit} (h : s.Issues o) (ha : s.bitA o = false) :
    exec (.jmp o) s = .next ((s.transfer (s.opA o)).emit s.cur 3 (s.opA o)) := by
  refine slot_sources_ok h.on h ?_
  dsimp only
  rw [noBounded_ok (List.forall_mem_singleton.mpr ha)]
  rfl
theorem exec_call {s : State} {o : Fmt Unit} {link : Word} (hp : s.predOn o.pred = true) (hx : (s.th.readX 31).st ≠ .pending)
    (hl : s.link = .ok link) : exec (.call o) s = .next (called s (branchTarget s.iss.pc o.imm) 1 s.iss.pc link) := by
  change execCall o s = _
  rw [execCall, callTo_ok hx hl, slot_ok hp]
theorem exec_callIndirect {s : State} {o : Fmt Unit} {link : Word} (h : s.Issues o) (ha : s.bitA o = false)
    (hx : (s.th.readX 31).st ≠ .pending) (hl : s.link = .ok link) :
    exec (.callIndirect o) s = .next (called s (s.opA o) 3 (s.opA o) link) := by
  have hfree : s.isPending s.cur (.x 31) = false := decide_eq_false hx
  change execCallIndirect o s = _
  rw [execCallIndirect, hfree]
  refine slot_sources_ok h.on h ?_
  dsimp only
  rw [noBounded_ok (List.forall_mem_singleton.mpr ha)]
  exact callTo_ok hx hl _ _ _

theorem jumpAndCall : JumpAndCall := by
  intro s o pairs
  refine ⟨fun h ha => ?jmp, fun link hx hlink => ?calls⟩
  case jmp =>
    refine ⟨_, exec_jmp h ha, ?_, ?_⟩
    · rw [OnlyIssue, emit_onlyCores]; rfl
    · rw [emit_onlyCores]; rfl
  case calls =>
    have hl : s.link = .ok link := by
      split at hlink
      next hg => rw [hlink]; exact link_saved hg
      next hg =>
        obtain ⟨hsq, hpairs, rfl⟩ := hlink
        exact link_atHand hg hsq hpairs
    refine ⟨fun hp => ?direct, fun h ha => ⟨_, exec_callIndirect h ha hx hl, called_changes ..⟩⟩
    obtain ⟨hchanged, hth, hothers⟩ := called_changes s (branchTarget s.iss.pc o.imm) 1 s.iss.pc link
    exact ⟨_, _, exec_call hp hx hl, hchanged, hth, hothers, branchTarget_namesIndex⟩

/-- Settles O17: a target names the linear index that its displacement leads to, and what a transfer changes is the group's
record, the trace of its core and, for a CALL, the landing list of its thread. -/
theorem transfersOfControl : Obligations.TransfersOfControl := ⟨branchOutcome, jumpAndCall⟩

end Sys2Proof.Machine
end

section
/-!
PROOF. The step at a state that stands at an instruction (02 R36, R345, 08 R111): the step is the turn of the one core that lives,
the turn is that of the one thread that runs, and it comes to the group that is the decoded instruction.
-/
namespace Sys2Proof.Machine
open Sys2Proof.Claims

/-! ## A step where nothing but turns can happen -/

theorem advance_onlyThread {s : State} {t : ThreadId} (h : OnlyThread s t) : s.advance = s.proceed := by
  have hrom : s.inRom = false := by
    rw [State.inRom, h.works, decide_eq_false (by have := h.booted; omega)]
    rfl
  simp [State.advance, State.atOnce, h.works, h.due, h.moved, hrom, h.inputs, State.takeInput]

theorem proceed_onlyThread {s : State} {t : ThreadId} (h : OnlyThread s t) :
    s.proceed = (coreTurn s t.core).getD (.next s) := by
  have hboot : s.booting = [] := by rw [State.booting, if_neg (by have := h.booted; omega)]
  have hc : candidates s = (coreTurn s t.core).toList := by
    rw [candidates, h.agenda, h.evictions, h.publications, hboot, h.core]
    cases hr : coreTurn s t.core <;> simp [hr]
  rw [State.proceed, hc]
  cases coreTurn s t.core <;> rfl

theorem step_onlyThread {s : State} {t : ThreadId} (h : OnlyThread s t) :
    step s = elapsed ((coreTurn s t.core).getD (.next s)) := by
  rw [step, advance_onlyThread h, proceed_onlyThread h]

/-! ## The turn of a core (R111) -/

/-- The turn that round robin gives a thread of a core: none where the thread is barred or cannot move. -/
def offered (s : State) (core : Nat) (skip : List Nat) (thr : Nat) : Option (Host.Outcome State Fault Refusal × TurnEnd) :=
  if skip.contains (thr % 8) then none else turn { s with cur := s.residentThread core thr }

theorem coreTurnFrom_succ (s : State) (core : Nat) (skip : List Nat) (n thr : Nat) :
    coreTurnFrom s core skip (n + 1) thr = match offered s core skip thr with
      | some r => some (slotUsed core (thr % 8) skip r)
      | none => coreTurnFrom s core skip n (thr + 1) := rfl

/-- Where no thread moves, round robin finds none. -/
theorem coreTurnFrom_none {s : State} {core : Nat} {skip : List Nat} (h : ∀ thr, offered s core skip thr = none) (n thr : Nat) :
    coreTurnFrom s core skip n thr = none := by
  induction n generalizing thr with
  | zero => rfl
  | succ n ih => rw [coreTurnFrom_succ, h, ih]

/-- Round robin passes the threads that do not move and comes to the first that does. -/
theorem coreTurnFrom_some {s : State} {core : Nat} {skip : List Nat} {r : Host.Outcome State Fault Refusal × TurnEnd}
    {k n thr : Nat} (hk : k < n) (hbefore : ∀ j, j < k → offered s core skip (thr + j) = none) (hr : offered s core skip (thr + k) = some r) :
    coreTurnFrom s core skip n thr = some (slotUsed core ((thr + k) % 8) skip r) := by
  induction k generalizing n thr with
  | zero =>
    obtain ⟨n, rfl⟩ : ∃ m, n = m + 1 := ⟨n - 1, by omega⟩
    have hr : offered s core skip thr = some r := hr
    rw [coreTurnFrom_succ, hr]
    rfl
  | succ k ih =>
    obtain ⟨n, rfl⟩ : ∃ m, n = m + 1 := ⟨n - 1, by omega⟩
    have h0 : offered s core skip thr = none := hbefore 0 (by omega)
    rw [coreTurnFrom_succ, h0, show thr + (k + 1) = thr + 1 + k by omega]
    refine ih (by omega) (fun j hj => ?_) (by rw [← hr]; congr 1; omega)
    rw [show thr + 1 + j = thr + (j + 1) by omega]
    exact hbefore (j + 1) (by omega)

/-- A thread that does not run has no turn. -/
theorem turn_of_not_running {s : State} {u : ThreadId} (h : (s.thread u).run ≠ .running) : turn { s with cur := u } = none := by
  have hth : ({ s with cur := u } : State).th = s.thread u := rfl
  simp [turn, State.prepare, State.mayRun, hth, h]

section
variable {s : State} {t : ThreadId} {l : LineBuf}

theorem residentThread_eq (hs : StandsAt s t l) (thr : Nat) : s.residentThread t.core thr = ⟨t.core, t.ctx, thr % 8⟩ := by
  rw [State.residentThread, hs.resident]

theorem offered_other (hs : StandsAt s t l) (ho : OnlyThread s t) (skip : List Nat) {thr : Nat} (h : thr % 8 ≠ t.thr) :
    offered s t.core skip thr = none := by
  rw [offered, residentThread_eq hs, turn_of_not_running (ho.others _ (Nat.mod_lt _ (by decide)) h), ite_self]
theorem offered_own (hs : StandsAt s t l) (skip : List Nat) {thr : Nat} (h : thr % 8 = t.thr) :
    offered s t.core skip thr = if skip.contains t.thr then none else turn { s with cur := t } := by
  rw [offered, residentThread_eq hs, h]

/-- The core's turn is its thread's; where that thread is barred or cannot move, the slot stays empty if any thread is barred. -/
theorem coreTurn_onlyThread (hs : StandsAt s t l) (ho : OnlyThread s t) :
    coreTurn s t.core
      = match if (s.barred t.core).contains t.thr then none else turn { s with cur := t } with
        | some r => some (slotUsed t.core t.thr (s.barred t.core) r)
        | none => if s.barred t.core = [] then none else some (.next (s.slotEmpty t.core)) := by
  rw [coreTurn]
  cases hown : if (s.barred t.core).contains t.thr then none else turn { s with cur := t } with
  | none =>
    have hnone : ∀ thr, offered s t.core (s.barred t.core) thr = none := fun thr => by
      by_cases hthr : thr % 8 = t.thr
      · rw [offered_own hs _ hthr, hown]
      · exact offered_other hs ho _ hthr
    rw [coreTurnFrom_none hnone]
    cases s.barred t.core <;> rfl
  | some r =>
    have hlt := ho.thr
    obtain ⟨k, hk, hown_at, hbefore⟩ : ∃ k, k < 8 ∧ ((s.core t.core).last + 1 + k) % 8 = t.thr
        ∧ ∀ j, j < k → ((s.core t.core).last + 1 + j) % 8 ≠ t.thr :=
      ⟨(t.thr + 8 - ((s.core t.core).last + 1) % 8) % 8, by omega, by omega, fun j hj => by omega⟩
    rw [coreTurnFrom_some hk (fun j hj => offered_other hs ho _ (hbefore j hj)) ((offered_own hs _ hown_at).trans hown), hown_at]
    rfl

/-! ## The turn of the thread (R36, steps 1 to 6) -/

theorem th_withCur (s : State) (t : ThreadId) : ({ s with cur := t } : State).th = s.thread t := rfl

theorem findPart_withCur (s : State) (t : ThreadId) (cluster n : Nat) :
    findPart { s with cur := t } cluster n = findPart s cluster n := by
  induction n with
  | zero => rfl
  | succ n ih => rw [findPart, findPart, ih]; rfl
theorem partOf_withCur (s : State) (t : ThreadId) (core : Nat) : ({ s with cur := t } : State).partOf core = s.partOf core := by
  rw [State.partOf, State.partOf, findPart_withCur]

theorem mayRun_of_standsAt (hs : StandsAt s t l) : ({ s with cur := t } : State).mayRun = true := by
  have hres : (({ s with cur := t } : State).part (({ s with cur := t } : State).partOf t.core)).res = t.ctx := by
    rw [partOf_withCur]; exact hs.resident
  have hhalt : (({ s with cur := t } : State).core t.core).dbg.halted = false := hs.halted
  have hout : (({ s with cur := t } : State).core t.core).out = false := hs.out
  have hcox : ({ s with cur := t } : State).coxOut t.core = false := hs.serves
  simp [State.mayRun, th_withCur, hs.runs, hs.waits, hs.rests, hs.judged, hres, hhalt, hout, hcox]

/-- The state in which the thread's turn comes to its line: its queue is refreshed, and it waits for nothing. -/
def ready (s : State) (t : ThreadId) : State := ({ s with cur := t } : State).refreshQueue.endWait

theorem refreshQueue_th (s : State) : ∃ q1 q2, s.refreshQueue.th = { s.th with q1 := q1, q2 := q2 } := ⟨_, _, th_setTh s _⟩

/-- What the turn has changed of the thread by then: at most Q[1] and Q[2]. -/
theorem ready_th (hs : StandsAt s t l) : ∃ q1 q2, (ready s t).th = { s.thread t with q1 := q1, q2 := q2 } := by
  obtain ⟨q1, q2, h⟩ := refreshQueue_th { s with cur := t }
  refine ⟨q1, q2, ?_⟩
  rw [ready, State.endWait, th_setTh, h, th_withCur]
  simp only [hs.waits, hs.rests]

/-- Steps 1 and 2 of R36, where the line of Q[0] is in the line buffer. -/
theorem prepareFetch_of_line {r : State} {e : QEntry} (he : r.th.q0 = e) (hslot : pcSlot e.pc ≤ 4)
    (hzeros : e.pc.toNat / 8 % 8 = 0) (hshort : e.pc.toNat < 2 ^ 48) (hline : r.th.line = some l) (hhere : l.va = pcLine e.pc) :
    r.prepareFetch = r.prepareLine l := by
  subst e
  have hl : r.th.lineHere = some l := by simp [Thread.lineHere, hline, hhere]
  simp only [State.prepareFetch, hl]
  rw [if_neg (by omega), if_neg (by omega)]

/-- A group whose line sets no STOP bit for it has no honoured stop. -/
theorem stopHonoured_of_noStop {th : Thread} (hline : th.line = some l)
    (hstop : (lineStops l.bytes).testBit (pcSlot th.q0.pc) = false) : th.stopHonoured = false := by
  simp [Thread.stopHonoured, hline, hstop]

/-- Step 3 of R36, where the line word is correct and the group has no stop and none is due. -/
theorem prepareLine_of_noStop {r : State} {e : QEntry} (he : r.th.q0 = e) (hgood : l.checked = true ∨ lineOk l.bytes = true)
    (hstop : (lineStops l.bytes).testBit (pcSlot e.pc) = false) (hspaced : r.th.hm = true ∨ r.th.stop ≠ r.th.stopmax.toNat) :
    r.prepareLine l = (r.setTh { r.th with line := some { l with checked := true } }).prepareGroup l.bytes := by
  subst e
  have hbad : (!l.checked && !lineOk l.bytes) = false := by obtain h | h := hgood <;> simp [h]
  have hdue : (!r.th.hm && r.th.stop == r.th.stopmax.toNat) = false := by obtain h | h := hspaced <;> simp [h]
  have hnot : ({ r.th with line := some { l with checked := true } } : Thread).stopHonoured = false :=
    stopHonoured_of_noStop rfl hstop
  simp only [State.prepareLine, hbad, th_setTh, hnot, hdue, Bool.false_eq_true, if_false]

/-- The decoded instruction passes step 6 of R36. -/
theorem checkWord_ok {cox : Bool} {bs : List Byte} {i : Instr} (hd : decodeBytes bs = some i)
    (hf : foreign cox (bytesToNat bs) = false) (hq : queueMisuse (bytesToNat bs) = false) : checkWord cox bs = .ok i := by
  simp [checkWord, hd, hf, hq]

theorem lineLight_of_alone {bytes : List Byte} {slot : Nat} (h : (linePairs bytes).testBit slot = false) :
    lineLight bytes slot = wordLight (bytesToNat (lineSlot bytes slot)) := by
  simp [lineLight, h]

/-- Steps 4 to 6 of R36, where the group is a single instruction and not annulled. -/
theorem prepareGroup_of_alone {r : State} {e : QEntry} (he : r.th.q0 = e) {bytes : List Byte} {i : Instr} (hkept : e.an = false)
    (htarget : e.tgt = true → (lineTargets bytes).testBit (pcSlot e.pc) = true)
    (halone : (linePairs bytes).testBit (pcSlot e.pc) = false)
    (hcheck : checkWord (isCox r.cur.core) (lineSlot bytes (pcSlot e.pc)) = .ok i) :
    r.prepareGroup bytes = .group r (single i (bytesToNat (lineSlot bytes (pcSlot e.pc)))) := by
  subst e
  have htgt : (r.th.q0.tgt && !(lineTargets bytes).testBit (pcSlot r.th.q0.pc)) = false := by
    cases h : r.th.q0.tgt <;> simp_all
  simp [State.prepareGroup, hkept, htgt, halone, hcheck, lineLight_of_alone halone, single]

/-- R345: what may come before the fetch of a group, and does not. -/
theorem prepare_of_nothing_before {r : State} (hmay : r.mayRun = true) (hdue : r.refreshQueue.endWait.th.thresholdDue = false)
    (hjudged : r.refreshQueue.endWait.judgedInt = none) (hgroup : r.refreshQueue.endWait.th.group = none)
    (hbreak : r.refreshQueue.endWait.breakpoint = none) : r.prepare = r.refreshQueue.endWait.prepareFetch := by
  simp [State.prepare, hmay, hdue, hjudged, hgroup, hbreak]

theorem prepare_of_standsAt (hs : StandsAt s t l) : ({ s with cur := t } : State).prepare = (ready s t).prepareFetch := by
  obtain ⟨q1, q2, hth⟩ := ready_th hs
  have hdue : (ready s t).th.thresholdDue = false := by simp [Thread.thresholdDue, hth, hs.crossed]
  have hjudged : (ready s t).judgedInt = none := by simp [State.judgedInt, hth, hs.waits]
  have hgroup : (ready s t).th.group = none := by rw [hth]; exact hs.fresh
  have hdbp : ((ready s t).core (ready s t).cur.core).dbg.dbp = [] := hs.breaks
  have hbreak : (ready s t).breakpoint = none := by simp [State.breakpoint, hdbp]
  exact prepare_of_nothing_before (mayRun_of_standsAt hs) hdue hjudged hgroup hbreak

theorem atGroup_q0 (hs : StandsAt s t l) : (atGroup s t l).th.q0 = (s.thread t).q0 := by
  obtain ⟨q1, q2, hth⟩ := ready_th hs
  have hline : (atGroup s t l).th = { (ready s t).th with line := some { l with checked := true } } := th_setTh (ready s t) _
  rw [hline, hth]

/-- The group that the thread's turn comes to is the decoded instruction. -/
theorem prepareFetch_of_standsAt (hs : StandsAt s t l) {i : Instr}
    (hcheck : checkWord (isCox t.core) (lineSlot l.bytes (pcSlot (s.thread t).q0.pc)) = .ok i) :
    (ready s t).prepareFetch
      = .group (atGroup s t l) (single i (bytesToNat (lineSlot l.bytes (pcSlot (s.thread t).q0.pc)))) := by
  obtain ⟨q1, q2, hth⟩ := ready_th hs
  have hq0 : (ready s t).th.q0 = (s.thread t).q0 := by rw [hth]
  have hspaced : (ready s t).th.hm = true ∨ (ready s t).th.stop ≠ (ready s t).th.stopmax.toNat := by rw [hth]; exact hs.spaced
  calc (ready s t).prepareFetch
      = (ready s t).prepareLine l :=
        prepareFetch_of_line hq0 hs.slot hs.zeros hs.short (by rw [hth]; exact hs.line) hs.here
    _ = (atGroup s t l).prepareGroup l.bytes := prepareLine_of_noStop hq0 hs.good hs.noStop hspaced
    _ = _ := prepareGroup_of_alone (atGroup_q0 hs) hs.kept hs.target hs.alone hcheck

/-- The turn of a thread that stands at an instruction is that instruction's meaning and the end of its turn. -/
theorem turn_of_standsAt (hs : StandsAt s t l) {i : Instr}
    (hcheck : checkWord (isCox t.core) (lineSlot l.bytes (pcSlot (s.thread t).q0.pc)) = .ok i) :
    turn { s with cur := t }
      = settle (single i (bytesToNat (lineSlot l.bytes (pcSlot (s.thread t).q0.pc)))) (s.thread t) (atGroup s t l)
          (exec i ((atGroup s t l).issueAt (s.thread t).q0.pc)) := by
  rw [turn, prepare_of_standsAt hs, prepareFetch_of_standsAt hs hcheck, ← atGroup_q0 hs]
  rfl

/-! ## The end of the turn -/

theorem settle_issued {i : Instr} {w : Nat} {stood : Thread} {before v : State} (hrun : v.iss.status = .running)
    (hroom : landingFull before.th v.th = false) :
    settle (single i w) stood before (.next v) = some (.next v.finishGroup, .issued) := by
  simp [settle, hrun, hroom, single]
theorem settle_trapped {h : Held} {stood : Thread} {before v : State} (htrap : v.iss.status = .trapped) :
    settle h stood before (.next v) = some (.next { v with iss := .initial }, .trapped) := by
  simp [settle, htrap]
theorem settle_parked {h : Held} {stood : Thread} {before v : State} (hpark : v.iss.status = .parked)
    (hnew : stood.group = none) : settle h stood before (.next v)
      = some (.next (({ v with iss := .initial } : State).setTh { v.th with group := some h }), .parked) := by
  simp [settle, hpark, hnew]
  rfl

/-- A group of a core that is no cox core uses its issue slot alone. -/
theorem slotUsed_issued {core : Nat} (hcox : isCox core = false) (thr : Nat) (skip : List Nat) (v : State) :
    slotUsed core thr skip (.next v, .issued) = .next (v.issuedLast core thr) := by
  simp [slotUsed, hcox]

/-- What a step does before time passes, where it is the turn of one thread: the end of that turn, or the empty slot of its core. -/
def soleTurn (s : State) (t : ThreadId) (r : Option (Host.Outcome State Fault Refusal × TurnEnd)) :
    Host.Outcome State Fault Refusal :=
  match r with
  | some r => slotUsed t.core t.thr (s.barred t.core) r
  | none => .next (if s.barred t.core = [] then s else s.slotEmpty t.core)

theorem step_of_standsAt (hs : StandsAt s t l) (ho : OnlyThread s t) (hskip : (s.barred t.core).contains t.thr = false) :
    step s = elapsed (soleTurn s t (turn { s with cur := t })) := by
  rw [step_onlyThread ho, coreTurn_onlyThread hs ho, hskip, if_neg (by decide)]
  cases turn { s with cur := t } with
  | some r => rfl
  | none =>
    dsimp only [soleTurn]
    split <;> rfl

theorem step_of_barred (hs : StandsAt s t l) (ho : OnlyThread s t) (hskip : (s.barred t.core).contains t.thr = true) :
    step s = .next (s.slotEmpty t.core).elapse := by
  have hsome : s.barred t.core ≠ [] := by
    intro h
    simp [h] at hskip
  rw [step_onlyThread ho, coreTurn_onlyThread hs ho, if_pos hskip]
  dsimp only
  rw [if_neg hsome]
  rfl

end

/-- Settles O13: the step is the turn of the only core, that turn is the turn of the only thread, and the thread's turn is the
meaning of the decoded instruction and the end that its status calls for. -/
theorem stepRunsTheDecodedInstruction : Obligations.StepRunsTheDecodedInstruction := by
  intro s t l i w hs ho hd hf hq g u skip
  refine ⟨step_of_barred hs ho, fun hskip => ?_⟩
  have hstep : step s = elapsed (soleTurn s t (settle (single i w) (s.thread t) g (exec i u))) :=
    (step_of_standsAt hs ho hskip).trans (congrArg (elapsed ∘ soleTurn s t) (turn_of_standsAt hs (checkWord_ok hd hf hq)))
  refine ⟨hstep, fun v hv hrun hroom hcox => ?issued, fun v hv htrap => ?trapped, fun v hv hpark => ?parked⟩
  case issued =>
    rw [hstep, hv, settle_issued (before := g) hrun hroom]
    exact congrArg elapsed (slotUsed_issued hcox ..)
  case trapped =>
    rw [hstep, hv, settle_trapped htrap]
    rfl
  case parked =>
    rw [hstep, hv, settle_parked hpark hs.fresh]
    rfl

end Sys2Proof.Machine
end

section
/-!
PROOF. Device memory stays in canonical form (04 R67, R81): what it means of the outcomes of an instruction, and the rules by which
it goes through sequences, conditions and folds.
-/
namespace Sys2Proof.Machine

/-- The states that a stop holds have the form. -/
def Stop.wf : Stop → Prop
  | .trapIn s _ _ => Memory.wf s = true
  | .hand s => Memory.wf s = true
  | _ => True

/-- A value with a property, or a stop whose states have the form. -/
def EndsWf {α : Type} (P : α → Prop) : Except Stop α → Prop
  | .ok a => P a
  | .error e => e.wf

/-- The next state, if there is one, has the form. -/
def NextWf : Host.Outcome State Fault Refusal → Prop
  | .next t => Memory.wf t = true
  | _ => True

/-- What there is, if anything, has a property. -/
def SomeWf {α : Type} (P : α → Prop) : Option α → Prop
  | some a => P a
  | none => True

/-- The state that a turn has come to has the form. -/
def Turn.wf : Turn → Prop
  | .idle => True
  | .wait s _ => Memory.wf s = true
  | .event s _ => Memory.wf s = true
  | .trap s _ _ => Memory.wf s = true
  | .group s _ => Memory.wf s = true

/-- A computation that is stopped, if at all, by such a stop. -/
abbrev StopsWf {α : Type} (x : Except Stop α) : Prop := EndsWf (fun _ => True) x
/-- One whose state, where it is not stopped, has the form too. -/
abbrev StateWf (x : Except Stop State) : Prop := EndsWf (fun t => Memory.wf t = true) x

theorem wf_ite {c : Prop} [Decidable c] {s t : State} (hs : Memory.wf s = true) (ht : Memory.wf t = true) :
    Memory.wf (if c then s else t) = true := by split <;> assumption
theorem wf_iteFst {α : Type} {c : Prop} [Decidable c] {x y : State × α} (hx : Memory.wf x.1 = true) (hy : Memory.wf y.1 = true) :
    Memory.wf (if c then x else y).1 = true := by split <;> assumption
theorem nextWf_ite {c : Prop} [Decidable c] {x y : Host.Outcome State Fault Refusal} (hx : NextWf x) (hy : NextWf y) :
    NextWf (if c then x else y) := by split <;> assumption
theorem endsWf_ite {α : Type} {P : α → Prop} {c : Prop} [Decidable c] {x y : Except Stop α} (hx : EndsWf P x)
    (hy : EndsWf P y) : EndsWf P (if c then x else y) := by split <;> assumption
theorem turnWf_ite {c : Prop} [Decidable c] {x y : Turn} (hx : x.wf) (hy : y.wf) : (if c then x else y).wf := by
  split <;> assumption

theorem endsWf_bind {α β : Type} {P : α → Prop} {Q : β → Prop} {x : Except Stop α} {f : α → Except Stop β}
    (hx : EndsWf P x) (hf : ∀ a, P a → EndsWf Q (f a)) : EndsWf Q (x >>= f) := by
  cases x with
  | ok a => exact hf a hx
  | error e => exact hx
/-- A check, and what follows it. -/
theorem endsWf_check {α β : Type} {Q : β → Prop} {x : Except Stop α} {f : α → Except Stop β} (hx : StopsWf x)
    (hf : ∀ a, EndsWf Q (f a)) : EndsWf Q (x >>= f) := endsWf_bind hx fun a _ => hf a
/-- A check made under a condition, and what follows it in either case. -/
theorem endsWf_when {β : Type} {Q : β → Prop} {c : Prop} [Decidable c] {x : Except Stop Unit} {f : Unit → Except Stop β}
    (hx : StopsWf x) (hf : ∀ a, EndsWf Q (f a)) : EndsWf Q (if c then x >>= f else f ()) :=
  endsWf_ite (endsWf_check hx hf) (hf ())
/-- Either of two checks, and what follows both. -/
theorem endsWf_either {α β : Type} {Q : β → Prop} {c : Prop} [Decidable c] {x y : Except Stop α} {f : α → Except Stop β}
    (hx : StopsWf x) (hy : StopsWf y) (hf : ∀ a, EndsWf Q (f a)) : EndsWf Q (if c then x >>= f else y >>= f) :=
  endsWf_ite (endsWf_check hx hf) (endsWf_check hy hf)
theorem endsWf_map {α β : Type} {x : Except Stop α} {f : α → β} (hx : StopsWf x) : StopsWf (x.map f) := by
  cases x with
  | ok a => trivial
  | error e => exact hx

/-- A fold whose step keeps the form keeps it. -/
theorem wf_fold {β : Type} {f : State → β → State} {l : List β} {s : State}
    (hf : ∀ s b, Memory.wf s = true → Memory.wf (f s b) = true) (h : Memory.wf s = true) :
    Memory.wf (l.foldl f s) = true := wf_foldl f hf l s h
theorem wf_foldRight {β : Type} {f : β → State → State} {l : List β} {s : State}
    (hf : ∀ b s, Memory.wf s = true → Memory.wf (f b s) = true) (h : Memory.wf s = true) :
    Memory.wf (l.foldr f s) = true := by
  induction l with
  | nil => exact h
  | cons b r ih => exact hf b _ ih
/-- The same for a fold that counts. -/
theorem wf_foldFst {α β : Type} {f : State × α → β → State × α} {l : List β} {p : State × α}
    (hf : ∀ p b, Memory.wf p.1 = true → Memory.wf (f p b).1 = true) (h : Memory.wf p.1 = true) :
    Memory.wf (l.foldl f p).1 = true := by
  induction l generalizing p with
  | nil => exact h
  | cons b r ih => exact ih (hf p b h)

/-- What stops a computation stops what depends on it. -/
theorem endsWf_of_error {α β : Type} {P : α → Prop} {Q : β → Prop} {x : Except Stop α} {e : Stop}
    (hx : EndsWf P x) (he : x = .error e) : EndsWf Q (.error e) := by
  subst he
  exact hx

/-- A second instruction behind a first one, where a bit says so. -/
theorem nextWf_then {b : Bool} {f : State → Host.Outcome State Fault Refusal} {o : Host.Outcome State Fault Refusal} :
    NextWf o → (∀ t, Memory.wf t = true → NextWf (f t)) → NextWf (match o with
      | .next t => if b then f t else .next t
      | o => o) := by
  intro ho hf
  cases o with
  | next t => exact nextWf_ite (hf t ho) ho
  | fault _ | refused _ => exact ho

theorem someWf_iff {α : Type} {P : α → Prop} {x : Option α} : SomeWf P x ↔ ∀ a, x = some a → P a := by
  cases x <;> simp [SomeWf]

end Sys2Proof.Machine
end

section
/-!
PROOF. Device memory stays in canonical form: one rule for each function of the model that changes the state or stops, in the order
of the model's files, up to the step.
-/
namespace Sys2Proof.Machine

/-! ### The functions of Sys2Proof/Machine/State.lean -/

theorem wf_reset : Memory.wf State.reset = true := rfl

/-! ### The functions of Sys2Proof/Machine/Ops.lean -/

section
variable {s : State} (h : Memory.wf s = true)
include h

/-- A field beside the bytes and the tags can take any value. -/
theorem wf_withIss {a : Issue} : Memory.wf { s with iss := a } = true := Memory.wf_congr (s := s) rfl rfl h

theorem wf_withOps {a : List Op} : Memory.wf { s with ops := a } = true := Memory.wf_congr (s := s) rfl rfl h
theorem wf_withRegionLock {a : Option (Nat × Word × ThreadId)} : Memory.wf { s with regionLock := a } = true :=
  Memory.wf_congr (s := s) rfl rfl h
theorem wf_withWbuf {a : SMap RunEntry} : Memory.wf { s with wbuf := a } = true := Memory.wf_congr (s := s) rfl rfl h
theorem wf_withTiles {a : List Tile} : Memory.wf { s with tiles := a } = true := Memory.wf_congr (s := s) rfl rfl h
theorem wf_withReports {a : SMap Nat} : Memory.wf { s with domReports := a } = true := Memory.wf_congr (s := s) rfl rfl h
theorem wf_withBarage {a : Word} : Memory.wf { s with barage := a } = true := Memory.wf_congr (s := s) rfl rfl h
theorem wf_withFlagsSeen {a : SMap (BitVec 32)} : Memory.wf { s with flagsSeen := a } = true :=
  Memory.wf_congr (s := s) rfl rfl h
theorem wf_withRecords {a : List Record} : Memory.wf { s with records := a } = true := Memory.wf_congr (s := s) rfl rfl h
theorem wf_withStewardLog {a : List (BitVec 512)} : Memory.wf { s with stewardLog := a } = true :=
  Memory.wf_congr (s := s) rfl rfl h
theorem wf_withInputs {a : List Instr} : Memory.wf { s with inputs := a } = true := Memory.wf_congr (s := s) rfl rfl h
theorem wf_withDigest {a : SMap Word} : Memory.wf { s with digest := a } = true := Memory.wf_congr (s := s) rfl rfl h
theorem wf_withBootStage {a : Nat} : Memory.wf { s with bootStage := a } = true := Memory.wf_congr (s := s) rfl rfl h
theorem wf_withTasks {l : List Task} {n : Nat} : Memory.wf { s with tasks := l, nextTask := n } = true :=
  Memory.wf_congr (s := s) rfl rfl h
theorem wf_setThread {t : ThreadId} {th : Thread} : Memory.wf (s.setThread t th) = true := Memory.wf_congr rfl rfl h
theorem wf_setCoreCtx {core : Nat} {ctx : Bool} {c : CoreCtx} : Memory.wf (s.setCoreCtx core ctx c) = true :=
  Memory.wf_congr rfl rfl h
theorem wf_setCore {n : Nat} {c : Core} : Memory.wf (s.setCore n c) = true := Memory.wf_congr rfl rfl h
theorem wf_setCluster {n : Nat} {c : Cluster} : Memory.wf (s.setCluster n c) = true := Memory.wf_congr rfl rfl h
theorem wf_setQuad {n : Nat} {q : Quad} : Memory.wf (s.setQuad n q) = true := Memory.wf_congr rfl rfl h
theorem wf_setArray {n : Nat} {a : PewterArray} : Memory.wf (s.setArray n a) = true := Memory.wf_congr rfl rfl h
theorem wf_setPch {n : Nat} {p : PseudoChannel} : Memory.wf (s.setPch n p) = true := Memory.wf_congr rfl rfl h
theorem wf_setPart {n : Nat} {p : Partition} : Memory.wf (s.setPart n p) = true := Memory.wf_congr rfl rfl h
theorem wf_setPctx {part : Nat} {ctx : Bool} {p : PartCtx} : Memory.wf (s.setPctx part ctx p) = true :=
  Memory.wf_congr rfl rfl h
theorem wf_setSync {n : Nat} {o : SyncObject} : Memory.wf (s.setSync n o) = true := Memory.wf_congr rfl rfl h
theorem wf_setBarrier {n : Nat} {b : Barrier} : Memory.wf (s.setBarrier n b) = true := Memory.wf_congr rfl rfl h
theorem wf_setHart {n : Nat} {r : Hart} : Memory.wf (s.setHart n r) = true := Memory.wf_congr rfl rfl h
theorem wf_setTh {th : Thread} : Memory.wf (s.setTh th) = true := wf_setThread h
theorem wf_setCc {c : CoreCtx} : Memory.wf (s.setCc c) = true := wf_setCoreCtx h
theorem wf_setTask {t : Task} : Memory.wf (s.setTask t) = true := Memory.wf_congr rfl rfl h

omit h in
theorem wf_sources {M : Type} {s : State} {o : Fmt M} : StopsWf (s.sources o) := by
  unfold State.sources
  refine endsWf_ite trivial ?_
  split <;> trivial

theorem wf_land {d : Reg} {v : VWord} {b : Bool} {l : Nat} : Memory.wf (s.land d v b l) = true := by
  unfold State.land
  split
  · exact h
  · exact h
  · exact h
  · exact wf_setCc h
  · exact wf_ite h (wf_setTh h)

theorem wf_popOne {r : Reg} : Memory.wf (s.popOne r) = true := by
  unfold State.popOne
  split
  · exact wf_ite h (wf_setCc h)
  · exact h

theorem wf_pops {M : Type} {o : Fmt M} : Memory.wf (s.pops o) = true := wf_popOne (wf_popOne (wf_popOne h))

theorem wf_writeReg {t : ThreadId} {d : Reg} {v : VWord} {b : Bool} {st : RState} :
    Memory.wf (s.writeReg t d v b st) = true := by
  unfold State.writeReg
  split
  · exact wf_setThread h
  · exact wf_setThread h
  · exact wf_setThread h
  · exact wf_setThread h
  · exact wf_setCoreCtx h
  · exact h

theorem wf_landOne {t : ThreadId} {l : Landing} : Memory.wf (landOne t s l) = true := by
  unfold landOne
  refine wf_ite h ?_
  split
  · exact wf_setCoreCtx h
  · exact wf_writeReg h

theorem wf_landDue {t : ThreadId} : Memory.wf (landDue s t) = true := wf_fold (fun _ _ h => wf_landOne h) (wf_setThread h)
theorem wf_ageLanding {t : ThreadId} : Memory.wf (ageLanding s t) = true := wf_landDue (wf_setThread h)
theorem wf_removeOp {id : Nat} : Memory.wf (s.removeOp id) = true := Memory.wf_congr rfl rfl h
theorem wf_setOp {o : Op} : Memory.wf (s.setOp o) = true := Memory.wf_congr rfl rfl h
theorem wf_addOpOf {t : ThreadId} {d : Option Reg} {k : OpKind} : Memory.wf (s.addOpOf t d k) = true :=
  Memory.wf_congr rfl rfl h
theorem wf_addOp {d : Option Reg} {k : OpKind} : Memory.wf (s.addOp d k) = true := wf_addOpOf h
theorem wf_start {d : Reg} {k : OpKind} : Memory.wf (s.start d k) = true := Memory.wf_congr rfl rfl h

theorem wf_resolve {o : Op} {v : VWord} {b : Bool} {st : RState} : Memory.wf (s.resolve o v b st) = true := by
  unfold State.resolve
  split
  · exact wf_writeReg (wf_removeOp h)
  · exact wf_removeOp h

theorem wf_resolveStatus {o : Op} {code count : Nat} : Memory.wf (s.resolveStatus o code count) = true := wf_resolve h
theorem wf_resolveFault {o : Op} {cause : Nat} {tval : Word} : Memory.wf (s.resolveFault o cause tval) = true :=
  wf_resolve h
theorem wf_emit {t : ThreadId} {kind : Nat} {value : Word} : Memory.wf (s.emit t kind value) = true :=
  wf_ite (wf_setCore h) h

theorem wf_putBack {t : ThreadId} {p : Reg × Src} : Memory.wf (s.putBack t p) = true := by
  unfold State.putBack
  split
  · exact wf_setCoreCtx h
  · exact h

theorem wf_releaseHeld {t : ThreadId} : Memory.wf (s.releaseHeld t) = true := by
  unfold State.releaseHeld
  extract_lets th taken u v
  have hu : Memory.wf u = true := wf_foldRight (fun _ _ h => wf_putBack h) h
  have hv : Memory.wf v = true := wf_ite (Memory.wf_congr rfl rfl hu) hu
  exact wf_setThread hv

theorem wf_recall {t : ThreadId} : Memory.wf (s.recall t) = true := by
  unfold State.recall
  split
  · exact wf_ite h (wf_setThread (wf_releaseHeld h))
  · exact h

theorem wf_abandonWalks : Memory.wf s.abandonWalks = true := Memory.wf_congr rfl rfl h
theorem wf_hardHalt {core : Nat} : Memory.wf (s.hardHalt core) = true :=
  wf_abandonWalks (wf_fold (fun _ _ h => wf_setThread (wf_recall h)) (wf_setCore h))
theorem wf_doubleTrap {t : ThreadId} {cause : Nat} {tval : Word} : Memory.wf (s.doubleTrap t cause tval) = true :=
  wf_record _ _ _ _ _ _ (wf_setThread (wf_releaseHeld h))
theorem wf_enterHandler {t : ThreadId} {interrupt : Bool} {code : Nat} {tval : Word} :
    Memory.wf (s.enterHandler t interrupt code tval) = true :=
  wf_emit (wf_setThread (wf_setCoreCtx (wf_releaseHeld h)))
theorem wf_trapThread {t : ThreadId} {cause : Nat} {tval : Word} : Memory.wf (s.trapThread t cause tval) = true :=
  wf_ite (wf_doubleTrap h) (wf_enterHandler h)
theorem wf_takeTrap {cause : Nat} {tval : Word} : Memory.wf (s.takeTrap cause tval) = true := wf_withIss (wf_trapThread h)

theorem wf_waitFor {w : Wait} : Memory.wf (s.waitFor w) = true := by
  unfold State.waitFor
  split
  · exact wf_ite (wf_setTh h) (Memory.wf_congr rfl rfl h)
  · exact wf_setTh h

theorem wf_park {w : Wait} : Memory.wf (s.park w) = true := wf_withIss (wf_waitFor h)

/-- A slot keeps the form where its body does. -/
theorem wf_slot {p : Pred} {body : Except Stop State} (hb : StateWf body) : NextWf (s.slot p body) := by
  unfold State.slot
  refine nextWf_ite ?_ h
  cases body with
  | ok t => exact hb
  | error e =>
    cases e with
    | trap c v => exact wf_takeTrap h
    | trapIn t c v => exact wf_takeTrap hb
    | park w => exact wf_park h
    | hand t => exact Memory.wf_congr (s := t) rfl rfl hb

omit h in
theorem wf_pcTrap {α : Type} {P : α → Prop} {s : State} {cause : Nat} : EndsWf P (s.pcTrap cause) := trivial
omit h in
theorem wf_noBounded {s : State} {l : List Src} : StopsWf (s.noBounded l) := endsWf_ite wf_pcTrap trivial

theorem wf_keepIn {α : Type} {P : α → Prop} {x : Except Stop α} (hx : EndsWf P x) : EndsWf P (keepIn s x) := by
  unfold keepIn
  split
  · exact h
  · exact hx

omit h in
theorem wf_failIf {c : Bool} {cause : Nat} {tval : Word} : StopsWf (failIf c cause tval) := endsWf_ite trivial trivial
theorem wf_returnWith {l : List Landing} : Memory.wf (s.returnWith l) = true := Memory.wf_congr rfl rfl h

end

/-! ### The functions of Sys2Proof/Machine/Memory.lean -/

section
variable {s : State} (h : Memory.wf s = true)
include h

theorem wf_tlbFill {core : Nat} {e : TlbEntry} : Memory.wf (s.tlbFill core e) = true :=
  wf_ite (wf_setCore h) (wf_setCluster (wf_setCore h))

omit h in
theorem wf_translate {s : State} {va : Word} {k : Access} : StopsWf (s.translate va k) := by
  unfold State.translate
  refine endsWf_ite trivial ?_
  split
  · exact endsWf_ite trivial trivial
  · split <;> trivial

theorem wf_setPort {p : Nat} {v : Port} : Memory.wf (s.setPort p v) = true := Memory.wf_congr rfl rfl h

end

/-! ### The functions of Sys2Proof/Machine/Errors.lean -/

section
variable {s : State} (h : Memory.wf s = true)
include h

theorem wf_interrupt {n : Nat} : Memory.wf (s.interrupt n) = true := Memory.wf_congr rfl rfl h

/-- A write that is recorded keeps the form where the write does. -/
theorem wf_logged {make : State → State} (hm : ∀ s, Memory.wf s = true → Memory.wf (make s) = true) :
    Memory.wf (s.logged make) = true :=
  Memory.wf_congr (s := make { s with records := [] }) rfl rfl (hm _ (Memory.wf_congr rfl rfl h))

theorem wf_unitError {part : Nat} {ctx : Bool} {unit event src addr detail pc cause thr count : Nat} :
    Memory.wf (s.unitError part ctx unit event src addr detail pc cause thr count) = true :=
  wf_hwError _ _ _ _ _ _ _ _ _ _ _ _ (wf_logged h fun _ h => wf_hwError _ _ _ _ _ _ _ _ _ _ _ _ h)
theorem wf_eccAllFor {r : Reader} {l : List (Nat × Nat)} : Memory.wf (s.eccAllFor r l) = true :=
  wf_ite h (wf_fold (fun _ _ h => wf_eccFor _ _ _ h) h)
theorem wf_badWord {core : Nat} {ctx : Bool} {unit pc cause thr w : Nat} :
    Memory.wf (s.badWord core ctx unit pc cause thr w) = true :=
  wf_errorWith _ _ _ _ _ (fun _ _ _ h => wf_ite h (wf_hwError _ _ _ _ _ _ _ _ _ _ _ _ h)) (wf_setCoreCtx h)
theorem wf_spadScrubFor {r : Reader} {core : Nat} {ctx : Bool} {a n : Nat} :
    Memory.wf (s.spadScrubFor r core ctx a n) = true :=
  wf_fold (fun _ _ h => wf_badWord h) h

theorem wf_spadEcc {l : List Word} {n : Nat} : StopsWf (s.spadEcc l n) := by
  unfold State.spadEcc
  split
  · trivial
  · exact wf_fold (fun _ _ h => wf_badWord h) h

end

/-! ### The functions of Sys2Proof/Machine/Merge.lean -/

section
variable {s : State} (h : Memory.wf s = true)
include h

theorem wf_mergeFault {level src reason : Nat} {older newer : RunEntry} :
    Memory.wf (s.mergeFault level src reason older newer) = true :=
  wf_record _ _ _ _ _ _ h

theorem wf_fold2 {level src : Nat} {older newer : RunEntry} : Memory.wf (s.fold2 level src older newer).1 = true := by
  unfold State.fold2
  dsimp only
  split
  · exact h
  · exact wf_mergeFault h

omit h in
theorem wf_foldAll {level src : Nat} {l : List RunEntry} :
    ∀ {s : State} {o : Option RunEntry}, Memory.wf s = true → Memory.wf (s.foldAll level src o l).1 = true := by
  induction l with
  | nil => intro s o h; cases o <;> exact h
  | cons e r ih =>
    intro s o h
    cases o with
    | none => exact ih h
    | some o => exact ih (wf_fold2 h)

theorem wf_pushPath {src slice : Nat} {i : PathItem} : Memory.wf (s.pushPath src slice i) = true :=
  Memory.wf_congr rfl rfl h
theorem wf_pushEntries {src : Nat} {es : List RunEntry} : Memory.wf (s.pushEntries src es) = true :=
  wf_fold (fun _ _ h => wf_pushPath h) h
theorem wf_l1Put {cluster : Nat} {e : RunEntry} : Memory.wf (s.l1Put cluster e) = true := wf_setCluster h
theorem wf_l1Drop {cluster key : Nat} {ctx : Bool} : Memory.wf (s.l1Drop cluster key ctx) = true := wf_setCluster h

theorem wf_l1Move {cluster key : Nat} {ctx : Bool} : Memory.wf (s.l1Move cluster key ctx) = true := by
  unfold State.l1Move
  split
  · exact h
  · exact wf_pushPath (wf_l1Drop h)

theorem wf_l1MoveAll {cluster : Nat} {ctx : Bool} {sel : RunEntry → Bool} :
    Memory.wf (s.l1MoveAll cluster ctx sel) = true :=
  wf_fold (fun _ _ h => wf_l1Move h) h

theorem wf_l0Move {core : Nat} {ctx : Bool} {sel : RunEntry → Bool} : Memory.wf (s.l0Move core ctx sel) = true := by
  unfold State.l0Move
  dsimp only
  refine wf_ite (wf_pushEntries (wf_setCoreCtx h)) (wf_fold (fun _ _ h => ?_)
    (wf_ite (wf_l1MoveAll (wf_setCoreCtx h)) (wf_setCoreCtx h)))
  split
  · exact wf_l1Put (wf_foldAll h)
  · exact wf_foldAll h

theorem wf_feed {core : Nat} {ctx : Bool} : Memory.wf (s.feed core ctx) = true := wf_setCoreCtx h
theorem wf_l0Commit {core : Nat} {ctx : Bool} : Memory.wf (s.l0Commit core ctx) = true :=
  wf_feed (wf_setCoreCtx (wf_l0Move h))
theorem wf_insert {es : List RunEntry} : Memory.wf (s.insert es) = true := wf_feed (wf_setCc h)

omit h in
theorem wf_flushPort {core : Nat} {ctx : Bool} {n : Nat} :
    ∀ {s : State}, Memory.wf s = true → Memory.wf (flushPort s core ctx n) = true := by
  induction n with
  | zero => exact fun h => h
  | succ n ih => exact fun h => wf_ite (ih (wf_l0Commit h)) h

theorem wf_flush {core : Nat} {ctx : Bool} : Memory.wf (s.flush core ctx) = true := wf_flushPort h
theorem wf_drain {core : Nat} {ctx toL2 : Bool} {sel : RunEntry → Bool} : Memory.wf (s.drain core ctx toL2 sel).1 = true :=
  wf_ite (wf_l1MoveAll (wf_l0Move (wf_flush h))) (wf_l0Move (wf_flush h))
theorem wf_l2Put {e : RunEntry} : Memory.wf (s.l2Put e) = true := Memory.wf_congr rfl rfl h
theorem wf_l2Drop {key : Nat} : Memory.wf (s.l2Drop key) = true := Memory.wf_congr rfl rfl h
theorem wf_poisonLimit {e : RunEntry} : Memory.wf (s.poisonLimit e) = true :=
  wf_unitError (wf_setBlockTag _ _ (wf_l2Drop (wf_ecc _ _ h)))
theorem wf_l2PutChecked {e : RunEntry} : Memory.wf (s.l2PutChecked e) = true := wf_ite (wf_poisonLimit h) (wf_l2Put h)

theorem wf_l2Fold {src : Nat} {es : List RunEntry} : Memory.wf (s.l2Fold src es) = true := by
  unfold State.l2Fold
  dsimp only
  split
  · exact h
  · split
    · exact wf_l2PutChecked (wf_foldAll h)
    · exact wf_foldAll h

theorem wf_startWriteBack {key : Nat} : Memory.wf (s.startWriteBack key) = true := by
  unfold State.startWriteBack
  split
  · exact wf_ite h (Memory.wf_congr rfl rfl h)
  · exact h

/-- A write-back goes to the bytes where the value fits its region, and stays in L2 as poison where not. -/
theorem wf_commitBuffered {key : Nat} : Memory.wf (s.commitBuffered key).1 = true := by
  unfold State.commitBuffered
  dsimp only
  split
  · exact h
  · next e _ =>
    have he : Memory.wf (State.ecc { s with wbuf := s.wbuf.del key } (key * 4) (regBytes (s.region e.region))) = true :=
      wf_ecc _ _ (wf_withWbuf h)
    split
    · exact wf_dramStore _ _ _ he
    · split
      · exact wf_l2PutChecked (wf_mergeFault he)
      · exact wf_l2PutChecked (wf_fold2 (wf_mergeFault he))

theorem wf_commitWriteBack {key : Nat} : Memory.wf (s.commitWriteBack key) = true := wf_commitBuffered h

theorem wf_drainKey {region key : Nat} : Memory.wf (s.drainKey region key).1 = true := by
  unfold State.drainKey
  dsimp only
  split
  · exact wf_iteFst (wf_commitBuffered h) (wf_commitBuffered (wf_startWriteBack (wf_commitBuffered h)))
  · exact wf_commitBuffered h

theorem wf_writeBackNow {key : Nat} : Memory.wf (s.writeBackNow key) = true := by
  unfold State.writeBackNow
  dsimp only
  split
  · exact wf_ite (wf_commitWriteBack h) (wf_commitWriteBack (wf_startWriteBack (wf_commitWriteBack h)))
  · exact wf_commitWriteBack h

theorem wf_sliceWrite {pa : Nat} {l : List Byte} : Memory.wf (s.sliceWrite pa l) = true :=
  wf_fold (fun _ _ h => wf_ite (Memory.wf_congr rfl rfl h) (wf_writeBackNow h)) h

end

/-! ### The functions of Sys2Proof/Machine/Group.lean -/

section
variable {s : State} (h : Memory.wf s = true)
include h

theorem wf_refreshQueue : Memory.wf s.refreshQueue = true := wf_setTh h

theorem wf_postOne {p : Post} : Memory.wf (s.postOne p) = true := by
  unfold State.postOne
  split
  · exact wf_writeReg (wf_setCc h)
  · exact wf_writeReg h
  · exact wf_writeReg h
  · exact wf_setCc h

theorem wf_landRest : Memory.wf s.landRest = true := wf_ite (wf_setCc (wf_fold (fun _ _ h => wf_ageLanding h) h)) h
theorem wf_finishGroup : Memory.wf s.finishGroup = true :=
  wf_withIss (wf_landRest (wf_ageLanding (wf_fold (fun _ _ h => wf_postOne h) (wf_refreshQueue (wf_setTh h)))))
theorem wf_emptyGroup : Memory.wf s.emptyGroup = true := wf_ageLanding (wf_setTh h)
theorem wf_invalidateLines : Memory.wf s.invalidateLines = true := wf_setTh (wf_setCluster (wf_setCore h))

theorem wf_afterFence {a : After} : Memory.wf (s.afterFence a) = true := by
  unfold State.afterFence
  split
  · exact h
  · exact wf_invalidateLines h
  · split
    · exact Memory.wf_congr rfl rfl h
    · exact h
  · split
    · exact wf_ite h (wf_setTask (wf_setTh h))
    · exact h

theorem wf_endWait : Memory.wf s.endWait = true := wf_setTh h

theorem wf_endFence : Memory.wf s.endFence = true := by
  unfold State.endFence
  split
  · exact wf_afterFence (wf_setTh h)
  · exact h

theorem wf_prepareGroup {bytes : List Byte} : (s.prepareGroup bytes).wf := by
  unfold State.prepareGroup
  refine turnWf_ite h (turnWf_ite h ?_)
  split
  · exact h
  · exact h
  · refine turnWf_ite ?_ (turnWf_ite h h)
    split
    · exact h
    · exact h
    · exact turnWf_ite h h

theorem wf_prepareLine {l : LineBuf} : (s.prepareLine l).wf := by
  unfold State.prepareLine
  dsimp only
  refine turnWf_ite h (turnWf_ite ?_ (turnWf_ite (wf_setTh h) (wf_prepareGroup (wf_setTh h))))
  split
  · exact wf_setTh (wf_setTh h)
  · exact wf_prepareGroup (wf_setTh (wf_setTh h))

theorem wf_prepareHeld {g : Held} : (s.prepareHeld g).wf := by
  unfold State.prepareHeld
  split <;> exact h

theorem wf_prepareFetch : s.prepareFetch.wf := by
  unfold State.prepareFetch
  refine turnWf_ite h (turnWf_ite h ?_)
  split
  · exact wf_prepareLine h
  · split
    · exact wf_prepareLine h
    · exact h
    · exact h
    · exact h

theorem wf_prepare : s.prepare.wf := by
  unfold State.prepare
  refine turnWf_ite trivial ?_
  extract_lets u
  have hu : Memory.wf u = true := wf_endWait (wf_refreshQueue h)
  refine turnWf_ite hu ?_
  split
  · exact hu
  · split
    · exact turnWf_ite hu (wf_prepareHeld hu)
    · split
      · exact hu
      · exact wf_prepareFetch hu

end

/-! ### The functions of Sys2Proof/Machine/Flags.lean -/

section
variable {s : State} (h : Memory.wf s = true)
include h

theorem wf_raise {f : Flags} : Memory.wf (s.raise f) = true := wf_setTh h

end

/-! ### The functions of Sys2Proof/Machine/Operands.lean -/

theorem wf_vecSources {s : State} {o : Fmt VecMod} {old : Bool} : StopsWf (s.vecSources o old) := by
  unfold State.vecSources
  dsimp only
  refine endsWf_check wf_sources fun ⟨_, _, _⟩ => ?_
  split <;> trivial

/-! ### The functions of Sys2Proof/Machine/Scratch.lean -/

section
variable {s : State} (h : Memory.wf s = true)
include h

theorem wf_watch {key write : Bool} {a n : Nat} : Memory.wf (s.watch key write a n) = true :=
  wf_fold (fun _ _ h => wf_ite (wf_ite (wf_setTh h) (wf_hardHalt h)) h) h
theorem wf_watchAll {key write : Bool} {l : List (Nat × Nat)} : Memory.wf (s.watchAll key write l) = true :=
  wf_fold (fun _ _ h => wf_watch h) h

omit h in
theorem wf_failFirst {l : List Word} {bad : Word → Bool} {cause : Nat} : StopsWf (failFirst l bad cause) := by
  unfold failFirst
  split <;> trivial

omit h in
theorem wf_spadCheck {s : State} {l : List Word} {align : Nat} {write : Bool} : StopsWf (s.spadCheck l align write) :=
  endsWf_check wf_failFirst fun _ => wf_failFirst
omit h in
theorem wf_spadPoison {s : State} {l : List Word} : StopsWf (s.spadPoison l) := wf_failFirst
theorem wf_spadLoad {l : List Word} {align n : Nat} : StopsWf (s.spadLoad l align n) :=
  endsWf_check wf_spadCheck fun _ => endsWf_check (wf_spadEcc h) fun _ => endsWf_check wf_spadPoison fun _ => trivial
theorem wf_spadStore {a : Nat} {l : List Byte} {b : Bool} : Memory.wf (s.spadStore a l b) = true := wf_setCc h
theorem wf_execLds {o : Fmt SpadMod} : NextWf (execLds o s) :=
  wf_slot h (endsWf_check wf_sources fun ⟨_, _, _⟩ => endsWf_check wf_noBounded fun _ =>
    endsWf_check (wf_spadLoad h) fun _ => wf_land (wf_watch h))
theorem wf_execSts {o : Fmt SpadMod} : NextWf (execSts o s) :=
  wf_slot h (endsWf_check wf_sources fun ⟨_, _, _⟩ => endsWf_check wf_noBounded fun _ => endsWf_check wf_spadCheck fun _ =>
    wf_spadStore (wf_watch h))

omit h in
theorem wf_spadOld {s : State} {m : SpadMod} {d : Reg} {imm : BitVec 32} : StopsWf (s.spadOld m d imm) := by
  unfold State.spadOld
  dsimp only
  refine endsWf_ite ?_ trivial
  split <;> trivial

theorem wf_execLdsv {o : Fmt SpadMod} : NextWf (execLdsv o s) :=
  wf_slot h (endsWf_check wf_sources fun ⟨_, _, _⟩ => endsWf_check wf_spadOld fun _ => endsWf_check wf_noBounded fun _ =>
    endsWf_check wf_failIf fun _ => endsWf_check (wf_spadLoad h) fun _ => wf_land (wf_watchAll h))
theorem wf_execStsv {o : Fmt SpadMod} : NextWf (execStsv o s) :=
  wf_slot h (endsWf_check wf_sources fun ⟨_, _, _⟩ => endsWf_check wf_noBounded fun _ => endsWf_check wf_failIf fun _ =>
    endsWf_check wf_spadCheck fun _ => wf_setCc (wf_fold (fun _ _ h => wf_spadStore h) (wf_watchAll h)))
theorem wf_execVgaths {o : Fmt SpadMod} : NextWf (execVgaths o s) :=
  wf_slot h (endsWf_check wf_sources fun ⟨_, _, _⟩ => endsWf_check wf_spadOld fun _ => endsWf_check wf_noBounded fun _ =>
    endsWf_check (wf_spadLoad h) fun _ => wf_land (wf_watchAll h))
theorem wf_execVscats {o : Fmt SpadMod} : NextWf (execVscats o s) :=
  wf_slot h (endsWf_check wf_sources fun ⟨_, _, _⟩ => endsWf_check wf_noBounded fun _ => endsWf_check wf_spadCheck fun _ =>
    wf_fold (fun _ _ h => wf_spadStore h) (wf_watchAll h))
theorem wf_execLdt {o : Fmt Unit} : NextWf (execLdt o s) :=
  wf_slot h (endsWf_check wf_sources fun ⟨_, _, _⟩ => endsWf_check wf_noBounded fun _ => endsWf_check wf_spadCheck fun _ =>
    wf_land h)
theorem wf_execStt {o : Fmt Unit} : NextWf (execStt o s) :=
  wf_slot h (endsWf_check wf_sources fun ⟨_, _, _⟩ => endsWf_check wf_noBounded fun _ => endsWf_check wf_spadCheck fun _ =>
    wf_setCc (wf_ite (wf_setTh h) h))
theorem wf_samoOp {o : Fmt SamoMod} {ret : Bool} : NextWf (s.samoOp o ret) :=
  wf_slot h (endsWf_check wf_sources fun ⟨_, _, _⟩ => endsWf_check wf_noBounded fun _ => endsWf_check wf_spadCheck fun _ =>
    endsWf_check (wf_spadEcc h) fun _ => endsWf_check wf_failIf fun _ => endsWf_check wf_spadPoison fun _ =>
    wf_ite (wf_land (wf_raise (wf_spadStore (wf_watch h)))) (wf_raise (wf_spadStore (wf_watch h))))
theorem wf_execSamo {o : Fmt SamoMod} : NextWf (execSamo o s) := wf_samoOp h
theorem wf_execSamon {o : Fmt SamoMod} : NextWf (execSamon o s) := wf_samoOp h

end

/-! ### The functions of Sys2Proof/Machine/Global.lean -/

section
variable {s : State} (h : Memory.wf s = true)
include h

omit h in
theorem wf_translateAll {s : State} {k : Access} : ∀ {l : List (Nat × Word)}, StopsWf (s.translateAll k l)
  | [] => trivial
  | (_, va) :: r => by
    unfold State.translateAll
    split
    · exact endsWf_of_error wf_translate ‹_›
    · exact endsWf_map wf_translateAll

omit h in
theorem wf_failElem {l : List GElem} {bad : GElem → Bool} {cause : Nat} : StopsWf (failElem l bad cause) := by
  unfold failElem
  split <;> trivial

omit h in
theorem wf_globCheck {s : State} {f : GForm} {o : Fmt GlobMod} {store cmb : Bool} {a b : Src} :
    StopsWf (s.globCheck f o store cmb a b) :=
  endsWf_check wf_noBounded fun _ => endsWf_check wf_failFirst fun _ => endsWf_check wf_translateAll fun _ =>
    endsWf_when trivial fun _ => endsWf_check wf_failElem fun _ => trivial

omit h in
theorem wf_globUpdates {s : State} {m : GlobMod} {data : VWord} {e : GElem} : StopsWf (s.globUpdates m data e) := by
  unfold State.globUpdates
  refine endsWf_ite trivial ?_
  split <;> trivial

omit h in
theorem wf_allUpdates {s : State} {m : GlobMod} {data : VWord} : ∀ {l : List GElem}, StopsWf (s.allUpdates m data l)
  | [] => trivial
  | e :: r => by
    unfold State.allUpdates
    split
    · exact endsWf_of_error wf_globUpdates ‹_›
    · exact endsWf_map wf_allUpdates

theorem wf_sendUpdates {kind : EntryKind} {l : List (GElem × Nat × Int)} : Memory.wf (s.sendUpdates kind l) = true :=
  wf_fold (fun _ _ h => wf_addOp h) h

theorem wf_judgedOr {first : Except Stop State} (hf : StateWf first) : StateWf (s.judgedOr first) := by
  unfold State.judgedOr
  split
  · exact h
  · trivial
  · exact hf

theorem wf_awaitVerdict : StateWf s.awaitVerdict := wf_setTh h
theorem wf_boundedStore {m : GlobMod} {data : VWord} {l : List GElem} : StateWf (s.boundedStore m data l) :=
  wf_awaitVerdict (wf_addOp h)

theorem wf_globStore {f : GForm} {cmb : Bool} {o : Fmt GlobMod} : NextWf (s.globStore f cmb o) := by
  refine wf_slot h (wf_judgedOr h (endsWf_check wf_sources fun ⟨_, _, _⟩ => endsWf_check wf_globCheck fun es =>
    endsWf_ite wf_pcTrap (endsWf_ite (wf_boundedStore h) (endsWf_check wf_allUpdates fun us => endsWf_when trivial fun _ =>
    ?_))))
  extract_lets kind u local_ v w
  have hu : Memory.wf u = true := wf_watchAll h
  have hv : Memory.wf v = true := wf_ite hu (wf_insert hu)
  have hw : Memory.wf w = true := wf_sendUpdates hv
  exact wf_ite hw (wf_addOp hw)

theorem wf_execStg {o : Fmt GlobMod} : NextWf (execStg o s) := wf_globStore h
theorem wf_execStgv {o : Fmt GlobMod} : NextWf (execStgv o s) := wf_globStore h
theorem wf_execStgx {o : Fmt GlobMod} : NextWf (execStgx o s) := wf_globStore h
theorem wf_execCmb {o : Fmt GlobMod} : NextWf (execCmb o s) := wf_globStore h
theorem wf_execCmbv {o : Fmt GlobMod} : NextWf (execCmbv o s) := wf_globStore h
theorem wf_execCmbx {o : Fmt GlobMod} : NextWf (execCmbx o s) := wf_globStore h
theorem wf_sendLanes {op : Nat} {l : List LaneReq} : Memory.wf (s.sendLanes op l) = true :=
  wf_fold (fun _ _ h => wf_ite (wf_pushPath h) h) h

omit h in
theorem wf_globOld {s : State} {f : GForm} {o : Fmt GlobMod} : StopsWf (s.globOld f o) := by
  unfold State.globOld
  dsimp only
  refine endsWf_ite ?_ trivial
  split <;> trivial

theorem wf_globLoad {f : GForm} {o : Fmt GlobMod} : NextWf (s.globLoad f o) :=
  wf_slot h (endsWf_check wf_sources fun ⟨_, _, _⟩ => endsWf_check wf_globOld fun _ => endsWf_check wf_globCheck fun _ =>
    endsWf_when trivial fun _ => wf_sendLanes (wf_start (wf_watchAll h)))
theorem wf_execLdg {o : Fmt GlobMod} : NextWf (execLdg o s) := wf_globLoad h
theorem wf_execLdgv {o : Fmt GlobMod} : NextWf (execLdgv o s) := wf_globLoad h
theorem wf_execLdgx {o : Fmt GlobMod} : NextWf (execLdgx o s) := wf_globLoad h

theorem wf_addDelay {t : ThreadId} {stack : Option Nat} {i : Nat} : Memory.wf (s.addDelay t stack i) = true := by
  unfold State.addDelay
  split <;> exact wf_setThread h

theorem wf_finishLoad {o : Op} {fmt : LoadFmt} {lanes : List LaneReq} : Memory.wf (s.finishLoad o fmt lanes) = true := by
  unfold State.finishLoad
  split
  · exact wf_resolveFault (wf_fold (fun _ _ h => wf_addDelay h) h)
  · exact wf_resolve (wf_fold (fun _ _ h => wf_addDelay h) h)

theorem wf_popPath {e : PathEntry} : Memory.wf (s.popPath e) = true := Memory.wf_congr rfl rfl h

theorem wf_execLoadServe {op : Nat} : NextWf (execLoadServe op s) := by
  unfold execLoadServe
  split
  · split
    · refine nextWf_ite (wf_finishLoad h) ?_
      split
      · refine wf_setOp (wf_popPath ?_)
        split
        · exact wf_ite h (wf_eccFor _ _ _ h)
        · exact h
      · exact h
    · exact h
  · exact h

theorem wf_arriveAt {o : Op} {pch : Nat} : Memory.wf (s.arriveAt o pch) = true := wf_ite h (wf_setPch h)
theorem wf_arriveAll {o : Op} : Memory.wf (s.arriveAll o) = true := wf_fold (fun _ _ h => wf_arriveAt h) h
theorem wf_arriveWhole {o : Op} : Memory.wf (s.arriveWhole o) = true :=
  wf_ite (wf_fold (fun _ _ h => wf_ite h (wf_setPch h)) h) h
theorem wf_judge {t : ThreadId} {v : Verdict} : Memory.wf (s.judge t v) = true := wf_setThread h
theorem wf_answerHart {hart : Nat} {a : Answer} : Memory.wf (s.answerHart hart a) = true := wf_setHart h
theorem wf_hartGo {hart length : Nat} : Memory.wf (s.hartGo hart length) = true := wf_setHart h
theorem wf_hartLoadFault {hart pa : Nat} {l : HartLoad} : Memory.wf (s.hartLoadFault hart pa l) = true := wf_setHart h
theorem wf_hartStoreFault {hart pa : Nat} : Memory.wf (s.hartStoreFault hart pa) = true := wf_setHart h

theorem wf_answerAt {hart pa : Nat} {l : HartLoad} {a : Answer} : Memory.wf (s.answerAt hart pa l a) = true := by
  unfold State.answerAt
  split
  · exact wf_hartLoadFault h
  · exact wf_setHart h
  · exact wf_answerHart h

theorem wf_boundedPerform {o : Op} {width : Nat} {elems : List ElemReq} :
    Memory.wf (s.boundedPerform o width elems) = true := by
  unfold State.boundedPerform
  dsimp only
  split
  · exact wf_judge (wf_removeOp (wf_eccAllFor h))
  · exact wf_judge (wf_removeOp (wf_ite (wf_eccAllFor h) (wf_fold (fun _ _ h => wf_plainStore _ _ _ _ h) (wf_eccAllFor h))))

theorem wf_execBankAccessPerform {op : Nat} : NextWf (execBankAccessPerform op s) := by
  unfold execBankAccessPerform
  dsimp only
  split
  · split
    · refine nextWf_ite (wf_ite h (wf_ite (wf_boundedPerform h) (wf_arriveWhole h))) ?_
      split
      · exact wf_ite (Memory.wf_congr (s := State.plainStore _ _ _ _ _) rfl rfl (wf_plainStore _ _ _ _ h))
          (wf_setOp (wf_plainStore _ _ _ _ h))
      · exact wf_arriveAll h
    · split
      · refine wf_setOp ?_
        split
        · exact wf_eccFor _ _ _ h
        · exact h
      · exact wf_arriveAll h
    · refine wf_ite (wf_removeOp (wf_answerAt ?_)) (wf_arriveAll h)
      split
      · exact wf_dramStore _ _ _ (wf_ecc _ _ h)
      · exact wf_ecc _ _ h
    · exact h
  · exact h

theorem wf_execL0MergeCommit {core : Nat} {ctx : Bool} : NextWf (execL0MergeCommit core ctx s) := wf_ite (wf_l0Commit h) h
theorem wf_execL1Move {cluster key : Nat} {ctx : Bool} : NextWf (execL1Move cluster key ctx s) := wf_l1Move h

theorem wf_makeRoom {slice key : Nat} : Memory.wf (s.makeRoom slice key) = true := by
  unfold State.makeRoom
  dsimp only
  refine wf_ite h ?_
  split
  · exact h
  · exact wf_startWriteBack h

theorem wf_resolveAt {op : Nat} {es : List RunEntry} : Memory.wf (s.resolveAt op es) = true := by
  unfold State.resolveAt
  dsimp only
  split
  · exact wf_resolveStatus (wf_fold (fun _ _ h => wf_l2Put (wf_makeRoom h)) h)
  · exact wf_fold (fun _ _ h => wf_l2Put (wf_makeRoom h)) h

theorem wf_execL2Fold {path slice : Nat} : NextWf (execL2Fold path slice s) := by
  unfold execL2Fold
  split
  · split
    · next e _ _ es _ =>
      have hp : Memory.wf (s.popPath e) = true := wf_popPath h
      cases es with
      | nil => exact wf_l2Fold hp
      | cons f r => exact wf_l2Fold (wf_makeRoom hp)
    · exact wf_resolveAt (wf_popPath h)
    · exact h
  · exact h

theorem wf_execWriteBack {key : Nat} : NextWf (execWriteBack key s) := wf_startWriteBack h
theorem wf_execWriteBackCommit {key : Nat} : NextWf (execWriteBackCommit key s) := wf_ite h (wf_commitWriteBack h)

end

/-! ### The functions of Sys2Proof/Machine/Mergectl.lean -/

section
variable {s : State} (h : Memory.wf s = true)
include h

omit h in
theorem wf_scopeCheck {s : State} {sc : Scope} {w : Word} : StopsWf (s.scopeCheck sc w) := wf_failIf
theorem wf_drainTo {core : Nat} {ctx : Bool} {level : Nat} {ops : List Nat} :
    Memory.wf (s.drainTo core ctx level ops).1 = true :=
  wf_iteFst h (wf_drain h)
theorem wf_beginFence {level : Nat} : Memory.wf (s.beginFence level).1 = true := wf_iteFst (wf_addOp h) (wf_drainTo h)
theorem wf_execMdrain {o : Fmt ScopeMod} : NextWf (execMdrain o s) :=
  wf_slot h (endsWf_check wf_sources fun ⟨_, _, _⟩ => endsWf_check wf_noBounded fun _ => endsWf_check wf_scopeCheck fun _ =>
    wf_start h)
theorem wf_execMdrainRegion {o : Fmt Unit} : NextWf (execMdrainRegion o s) :=
  wf_slot h (endsWf_check wf_sources fun ⟨_, _, _⟩ => endsWf_check wf_noBounded fun _ => endsWf_check wf_failIf fun _ =>
    wf_start h)

theorem wf_execMresolve {o : Fmt GlobMod} : NextWf (execMresolve o s) := by
  unfold execMresolve
  refine wf_slot h (endsWf_check wf_sources fun ⟨_, _, _⟩ => endsWf_check wf_globCheck fun _ =>
    endsWf_check wf_failElem fun _ => endsWf_when wf_pcTrap fun _ => endsWf_check wf_allUpdates fun _ => ?_)
  dsimp only
  split
  · exact endsWf_ite (wf_start (wf_watchAll h)) (wf_pushPath (wf_start (wf_watchAll h)))
  · exact wf_watchAll h

theorem wf_execRgset {o : Fmt Unit} : NextWf (execRgset o s) := by
  unfold execRgset
  refine wf_slot h (wf_judgedOr h (endsWf_check wf_sources fun ⟨_, _, _⟩ => endsWf_check wf_noBounded fun _ =>
    endsWf_check wf_failIf fun _ => ?_))
  split
  · trivial
  · exact wf_awaitVerdict (Memory.wf_congr rfl rfl h)

theorem wf_execRgget {o : Fmt Unit} : NextWf (execRgget o s) :=
  wf_slot h (endsWf_check wf_sources fun ⟨_, _, _⟩ => endsWf_check wf_noBounded fun _ => endsWf_check wf_failIf fun _ =>
    wf_start h)

theorem wf_execMdrainComplete {op : Nat} : NextWf (execMdrainComplete op s) := by
  unfold execMdrainComplete
  split
  · split
    · exact nextWf_ite (wf_ite (wf_resolveStatus h) h) (nextWf_ite (nextWf_ite h (wf_setOp (wf_drainTo h)))
        (nextWf_ite (wf_resolveStatus h) h))
    · refine nextWf_ite (wf_resolveStatus h) (nextWf_ite h (wf_setOp ?_))
      exact wf_foldFst (fun _ _ h => wf_drainKey h) h
    · exact h
  · exact h

theorem wf_setRegion {id : Nat} {r : BitVec 128} : Memory.wf (s.setRegion id r) = true := Memory.wf_congr rfl rfl h

theorem wf_execRegionCensus {t : ThreadId} : NextWf (execRegionCensus t s) := by
  unfold execRegionCensus
  split
  · have hu : Memory.wf { s with regionLock := none } = true := wf_withRegionLock h
    exact nextWf_ite h (nextWf_ite (nextWf_ite (wf_judge (wf_ite hu (wf_setRegion hu))) (wf_judge hu)) h)
  · exact h

theorem wf_execRggetResolve {op : Nat} : NextWf (execRggetResolve op s) := by
  unfold execRggetResolve
  split
  · split
    · exact wf_resolve h
    · exact h
  · exact h

end

/-! ### The functions of Sys2Proof/Machine/Sync.lean -/

section
variable {s : State} (h : Memory.wf s = true)
include h

omit h in
theorem wf_objectOf {s : State} {w : Word} : StopsWf (s.objectOf w) := by
  unfold State.objectOf
  split
  · trivial
  · exact endsWf_ite trivial trivial

omit h in
theorem wf_rangePages {s : State} : ∀ {n va : Nat}, StopsWf (s.rangePages va n)
  | 0, _ => trivial
  | n + 1, va => by
    unfold State.rangePages
    refine endsWf_ite wf_rangePages ?_
    split
    · exact wf_rangePages
    · exact endsWf_of_error wf_translate ‹_›

omit h in
theorem wf_rangeLeaf {s : State} {r : Word × Word} : StopsWf (s.rangeLeaf r) := by
  unfold State.rangeLeaf
  split
  · exact endsWf_of_error wf_translate ‹_›
  · extract_lets
    split
    · next hx => exact endsWf_of_error (P := fun _ => True) (by rw [← hx]; exact endsWf_ite trivial wf_rangePages) rfl
    · exact endsWf_ite trivial (endsWf_map wf_translate)

omit h in
theorem wf_rangeLeaves {s : State} : ∀ {l : List (Word × Word)}, StopsWf (s.rangeLeaves l)
  | [] => trivial
  | r :: l => by
    unfold State.rangeLeaves
    split
    · exact endsWf_of_error wf_rangeLeaf ‹_›
    · exact endsWf_map wf_rangeLeaves

theorem wf_execBind {o : Fmt ScopeMod} : NextWf (execBind o s) := by
  unfold execBind
  dsimp only
  refine wf_slot h (endsWf_check wf_sources fun ⟨_, _, _⟩ => endsWf_check wf_noBounded fun _ =>
    endsWf_check wf_failIf fun _ => endsWf_check wf_failIf fun _ => endsWf_check wf_objectOf fun _ =>
    endsWf_check wf_scopeCheck fun _ => endsWf_check (wf_spadEcc h) fun _ => ?_)
  split
  · trivial
  · refine endsWf_check wf_rangeLeaves fun _ => ?_
    split
    · trivial
    · exact endsWf_ite trivial (wf_setSync (wf_ite h (wf_watchAll h)))

theorem wf_execAcq {o : Fmt Unit} : NextWf (execAcq o s) :=
  wf_slot h (endsWf_check wf_sources fun ⟨_, _, _⟩ => endsWf_check wf_noBounded fun _ => endsWf_check wf_objectOf fun _ =>
    endsWf_check wf_failIf fun _ => endsWf_check wf_failIf fun _ => endsWf_ite h trivial)
theorem wf_execRel {o : Fmt Unit} : NextWf (execRel o s) :=
  wf_slot h (endsWf_check wf_sources fun ⟨_, _, _⟩ => endsWf_check wf_noBounded fun _ => endsWf_check wf_objectOf fun _ =>
    endsWf_check wf_failIf fun _ => wf_start h)
theorem wf_execFence {o : Fmt ScopeMod} : NextWf (execFence o s) :=
  wf_slot h (endsWf_check wf_sources fun ⟨_, _, _⟩ => endsWf_check wf_noBounded fun _ => endsWf_check wf_scopeCheck fun _ =>
    wf_setTh (wf_beginFence h))
theorem wf_execBfence {o : Fmt Unit} : NextWf (execBfence o s) :=
  wf_slot h (endsWf_check wf_sources fun ⟨_, _, _⟩ => endsWf_check wf_noBounded fun _ => endsWf_check wf_failIf fun _ =>
    endsWf_ite h trivial)
theorem wf_beginArrival {id : Word} {reduce : Option (BarrOp × BitVec 8)} {payload : Word} {dest : Reg} :
    StateWf (s.beginArrival id reduce payload dest) :=
  wf_setTh (wf_beginFence h)

theorem wf_execBar {o : Fmt Unit} : NextWf (execBar o s) := by
  unfold execBar
  refine wf_slot h ?_
  split
  · exact wf_setTh h
  · trivial
  · exact endsWf_check wf_sources fun ⟨_, _, _⟩ => endsWf_check wf_noBounded fun _ => wf_beginArrival h

theorem wf_execBara {o : Fmt Unit} : NextWf (execBara o s) := by
  unfold execBara
  refine wf_slot h ?_
  split
  · exact wf_land h
  · trivial
  · exact endsWf_check wf_sources fun ⟨_, _, _⟩ => endsWf_check wf_noBounded fun _ => wf_beginArrival h

theorem wf_execBarw {o : Fmt Unit} : NextWf (execBarw o s) := by
  unfold execBarw
  refine wf_slot h (endsWf_check wf_sources fun ⟨_, _, _⟩ => endsWf_check wf_noBounded fun _ => ?_)
  split
  · trivial
  · exact endsWf_ite h trivial

theorem wf_execBarr {o : Fmt BarrMod} : NextWf (execBarr o s) := by
  unfold execBarr
  refine wf_slot h ?_
  split
  · exact h
  · trivial
  · exact endsWf_check wf_sources fun ⟨_, _, _⟩ => endsWf_check wf_noBounded fun _ => wf_beginArrival h

theorem wf_completePhase {obj left : Nat} : Memory.wf (s.completePhase obj left) = true := by
  unfold State.completePhase
  refine wf_fold (fun _ _ h => ?_) (wf_setBarrier h)
  split
  · exact wf_resolve h
  · exact wf_resolveFault h

theorem wf_completeIfFull {obj id count : Nat} : Memory.wf (s.completeIfFull obj id count) = true :=
  wf_ite h (Memory.wf_congr (s := State.completePhase _ _ _) rfl rfl (wf_completePhase h))
theorem wf_ageRecord {obj : Nat} : Memory.wf (s.ageRecord obj) = true := wf_record _ _ _ _ _ _ h
theorem wf_tellAge {obj : Nat} : Memory.wf (s.tellAge obj) = true := wf_ite (wf_setBarrier (wf_ageRecord h)) h

theorem wf_execBarrierArrive {t : ThreadId} : NextWf (execBarrierArrive t s) := by
  unfold execBarrierArrive
  extract_lets th answer
  split
  · refine nextWf_ite h ?_
    extract_lets id sum
    split
    · exact wf_setThread h
    · refine nextWf_ite (wf_setThread h) (nextWf_ite (wf_setThread h) (nextWf_ite (wf_setThread h) ?_))
      extract_lets u b first b' v w
      have hv : Memory.wf v = true := wf_setThread (wf_setBarrier (wf_tellAge h))
      have hw : Memory.wf w = true := wf_ite (wf_writeReg (wf_addOpOf hv)) hv
      exact wf_completeIfFull (wf_setThread hw)
  · exact h

theorem wf_execBarrierAgeRecord {obj : Nat} : NextWf (execBarrierAgeRecord obj s) := wf_tellAge h
theorem wf_execBarageWrite {value : Word} : NextWf (execBarageWrite value s) :=
  wf_withBarage (wf_fold (fun _ _ h => wf_tellAge h) h)
theorem wf_reportOne {id count : Nat} {reduce : Option (BarrOp × BitVec 8)} {payload : Option Word} :
    Memory.wf (s.reportOne id count reduce payload) = true :=
  have ht := wf_withReports (wf_setBarrier (wf_tellAge h))
  wf_ite h (wf_ite ht (wf_completeIfFull ht))

omit h in
theorem wf_reportAll {id count : Nat} {reduce : Option (BarrOp × BitVec 8)} {n : Nat} :
    ∀ {s : State} {payloads : List Word}, Memory.wf s = true →
    Memory.wf (s.reportAll id count reduce payloads n) = true := by
  induction n with
  | zero => exact fun h => h
  | succ n ih => exact fun h => ih (wf_reportOne h)

theorem wf_execDomainBarrierReport {id arrivals : Nat} {reduce : Option (BarrOp × BitVec 8)} {payloads : List Word} :
    NextWf (execDomainBarrierReport id arrivals reduce payloads s) :=
  nextWf_ite h (wf_reportAll h)
theorem wf_execDomainBarrierComplete {id : Nat} {payloads : List Word} : NextWf (execDomainBarrierComplete id payloads s) :=
  nextWf_ite h (Memory.wf_congr (s := State.completePhase _ _ _) rfl rfl (wf_completePhase (wf_setBarrier (wf_tellAge h))))
theorem wf_noPath {o : Op} {rdev : Nat} : Memory.wf (s.noPath o rdev) = true := wf_unitError h
theorem wf_countSeq {obj : Nat} : Memory.wf (s.countSeq obj) = true := wf_setSync h
theorem wf_nextFlag {t : ThreadId} {rdev : Nat} : Memory.wf (s.nextFlag t rdev).1 = true := wf_setThread h

omit h in
theorem wf_sendFlags {t : ThreadId} {l : List Nat} :
    ∀ {s : State}, Memory.wf s = true → Memory.wf (s.sendFlags t l).1 = true := by
  induction l with
  | nil => exact fun h => h
  | cons d r ih => exact fun h => ih (wf_nextFlag h)

theorem wf_relMoves {o : Op} {r : RelOp} : Memory.wf (s.relMoves o r) = true := by
  unfold State.relMoves
  dsimp only
  split
  · exact wf_setOp h
  · exact wf_setOp (wf_drain h)

theorem wf_loseRel {o : Op} {bound : Bool} {rdev count : Nat} : Memory.wf (s.loseRel o bound rdev count) = true :=
  wf_resolveStatus (wf_ite (wf_noPath h) h)

theorem wf_execRelCount {op : Nat} : NextWf (execRelCount op s) := by
  unfold execRelCount
  split
  · split
    · split
      · refine nextWf_ite (wf_ite h (wf_relMoves h)) ?_
        split
        · exact wf_loseRel h
        · exact h
      · exact nextWf_ite h (nextWf_ite (wf_resolveStatus (wf_countSeq h)) (wf_setOp (wf_sendFlags h)))
      · split
        · exact wf_loseRel h
        · exact wf_ite (wf_resolveStatus (wf_countSeq h)) h
    · exact h
  · exact h

end

/-! ### The functions of Sys2Proof/Machine/Copy.lean -/

section
variable {s : State} (h : Memory.wf s = true)
include h

theorem wf_touchHandle {w : Word} : Memory.wf (s.touchHandle w) = true := wf_ite h (wf_eccFor _ _ _ h)

omit h in
theorem wf_handleCheck {s : State} {w : Word} {write : Bool} : StopsWf (s.handleCheck w write) := by
  unfold State.handleCheck
  refine endsWf_ite trivial ?_
  split
  · exact endsWf_ite trivial trivial
  · trivial

theorem wf_spadPieces {core : Nat} {ctx : Bool} {l : List Piece} : Memory.wf (s.spadPieces core ctx l) = true :=
  wf_setCoreCtx h
theorem wf_memoryPieces {r : Reader} {merge elide : Bool} {l : List Piece} :
    Memory.wf (s.memoryPieces r merge elide l) = true :=
  wf_fold (fun _ _ h => wf_putPiece _ _ _ h) (wf_ite (wf_fold (fun _ _ h => wf_sliceWrite h) (wf_eccAllFor h))
    (wf_eccAllFor h))
theorem wf_handlePieces {r : Reader} {e : BitVec 128} {elide : Bool} {l : List Piece} :
    Memory.wf (s.handlePieces r e elide l) = true :=
  wf_ite h (wf_memoryPieces h)
theorem wf_copySpread {o : Op} {c : CopyOp} : Memory.wf (s.copySpread o c) = true :=
  wf_setOp (wf_fold (fun _ _ h => wf_spadPieces h) (wf_spadScrubFor h))

theorem wf_copyOut {o : Op} {c : CopyOp} : Memory.wf (s.copyOut o c) = true := by
  unfold State.copyOut
  extract_lets size n at_ u
  have hu : Memory.wf u = true := wf_fold (fun _ _ h => wf_spadScrubFor h) h
  exact wf_ite (wf_setOp hu) (wf_setOp (wf_handlePieces hu))

theorem wf_copyIn {o : Op} {c : CopyOp} : Memory.wf (s.copyIn o c) = true :=
  wf_setOp (wf_iteFst (wf_setCoreCtx (wf_ite (wf_eccFor _ _ _ h) h)) (wf_spadPieces (wf_ite (wf_eccFor _ _ _ h) h)))
theorem wf_copyMove {o : Op} {c : CopyOp} : Memory.wf (s.copyMove o c) = true :=
  wf_ite (wf_copySpread h) (wf_ite (wf_copyOut h) (wf_copyIn h))
theorem wf_copyRow {o : Op} {c : CopyOp} : Memory.wf (s.copyRow o c).1 = true := wf_iteFst (wf_spadScrubFor h) h
theorem wf_copyStop {o : Op} {c : CopyOp} {code : Nat} : Memory.wf (s.copyStop o c code) = true := wf_setOp h
theorem wf_copyArrive {o : Op} {c : CopyOp} : Memory.wf (s.copyArrive o c) = true := wf_ite (wf_setPch h) h
theorem wf_copyLeave {o : Op} {c : CopyOp} : Memory.wf (s.copyLeave o c) = true := wf_ite (wf_setPch h) h

theorem wf_copyBegin {o : Op} {c : CopyOp} : Memory.wf (s.copyBegin o c) = true := by
  unfold State.copyBegin
  extract_lets u
  have hu : Memory.wf u = true := wf_ite h (wf_eccFor _ _ _ h)
  refine wf_ite (wf_copyStop hu) (wf_ite (wf_copyStop hu) (wf_ite (wf_copyStop hu) ?_))
  have hr := wf_copyRow (o := o) (c := c) hu
  exact wf_ite (wf_copyStop hr) (wf_ite (wf_copyArrive (wf_setOp hr)) (wf_copyMove (wf_setCluster (wf_copyLeave hr))))

theorem wf_execCopyTransfer {op : Nat} : NextWf (execCopyTransfer op s) := by
  unfold execCopyTransfer
  split
  · split
    · exact nextWf_ite h (nextWf_ite (wf_copyMove h) (wf_copyBegin h))
    · exact h
  · exact h

theorem wf_linkDownRecord {o : Op} {c : CopyOp} {count : Nat} : Memory.wf (s.linkDownRecord o c count) = true :=
  wf_record _ _ _ _ _ _ h

theorem wf_execCopyResolve {op : Nat} : NextWf (execCopyResolve op s) := by
  unfold execCopyResolve
  split
  · split
    · refine nextWf_ite h (nextWf_ite (wf_resolveStatus h) (nextWf_ite (wf_resolveStatus h)
        (nextWf_ite (wf_resolveStatus (wf_linkDownRecord h)) ?_)))
      split
      · exact wf_resolveStatus h
      · split <;> exact wf_resolveStatus h
    · exact h
  · exact h

omit h in
theorem wf_rangeCheck {s : State} {write : Bool} {l : List (Nat × Nat)} : StopsWf (s.rangeCheck write l) := by
  unfold State.rangeCheck
  split <;> trivial

omit h in
theorem wf_dataRange {s : State} {cause : Nat} {l : List (Nat × Nat)} : StopsWf (s.dataRange cause l) := by
  unfold State.dataRange
  split <;> trivial

omit h in
theorem wf_alignCheck {cause : Nat} : ∀ {l : List (Nat × Nat)}, StopsWf (alignCheck cause l)
  | [] => trivial
  | (_, _) :: _ => endsWf_ite trivial wf_alignCheck

theorem wf_enterCopy {d : Reg} {c : CopyOp} : StateWf (s.enterCopy d c) :=
  endsWf_ite (endsWf_ite trivial (wf_setTh h)) (wf_start h)

theorem wf_sendCopy {d : Reg} {srcs : List Src} {c : CopyOp} {aligned lists : List (Nat × Nat)} :
    StateWf (s.sendCopy d srcs c aligned lists) := by
  unfold State.sendCopy
  split
  · exact wf_enterCopy h
  · exact endsWf_check wf_noBounded fun _ => wf_keepIn (wf_touchHandle h)
      (endsWf_check wf_handleCheck fun _ => endsWf_check wf_alignCheck fun _ =>
      endsWf_either wf_rangeCheck wf_rangeCheck fun _ => endsWf_either wf_rangeCheck wf_rangeCheck fun _ =>
      wf_enterCopy (wf_touchHandle h))

theorem wf_linearCopy {out : Bool} {o : Fmt Unit} : NextWf (s.linearCopy out o) :=
  wf_slot h (endsWf_check wf_sources fun ⟨_, _, _⟩ => wf_sendCopy h)
theorem wf_execCpyIn {o : Fmt Unit} : NextWf (execCpyIn o s) := wf_linearCopy h
theorem wf_execCpyOut {o : Fmt Unit} : NextWf (execCpyOut o s) := wf_linearCopy h
theorem wf_planeCopy {out : Bool} {o : Fmt SwzMod} : NextWf (s.planeCopy out o) :=
  wf_slot h (endsWf_check wf_sources fun ⟨_, _, _⟩ => wf_sendCopy h)
theorem wf_execCpy2In {o : Fmt SwzMod} : NextWf (execCpy2In o s) := wf_planeCopy h
theorem wf_execCpy2Out {o : Fmt SwzMod} : NextWf (execCpy2Out o s) := wf_planeCopy h
theorem wf_rowCopy {fn : Nat} {out : Bool} {o : Fmt Unit} : NextWf (s.rowCopy fn out o) :=
  wf_slot h (endsWf_check wf_sources fun ⟨_, _, _⟩ => wf_sendCopy h)
theorem wf_execCpyg {o : Fmt Unit} : NextWf (execCpyg o s) := wf_rowCopy h
theorem wf_execCpys {o : Fmt Unit} : NextWf (execCpys o s) := wf_rowCopy h

omit h in
theorem wf_targetCheck {s : State} {mask a n : Nat} : StopsWf (s.targetCheck mask a n) := by
  unfold State.targetCheck
  dsimp only
  split <;> trivial

theorem wf_execCpyr {o : Fmt Unit} : NextWf (execCpyr o s) := by
  unfold execCpyr
  dsimp only
  refine wf_slot h (endsWf_check wf_sources fun ⟨_, _, _⟩ => ?_)
  split
  · exact wf_enterCopy h
  · exact endsWf_check wf_noBounded fun _ => endsWf_check wf_alignCheck fun _ => endsWf_check wf_failIf fun _ =>
      endsWf_check wf_targetCheck fun _ => endsWf_check wf_rangeCheck fun _ => wf_enterCopy h

end

/-! ### The functions of Sys2Proof/Machine/Stack.lean -/

section
variable {s : State} (h : Memory.wf s = true)
include h

omit h in
theorem wf_stackLeaf {s : State} {fn : Nat} {ea : Word} : StopsWf (s.stackLeaf fn ea) := by
  unfold State.stackLeaf
  refine endsWf_ite ?_ wf_translate
  split
  · exact endsWf_of_error wf_translate ‹_›
  · exact endsWf_ite trivial trivial

theorem wf_sendStack {fn : Nat} {o : Fmt StackMod} : NextWf (s.sendStack fn o) :=
  wf_slot h (endsWf_check wf_sources fun ⟨_, _, _⟩ => endsWf_check wf_noBounded fun _ => endsWf_check wf_failIf fun _ =>
    endsWf_check wf_stackLeaf fun _ => endsWf_check wf_failIf fun _ => endsWf_ite h
    (endsWf_ite trivial (wf_ite (wf_start h) (wf_addOp h))))
theorem wf_execNamo {o : Fmt StackMod} : NextWf (execNamo o s) := wf_sendStack h
theorem wf_execNamov {o : Fmt StackMod} : NextWf (execNamov o s) := wf_sendStack h
theorem wf_execNamor {o : Fmt StackMod} : NextWf (execNamor o s) := wf_sendStack h

omit h in
theorem wf_bankSource {s : State} {at_ : Nat} (h : Memory.wf s = true) : ∀ {n : Nat}, StopsWf (s.bankSource at_ n)
  | 0 => trivial
  | _ + 1 => endsWf_check (wf_bankSource h) fun _ => endsWf_check (wf_spadEcc h) fun _ =>
    endsWf_check wf_failIf fun _ => endsWf_check wf_failIf fun _ => wf_failIf

omit h in
theorem wf_bankAddress {M : Type} {s : State} {o : Fmt M} {align walk : Nat} : StopsWf (s.bankAddress o align walk) :=
  endsWf_check wf_sources fun ⟨_, _, _⟩ => endsWf_check wf_noBounded fun _ => endsWf_check wf_failIf fun _ =>
    endsWf_check wf_failIf fun _ => endsWf_check wf_translate fun _ => endsWf_check wf_failIf fun _ => trivial
theorem wf_sendBank {d : Reg} {c : BankCmd} : StateWf (s.sendBank d c) := endsWf_ite trivial (wf_start h)
theorem wf_execBkmodeOn {o : Fmt Unit} : NextWf (execBkmodeOn o s) :=
  wf_slot h (endsWf_check wf_bankAddress fun ⟨_, _, _⟩ => wf_sendBank h)
theorem wf_execBkmodeOff {o : Fmt Unit} : NextWf (execBkmodeOff o s) :=
  wf_slot h (endsWf_check wf_bankAddress fun ⟨_, _, _⟩ => wf_sendBank h)
theorem wf_execBkldr {o : Fmt Unit} : NextWf (execBkldr o s) :=
  wf_slot h (endsWf_check wf_bankAddress fun ⟨_, _, _⟩ => endsWf_check wf_failIf fun _ => endsWf_check wf_failFirst fun _ =>
    endsWf_check (wf_bankSource h) fun _ => wf_sendBank (wf_watchAll h))
theorem wf_execBkmac {o : Fmt BankMod} : NextWf (execBkmac o s) :=
  wf_slot h (endsWf_check wf_bankAddress fun ⟨_, _, _⟩ => wf_sendBank h)
theorem wf_execBkrd {o : Fmt BankMod} : NextWf (execBkrd o s) :=
  wf_slot h (endsWf_check wf_bankAddress fun ⟨_, _, _⟩ => endsWf_check wf_failIf fun _ => endsWf_check wf_failFirst fun _ =>
    wf_sendBank h)
theorem wf_arriveSau {o : Op} {pch : Nat} : Memory.wf (s.arriveSau o pch) = true := wf_ite h (wf_setPch h)
theorem wf_leaveSau {o : Op} {pch : Nat} : Memory.wf (s.leaveSau o pch) = true := wf_setPch h

omit h in
theorem wf_stackApply {c : StackCmd} {l : List Nat} :
    ∀ {s : State}, Memory.wf s = true → Memory.wf (s.stackApply c l).1 = true := by
  induction l with
  | nil => exact fun h => h
  | cons i r ih => exact fun h => ih (wf_putBytes _ _ h)

theorem wf_bankRecord {o : Op} {c : StackCmd} {reason : Nat} : Memory.wf (s.bankRecord o c reason) = true :=
  wf_record _ _ _ _ _ _ h
theorem wf_bankDelay {o : Op} {pa : Nat} : Memory.wf (s.bankDelay o pa) = true := wf_addDelay h
theorem wf_endStack {o : Op} {c : StackCmd} : Memory.wf (s.endStack o c) = true := wf_bankDelay (wf_leaveSau h)

theorem wf_stackPerform {o : Op} {c : StackCmd} : Memory.wf (s.stackPerform o c) = true := by
  unfold State.stackPerform
  extract_lets was u t reason v
  have hu : Memory.wf u = true := wf_eccFor _ _ _ h
  have hv : Memory.wf v = true := wf_ite (wf_setBlockTag _ _ (wf_materialise _ hu)) hu
  exact wf_ite (wf_ite (wf_resolveFault (wf_endStack hu)) (wf_removeOp (wf_bankRecord (wf_endStack hu))))
    (wf_ite (wf_setOp (wf_stackApply hv)) (wf_removeOp (wf_endStack (wf_stackApply hv))))

theorem wf_execStackCommandPerform {op : Nat} : NextWf (execStackCommandPerform op s) := by
  unfold execStackCommandPerform
  split
  · split
    · exact wf_ite (wf_arriveSau h) (wf_ite (wf_stackPerform h) h)
    · exact h
  · exact h

theorem wf_execNamorResolve {op : Nat} : NextWf (execNamorResolve op s) := by
  unfold execNamorResolve
  split
  · split
    · exact wf_resolve (wf_endStack h)
    · exact h
  · exact h

theorem wf_endBank {o : Op} {c : BankCmd} {code count : Nat} : Memory.wf (s.endBank o c code count) = true :=
  wf_resolveStatus (wf_bankDelay (wf_leaveSau h))
theorem wf_faultBank {o : Op} {c : BankCmd} {cause : Nat} {tval : Word} : Memory.wf (s.faultBank o c cause tval) = true :=
  wf_resolveFault (wf_bankDelay (wf_leaveSau h))
theorem wf_performMode {o : Op} {c : BankCmd} : Memory.wf (s.performMode o c) = true :=
  wf_ite (wf_ite (wf_faultBank h) (wf_ite h (wf_endBank (wf_setPch h))))
    (wf_ite (wf_faultBank h) (wf_endBank (wf_setPch h)))
theorem wf_performLoad {o : Op} {c : BankCmd} : Memory.wf (s.performLoad o c) = true := wf_endBank (wf_setPch h)

omit h in
theorem wf_walkTags {s t : State} {o : Op} {c : BankCmd} (h : Memory.wf s = true) (ht : s.walkTags o c = some t) :
    Memory.wf t = true := by
  unfold State.walkTags at ht
  dsimp only at ht
  split at ht
  · cases ht
    exact wf_ite (wf_endBank h) (wf_faultBank h)
  · cases (Option.ite_none_right_eq_some.mp ht).2
    exact wf_endBank h

theorem wf_walkStep {o : Op} {c : BankCmd} : Memory.wf (s.walkStep o c) = true :=
  wf_ite (wf_endBank (wf_eccFor _ _ _ h)) (wf_ite (wf_endBank (wf_setPch (wf_eccFor _ _ _ h)))
    (wf_setOp (wf_setPch (wf_eccFor _ _ _ h))))
theorem wf_performRead {o : Op} {c : BankCmd} : Memory.wf (s.performRead o c) = true :=
  wf_ite (wf_endBank (wf_setCoreCtx h)) (wf_setOp (wf_setCoreCtx h))

theorem wf_bankPerform {o : Op} {c : BankCmd} : Memory.wf (s.bankPerform o c) = true := by
  have hs := wf_eccFor (o.reader 0) c.pa (512 * c.n) h
  refine wf_ite (wf_performMode h) (wf_ite (wf_faultBank h) (wf_ite (wf_performLoad h)
    (wf_ite (wf_performRead h) (wf_ite (wf_walkStep h) ?_))))
  dsimp only
  split
  · exact wf_walkTags hs ‹_›
  · exact Memory.wf_congr rfl rfl hs

theorem wf_execBankCommandPerform {op : Nat} : NextWf (execBankCommandPerform op s) := by
  unfold execBankCommandPerform
  split
  · split
    · exact wf_ite (wf_arriveSau h) (wf_ite h (wf_ite (wf_endBank h) (wf_ite (wf_bankPerform h) h)))
    · exact h
  · exact h

theorem wf_execRefresh {pch bank : Nat} : NextWf (execRefresh pch bank s) := by
  unfold execRefresh
  dsimp only
  split <;> exact wf_setPch h

theorem wf_bkctxStart {pch op : Nat} {area : Option Word} : Memory.wf (s.bkctxStart pch op area) = true :=
  wf_ite h (wf_setPch h)
theorem wf_execBkctxSave {pch : Nat} {area : Word} : NextWf (execBkctxSave pch area s) := wf_bkctxStart h
theorem wf_execBkctxRestore {pch : Nat} {area : Word} : NextWf (execBkctxRestore pch area s) := wf_bkctxStart h
theorem wf_execBkctxDiscard {pch : Nat} : NextWf (execBkctxDiscard pch s) := wf_bkctxStart h

theorem wf_recordBack {saved : List Nat} {pa : Nat} {serving : Bool} {step : Nat} :
    Memory.wf (s.recordBack saved pa serving step).1 = true := by
  unfold State.recordBack
  split
  · exact wf_setOp h
  · split
    · exact wf_addOpOf h
    · exact h

omit h in
theorem wf_recordsBack {l : List Nat} :
    ∀ {s : State} {saved : List Nat} {serving : Bool} {step : Nat}, Memory.wf s = true →
    Memory.wf (s.recordsBack saved serving step l).1 = true := by
  induction l with
  | nil => exact fun h => h
  | cons pa l ih => exact fun h => ih (wf_recordBack h)

theorem wf_reload {pch at_ : Nat} : Memory.wf (s.reload pch at_) = true := wf_setPch (wf_recordsBack h)

theorem wf_dropQueued {pch : Nat} : Memory.wf (s.dropQueued pch) = true := by
  unfold State.dropQueued
  refine wf_fold (fun _ _ h => wf_ite (wf_removeOp h) ?_) h
  split
  · exact wf_ite (wf_resolveFault (wf_bankDelay h)) (wf_removeOp h)
  · exact wf_resolveStatus (wf_bankDelay h)
  · exact h

theorem wf_saveTo {pch at_ : Nat} : Memory.wf (s.saveTo pch at_) = true :=
  wf_setPch (wf_ite (wf_dramStore _ _ _ (wf_sliceWrite (wf_ecc _ _ h))) h)

theorem wf_execBkctxComplete {pch : Nat} : NextWf (execBkctxComplete pch s) := by
  unfold execBkctxComplete
  refine wf_ite h ?_
  split
  · exact wf_ite (wf_ite h (wf_setPch h)) (wf_saveTo h)
  · exact wf_ite (wf_reload (wf_ecc _ _ h)) (wf_setPch (wf_ecc _ _ h))
  · exact wf_setPch (wf_dropQueued h)

end

/-! ### The functions of Sys2Proof/Machine/Cox.lean -/

section
variable {s : State} (h : Memory.wf s = true)
include h

omit h in
theorem wf_tileSource {s : State} {fp32_ : Bool} {at_ : Nat} (h : Memory.wf s = true) :
    ∀ {n : Nat}, StopsWf (s.tileSource fp32_ at_ n)
  | 0 => trivial
  | _ + 1 => endsWf_check (wf_tileSource h) fun _ => endsWf_check (wf_spadEcc h) fun _ =>
    endsWf_check wf_failIf fun _ => endsWf_check wf_failIf fun _ => wf_failIf

theorem wf_execGqw {o : Fmt Bool} : NextWf (execGqw o s) :=
  wf_slot h (endsWf_check wf_sources fun ⟨_, _, _⟩ => endsWf_check wf_noBounded fun _ => endsWf_check wf_failIf fun _ =>
    endsWf_check wf_dataRange fun _ => endsWf_check wf_failIf fun _ => endsWf_check (wf_tileSource h) fun _ =>
    endsWf_ite trivial (wf_start (wf_watch h)))
theorem wf_execGqr {o : Fmt Bool} : NextWf (execGqr o s) :=
  wf_slot h (endsWf_check wf_sources fun ⟨_, _, _⟩ => endsWf_check wf_noBounded fun _ => endsWf_when wf_pcTrap fun _ =>
    endsWf_check wf_failIf fun _ => endsWf_check wf_failIf fun _ => endsWf_check wf_dataRange fun _ => wf_start h)

theorem wf_deliverTile {o : Op} {t : Tile} : Memory.wf (s.deliverTile o t) = true := by
  unfold State.deliverTile
  split
  · exact wf_setOp h
  · exact h

theorem wf_deliverWords {o : Op} {key dst sender : Nat} {rest : List Byte} :
    Memory.wf (s.deliverWords o key dst sender rest) = true :=
  wf_ite (wf_resolveStatus (wf_setCoreCtx h)) (wf_setOp (wf_setCoreCtx h))

theorem wf_execTileArrive {op : Nat} : NextWf (execTileArrive op s) := by
  unfold execTileArrive
  split
  · split
    · refine nextWf_ite h (nextWf_ite (wf_resolveFault h) (nextWf_ite (wf_resolveStatus (wf_withTiles h)) ?_))
      split
      · exact wf_ite h (wf_resolveStatus (wf_deliverTile h))
      · exact h
    · exact h
  · exact h

theorem wf_execTileMatch {op : Nat} : NextWf (execTileMatch op s) := by
  unfold execTileMatch
  split
  · split
    · refine nextWf_ite (wf_resolveStatus h) ?_
      split
      · exact wf_deliverTile (wf_withTiles h)
      · exact h
    · exact wf_deliverWords h
    · exact h
  · exact h

omit h in
theorem wf_optLeaves {s : State} : ∀ {l : List Word}, StopsWf (s.optLeaves l)
  | [] => trivial
  | a :: r => by
    unfold State.optLeaves
    split
    · exact endsWf_of_error wf_translate ‹_›
    · exact endsWf_map wf_optLeaves

theorem wf_optTrap {addr : Nat} {tval : Word} : (s.optTrap addr tval).wf := wf_unitError h

theorem wf_gradientEcc {g : Word} {n : Nat} : StopsWf (s.gradientEcc g n) := by
  unfold State.gradientEcc
  split
  · exact wf_fold (fun _ _ h => wf_badWord h) (wf_badWord h)
  · exact endsWf_ite (wf_unitError h) trivial

theorem wf_optimise {o : Fmt Bool} {a b c : Src} : StateWf (s.optimise o a b c) := by
  unfold State.optimise
  refine endsWf_check wf_failIf fun _ => endsWf_check wf_failIf fun _ => endsWf_check wf_optLeaves fun leaves => ?_
  split
  · trivial
  · refine endsWf_check wf_failIf fun _ => endsWf_when trivial fun _ => ?_
    extract_lets t
    have ht : Memory.wf t = true := wf_eccAllFor h
    split
    · next q _ => exact wf_optTrap (addr := q.2) (tval := q.1) ht
    · exact endsWf_check (wf_gradientEcc ht) fun _ => wf_fold (fun _ _ h => wf_addOp h) (wf_raise (wf_watchAll ht))

theorem wf_execOupd {o : Fmt Bool} : NextWf (execOupd o s) :=
  wf_slot h (endsWf_check wf_sources fun ⟨_, _, _⟩ => endsWf_check wf_noBounded fun _ => endsWf_check wf_failIf fun _ =>
    endsWf_check wf_failIf fun _ => endsWf_check wf_dataRange fun _ => wf_keepIn (wf_spadScrubFor h)
    (wf_optimise (wf_spadScrubFor h)))

end

/-! ### The functions of Sys2Proof/Machine/Matrix.lean -/

section
variable {s : State} (h : Memory.wf s = true)
include h

omit h in
theorem wf_tileRange {s : State} {write : Bool} {w : Word} {u v : Nat} : StopsWf (s.tileRange write w u v) := by
  unfold State.tileRange
  split <;> trivial

omit h in
theorem wf_slotCheck {s : State} {m : MatMod} : StopsWf (s.slotCheck m) := wf_failIf
theorem wf_enqueue {i : Instr} {a b c : Word} {op : Option Nat} {status : Word} : StateWf (s.enqueue i a b c op status) :=
  endsWf_ite trivial (wf_setCc h)

theorem wf_matrixSync {checks : Except Stop Unit} {i : Instr} {a b : Word} (hc : StopsWf checks) :
    StopsWf (s.matrixSync checks i a b) := by
  unfold State.matrixSync
  split
  · trivial
  · trivial
  · exact endsWf_check hc fun _ => endsWf_bind (wf_enqueue h) fun t ht => Memory.wf_congr (s := t) rfl rfl ht

theorem wf_execMma {o : Fmt MatMod} : NextWf (execMma o s) :=
  wf_slot h (endsWf_check wf_sources fun ⟨_, _, _⟩ => endsWf_check
    (wf_matrixSync h (endsWf_check wf_noBounded fun _ => endsWf_check wf_failIf fun _ => endsWf_check wf_failIf fun _ =>
    endsWf_check wf_failIf fun _ => endsWf_check wf_failIf fun _ => endsWf_check wf_failIf fun _ =>
    endsWf_check wf_failIf fun _ => endsWf_check wf_slotCheck fun _ => endsWf_check wf_failIf fun _ =>
    endsWf_check wf_failIf fun _ => endsWf_check wf_tileRange fun _ => wf_tileRange)) fun _ => h)
theorem wf_execAcz {o : Fmt MatMod} : NextWf (execAcz o s) :=
  wf_slot h (endsWf_check wf_sources fun _ => endsWf_check (wf_matrixSync h wf_slotCheck) fun _ => h)
omit h in
theorem wf_tileChecks {s : State} {write : Bool} {o : Fmt MatMod} {a : Src} : StopsWf (s.tileChecks write o a) :=
  endsWf_check wf_noBounded fun _ => endsWf_check wf_failIf fun _ => endsWf_check wf_failIf fun _ =>
    endsWf_check wf_failIf fun _ => endsWf_check wf_failIf fun _ => endsWf_check wf_slotCheck fun _ =>
    endsWf_check wf_failIf fun _ => wf_tileRange
theorem wf_execAcld {o : Fmt MatMod} : NextWf (execAcld o s) :=
  wf_slot h (endsWf_check wf_sources fun ⟨_, _, _⟩ => endsWf_check (wf_matrixSync h wf_tileChecks) fun _ => h)
theorem wf_execAcst {o : Fmt MatMod} : NextWf (execAcst o s) :=
  wf_slot h (endsWf_check wf_sources fun ⟨_, _, _⟩ => endsWf_check (wf_matrixSync h wf_tileChecks) fun _ => h)
theorem wf_execMxseed {o : Fmt Unit} : NextWf (execMxseed o s) :=
  wf_slot h (endsWf_check wf_sources fun ⟨_, _, _⟩ => endsWf_check (wf_matrixSync h wf_noBounded) fun _ => h)
theorem wf_execMxstat {o : Fmt ClrMod} : NextWf (execMxstat o s) :=
  wf_slot h (endsWf_check wf_sources fun _ => endsWf_check (wf_matrixSync h wf_failIf) fun _ => wf_land h)
theorem wf_execMxthr {o : Fmt Unit} : NextWf (execMxthr o s) :=
  wf_slot h (endsWf_check wf_sources fun ⟨_, _, _⟩ => endsWf_check (wf_matrixSync h wf_noBounded) fun _ => h)
theorem wf_execMmv {o : Fmt MatMod} : NextWf (execMmv o s) :=
  wf_slot h (endsWf_check wf_sources fun ⟨_, _, _⟩ => endsWf_check wf_noBounded fun _ =>
    wf_keepIn (wf_touchHandle h) (endsWf_check wf_handleCheck fun _ => endsWf_check wf_failIf fun _ =>
    endsWf_check wf_failIf fun _ => endsWf_check wf_failIf fun _ => endsWf_check wf_failIf fun _ =>
    endsWf_check wf_failIf fun _ => endsWf_check wf_slotCheck fun _ => endsWf_check wf_failIf fun _ =>
    endsWf_check wf_tileRange fun _ => endsWf_bind (wf_enqueue (wf_touchHandle h)) fun _ h => wf_start h))
theorem wf_setDispatch {core : Nat} {ctx : Bool} {l : List MatrixCmd} : Memory.wf (s.setDispatch core ctx l) = true :=
  wf_setCoreCtx h

theorem wf_matrixFail {q : MatrixCmd} {cause : Nat} {tval : Word} : Memory.wf (s.matrixFail q cause tval) = true := by
  unfold State.matrixFail
  split
  · exact wf_resolveFault h
  · exact wf_judge h

theorem wf_matrixPass {q : MatrixCmd} {v : Word} : Memory.wf (s.matrixPass q v) = true := wf_ite h (wf_setThread h)
theorem wf_tileScrub {q : MatrixCmd} {w : Word} {a : Nat} : Memory.wf (s.tileScrub q w a) = true := wf_spadScrubFor h
theorem wf_performMma {u : Quad} {q : MatrixCmd} {o : Fmt MatMod} : Memory.wf (s.performMma u q o).1 = true :=
  wf_setCoreCtx h
theorem wf_performMmv {u : Quad} {q : MatrixCmd} {o : Fmt MatMod} : Memory.wf (s.performMmv u q o).1 = true :=
  wf_setCoreCtx h
theorem wf_performLoadTile {u : Quad} {q : MatrixCmd} {o : Fmt MatMod} : Memory.wf (s.performLoadTile u q o) = true :=
  wf_setCoreCtx h

theorem wf_perform {u : Quad} {q : MatrixCmd} : Memory.wf (s.perform u q).1 = true := by
  unfold State.perform
  split
  · exact wf_performMma h
  · exact wf_performMmv h
  · exact wf_setCoreCtx h
  · exact wf_performLoadTile h
  · exact h
  · exact wf_setCoreCtx h
  · exact wf_ite (wf_setCoreCtx h) h
  · exact wf_setCoreCtx h
  · exact h
  · exact h

theorem wf_execMatrixDispatch {quad : Nat} : NextWf (execMatrixDispatch quad s) := by
  unfold execMatrixDispatch
  dsimp only
  refine nextWf_ite h ?_
  split
  · exact h
  · split
    · exact wf_resolveStatus (wf_setQuad (wf_setDispatch h))
    · refine nextWf_ite ?_ ?_
      · split
        · exact wf_resolve (wf_setQuad (wf_setDispatch h))
        · exact wf_setQuad (wf_setDispatch h)
      · split
        · exact wf_matrixFail (wf_ite (wf_tileScrub (wf_setQuad (wf_setDispatch h))) (wf_setQuad (wf_setDispatch h)))
        · exact wf_ite (wf_judge (wf_setQuad (wf_setDispatch h))) (wf_matrixPass (wf_setQuad (wf_setDispatch h)))

theorem wf_dueThreshold {t : ThreadId} {x : Option (Nat × Nat)} : Memory.wf (s.dueThreshold t x) = true := by
  unfold State.dueThreshold
  split
  · exact h
  · exact wf_setThread h

theorem wf_endService {quad : Nat} {q : MatrixCmd} : Memory.wf (s.endService quad q) = true := by
  unfold State.endService
  dsimp only
  split
  · exact wf_resolve (wf_dueThreshold (wf_setQuad h))
  · exact wf_ite (wf_setThread (wf_dueThreshold (wf_setQuad h))) (wf_dueThreshold (wf_setQuad h))

theorem wf_readWords {q : MatrixCmd} {m : SMap Byte} {l : List (Nat × Nat)} : Memory.wf (s.readWords q m l).1 = true :=
  wf_fold (fun _ _ h => wf_spadScrubFor h) h

theorem wf_execMatrixOpDone {quad : Nat} : NextWf (execMatrixOpDone quad s) := by
  unfold execMatrixOpDone
  dsimp only
  split
  · exact h
  · split
    · exact nextWf_ite (wf_setQuad (wf_perform h)) (wf_setQuad (wf_readWords h))
    · exact nextWf_ite (wf_endService h) (wf_fold (fun _ _ h => wf_setCoreCtx h) (wf_setQuad h))

theorem wf_dropStream {q : MatrixCmd} : Memory.wf (s.dropStream q) = true := wf_setDispatch h
theorem wf_streamArrive {id pch : Nat} : Memory.wf (s.streamArrive id pch) = true := wf_ite h (wf_setPch h)
theorem wf_streamLeave {id pch : Nat} : Memory.wf (s.streamLeave id pch) = true := wf_ite (wf_setPch h) h

theorem wf_execStreamBufferFill {op : Nat} : NextWf (execStreamBufferFill op s) := by
  unfold execStreamBufferFill
  split
  · extract_lets quad
    split
    · refine nextWf_ite h (nextWf_ite (wf_resolveStatus (wf_dropStream h)) (nextWf_ite h ?_))
      extract_lets part reader u e f partial_ blocks pchs v w
      have hu : Memory.wf u = true := wf_eccFor _ _ _ h
      refine nextWf_ite (wf_resolveStatus (wf_dropStream hu)) (nextWf_ite (wf_resolveStatus (wf_dropStream hu))
        (nextWf_ite hu (nextWf_ite (wf_fold (fun _ _ h => wf_streamArrive h) hu) ?_)))
      have hv : Memory.wf v = true := wf_fold (fun _ _ h => wf_streamLeave h) hu
      have hw : Memory.wf w = true := wf_ite hv (wf_eccAllFor hv)
      split
      · exact wf_resolveStatus (wf_dropStream hw)
      · exact wf_resolveFault (wf_dropStream hw)
      · exact wf_setQuad hw
    · exact h
  · exact h

theorem wf_execTopkc {o : Fmt TopkMod} : NextWf (execTopkc o s) :=
  wf_slot h (endsWf_check wf_sources fun ⟨_, _, _⟩ => endsWf_check wf_noBounded fun _ => endsWf_check wf_failIf fun _ =>
    endsWf_check wf_failIf fun _ => endsWf_check wf_failIf fun _ => endsWf_check wf_failIf fun _ =>
    endsWf_check wf_failIf fun _ => endsWf_check wf_failIf fun _ => endsWf_check wf_failIf fun _ =>
    endsWf_check wf_failIf fun _ => endsWf_check wf_tileRange fun _ => endsWf_check wf_dataRange fun _ =>
    endsWf_bind (wf_enqueue h) fun _ h => wf_start h)

end

/-! ### The functions of Sys2Proof/Machine/Futures.lean -/

section
variable {s : State} (h : Memory.wf s = true)
include h

theorem wf_execFtest {o : Fmt Bool} : NextWf (execFtest o s) := wf_slot h (wf_land h)

theorem wf_execFcancel {o : Fmt Unit} : NextWf (execFcancel o s) := by
  unfold execFcancel
  refine wf_slot h (endsWf_ite ?_ h)
  split
  · exact wf_setOp h
  · exact h

theorem wf_execFwait {o : Fmt Unit} : NextWf (execFwait o s) := wf_slot h (endsWf_ite trivial h)

theorem wf_execFmovc {o : Fmt Unit} : NextWf (execFmovc o s) := by
  unfold execFmovc
  refine wf_slot h ?_
  split
  · refine endsWf_ite trivial (Memory.wf_congr (s := ite _ _ _) rfl rfl (wf_ite ?_ h))
    split
    · exact wf_setOp h
    · exact h
  · exact h

theorem wf_execSend {o : Fmt SendMod} : NextWf (execSend o s) :=
  wf_slot h (endsWf_check wf_sources fun ⟨_, _, _⟩ => endsWf_check wf_noBounded fun _ => endsWf_check wf_failIf fun _ =>
    endsWf_ite trivial (wf_addOp h))

theorem wf_execRecv {o : Fmt Unit} : NextWf (execRecv o s) := by
  unfold execRecv
  dsimp only
  refine wf_slot h (endsWf_check wf_sources fun ⟨_, _, _⟩ => ?_)
  split
  · exact wf_land (wf_setCc h)
  · exact h

theorem wf_deadLetter {ctx : Bool} {dst : Nat} {m : Message} : Memory.wf (s.deadLetter ctx dst m) = true :=
  wf_record _ _ _ _ _ _ (wf_setPctx h)
theorem wf_spill {part : Nat} {ctx : Bool} {dst : Nat} {m : Message} : Memory.wf (s.spill part ctx dst m) = true :=
  wf_ite (wf_deadLetter h) (wf_setPctx (wf_dramStore _ _ _ (wf_ecc _ _ h)))
theorem wf_spillWaiting {part : Nat} {ctx : Bool} {core : Nat} : Memory.wf (s.spillWaiting part ctx core) = true :=
  wf_fold (fun _ _ h => wf_spill h) (wf_setCoreCtx h)
theorem wf_dropWaiting {core : Nat} {ctx : Bool} : Memory.wf (s.dropWaiting core ctx) = true :=
  wf_ite h (wf_fold (fun _ _ h => wf_deadLetter h) (wf_setCoreCtx h))

theorem wf_execMessageArrive {op : Nat} : NextWf (execMessageArrive op s) := by
  unfold execMessageArrive
  split
  · split
    · exact nextWf_ite h (nextWf_ite (wf_setOp (wf_spill (wf_spillWaiting h)))
        (nextWf_ite (wf_setOp (wf_deadLetter h)) (nextWf_ite h (wf_setOp (wf_setCoreCtx h)))))
    · exact h
  · exact h

theorem wf_execSendAck {op : Nat} : NextWf (execSendAck op s) := by
  unfold execSendAck
  split
  · split
    · exact wf_removeOp h
    · exact h
  · exact h

end

/-! ### The functions of Sys2Proof/Machine/Work.lean -/

section
variable {s : State} (h : Memory.wf s = true)
include h

theorem wf_execWidf {o : Fmt Unit} : NextWf (execWidf o s) := wf_slot h (endsWf_check wf_sources fun _ => wf_land h)

theorem wf_execLvlrect {o : Fmt Unit} : NextWf (execLvlrect o s) := by
  unfold execLvlrect
  refine wf_slot h (endsWf_check wf_sources fun _ => ?_)
  split
  · exact wf_land h
  · trivial

theorem wf_beginLaunchFence : Memory.wf s.beginLaunchFence.1 = true := wf_beginFence h
theorem wf_execLaunch {o : Fmt Unit} : NextWf (execLaunch o s) :=
  wf_slot h (endsWf_check wf_sources fun ⟨_, _, _⟩ => endsWf_check wf_noBounded fun _ => endsWf_check wf_failIf fun _ =>
    endsWf_check wf_failIf fun _ => endsWf_check (wf_spadEcc h) fun _ => endsWf_check wf_spadPoison fun _ =>
    wf_setTh (wf_beginLaunchFence (wf_withTasks (wf_start (wf_watchAll h)))))
theorem wf_execTrig {o : Fmt Unit} : NextWf (execTrig o s) := wf_slot h (wf_setTh (wf_beginLaunchFence h))

theorem wf_countTrigger : Memory.wf s.countTrigger = true := by
  unfold State.countTrigger
  dsimp only
  refine wf_ite h ?_
  split
  · exact wf_setTask (wf_setTh h)
  · exact wf_setTh h

theorem wf_execEnd {o : Fmt Unit} : NextWf (execEnd o s) :=
  wf_slot h (endsWf_ite (wf_emptyGroup h) (endsWf_ite trivial (endsWf_ite (wf_setTh (wf_beginLaunchFence h))
    (wf_dropWaiting (wf_setTh (wf_countTrigger (wf_setCc h)))))))
theorem wf_execDqpush {o : Fmt Unit} : NextWf (execDqpush o s) :=
  wf_slot h (endsWf_check wf_sources fun ⟨_, _, _⟩ => endsWf_check wf_noBounded fun _ => wf_land (wf_ite (wf_setCc h) h))
theorem wf_execDqpop {o : Fmt Unit} : NextWf (execDqpop o s) :=
  wf_slot h (endsWf_check wf_sources fun _ => wf_land (wf_setCc h))

theorem wf_execDqsplit {o : Fmt Unit} : NextWf (execDqsplit o s) := by
  unfold execDqsplit
  dsimp only
  refine wf_slot h (endsWf_check wf_sources fun _ => ?_)
  split
  · exact wf_land h
  · exact endsWf_ite (wf_land (wf_setCc h)) (wf_land (wf_setCc h))

theorem wf_execDqsteal {o : Fmt Unit} : NextWf (execDqsteal o s) :=
  wf_slot h (endsWf_check wf_sources fun ⟨_, _, _⟩ => endsWf_check wf_noBounded fun _ => endsWf_check wf_failIf fun _ =>
    endsWf_ite (wf_land h) (wf_start (wf_setCc h)))
theorem wf_endSteal {o : Op} {task : Option Nat} {got : Option Word} {code count : Nat} :
    Memory.wf (s.endSteal o task got code count) = true :=
  wf_resolveStatus (wf_ite (wf_setCoreCtx h) h)

theorem wf_execStealProbe {op : Nat} : NextWf (execStealProbe op s) := by
  unfold execStealProbe
  dsimp only
  split
  · split
    · refine nextWf_ite (wf_endSteal h) (nextWf_ite (wf_endSteal h) ?_)
      split
      · exact wf_endSteal h
      · refine nextWf_ite (wf_setOp h) ?_
        split
        · exact wf_endSteal (wf_setCoreCtx h)
        · exact wf_setOp h
    · exact h
  · exact h

end

/-! ### The functions of Sys2Proof/Machine/Xbar.lean -/

section
variable {s : State} (h : Memory.wf s = true)
include h

theorem wf_countInjection {fn sel : Nat} : Memory.wf (s.countInjection fn sel).1 = true := wf_iteFst (wf_setTh h) h
theorem wf_sendArray {fn : Nat} {all : Bool} {o : Fmt Unit} : NextWf (s.sendArray fn all o) :=
  wf_slot h (endsWf_check wf_sources fun ⟨_, _, _⟩ => endsWf_when trivial fun _ => endsWf_check wf_noBounded fun _ =>
    endsWf_check wf_failIf fun _ => endsWf_check wf_failIf fun _ => endsWf_check wf_alignCheck fun _ =>
    endsWf_check wf_alignCheck fun _ => endsWf_check wf_dataRange fun _ => endsWf_check wf_dataRange fun _ =>
    endsWf_check wf_failIf fun _ => wf_start (wf_countInjection h))
theorem wf_execXbmv {o : Fmt Unit} : NextWf (execXbmv o s) := wf_sendArray h
theorem wf_execXbprog {o : Fmt Unit} : NextWf (execXbprog o s) := wf_sendArray h
theorem wf_execXbver {o : Fmt Unit} : NextWf (execXbver o s) := wf_sendArray h
theorem wf_execXbcal {o : Fmt Unit} : NextWf (execXbcal o s) := wf_sendArray h
theorem wf_execXbrd {o : Fmt Unit} : NextWf (execXbrd o s) := wf_sendArray h
theorem wf_execXbwr {o : Fmt Bool} : NextWf (execXbwr o s) := wf_sendArray h
theorem wf_beginArray {o : Op} {c : ArrayCmd} {l : List Byte} : Memory.wf (s.beginArray o c l) = true := wf_setOp h

theorem wf_readSource {o : Op} {c : ArrayCmd} : Memory.wf (s.readSource o c) = true := by
  unfold State.readSource
  dsimp only
  split
  · exact wf_resolveStatus h
  · exact wf_resolveFault (wf_ite (wf_spadScrubFor h) h)
  · split
    · exact wf_resolveFault h
    · exact wf_beginArray h

theorem wf_execArrayCommandStart {arr : Nat} : NextWf (execArrayCommandStart arr s) := by
  unfold execArrayCommandStart
  split
  · exact h
  · refine nextWf_ite h (nextWf_ite (wf_resolveStatus h) ?_)
    split
    · exact nextWf_ite (wf_resolveStatus h) (nextWf_ite (wf_resolveStatus (wf_setArray h)) (wf_readSource h))
    · exact wf_readSource h
    · exact wf_readSource h
    · exact wf_beginArray h

theorem wf_arrayAnswer {o : Op} {c : ArrayCmd} {a : Nat} {l : List Byte} {w : Word} :
    Memory.wf (s.arrayAnswer o c a l w) = true :=
  wf_setOp h
theorem wf_arrayWrite {o : Op} {c : ArrayCmd} : Memory.wf (s.arrayWrite o c) = true :=
  wf_setOp (wf_fold (fun _ _ h => wf_setCoreCtx h) h)
theorem wf_endProduct {o : Op} {c : ArrayCmd} : Memory.wf (s.endProduct o c) = true :=
  wf_ite (wf_arrayAnswer (wf_setArray h)) (wf_arrayAnswer h)
theorem wf_arrayFault {o : Op} {c : ArrayCmd} {event detail : Nat} : Memory.wf (s.arrayFault o c event detail) = true :=
  wf_errorWith _ _ _ _ _ (fun _ _ _ h => wf_hwError _ _ _ _ _ _ _ _ _ _ _ _ h) h
theorem wf_endCalibration {o : Op} {c : ArrayCmd} : Memory.wf (s.endCalibration o c) = true :=
  wf_ite (wf_resolveStatus (wf_setArray h)) (wf_resolveStatus (wf_arrayFault (wf_setArray h)))

theorem wf_arrayPerform {o : Op} {c : ArrayCmd} : Memory.wf (s.arrayPerform o c) = true := by
  unfold State.arrayPerform
  split
  · exact wf_endProduct h
  · exact wf_ite (wf_resolveStatus h) h
  · exact wf_arrayAnswer h
  · exact wf_endCalibration h
  · exact wf_arrayAnswer h
  · exact wf_resolveStatus (wf_setArray h)

theorem wf_execArrayCommandDone {arr : Nat} : NextWf (execArrayCommandDone arr s) := by
  unfold execArrayCommandDone
  split
  · exact h
  · refine wf_ite h ?_
    split
    · exact wf_arrayPerform h
    · exact wf_ite (wf_resolve h) (wf_arrayWrite h)

theorem wf_execRowProgram {arr : Nat} : NextWf (execRowProgram arr s) := by
  unfold execRowProgram
  split
  · exact h
  · exact nextWf_ite h (nextWf_ite (wf_ite (wf_resolveStatus (wf_setArray h)) (wf_setOp (wf_setArray h)))
      (wf_resolveStatus (wf_arrayFault (wf_setArray h))))

end

/-! ### The functions of Sys2Proof/Machine/Tasks.lean -/

section
variable {s : State} (h : Memory.wf s = true)
include h

theorem wf_endLaunch {t : Task} {tag code count : Nat} : Memory.wf (s.endLaunch t tag code count) = true := by
  unfold State.endLaunch
  extract_lets die u v
  have hv : Memory.wf v = true := Memory.wf_congr rfl rfl h
  split
  · exact wf_resolveStatus hv
  · exact hv

theorem wf_entryEcc {part : Nat} {ctx : Bool} {w : Word} : Memory.wf (s.entryEcc part ctx w) = true := wf_ecc _ _ h

theorem wf_refEcc {part : Nat} {ctx : Bool} {w : Word} {n : Nat} : Memory.wf (s.refEcc part ctx w n) = true := by
  unfold State.refEcc
  dsimp only
  split
  · exact wf_ite (wf_entryEcc h) (wf_ecc _ _ (wf_entryEcc h))
  · exact wf_entryEcc h

theorem wf_headerRead {t : Task} : Memory.wf (s.headerRead t) = true := by
  unfold State.headerRead
  dsimp only
  split
  · exact wf_endLaunch (wf_fold (fun _ _ h => wf_entryEcc h) h)
  · exact wf_setTask (wf_fold (fun _ _ h => wf_entryEcc h) h)

theorem wf_fetchHeader {t : Task} {w : Word} : Memory.wf (s.fetchHeader t w) = true :=
  wf_ite (wf_endLaunch (wf_refEcc h)) (wf_ite (wf_endLaunch (wf_refEcc h))
    (wf_ite (wf_setTask (wf_refEcc h)) (wf_headerRead (wf_refEcc h))))

theorem wf_readData {t : Task} : Memory.wf (s.readData t) = true := by
  unfold State.readData
  extract_lets u live gone regions refused poisoned
  have hu : Memory.wf u = true := wf_fold (fun _ _ h => wf_refEcc h) h
  refine wf_ite (wf_endLaunch hu) ?_
  cases poisoned with
  | some n => exact wf_endLaunch hu
  | none =>
    cases gone with
    | some n => exact wf_endLaunch hu
    | none => exact wf_setTask hu

theorem wf_execLaunchRead {task : Nat} : NextWf (execLaunchRead task s) := by
  unfold execLaunchRead
  generalize s.task task = found
  cases found with
  | none => exact h
  | some t =>
    refine nextWf_ite (wf_endLaunch h) (nextWf_ite h ?_)
    cases t.stage with
    | intake =>
      cases t.ref with
      | some w => exact wf_fetchHeader h
      | none => exact wf_headerRead h
    | _ => exact wf_readData h

theorem wf_launchDomain : Memory.wf s.launchDomain = true := wf_fold (fun _ _ h => wf_setBarrier (wf_tellAge h)) h

omit h in
theorem wf_applyRegions {t : Task} {l : List (Nat × BitVec 128)} :
    ∀ {s : State}, Memory.wf s = true → Memory.wf (s.applyRegions t l).1 = true := by
  induction l with
  | nil => exact fun h => h
  | cons p r ih => exact fun h => wf_iteFst h (wf_iteFst h (ih (Memory.wf_congr rfl rfl h)))

theorem wf_launchCore {t : Task} {index core : Nat} : Memory.wf (s.launchCore t index core) = true :=
  wf_fold (fun _ _ h => wf_setThread h) (wf_setCoreCtx h)
theorem wf_place {t : Task} {x y : Nat} : Memory.wf (s.place t x y) = true :=
  wf_fold (fun _ _ h => wf_launchCore h) (wf_fold (fun _ _ h => wf_setBarrier h)
    (wf_fold (fun _ _ h => wf_setSync h) (wf_fold (fun _ _ h => wf_setSync h) (wf_launchDomain (wf_setTask h)))))

omit h in
theorem wf_evaluate {part : Nat} {ctx : Bool} {n : Nat} :
    ∀ {s : State}, Memory.wf s = true → Memory.wf (s.evaluate part ctx n) = true := by
  induction n with
  | zero => exact fun h => h
  | succ n ih =>
    intro s h
    unfold State.evaluate
    split
    · exact ih h
    · next t _ =>
      refine wf_ite (wf_endLaunch h) (wf_ite (wf_endLaunch h) (wf_ite (ih h) ?_))
      have hu := wf_applyRegions (t := t) (l := t.regions) h
      generalize s.applyRegions t t.regions = p at hu ⊢
      obtain ⟨u, e⟩ := p
      cases e <;> cases s.roomFor t
      case applied.none => exact h
      case applied.some => exact wf_place hu
      case refused.some => exact wf_endLaunch hu
      case census.some => exact ih hu
      all_goals exact ih h

theorem wf_execPlacementEvaluate {part : Nat} : NextWf (execPlacementEvaluate part s) := wf_ite (wf_evaluate h) h
theorem wf_drainTask {t : Task} : Memory.wf (s.drainTask t) = true :=
  wf_fold (fun _ _ h => wf_l1MoveAll h) (wf_fold (fun _ _ h => wf_drain h) h)
theorem wf_finishTask {t : Task} : Memory.wf (s.finishTask t) = true :=
  wf_endLaunch (wf_fold (fun _ _ h => wf_setThread h) (wf_fold (fun _ _ h => wf_setBarrier (wf_tellAge h))
    (wf_fold (fun _ _ h => wf_setSync h) (wf_fold (fun _ _ h => wf_setSync h) h))))

theorem wf_execTaskRetire {task : Nat} : NextWf (execTaskRetire task s) := by
  unfold execTaskRetire
  split
  · exact h
  · split
    · refine nextWf_ite h (nextWf_ite (wf_drainTask h) (nextWf_ite h ?_))
      split
      · exact wf_ite h (wf_fold (fun _ _ h => wf_setPch h) h)
      · exact wf_ite h (wf_ite (wf_finishTask h) (wf_setTask h))
    · exact wf_finishTask h
    · exact h

theorem wf_checksumRecord {t : Task} {i : Nat} : Memory.wf (s.checksumRecord t i) = true := by
  unfold State.checksumRecord
  refine wf_record _ _ _ _ _ _ ?_
  split
  · exact h
  · exact wf_iteFst (wf_refEcc h) (wf_refEcc (wf_refEcc h))

theorem wf_execChecksum {task : Nat} : NextWf (execChecksum task s) := by
  unfold execChecksum
  split
  · exact nextWf_ite (wf_setTask (wf_fold (fun _ _ h => wf_checksumRecord h) h)) h
  · exact h

theorem wf_execTaskRemove {task : Nat} : NextWf (execTaskRemove task s) := by
  unfold execTaskRemove
  split
  · exact h
  · exact nextWf_ite (wf_setTask (wf_fold (fun _ _ h => wf_dropWaiting h)
      (wf_fold (fun _ _ h => wf_setThread (wf_releaseHeld h)) h))) (nextWf_ite h (wf_endLaunch h))

theorem wf_bringUp {arr : Nat} : Memory.wf (s.bringUp arr) = true := wf_setArray h
theorem wf_execPartcfgWrite {part : Nat} {value : Word} : NextWf (execPartcfgWrite part value s) :=
  nextWf_ite (wf_setPart h) (wf_fold (fun _ _ h => wf_fold (fun _ _ h => wf_bringUp h) h) (Memory.wf_congr rfl rfl h))
theorem wf_execLportWrite {part : Nat} {ctx : Bool} {value : Word} : NextWf (execLportWrite part ctx value s) :=
  nextWf_ite (wf_setPctx h) (wf_ite (wf_setPctx (wf_refEcc h)) (Memory.wf_congr (s := State.refEcc _ _ _ _ _) rfl rfl
    (wf_refEcc h)))

end

/-! ### The functions of Sys2Proof/Machine/Swap.lean -/

section
variable {s : State} (h : Memory.wf s = true)
include h

theorem wf_haltThread {t : ThreadId} : Memory.wf (s.haltThread t) = true := by
  unfold State.haltThread
  refine wf_setThread ?_
  split
  · exact h
  · exact wf_ite h (wf_releaseHeld h)

theorem wf_withdrawMatrix {core : Nat} {ctx : Bool} : Memory.wf (s.withdrawMatrix core ctx) = true := by
  unfold State.withdrawMatrix
  dsimp only
  refine wf_fold (fun _ _ h => ?_) (wf_setCoreCtx h)
  split
  · split
    · exact wf_resolveStatus (wf_ite (wf_setQuad h) h)
    · exact wf_ite (wf_setQuad h) h
  · exact h

theorem wf_haltCore {ctx : Bool} {core : Nat} : Memory.wf (s.haltCore ctx core) = true :=
  wf_abandonWalks (wf_fold (fun _ _ h => wf_haltThread h) (wf_withdrawMatrix (wf_setCore h)))

theorem wf_haltOp {o : Op} : Memory.wf (s.haltOp o) = true := by
  unfold State.haltOp
  split
  · exact wf_ite (wf_resolveStatus h) (wf_ite (wf_setOp h) h)
  · exact wf_ite h (wf_endSteal h)
  · exact wf_resolveStatus h
  · exact h

theorem wf_execSwapGo {part : Nat} : NextWf (execSwapGo part s) :=
  nextWf_ite h (nextWf_ite (wf_setPart h) (wf_fold (fun _ _ h => wf_haltOp h)
    (wf_fold (fun _ _ h => wf_haltCore h) (wf_setPart h))))
theorem wf_unspill {ctx : Bool} {record : Nat} {sender : Option Nat × BitVec 32} :
    Memory.wf (s.unspill ctx record sender) = true :=
  wf_ite h (wf_ite (wf_setCoreCtx h) (wf_deadLetter h))
theorem wf_unspillAll {part : Nat} {ctx : Bool} : Memory.wf (s.unspillAll part ctx) = true :=
  wf_fold (fun _ _ h => wf_unspill h) (wf_setPctx (wf_ecc _ _ h))
theorem wf_execSwapExchange {part : Nat} : NextWf (execSwapExchange part s) :=
  nextWf_ite h (wf_fold (fun _ _ h => wf_setCore h) (wf_unspillAll
    (wf_setPart (wf_fold (fun _ _ h => wf_spillWaiting h) h))))
theorem wf_execPreempt {value : Word} : NextWf (execPreempt value s) :=
  nextWf_ite h (wf_fold (fun _ _ h => wf_ite (wf_setThread h) h) h)
theorem wf_execDoorbell {core thr : Nat} {value : Word} : NextWf (execDoorbell core thr value s) :=
  nextWf_ite h (wf_setThread h)

end

/-! ### The functions of Sys2Proof/Machine/Debug.lean -/

section
variable {s : State} (h : Memory.wf s = true)
include h

theorem wf_execDbgctlHalt {core : Nat} : NextWf (execDbgctlHalt core s) := wf_ite (wf_hardHalt h) h
theorem wf_execDbgctlSoft {core : Nat} {threads : BitVec 8} : NextWf (execDbgctlSoft core threads s) :=
  nextWf_ite h (wf_fold (fun _ _ h => wf_ite (wf_setThread h) h) h)
theorem wf_execDbgctlResume {core : Nat} : NextWf (execDbgctlResume core s) :=
  nextWf_ite h (wf_fold (fun _ _ h => wf_fold (fun _ _ h => wf_setThread h) h) (wf_setCore h))

theorem wf_execDbgvalWrite {core : Nat} {value : Word} : NextWf (execDbgvalWrite core value s) := by
  unfold execDbgvalWrite
  refine nextWf_ite h ?_
  split
  · exact wf_ite h (wf_writeReg h)
  · exact wf_ite h (wf_writeReg h)
  · exact nextWf_ite h (wf_writeReg (wf_setCoreCtx h))
  · exact h

theorem wf_execTraceFunnelWrite {cluster : Nat} : NextWf (execTraceFunnelWrite cluster s) := by
  unfold execTraceFunnelWrite
  refine nextWf_ite h ?_
  split
  · exact h
  · split
    · exact h
    · exact wf_setCluster (wf_ite (wf_dramStore _ _ _ (wf_ecc _ _ (wf_setCore h))) (wf_setCore h))

theorem wf_execTraceTimestamp {core : Nat} : NextWf (execTraceTimestamp core s) := wf_ite (wf_emit (wf_setCore h)) h
theorem wf_execTraceLoss {core : Nat} : NextWf (execTraceLoss core s) := wf_setCore h

end

/-! ### The functions of Sys2Proof/Machine/Lanes.lean -/

section
variable {s : State} (h : Memory.wf s = true)
include h

theorem wf_signal {r : Record} : Memory.wf (s.signal r) = true := wf_ite (wf_interrupt h) h
theorem wf_laneTake {r : Record} : Memory.wf (s.laneTake r) = true :=
  wf_ite (wf_interrupt (wf_setPctx (wf_ite (wf_putBlock _ _ _ (wf_ecc _ _ h)) h)))
    (wf_signal (wf_withStewardLog (wf_setPctx h)))

theorem wf_execLaneRecord {part : Nat} {ctx fatal : Bool} {record : BitVec 512} :
    NextWf (execLaneRecord part ctx fatal record s) := by
  unfold execLaneRecord
  split
  · exact h
  · exact wf_ite (wf_signal (wf_withStewardLog (wf_withRecords h))) (wf_ite h (wf_laneTake (wf_withRecords h)))

theorem wf_execPatrolScrub {block : Nat} {uncorrectable : Bool} {syndrome : Word} :
    NextWf (execPatrolScrub block uncorrectable syndrome s) :=
  wf_ite h (wf_foundError _ _ _ _ h)
theorem wf_execErrorEventLog {source : ErrSource} {time : Nat} : NextWf (execErrorEventLog source time s) :=
  wf_errorEvent _ _ _ _ h
theorem wf_execErrorEventExpire {source : ErrSource} {time : Nat} : NextWf (execErrorEventExpire source time s) :=
  wf_ite (Memory.wf_congr rfl rfl h) h
theorem wf_splitLeaf {frame target at_ table : Nat} : Memory.wf (s.splitLeaf frame target at_ table) = true :=
  wf_dramStore _ _ _ (wf_fold (fun _ _ h => wf_dramStore _ _ _ h) (wf_eccAll _ h))
theorem wf_remap {frame target : Nat} {tables : List Nat} : Memory.wf (s.remap frame target tables) = true :=
  wf_fold (fun _ _ h => wf_fold (fun _ _ h => wf_ite h (wf_dramStore _ _ _ h)) h)
    (wf_eccAll _ (wf_fold (fun _ _ h => wf_splitLeaf h) (wf_eccAll _ (wf_eccAll _ h))))
theorem wf_moveRanges {frame target : Nat} : Memory.wf (s.moveRanges frame target) = true := Memory.wf_congr rfl rfl h
theorem wf_moveEntries {frame target : Nat} : Memory.wf (s.moveEntries frame target) = true :=
  wf_fold (fun _ _ h => Memory.wf_congr rfl rfl h) (Memory.wf_congr rfl rfl h)
theorem wf_tlbDrop {gone : TlbEntry → Bool} : Memory.wf (s.tlbDrop gone) = true := Memory.wf_congr rfl rfl h

/-- R83: the range that moves is rewritten at both places, for the bytes and for the tags. -/
theorem wf_execFrameRetire {frame : Nat} {pages : List Nat} : NextWf (execFrameRetire frame pages s) := by
  unfold execFrameRetire
  extract_lets target tables a b ok keys u v w
  have hu : Memory.wf u = true := wf_fold (fun _ _ h => wf_writeBackNow h) (wf_eccAll _ h)
  obtain ⟨hb, ht⟩ := (Memory.wf_iff u).mp hu
  have hv : Memory.wf v = true := (Memory.wf_iff v).mpr ⟨wf_movedRange 0 _ _ _ _ hb, wf_movedRange zeroTag _ _ _ _ ht⟩
  exact nextWf_ite h (wf_tlbDrop (wf_remap (wf_moveRanges (wf_moveEntries hv))))

end

/-! ### The functions of Sys2Proof/Machine/Mmio.lean -/

section
variable {s : State} (h : Memory.wf s = true)
include h

theorem wf_mmioWrite {r : Mmio} {w : Word} : Memory.wf (s.mmioWrite r w) = true := by
  cases r with
  | tlbinva | gqcfg _ | dbarcnt _ | pwrstat => exact Memory.wf_congr rfl rfl h
  | digest _ => exact wf_ite h (Memory.wf_congr rfl rfl h)
  | bkctx _ => exact wf_ite h (wf_setPch h)
  | swapctl _ => exact wf_setPart h
  | dbp _ _ | dwp _ _ | dbgsel _ => exact wf_setCore h
  | trcbase _ | trcctl _ => exact wf_setCluster h
  | ptroot _ _ | htbase _ _ | htcount _ _ | own _ _ _ | lstat _ _ | msgsave _ _ | msgcnt _ _ | lane _ _ _ | index _ _ _
  | cklist _ _ | ckcnt _ _ => exact wf_setPctx h
  | _ => exact h

end

/-! ### The functions of Sys2Proof/Machine/Boot.lean -/

section
variable {s : State} (h : Memory.wf s = true)
include h

theorem wf_extend {k : Nat} {digest : List Byte} : Memory.wf (s.extend k digest) = true := Memory.wf_congr rfl rfl h
theorem wf_measure {k : Nat} {image : List Byte} : Memory.wf (s.measure k image) = true := wf_extend (wf_withDigest h)
theorem wf_attest {nonce : BitVec 384} : Memory.wf (s.attest nonce) = true := Memory.wf_congr rfl rfl h
theorem wf_bootFail : Memory.wf s.bootFail = true := Memory.wf_congr rfl rfl h
theorem wf_bringUpAll : Memory.wf s.bringUpAll = true := wf_fold (fun _ _ h => wf_bringUp h) h

theorem wf_trainPorts : Memory.wf s.trainPorts = true := by
  unfold State.trainPorts
  extract_lets t
  have ht : Memory.wf t = true := wf_fold (fun _ _ h => wf_setPort h) h
  clear_value t
  exact Memory.wf_congr (s := t) rfl rfl ht

theorem wf_accept {stage : Nat} {head : List Byte} : Memory.wf (s.accept stage head) = true := Memory.wf_congr rfl rfl h

theorem wf_bootStep : Memory.wf s.bootStep = true := by
  unfold State.bootStep
  refine wf_ite ?image1 (wf_ite ?image2 (wf_ite ?_ (wf_ite ?image4 (wf_ite ?_ h))))
  case image1 =>
    split
    · next head body _ =>
      have ha : Memory.wf ((s.measure 0 (head ++ body)).accept 1 head) = true := wf_accept (wf_measure h)
      generalize State.accept _ _ _ = t at ha ⊢
      exact Memory.wf_congr (s := t) rfl rfl ha
    · exact wf_bootFail h
  case image2 =>
    split
    · exact wf_withBootStage (wf_accept (wf_measure h))
    · exact wf_bootFail h
  case image4 =>
    split
    · exact wf_withBootStage (wf_measure h)
    · exact wf_bootFail h
  · exact wf_ite (wf_bootFail h) (wf_ite (wf_withBootStage (wf_measure (wf_trainPorts h))) h)
  · exact wf_ite (wf_bootFail h) (wf_withBootStage (wf_measure (wf_bringUpAll h)))

theorem wf_mextEnd : Memory.wf s.mextEnd = true := by
  unfold State.mextEnd
  split
  · next k _ =>
    have hk : Memory.wf (s.extend k s.digestBytes) = true := wf_extend h
    generalize s.extend k s.digestBytes = t at hk ⊢
    exact Memory.wf_congr (s := t) rfl rfl hk
  · exact h

theorem wf_bootNext : Memory.wf s.bootNext = true := wf_ite (wf_mextEnd h) (wf_bootStep h)

end

/-! ### The functions of Sys2Proof/Machine/Link.lean -/

section
variable {s : State} (h : Memory.wf s = true)
include h

theorem wf_execRemoteAck {op : Nat} : NextWf (execRemoteAck op s) := by
  unfold execRemoteAck
  split
  · split
    · exact wf_ite (wf_removeOp h) h
    · exact wf_ite (wf_resolveStatus h) (wf_ite h (wf_resolveStatus h))
    · refine nextWf_ite ?_ h
      split
      · exact wf_setOp h
      · exact h
    · exact h
  · exact h

theorem wf_execFlagResend {op dev : Nat} : NextWf (execFlagResend op dev s) := h

theorem wf_answerLane {op i cause : Nat} {bounded : Bool} {value : List Byte} :
    Memory.wf (s.answerLane op i cause bounded value) = true := by
  unfold State.answerLane
  split
  · split
    · split
      · exact wf_ite h (wf_setOp h)
      · exact h
    · exact h
  · exact h

theorem wf_refuseUpdate {port op cause : Nat} : Memory.wf (s.refuseUpdate port op cause) = true := by
  unfold State.refuseUpdate
  split
  · split
    · exact wf_ite h (wf_removeOp (wf_hwError _ _ _ _ _ _ _ _ _ _ _ _ h))
    · exact wf_ite h (wf_resolveFault h)
    · exact h
  · exact h

theorem wf_once {src tag pa : Nat} {takes : Bool} {f : State → State}
    (hf : ∀ s, Memory.wf s = true → Memory.wf (f s) = true) :
    Memory.wf (s.once src tag pa takes f) = true :=
  wf_ite h (Memory.wf_congr (s := f s) rfl rfl (hf s h))
theorem wf_storeOnce {src tag pa : Nat} {bytes : List Byte} : Memory.wf (s.storeOnce src tag pa bytes) = true :=
  wf_once h fun _ h => wf_dramStore _ _ _ (wf_ite (wf_sliceWrite (wf_ecc _ _ h)) (wf_ecc _ _ h))

theorem wf_receive {port : Nat} {p : Packet} : Memory.wf (s.receive port p) = true := by
  unfold State.receive
  split
  · exact wf_ite (wf_storeOnce h) (wf_once h fun _ h => wf_l2Fold (wf_makeRoom h))
  · exact wf_once h fun _ h => wf_l2Put (wf_makeRoom h)
  · exact wf_storeOnce h
  · exact wf_once h fun _ h => wf_memoryPieces h
  · exact wf_ite h (wf_ecc _ _ h)
  · exact wf_ite (wf_refuseUpdate (wf_answerLane h)) h
  · exact wf_setPort h

theorem wf_execFlitReceive {port : Nat} {crcOk : Bool} {packet : Packet} : NextWf (execFlitReceive port crcOk packet s) :=
  wf_ite h (wf_ite (wf_receive h) (wf_errorEvent _ _ _ _ h))
theorem wf_execFlagReceive {dev core thr : Nat} {seq : BitVec 32} {obj : Nat} :
    NextWf (execFlagReceive dev core thr seq obj s) :=
  nextWf_ite (wf_countSeq (wf_withFlagsSeen h)) h
theorem wf_execPortDown {port : Nat} : NextWf (execPortDown port s) := wf_ite (wf_setPort h) h
theorem wf_execKlstatWrite {port : Nat} {value : Word} : NextWf (execKlstatWrite port value s) := wf_ite (wf_setPort h) h
theorem wf_execDomidWrite {value : Word} : NextWf (execDomidWrite value s) := wf_ite h (Memory.wf_congr rfl rfl h)
theorem wf_loseLock : Memory.wf s.loseLock = true := wf_ite (Memory.wf_congr rfl rfl h) h
theorem wf_execTimeBeat {time : Word} : NextWf (execTimeBeat time s) := nextWf_ite h (Memory.wf_congr rfl rfl h)
theorem wf_execTlockLoss : NextWf (execTlockLoss s) := wf_loseLock h
theorem wf_correct {n : Nat} : Memory.wf (s.correct n) = true := wf_loseLock (Memory.wf_congr rfl rfl h)

end

/-! ### The functions of Sys2Proof/Machine/Steward.lean -/

section
variable {s : State} (h : Memory.wf s = true)
include h

theorem wf_execMemcfgWrite {value : Word} : NextWf (execMemcfgWrite value s) :=
  wf_ite h (wf_ite (wf_zeroBlocks _ _ (Memory.wf_congr rfl rfl h)) (Memory.wf_congr rfl rfl h))
theorem wf_execTlbinv {value : Word} : NextWf (execTlbinv value s) := wf_ite h (Memory.wf_congr rfl rfl h)
theorem wf_execTlbinvDone : NextWf (execTlbinvDone s) := wf_ite (Memory.wf_congr rfl rfl h) h
theorem wf_execHrevoke {value : Word} : NextWf (execHrevoke value s) := wf_ite h (Memory.wf_congr rfl rfl h)
theorem wf_execHrevokeDone : NextWf (execHrevokeDone s) := wf_ite h (Memory.wf_congr rfl rfl h)
theorem wf_execRegcfgWrite {id : Nat} {record : BitVec 128} : NextWf (execRegcfgWrite id record s) :=
  wf_ite (wf_setRegion h) h
theorem wf_execMextExtend {k : Word} : NextWf (execMextExtend k s) := wf_ite h (Memory.wf_congr rfl rfl h)
theorem wf_execMextComplete : NextWf (execMextComplete s) := wf_mextEnd h
omit h in
theorem wf_powerOff {s : State} : Memory.wf s.powerOff = true := Memory.wf_congr (s := State.reset) rfl rfl wf_reset
theorem wf_execThermalHot {die : Nat} {code : BitVec 16} : NextWf (execThermalHot die code s) :=
  nextWf_ite (wf_ite (Memory.wf_congr rfl rfl h) (Memory.wf_congr rfl rfl h))
    (nextWf_ite wf_powerOff (wf_recordFor _ _ (fun _ _ _ h => wf_hwError _ _ _ _ _ _ _ _ _ _ _ _ h)
    (Memory.wf_congr (s := ite _ _ _) rfl rfl (wf_ite (Memory.wf_congr rfl rfl h) (Memory.wf_congr rfl rfl h)))))
omit h in
theorem wf_execThermalTrip {s : State} : NextWf (execThermalTrip s) := wf_powerOff
omit h in
theorem wf_execRailFail {s : State} : NextWf (execRailFail s) := wf_powerOff
theorem wf_execPowerUp : NextWf (execPowerUp s) := wf_ite h (Memory.wf_congr rfl rfl h)

theorem wf_execRegisterWrite {pa : Nat} {value : Word} : NextWf (execRegisterWrite pa value s) := by
  unfold execRegisterWrite
  refine wf_ite h ?_
  split
  · exact wf_mmioWrite h
  · exact h

theorem wf_storeRegister {r : Mmio} {w : Word} : NextWf (storeRegister r w s) := by
  have hw : Memory.wf (s.mmioWrite r w) = true := wf_mmioWrite h
  cases r with
  | memcfg => exact wf_execMemcfgWrite h
  | tlbinv => exact wf_execTlbinv h
  | hrevoke => exact wf_execHrevoke h
  | barage => exact wf_execBarageWrite h
  | regcfg id high => exact nextWf_ite h (wf_execRegcfgWrite h)
  | bkctx pch =>
    exact nextWf_ite (wf_execBkctxSave h) (nextWf_ite (wf_execBkctxRestore h) (nextWf_ite (wf_execBkctxDiscard hw) hw))
  | partcfg p => exact wf_execPartcfgWrite h
  | lport p c => exact wf_execLportWrite h
  | swapctl p => exact nextWf_ite (wf_execSwapGo hw) hw
  | preempt => exact wf_execPreempt h
  | klstat p => exact wf_execKlstatWrite h
  | domid => exact wf_execDomidWrite h
  | mextgo => exact wf_execMextExtend h
  | dbgctl core =>
    exact nextWf_then (nextWf_then (wf_execDbgctlSoft h) fun _ h => wf_execDbgctlResume h) fun _ h => wf_execDbgctlHalt h
  | dbgval core => exact wf_execDbgvalWrite h
  | doorbell core thr => exact wf_execDoorbell h
  | _ => exact hw

theorem wf_stewardPut {pa : Nat} {l : List Byte} : Memory.wf (s.stewardPut pa l) = true :=
  wf_dramStore _ _ _ (wf_sliceWrite h)

theorem wf_stewardLoad {hart : Nat} {l : HartLoad} {pa : Nat} : Memory.wf (s.stewardLoad hart l pa) = true := by
  unfold State.stewardLoad
  refine wf_ite ?_ (wf_ite (wf_hartLoadFault h) (wf_ite (wf_answerAt ?_) (wf_addOpOf (wf_answerHart h))))
  · split
    · exact wf_answerAt h
    · exact wf_hartLoadFault h
  · split
    · exact wf_stewardPut (wf_ecc _ _ h)
    · exact wf_ecc _ _ h

theorem wf_stewardStore {hart size pa : Nat} {value : Word} {length : Nat} :
    NextWf (s.stewardStore hart size pa value length) := by
  unfold State.stewardStore
  refine nextWf_ite ?_ (nextWf_ite (wf_hartStoreFault h) (nextWf_ite (wf_stewardPut (wf_ecc _ _ (wf_hartGo h)))
    (wf_addOpOf (wf_hartGo h))))
  split
  · exact nextWf_ite (wf_storeRegister (wf_hartGo h)) (wf_hartGo h)
  · exact wf_hartGo h

theorem wf_execStewardAccess {hart place : Nat} {op : StewardOp} : NextWf (execStewardAccess hart place op s) := by
  unfold execStewardAccess
  refine nextWf_ite h ?_
  split
  · exact wf_ite (wf_stewardLoad h) h
  · exact nextWf_ite (wf_stewardStore h) h
  · exact Memory.wf_congr rfl rfl h
  · exact Memory.wf_congr rfl rfl h
  · exact wf_zeroBlocks _ _ h
  · exact wf_ite (Memory.wf_congr rfl rfl h) (Memory.wf_congr rfl rfl h)
  · exact wf_ite (wf_attest h) h
  · exact wf_setHart h
  · exact wf_setHart h
  · exact wf_setHart h
  · exact wf_setHart h
  · exact wf_setHart h
  · exact wf_ite (wf_setHart h) h

end

/-! ### The functions of Sys2Proof/Machine/ThreadEvents.lean -/

section
variable {s : State} (h : Memory.wf s = true)
include h

theorem wf_execLanding : NextWf (execLanding s) := wf_landDue h
theorem wf_execEmptyGroup : NextWf (execEmptyGroup s) := wf_emptyGroup h
theorem wf_execAnnulledGroup : NextWf (execAnnulledGroup s) := wf_ite (wf_finishGroup (Memory.wf_congr rfl rfl h)) h
theorem wf_refreshQueues {core : Nat} {ctx : Bool} : Memory.wf (s.refreshQueues core ctx) = true :=
  Memory.wf_congr (s := List.foldl _ _ _) rfl rfl (wf_fold (fun _ _ h => wf_refreshQueue (Memory.wf_congr rfl rfl h)) h)

theorem wf_execLineFetch {t : ThreadId} {va : Nat} : NextWf (execLineFetch t va s) := by
  unfold execLineFetch
  dsimp only
  split
  · exact h
  · refine nextWf_ite h (nextWf_ite h ?_)
    split
    · exact wf_setThread (wf_ite h (wf_eccFor _ _ _ h))
    · exact wf_refreshQueues (wf_setThread (wf_setCluster (wf_setCore (wf_ite h (wf_eccFor _ _ _ h)))))

omit h in
theorem wf_walkEcc {r : Reader} {va n : Nat} :
    ∀ {s : State} {table : Nat}, Memory.wf s = true → Memory.wf (s.walkEcc r va n table) = true := by
  induction n with
  | zero => exact fun h => h
  | succ n ih => exact fun h => wf_ite h (wf_ite (wf_eccFor _ _ _ h) (ih (wf_eccFor _ _ _ h)))

theorem wf_execPageWalkEnd {t : ThreadId} : NextWf (execPageWalkEnd t s) := by
  unfold execPageWalkEnd
  split
  · exact h
  · refine nextWf_ite h ?_
    extract_lets _ _ _ _ u
    have hu : Memory.wf u = true := wf_walkEcc (Memory.wf_congr rfl rfl h)
    split
    · exact wf_fold (fun _ _ h => wf_tlbFill h) (wf_fold (fun _ _ h => wf_setThread h) hu)
    · exact wf_fold (fun _ _ h => wf_setThread h) hu
    · exact wf_fold (fun _ _ h => wf_setThread h) hu
    · exact wf_unitError (wf_fold (fun _ _ h => wf_setThread h) hu)

theorem wf_execInterruptEntry {code : Nat} : NextWf (execInterruptEntry code s) := wf_ite (wf_enterHandler h) h
theorem wf_execStopSpacingFault : NextWf (execStopSpacingFault s) := wf_ite (wf_trapThread h) h

theorem wf_execMatrixThresholdTrap : NextWf (execMatrixThresholdTrap s) := by
  unfold execMatrixThresholdTrap
  split
  · exact nextWf_ite h (wf_trapThread (wf_setTh h))
  · exact h

theorem wf_execYieldExpire {t : ThreadId} : NextWf (execYieldExpire t s) := wf_ite (wf_setThread h) h
theorem wf_execBreakpointMatch {bp : Nat} : NextWf (execBreakpointMatch bp s) :=
  nextWf_ite (nextWf_ite (wf_setTh h) (wf_hardHalt (wf_setTh h))) h
theorem wf_execCycleCompareMatch {t : ThreadId} : NextWf (execCycleCompareMatch t s) := wf_ite (wf_setThread h) h
theorem wf_execUnassignedEncoding {pc : Word} : NextWf (execUnassignedEncoding pc s) := wf_trapThread h
theorem wf_execInstructionFetchFault {cause : Nat} {va : Word} : NextWf (execInstructionFetchFault cause va s) :=
  wf_trapThread h

end

/-! ### The functions of Sys2Proof/Machine/Agenda.lean -/

theorem wf_evictions {s t : State} (h : Memory.wf s = true) (ht : t ∈ s.evictions) : Memory.wf t = true := by
  simp only [State.evictions, List.mem_append, List.mem_flatten, List.mem_map] at ht
  obtain ((⟨_, ⟨_, -, rfl⟩, ht⟩ | ⟨_, ⟨_, -, rfl⟩, ht⟩) | ⟨_, ⟨_, -, rfl⟩, ht⟩) | ⟨_, ⟨_, -, rfl⟩, ht⟩ := ht
  all_goals
    obtain ⟨_, -, rfl⟩ := List.mem_map.mp ht
    exact Memory.wf_congr rfl rfl h

theorem wf_publications {s t : State} (h : Memory.wf s = true) (ht : t ∈ s.publications) : Memory.wf t = true := by
  simp only [State.publications, List.mem_flatten, List.mem_map] at ht
  obtain ⟨_, ⟨_, -, rfl⟩, ht⟩ := ht
  obtain ⟨_, -, rfl⟩ := List.mem_map.mp ht
  exact Memory.wf_congr rfl rfl h

/-! ### The functions of Sys2Proof/Machine/Control.lean -/

section
variable {s : State} (h : Memory.wf s = true)
include h

theorem wf_transfer {target : Word} : Memory.wf (s.transfer target) = true := Memory.wf_congr rfl rfl h
theorem wf_annulSlots : Memory.wf s.annulSlots = true := Memory.wf_congr rfl rfl h
theorem wf_execBr {o : Fmt Unit} : NextWf (execBr o s) := wf_slot h (wf_emit (wf_transfer h))
theorem wf_branchOutcome {annul : Option Bool} {imm : BitVec 32} {taken : Bool} :
    Memory.wf (s.branchOutcome annul imm taken) = true :=
  wf_emit (wf_ite (wf_annulSlots (wf_ite (wf_transfer h) h)) (wf_ite (wf_transfer h) h))
theorem wf_condBranch {o : Fmt CondMod} {annul : Option Bool} : NextWf (s.condBranch o annul) :=
  nextWf_ite (wf_slot h (endsWf_check wf_sources fun ⟨_, _, _⟩ => endsWf_check wf_noBounded fun _ => wf_branchOutcome h))
    (wf_branchOutcome h)
theorem wf_execBrc {o : Fmt CondMod} : NextWf (execBrc o s) := wf_condBranch h
theorem wf_execBrca {o : Fmt CondMod} : NextWf (execBrca o s) := wf_condBranch h
theorem wf_execBrct {o : Fmt CondMod} : NextWf (execBrct o s) := wf_condBranch h
theorem wf_execJmp {o : Fmt Unit} : NextWf (execJmp o s) :=
  wf_slot h (endsWf_check wf_sources fun ⟨_, _, _⟩ => endsWf_check wf_noBounded fun _ => wf_emit (wf_transfer h))

omit h in
theorem wf_linkPairs {s : State} {pc : Word} : StopsWf (s.linkPairs pc) := by
  unfold State.linkPairs
  split
  · trivial
  · split <;> trivial

omit h in
theorem wf_linkNow {s : State} : StopsWf s.linkNow := by
  have hlink : ∀ pc, StopsWf (do .ok (seqPc (← s.linkPairs pc) pc)) := fun _ => endsWf_check wf_linkPairs fun _ => trivial
  have hpc : StopsWf (.ok s.th.q2.pc) := trivial
  exact endsWf_either (hlink _) hpc fun pc2 => hlink pc2

omit h in
theorem wf_link {s : State} : StopsWf s.link := by
  unfold State.link
  split
  · trivial
  · exact wf_linkNow

theorem wf_callTo {target : Word} {kind : Nat} {value : Word} : StateWf (s.callTo target kind value) :=
  endsWf_ite trivial (endsWf_check wf_link fun _ => wf_land (wf_emit (wf_transfer h)))
theorem wf_execCall {o : Fmt Unit} : NextWf (execCall o s) := wf_slot h (wf_callTo h)
theorem wf_execCallIndirect {o : Fmt Unit} : NextWf (execCallIndirect o s) :=
  wf_slot h (endsWf_when trivial fun _ => endsWf_check wf_sources fun ⟨_, _, _⟩ => endsWf_check wf_noBounded fun _ =>
    wf_callTo h)
theorem wf_watchSaved : Memory.wf s.watchSaved = true := wf_watchAll h
theorem wf_comeBack {l : List Landing} : Memory.wf (s.comeBack l) = true := wf_emit (wf_returnWith h)

theorem wf_execEret {o : Fmt Unit} : NextWf (execEret o s) := by
  unfold execEret
  refine wf_slot h (endsWf_ite wf_pcTrap (endsWf_ite (wf_emptyGroup h) ?_))
  split
  · exact wf_comeBack (wf_watchSaved h)
  · refine endsWf_check (wf_spadEcc h) fun _ => ?_
    split
    · exact wf_pcTrap
    · exact wf_comeBack (wf_watchSaved h)

theorem wf_execYield {o : Fmt Unit} : NextWf (execYield o s) := wf_slot h (wf_setTh h)
theorem wf_execWaitt {o : Fmt Unit} : NextWf (execWaitt o s) :=
  wf_slot h (endsWf_check wf_sources fun ⟨_, _, _⟩ => endsWf_check wf_noBounded fun _ => endsWf_ite trivial h)
theorem wf_execWfi {o : Fmt Unit} : NextWf (execWfi o s) := wf_slot h (wf_setTh h)

end

/-! ### The functions of Sys2Proof/Machine/Scalar.lean -/

section
variable {s : State} (h : Memory.wf s = true)
include h

theorem wf_execNop : NextWf (execNop s) := h
theorem wf_intOp {o : Fmt IntMod} {l : Nat} {f : Word → Word → Int} : NextWf (s.intOp o l f) :=
  wf_slot h (endsWf_check wf_sources fun ⟨_, _, _⟩ => wf_land (wf_pops h))
theorem wf_execAdd {o : Fmt IntMod} : NextWf (execAdd o s) := wf_intOp h
theorem wf_execSub {o : Fmt IntMod} : NextWf (execSub o s) := wf_intOp h
theorem wf_execMul {o : Fmt IntMod} : NextWf (execMul o s) := wf_intOp h
theorem wf_execMulh {o : Fmt IntMod} : NextWf (execMulh o s) := wf_intOp h
theorem wf_execMulhu {o : Fmt IntMod} : NextWf (execMulhu o s) := wf_intOp h
theorem wf_execDiv {o : Fmt IntMod} : NextWf (execDiv o s) := wf_intOp h
theorem wf_execDivu {o : Fmt IntMod} : NextWf (execDivu o s) := wf_intOp h
theorem wf_execRem {o : Fmt IntMod} : NextWf (execRem o s) := wf_intOp h
theorem wf_execRemu {o : Fmt IntMod} : NextWf (execRemu o s) := wf_intOp h
theorem wf_execAnd {o : Fmt IntMod} : NextWf (execAnd o s) := wf_intOp h
theorem wf_execOr {o : Fmt IntMod} : NextWf (execOr o s) := wf_intOp h
theorem wf_execXor {o : Fmt IntMod} : NextWf (execXor o s) := wf_intOp h
theorem wf_execShl {o : Fmt IntMod} : NextWf (execShl o s) := wf_intOp h
theorem wf_execShr {o : Fmt IntMod} : NextWf (execShr o s) := wf_intOp h
theorem wf_execSra {o : Fmt IntMod} : NextWf (execSra o s) := wf_intOp h
theorem wf_execMin {o : Fmt IntMod} : NextWf (execMin o s) := wf_intOp h
theorem wf_execMax {o : Fmt IntMod} : NextWf (execMax o s) := wf_intOp h
theorem wf_execMinu {o : Fmt IntMod} : NextWf (execMinu o s) := wf_intOp h
theorem wf_execMaxu {o : Fmt IntMod} : NextWf (execMaxu o s) := wf_intOp h
theorem wf_bitOp {M : Type} {o : Fmt M} {f : Word → Word → Word → Word} : NextWf (s.bitOp o f) :=
  wf_slot h (endsWf_check wf_sources fun ⟨_, _, _⟩ => wf_land (wf_pops h))
theorem wf_execClz {o : Fmt Bool} : NextWf (execClz o s) := wf_bitOp h
theorem wf_execCtz {o : Fmt Bool} : NextWf (execCtz o s) := wf_bitOp h
theorem wf_execPopc {o : Fmt Bool} : NextWf (execPopc o s) := wf_bitOp h
theorem wf_execBfx {o : Fmt Bool} : NextWf (execBfx o s) := wf_bitOp h
theorem wf_execBfi {o : Fmt Unit} : NextWf (execBfi o s) := wf_bitOp h
theorem wf_execLea {o : Fmt LeaMod} : NextWf (execLea o s) := wf_bitOp h
theorem wf_execSel {o : Fmt Unit} : NextWf (execSel o s) :=
  wf_slot h (endsWf_check wf_sources fun ⟨_, _, _⟩ => wf_land (wf_pops h))
theorem wf_execMovi {p : Pred} {d : Fin 32} {imm : BitVec 64} : NextWf (execMovi p d imm s) :=
  wf_slot h (endsWf_ite trivial (wf_land h))
theorem wf_predOp {o : Fmt Unit} {f : Bool → Bool → Bool} : NextWf (s.predOp o f) :=
  wf_slot h (endsWf_check wf_sources fun ⟨_, _, _⟩ => wf_land h)
theorem wf_execCmp {o : Fmt CondMod} : NextWf (execCmp o s) :=
  wf_slot h (endsWf_check wf_sources fun ⟨_, _, _⟩ => endsWf_check wf_noBounded fun _ => wf_land (wf_pops h))
theorem wf_execPand {o : Fmt Unit} : NextWf (execPand o s) := wf_predOp h
theorem wf_execPor {o : Fmt Unit} : NextWf (execPor o s) := wf_predOp h
theorem wf_execPxor {o : Fmt Unit} : NextWf (execPxor o s) := wf_predOp h
theorem wf_execPnot {o : Fmt Unit} : NextWf (execPnot o s) := wf_predOp h
theorem wf_execPmov {o : Fmt Unit} : NextWf (execPmov o s) := wf_predOp h
theorem wf_execPmovTox {o : Fmt Unit} : NextWf (execPmovTox o s) := wf_slot h (endsWf_check wf_sources fun _ => wf_land h)
theorem wf_execPmovFromx {o : Fmt Unit} : NextWf (execPmovFromx o s) :=
  wf_slot h (endsWf_check wf_sources fun ⟨_, _, _⟩ => endsWf_check wf_noBounded fun _ => wf_fold (fun _ _ h => wf_land h)
    (wf_pops h))

end

/-! ### The functions of Sys2Proof/Machine/Sys.lean -/

section
variable {s : State} (h : Memory.wf s = true)
include h

omit h in
theorem wf_csrStore {s t : State} {n : Nat} {v : Word} (h : Memory.wf s = true) (ht : s.csrStore n v = some t) :
    Memory.wf t = true := by
  obtain ⟨th, -, rfl⟩ := Option.map_eq_some_iff.mp ht
  exact wf_ite (Memory.wf_congr rfl rfl h) (Memory.wf_congr rfl rfl h)

theorem wf_execCsrr {o : Fmt Unit} : NextWf (execCsrr o s) := by
  unfold execCsrr
  refine wf_slot h (endsWf_check wf_sources fun _ => ?_)
  split
  · exact wf_land h
  · exact wf_pcTrap

theorem wf_execCsrw {o : Fmt Unit} : NextWf (execCsrw o s) := by
  refine wf_slot h (endsWf_check wf_sources fun ⟨_, _, _⟩ => ?_)
  dsimp only
  split
  · next ht => exact endsWf_check wf_noBounded fun _ => wf_csrStore h ht
  · exact wf_pcTrap

theorem wf_execCsrx {o : Fmt Unit} : NextWf (execCsrx o s) := by
  refine wf_slot h (endsWf_check wf_sources fun ⟨_, _, _⟩ => ?_)
  dsimp only
  split
  · next ht => exact endsWf_check wf_noBounded fun _ => wf_land (wf_csrStore h ht)
  · exact wf_pcTrap

theorem wf_trapAfter {cause : Nat} {tval : Word} : Memory.wf (s.trapAfter cause tval) = true :=
  wf_withIss (wf_trapThread (wf_finishGroup h))
theorem wf_execTrap {o : Fmt Unit} : NextWf (execTrap o s) := nextWf_ite (wf_ite (wf_trapAfter h) (wf_trapAfter h)) h
theorem wf_execBrk {o : Fmt Unit} : NextWf (execBrk o s) := nextWf_ite (wf_trapAfter h) h
theorem wf_execFencei {o : Fmt Unit} : NextWf (execFencei o s) := wf_slot h (wf_setTh (wf_beginFence h))

end

/-! ### The functions of Sys2Proof/Machine/Vector.lean -/

section
variable {s : State} (h : Memory.wf s = true)
include h

theorem wf_laneOp {o : Fmt VecMod} {l : Nat} {f : Nat → Nat → Nat → Nat × Flags} : NextWf (s.laneOp o l f) :=
  wf_slot h (endsWf_check wf_vecSources fun _ => wf_land (wf_raise h))

theorem wf_arith {o : Fmt VecMod} {fi : Int → Int → Int → Int} {ff : Nat → Nat → Nat → Nat × Flags} :
    NextWf (s.arith o fi ff) := by
  unfold State.arith
  dsimp only
  exact wf_laneOp h

theorem wf_execVadd {o : Fmt VecMod} : NextWf (execVadd o s) := by
  unfold execVadd
  dsimp only
  exact wf_arith h

theorem wf_execVsub {o : Fmt VecMod} : NextWf (execVsub o s) := by
  unfold execVsub
  dsimp only
  exact wf_arith h

theorem wf_execVmul {o : Fmt VecMod} : NextWf (execVmul o s) := by
  unfold execVmul
  dsimp only
  exact wf_arith h

theorem wf_execVfma {o : Fmt VecMod} : NextWf (execVfma o s) := by
  unfold execVfma
  dsimp only
  exact wf_arith h

theorem wf_execVfms {o : Fmt VecMod} : NextWf (execVfms o s) := by
  unfold execVfms
  dsimp only
  exact wf_arith h

theorem wf_execVmin {o : Fmt VecMod} : NextWf (execVmin o s) := wf_arith h
theorem wf_execVmax {o : Fmt VecMod} : NextWf (execVmax o s) := wf_arith h
theorem wf_execVabs {o : Fmt VecMod} : NextWf (execVabs o s) := wf_arith h
theorem wf_execVneg {o : Fmt VecMod} : NextWf (execVneg o s) := wf_arith h

theorem wf_execVdiv {o : Fmt VecMod} : NextWf (execVdiv o s) := by
  unfold execVdiv
  dsimp only
  exact wf_laneOp h

theorem wf_execVsqrt {o : Fmt VecMod} : NextWf (execVsqrt o s) := by
  unfold execVsqrt
  dsimp only
  exact wf_laneOp h

theorem wf_execVand {o : Fmt VecMod} : NextWf (execVand o s) := wf_laneOp h
theorem wf_execVor {o : Fmt VecMod} : NextWf (execVor o s) := wf_laneOp h
theorem wf_execVxor {o : Fmt VecMod} : NextWf (execVxor o s) := wf_laneOp h
theorem wf_execVshl {o : Fmt VecMod} : NextWf (execVshl o s) := wf_laneOp h
theorem wf_execVshr {o : Fmt VecMod} : NextWf (execVshr o s) := wf_laneOp h
theorem wf_execVsra {o : Fmt VecMod} : NextWf (execVsra o s) := wf_laneOp h
theorem wf_execVcvt {o : Fmt VecMod} : NextWf (execVcvt o s) :=
  wf_slot h (endsWf_check wf_vecSources fun _ => wf_land (wf_raise h))
theorem wf_execVcmp {o : Fmt VecMod} : NextWf (execVcmp o s) :=
  wf_slot h (endsWf_check wf_sources fun ⟨_, _, _⟩ => endsWf_check wf_noBounded fun _ => wf_land (wf_raise h))
theorem wf_execVsel {o : Fmt VecMod} : NextWf (execVsel o s) := wf_slot h (endsWf_check wf_vecSources fun _ => wf_land h)
theorem wf_execVbcast {o : Fmt VecMod} : NextWf (execVbcast o s) :=
  wf_slot h (endsWf_check wf_sources fun ⟨_, _, _⟩ => endsWf_check wf_vecSources fun _ => wf_land h)
theorem wf_execVext {o : Fmt VecMod} : NextWf (execVext o s) :=
  wf_slot h (endsWf_check wf_sources fun ⟨_, _, _⟩ => endsWf_check wf_noBounded fun _ => wf_land h)
theorem wf_execVins {o : Fmt VecMod} : NextWf (execVins o s) :=
  wf_slot h (endsWf_check wf_sources fun ⟨_, _, _⟩ => endsWf_check wf_noBounded fun _ => endsWf_check wf_vecSources fun _ =>
    wf_land h)
theorem wf_execVperm {o : Fmt VecMod} : NextWf (execVperm o s) :=
  wf_slot h (endsWf_check wf_sources fun ⟨_, _, _⟩ => endsWf_check wf_noBounded fun _ => endsWf_check wf_vecSources fun _ =>
    wf_land h)
theorem wf_execVslide {o : Fmt VecMod} : NextWf (execVslide o s) :=
  wf_slot h (endsWf_check wf_vecSources fun _ => wf_land h)
theorem wf_execViota {o : Fmt VecMod} : NextWf (execViota o s) := wf_slot h (endsWf_check wf_vecSources fun _ => wf_land h)
theorem wf_execVsortkv {o : Fmt VecMod} : NextWf (execVsortkv o s) :=
  wf_slot h (endsWf_ite trivial (endsWf_check wf_sources fun ⟨_, _, _⟩ => endsWf_check wf_noBounded fun _ =>
    wf_land (wf_land h)))
theorem wf_reduce {o : Fmt VecMod} {f : Nat → Nat → Nat × Flags} : NextWf (s.reduce o f) :=
  wf_slot h (endsWf_check wf_sources fun ⟨_, _, _⟩ => wf_land (wf_raise h))
theorem wf_execVredadd {o : Fmt VecMod} : NextWf (execVredadd o s) :=
  nextWf_ite (wf_slot h (endsWf_check wf_sources fun ⟨_, _, _⟩ => wf_land h)) (wf_reduce h)
theorem wf_execVredmin {o : Fmt VecMod} : NextWf (execVredmin o s) := wf_reduce h
theorem wf_execVredmax {o : Fmt VecMod} : NextWf (execVredmax o s) := wf_reduce h
theorem wf_execVpopm {o : Fmt VecMod} : NextWf (execVpopm o s) :=
  wf_slot h (endsWf_check wf_sources fun ⟨_, _, _⟩ => wf_land h)
theorem wf_maskOp {o : Fmt VecMod} {f : BitVec 32 → BitVec 32 → BitVec 32} : NextWf (s.maskOp o f) :=
  wf_slot h (endsWf_check wf_sources fun ⟨_, _, _⟩ => wf_land h)
theorem wf_execMand {o : Fmt VecMod} : NextWf (execMand o s) := wf_maskOp h
theorem wf_execMor {o : Fmt VecMod} : NextWf (execMor o s) := wf_maskOp h
theorem wf_execMxor {o : Fmt VecMod} : NextWf (execMxor o s) := wf_maskOp h
theorem wf_execMnot {o : Fmt VecMod} : NextWf (execMnot o s) := wf_maskOp h
theorem wf_execMfirst {o : Fmt VecMod} : NextWf (execMfirst o s) :=
  wf_slot h (endsWf_check wf_sources fun ⟨_, _, _⟩ => wf_land h)
theorem wf_execAcpt {o : Fmt Unit} : NextWf (execAcpt o s) :=
  wf_slot h (endsWf_check wf_sources fun ⟨_, _, _⟩ => wf_land (wf_ite (wf_setTh h) h))
theorem wf_execBtest {o : Fmt Unit} : NextWf (execBtest o s) :=
  wf_slot h (endsWf_check wf_sources fun ⟨_, _, _⟩ => wf_land h)

end

/-! ### The functions of Sys2Proof/Machine/Dispatch.lean -/

section
variable {s : State} (h : Memory.wf s = true)
include h

/-- Every instruction and every event keeps the form: an instruction by the rule of its own meaning. -/
theorem wf_exec {i : Instr} : NextWf (exec i s) := by
  cases i
  case nop => exact wf_execNop h
  case add => exact wf_execAdd h
  case sub => exact wf_execSub h
  case mul => exact wf_execMul h
  case mulh => exact wf_execMulh h
  case mulhu => exact wf_execMulhu h
  case div => exact wf_execDiv h
  case divu => exact wf_execDivu h
  case rem => exact wf_execRem h
  case remu => exact wf_execRemu h
  case and => exact wf_execAnd h
  case or => exact wf_execOr h
  case xor => exact wf_execXor h
  case shl => exact wf_execShl h
  case shr => exact wf_execShr h
  case sra => exact wf_execSra h
  case min => exact wf_execMin h
  case max => exact wf_execMax h
  case minu => exact wf_execMinu h
  case maxu => exact wf_execMaxu h
  case clz => exact wf_execClz h
  case ctz => exact wf_execCtz h
  case popc => exact wf_execPopc h
  case bfx => exact wf_execBfx h
  case bfi => exact wf_execBfi h
  case lea => exact wf_execLea h
  case sel => exact wf_execSel h
  case movi => exact wf_execMovi h
  case cmp => exact wf_execCmp h
  case pand => exact wf_execPand h
  case por => exact wf_execPor h
  case pxor => exact wf_execPxor h
  case pnot => exact wf_execPnot h
  case pmov => exact wf_execPmov h
  case pmovTox => exact wf_execPmovTox h
  case pmovFromx => exact wf_execPmovFromx h
  case br => exact wf_execBr h
  case brc => exact wf_execBrc h
  case brca => exact wf_execBrca h
  case brct => exact wf_execBrct h
  case jmp => exact wf_execJmp h
  case call => exact wf_execCall h
  case callIndirect => exact wf_execCallIndirect h
  case eret => exact wf_execEret h
  case yield => exact wf_execYield h
  case waitt => exact wf_execWaitt h
  case wfi => exact wf_execWfi h
  case lds => exact wf_execLds h
  case sts => exact wf_execSts h
  case ldsv => exact wf_execLdsv h
  case stsv => exact wf_execStsv h
  case vgaths => exact wf_execVgaths h
  case vscats => exact wf_execVscats h
  case ldt => exact wf_execLdt h
  case stt => exact wf_execStt h
  case samo => exact wf_execSamo h
  case samon => exact wf_execSamon h
  case ldg => exact wf_execLdg h
  case ldgv => exact wf_execLdgv h
  case ldgx => exact wf_execLdgx h
  case stg => exact wf_execStg h
  case stgv => exact wf_execStgv h
  case stgx => exact wf_execStgx h
  case cmb => exact wf_execCmb h
  case cmbv => exact wf_execCmbv h
  case cmbx => exact wf_execCmbx h
  case mdrain => exact wf_execMdrain h
  case mdrainRegion => exact wf_execMdrainRegion h
  case mresolve => exact wf_execMresolve h
  case rgset => exact wf_execRgset h
  case rgget => exact wf_execRgget h
  case bind => exact wf_execBind h
  case acq => exact wf_execAcq h
  case rel => exact wf_execRel h
  case fence => exact wf_execFence h
  case bfence => exact wf_execBfence h
  case bar => exact wf_execBar h
  case bara => exact wf_execBara h
  case barw => exact wf_execBarw h
  case barr => exact wf_execBarr h
  case ftest => exact wf_execFtest h
  case fcancel => exact wf_execFcancel h
  case fwait => exact wf_execFwait h
  case fmovc => exact wf_execFmovc h
  case send => exact wf_execSend h
  case recv => exact wf_execRecv h
  case dqpush => exact wf_execDqpush h
  case dqpop => exact wf_execDqpop h
  case dqsplit => exact wf_execDqsplit h
  case dqsteal => exact wf_execDqsteal h
  case widf => exact wf_execWidf h
  case lvlrect => exact wf_execLvlrect h
  case launch => exact wf_execLaunch h
  case trig => exact wf_execTrig h
  case end_ => exact wf_execEnd h
  case trap => exact wf_execTrap h
  case brk => exact wf_execBrk h
  case csrr => exact wf_execCsrr h
  case csrw => exact wf_execCsrw h
  case csrx => exact wf_execCsrx h
  case fencei => exact wf_execFencei h
  case vadd => exact wf_execVadd h
  case vsub => exact wf_execVsub h
  case vmul => exact wf_execVmul h
  case vfma => exact wf_execVfma h
  case vfms => exact wf_execVfms h
  case vmin => exact wf_execVmin h
  case vmax => exact wf_execVmax h
  case vabs => exact wf_execVabs h
  case vneg => exact wf_execVneg h
  case vdiv => exact wf_execVdiv h
  case vsqrt => exact wf_execVsqrt h
  case vand => exact wf_execVand h
  case vor => exact wf_execVor h
  case vxor => exact wf_execVxor h
  case vshl => exact wf_execVshl h
  case vshr => exact wf_execVshr h
  case vsra => exact wf_execVsra h
  case vcvt => exact wf_execVcvt h
  case vcmp => exact wf_execVcmp h
  case vsel => exact wf_execVsel h
  case vbcast => exact wf_execVbcast h
  case vext => exact wf_execVext h
  case vins => exact wf_execVins h
  case vperm => exact wf_execVperm h
  case vslide => exact wf_execVslide h
  case viota => exact wf_execViota h
  case vsortkv => exact wf_execVsortkv h
  case vredadd => exact wf_execVredadd h
  case vredmin => exact wf_execVredmin h
  case vredmax => exact wf_execVredmax h
  case vpopm => exact wf_execVpopm h
  case mand => exact wf_execMand h
  case mor => exact wf_execMor h
  case mxor => exact wf_execMxor h
  case mnot => exact wf_execMnot h
  case mfirst => exact wf_execMfirst h
  case mma => exact wf_execMma h
  case mmv => exact wf_execMmv h
  case acz => exact wf_execAcz h
  case acld => exact wf_execAcld h
  case acst => exact wf_execAcst h
  case mxseed => exact wf_execMxseed h
  case mxstat => exact wf_execMxstat h
  case mxthr => exact wf_execMxthr h
  case topkc => exact wf_execTopkc h
  case xbmv => exact wf_execXbmv h
  case xbprog => exact wf_execXbprog h
  case xbver => exact wf_execXbver h
  case xbcal => exact wf_execXbcal h
  case xbrd => exact wf_execXbrd h
  case xbwr => exact wf_execXbwr h
  case acpt => exact wf_execAcpt h
  case btest => exact wf_execBtest h
  case namo => exact wf_execNamo h
  case namov => exact wf_execNamov h
  case namor => exact wf_execNamor h
  case bkmodeOn => exact wf_execBkmodeOn h
  case bkmodeOff => exact wf_execBkmodeOff h
  case bkldr => exact wf_execBkldr h
  case bkmac => exact wf_execBkmac h
  case bkrd => exact wf_execBkrd h
  case cpyIn => exact wf_execCpyIn h
  case cpyOut => exact wf_execCpyOut h
  case cpy2In => exact wf_execCpy2In h
  case cpy2Out => exact wf_execCpy2Out h
  case cpyg => exact wf_execCpyg h
  case cpys => exact wf_execCpys h
  case cpyr => exact wf_execCpyr h
  case gqw => exact wf_execGqw h
  case gqr => exact wf_execGqr h
  case oupd => exact wf_execOupd h
  case landing => exact wf_execLanding h
  case emptyGroup => exact wf_execEmptyGroup h
  case annulledGroup => exact wf_execAnnulledGroup h
  case lineFetch => exact wf_execLineFetch h
  case pageWalkEnd => exact wf_execPageWalkEnd h
  case interruptEntry => exact wf_execInterruptEntry h
  case stopSpacingFault => exact wf_execStopSpacingFault h
  case matrixThresholdTrap => exact wf_execMatrixThresholdTrap h
  case yieldExpire => exact wf_execYieldExpire h
  case breakpointMatch => exact wf_execBreakpointMatch h
  case copyTransfer => exact wf_execCopyTransfer h
  case copyResolve => exact wf_execCopyResolve h
  case loadServe => exact wf_execLoadServe h
  case l0MergeCommit => exact wf_execL0MergeCommit h
  case l1Move => exact wf_execL1Move h
  case l2Fold => exact wf_execL2Fold h
  case writeBack => exact wf_execWriteBack h
  case writeBackCommit => exact wf_execWriteBackCommit h
  case relCount => exact wf_execRelCount h
  case mdrainComplete => exact wf_execMdrainComplete h
  case regionCensus => exact wf_execRegionCensus h
  case rggetResolve => exact wf_execRggetResolve h
  case barrierArrive => exact wf_execBarrierArrive h
  case barrierAgeRecord => exact wf_execBarrierAgeRecord h
  case domainBarrierReport => exact wf_execDomainBarrierReport h
  case domainBarrierComplete => exact wf_execDomainBarrierComplete h
  case matrixDispatch => exact wf_execMatrixDispatch h
  case matrixOpDone => exact wf_execMatrixOpDone h
  case streamBufferFill => exact wf_execStreamBufferFill h
  case arrayCommandStart => exact wf_execArrayCommandStart h
  case arrayCommandDone => exact wf_execArrayCommandDone h
  case rowProgram => exact wf_execRowProgram h
  case stackCommandPerform => exact wf_execStackCommandPerform h
  case namorResolve => exact wf_execNamorResolve h
  case bankCommandPerform => exact wf_execBankCommandPerform h
  case bankAccessPerform => exact wf_execBankAccessPerform h
  case refresh => exact wf_execRefresh h
  case tlbinvDone => exact wf_execTlbinvDone h
  case hrevokeDone => exact wf_execHrevokeDone h
  case launchRead => exact wf_execLaunchRead h
  case placementEvaluate => exact wf_execPlacementEvaluate h
  case taskRetire => exact wf_execTaskRetire h
  case checksum => exact wf_execChecksum h
  case messageArrive => exact wf_execMessageArrive h
  case sendAck => exact wf_execSendAck h
  case stealProbe => exact wf_execStealProbe h
  case tileArrive => exact wf_execTileArrive h
  case tileMatch => exact wf_execTileMatch h
  case swapExchange => exact wf_execSwapExchange h
  case bkctxComplete => exact wf_execBkctxComplete h
  case laneRecord => exact wf_execLaneRecord h
  case traceFunnelWrite => exact wf_execTraceFunnelWrite h
  case traceTimestamp => exact wf_execTraceTimestamp h
  case traceLoss => exact wf_execTraceLoss h
  case remoteAck => exact wf_execRemoteAck h
  case flagResend => exact h
  case cycleCompareMatch => exact wf_execCycleCompareMatch h
  case mextComplete => exact wf_execMextComplete h
  case unassignedEncoding => exact wf_execUnassignedEncoding h
  case instructionFetchFault => exact wf_execInstructionFetchFault h
  case patrolScrub => exact wf_execPatrolScrub h
  case errorEventLog => exact wf_execErrorEventLog h
  case errorEventExpire => exact wf_execErrorEventExpire h
  case frameRetire => exact wf_execFrameRetire h
  case memcfgWrite => exact wf_execMemcfgWrite h
  case tlbinv => exact wf_execTlbinv h
  case hrevoke => exact wf_execHrevoke h
  case regcfgWrite => exact wf_execRegcfgWrite h
  case barageWrite => exact wf_execBarageWrite h
  case partcfgWrite => exact wf_execPartcfgWrite h
  case lportWrite => exact wf_execLportWrite h
  case swapGo => exact wf_execSwapGo h
  case preempt => exact wf_execPreempt h
  case doorbell => exact wf_execDoorbell h
  case bkctxSave => exact wf_execBkctxSave h
  case bkctxRestore => exact wf_execBkctxRestore h
  case bkctxDiscard => exact wf_execBkctxDiscard h
  case dbgctlHalt => exact wf_execDbgctlHalt h
  case dbgctlSoft => exact wf_execDbgctlSoft h
  case dbgctlResume => exact wf_execDbgctlResume h
  case dbgvalWrite => exact wf_execDbgvalWrite h
  case mextExtend => exact wf_execMextExtend h
  case domidWrite => exact wf_execDomidWrite h
  case klstatWrite => exact wf_execKlstatWrite h
  case flitReceive => exact wf_execFlitReceive h
  case flagReceive => exact wf_execFlagReceive h
  case timeBeat => exact wf_execTimeBeat h
  case tlockLoss => exact wf_execTlockLoss h
  case thermalHot => exact wf_execThermalHot h
  case thermalTrip => exact wf_execThermalTrip
  case powerUp => exact wf_execPowerUp h
  case railFail => exact wf_execRailFail
  case registerWrite pa value =>
    have hw : NextWf (execRegisterWrite pa value s) := wf_execRegisterWrite h
    exact hw
  case stewardAccess => exact wf_execStewardAccess h
  case portDown => exact wf_execPortDown h
  case taskRemove => exact wf_execTaskRemove h

end

/-! ### The functions of Sys2Proof/Machine/Turn.lean -/

section
variable {s : State} (h : Memory.wf s = true)
include h

theorem wf_issueAt {pc : Word} : Memory.wf (s.issueAt pc) = true := Memory.wf_congr rfl rfl h
theorem wf_emptyFirst : Memory.wf s.emptyFirst = true := wf_withIss (wf_emptyGroup h)

/-- Both slots of a pair run from the state before it; in the last case the second runs from what the first gave. -/
theorem wf_pairOutcome {i j : Instr} {pc : Word} : NextWf (pairOutcome i j s pc) := by
  have hlo : NextWf (exec i (s.issueAt pc)) := wf_exec (wf_issueAt h)
  have hhi : NextWf (exec j (s.issueAt (pc + 1))) := wf_exec (wf_issueAt h)
  unfold pairOutcome
  dsimp only
  split
  · next a b ha hb =>
    rw [ha] at hlo
    rw [hb] at hhi
    have ha' : Memory.wf a = true := hlo
    have hb' : Memory.wf b = true := hhi
    exact nextWf_ite hlo (nextWf_ite hhi (nextWf_ite hlo (nextWf_ite (wf_ite (wf_withIss ha') hb')
      (nextWf_ite hlo (nextWf_ite hhi (nextWf_ite (wf_ite (wf_emptyFirst h) hlo)
      (nextWf_ite (wf_ite (wf_emptyFirst h) hb') (wf_exec (wf_withIss ha')))))))))
  · exact hhi
  · exact hlo

theorem wf_runGroup {g : Held} : NextWf (runGroup g s) := by
  unfold runGroup
  split
  · exact wf_exec (wf_issueAt h)
  · exact wf_pairOutcome h

theorem wf_handOver {g : Held} : Memory.wf (s.handOver g) = true := by
  unfold State.handOver
  dsimp only
  refine wf_setTh (wf_fold (fun _ _ h => ?_) h)
  split
  · exact wf_setCc h
  · exact h

omit h in
theorem wf_settle {g : Held} {stood : Thread} {before : State} {o : Host.Outcome State Fault Refusal}
    (h : Memory.wf before = true) (ho : NextWf o) :
    SomeWf (fun r => NextWf r.1) (settle g stood before o) := by
  cases o with
  | fault _ | refused _ => exact ho
  | next t =>
    have ht : Memory.wf t = true := ho
    unfold settle
    dsimp only
    have hu : Memory.wf { t with iss := .initial } = true := Memory.wf_congr (s := t) rfl rfl ht
    generalize ({ t with iss := .initial } : State) = u at hu ⊢
    cases t.iss.status with
    | running =>
      dsimp only
      split
      · exact wf_releaseHeld h
      · exact wf_ite (wf_emptyGroup h) (wf_finishGroup ht)
    | trapped => exact hu
    | parked =>
      dsimp only
      split
      · trivial
      · exact wf_setTh hu
    | queued =>
      dsimp only
      split
      · exact wf_handOver hu
      · split
        · exact wf_setTh hu
        · exact hu

/-- A turn ends where the thread was prepared for it to end: it waits, takes an event or a trap, or runs its group. -/
theorem wf_turn : SomeWf (fun r => NextWf r.1) (turn s) := by
  have hp : s.prepare.wf := wf_prepare h
  unfold turn
  cases hs : s.prepare with rw [hs] at hp
  | idle => trivial
  | wait t w =>
    dsimp only
    split
    · trivial
    · exact wf_waitFor hp
  | event t i => exact wf_exec hp
  | trap t c v => exact Memory.wf_congr (s := t.takeTrap c v) rfl rfl (wf_takeTrap hp)
  | group t g => exact wf_settle hp (wf_runGroup hp)

theorem wf_issuedLast {core thr : Nat} : Memory.wf (s.issuedLast core thr) = true := wf_setCore h
theorem wf_issuedToo {core thr : Nat} : Memory.wf (s.issuedToo core thr) = true := wf_setCore h

omit h in
theorem wf_secondTurn {core : Nat} {skip : List Nat} {s : State} (h : Memory.wf s = true) :
    ∀ {n thr : Nat}, Memory.wf (secondTurn s core skip n thr) = true
  | 0, _ => h
  | n + 1, thr => by
    have ht : SomeWf (fun r => NextWf r.1) (turn { s with cur := s.residentThread core thr }) :=
      wf_turn (Memory.wf_congr rfl rfl h)
    unfold secondTurn
    dsimp only
    split
    · next hv => exact wf_issuedToo (someWf_iff.mp ht _ (Option.ite_none_right_eq_some.mp hv).2)
    · next hv => exact wf_issuedToo (someWf_iff.mp ht _ (Option.ite_none_right_eq_some.mp hv).2)
    · exact wf_secondTurn h

omit h in
theorem wf_slotUsed {core thr : Nat} {skip : List Nat} {r : Host.Outcome State Fault Refusal × TurnEnd} (hr : NextWf r.1) :
    NextWf (slotUsed core thr skip r) := by
  obtain ⟨o, e⟩ := r
  cases o with
  | next t =>
    have ht : Memory.wf t = true := hr
    cases e with
    | parked => exact ht
    | trapped => exact wf_issuedLast ht
    | issued => exact wf_ite (wf_secondTurn (wf_issuedLast ht)) (wf_issuedLast ht)
  | fault _ | refused _ => cases e <;> trivial

omit h in
theorem wf_coreTurnFrom {core : Nat} {skip : List Nat} {s : State} (h : Memory.wf s = true) :
    ∀ {n thr : Nat}, SomeWf NextWf (coreTurnFrom s core skip n thr)
  | 0, _ => trivial
  | n + 1, thr => by
    have ht : SomeWf (fun r => NextWf r.1) (turn { s with cur := s.residentThread core thr }) :=
      wf_turn (Memory.wf_congr rfl rfl h)
    unfold coreTurnFrom
    split
    · next hr => exact wf_slotUsed (someWf_iff.mp ht _ (Option.ite_none_left_eq_some.mp hr).2)
    · exact wf_coreTurnFrom h

theorem wf_slotEmpty {core : Nat} : Memory.wf (s.slotEmpty core) = true := wf_setCore h

theorem wf_coreTurn {core : Nat} : SomeWf NextWf (coreTurn s core) := by
  unfold coreTurn
  dsimp only
  split
  · exact wf_slotEmpty h
  · exact wf_coreTurnFrom h

theorem wf_complete {t : ThreadId} : NextWf (s.complete t) := by
  have hs : Memory.wf ({ s with cur := t } : State).refreshQueue = true := Memory.wf_congr rfl rfl h
  unfold State.complete
  dsimp only
  split
  · exact wf_endFence hs
  · exact wf_releaseHeld hs
  · next g _ _ =>
    have hg := wf_runGroup (g := g) hs
    split
    · next u hu =>
      rw [hu] at hg
      split
      · exact wf_ite (wf_releaseHeld hs) (wf_finishGroup hg)
      · exact Memory.wf_congr (s := u) rfl rfl hg
      · exact wf_releaseHeld hs
    · exact hg

omit h in
theorem wf_booting {s t : State} (h : Memory.wf s = true) (ht : t ∈ s.booting) : Memory.wf t = true := by
  unfold State.booting at ht
  split at ht
  · cases List.mem_singleton.mp ht
    exact wf_bootNext h
  · cases ht

/-- What can happen next is an event, an eviction, a publication, a step of the boot or the turn of a core. -/
theorem wf_candidates {o : Host.Outcome State Fault Refusal} (ho : o ∈ candidates s) : NextWf o := by
  simp only [candidates, List.mem_append, List.mem_map, List.mem_filterMap] at ho
  obtain (⟨i, -, rfl⟩ | ⟨t, ht, rfl⟩) | ⟨core, -, ho⟩ := ho
  · exact wf_exec h
  · obtain (ht | ht) | ht := ht
    · exact wf_evictions h ht
    · exact wf_publications h ht
    · exact wf_booting h ht
  · exact someWf_iff.mp (wf_coreTurn h) _ ho

theorem wf_elapse : Memory.wf s.elapse = true :=
  wf_ite (Memory.wf_congr (s := State.correct _ _) rfl rfl (wf_correct h)) (Memory.wf_congr rfl rfl h)

omit h in
theorem wf_elapsed {o : Host.Outcome State Fault Refusal} (h : NextWf o) : NextWf (elapsed o) := by
  cases o with
  | next t => exact wf_elapse h
  | fault _ | refused _ => trivial

theorem wf_proceed : NextWf s.proceed := by
  have hc : ∀ o ∈ candidates s, NextWf o := fun o ho => wf_candidates h ho
  unfold State.proceed
  split
  · exact h
  · next o ho => exact hc o (by simp [ho])
  · next o l _ ho =>
    rw [ho] at hc
    rw [List.getD_eq_getElem?_getD]
    cases hn : (o :: l)[Config.choice s.tick % (l.length + 1)]? with
    | none => exact hc o List.mem_cons_self
    | some p => exact hc p (List.mem_of_getElem? hn)

theorem wf_input {i : Instr} : NextWf (s.input i) := nextWf_ite (wf_exec h) h

theorem wf_atOnce : SomeWf NextWf s.atOnce := by
  unfold State.atOnce
  split
  · exact wf_complete h
  · cases s.dueRel with
    | none => trivial
    | some n => exact wf_exec h

theorem wf_advance : NextWf s.advance := by
  unfold State.advance
  split
  · next ho => exact someWf_iff.mp (wf_atOnce h) _ (Option.ite_none_left_eq_some.mp ho).2
  · refine nextWf_ite (wf_bootNext h) ?_
    split
    · exact wf_input (wf_withInputs h)
    · exact nextWf_ite h (wf_proceed h)

end

/-! ### The functions of Sys2Proof/Machine/Step.lean -/

section
variable {s : State} (h : Memory.wf s = true)
include h

theorem wf_step : NextWf (step s) := wf_elapsed (wf_advance h)

end

/-- Settles O15: the map of no bytes and the map of no tags are in canonical form. -/
theorem resetMemoryIsCanonical : Obligations.ResetMemoryIsCanonical := wf_reset

/-- Settles O16: each function that a step goes through keeps the form, so the step does. -/
theorem stepKeepsMemoryCanonical : Obligations.StepKeepsMemoryCanonical := by
  intro s t h hstep
  have ht : NextWf (step s) := wf_step h
  rw [hstep] at ht
  exact ht

end Sys2Proof.Machine
end

section
/-!
PROOF. The COPY instructions at issue (06 R88-R93): what each check of R93 comes to, a copy that starts, one that a check stops, and
one that waits for an entry of the copy table.
-/
namespace Sys2Proof.Machine
open Sys2Proof.Claims

/-! ## Codewords without errors (R82) -/

theorem eccBlock_of_sound {r : Reader} {s : State} {pa : Nat} (h : ∀ w ∈ s.weak, w.1 ≠ pa / 64) : State.eccBlock r s pa = s := by
  have hnone : s.weak.find? (fun w => w.1 == pa / 64) = none := by simpa using h
  rw [State.eccBlock, hnone]

theorem mul_div_of_mem_blocksOf {p a n : Nat} (h : p ∈ blocksOf a n) : 64 * (p / 64) = p := by
  unfold blocksOf at h
  split at h
  · cases h
  · obtain ⟨i, -, rfl⟩ := List.mem_map.mp h
    omega

/-- Reading codewords that are free of errors changes nothing. -/
theorem eccFor_of_flawless {s : State} {pa n : Nat} (h : flawless s pa n) (r : Reader) : s.eccFor r pa n = s := by
  have hblock : ∀ p ∈ blocksOf pa n, State.eccBlock r s p = s := fun p hp =>
    eccBlock_of_sound fun w hw hwp => h w hw (by rwa [hwp, mul_div_of_mem_blocksOf hp])
  have hfold : ∀ l : List Nat, (∀ p ∈ l, State.eccBlock r s p = s) → l.foldl (State.eccBlock r) s = s := by
    intro l hl
    induction l with
    | nil => rfl
    | cons p l ih =>
      obtain ⟨hp, hl⟩ := List.forall_mem_cons.mp hl
      rw [List.foldl_cons, hp, ih hl]
  unfold State.eccFor
  split
  · rfl
  · exact hfold _ hblock

/-! ## The check of the handle (R85, R93) -/

section
variable {s : State} {w : Word} (he : EntryReads s w)
include he

theorem entryHeld_of_entryReads : s.entryHeld (s.partOf s.cur.core) s.cur.ctx w = false := he.2

theorem touchHandle_of_entryReads : s.touchHandle w = s := by
  rw [State.touchHandle, entryHeld_of_entryReads he]
  exact eccFor_of_flawless he.1 _

theorem handleCheck_ok {write : Bool} {e : BitVec 128} (hr : s.resolveHandle (s.partOf s.cur.core) s.cur.ctx w = some e)
    (hm : (if write then heWr e else heRd e) = true) : s.handleCheck w write = .ok e := by
  rw [State.handleCheck, entryHeld_of_entryReads he, hr]
  exact if_pos hm

theorem handleCheck_unresolved (write : Bool) (hr : s.resolveHandle (s.partOf s.cur.core) s.cur.ctx w = none) :
    s.handleCheck w write = .error (.trap 53 w) := by
  rw [State.handleCheck, entryHeld_of_entryReads he, hr]
  exact if_neg Bool.false_ne_true

theorem handleCheck_forbidden {write : Bool} {e : BitVec 128} (hr : s.resolveHandle (s.partOf s.cur.core) s.cur.ctx w = some e)
    (hm : (if write then heWr e else heRd e) = false) : s.handleCheck w write = .error (.trap 53 w) := by
  rw [State.handleCheck, entryHeld_of_entryReads he, hr]
  exact if_neg (Bool.eq_false_iff.mp hm)

end

/-! ## The checks of the values and of the scratchpad ranges (R93) -/

theorem alignCheck_ok {cause : Nat} {l : List (Nat × Nat)} (h : ∀ p ∈ l, p.1 % p.2 = 0) : alignCheck cause l = .ok () := by
  induction l with
  | nil => rfl
  | cons p l ih =>
    obtain ⟨hp, hl⟩ := List.forall_mem_cons.mp h
    rw [alignCheck, if_neg (not_not_intro hp), ih hl]

/-- The first value that is misaligned is what TVAL holds. -/
theorem alignCheck_head_misaligned (cause : Nat) {v : Word} {n : Nat} (h : v.toNat % n ≠ 0) (l : List (Nat × Nat)) :
    alignCheck cause ((v.toNat, n) :: l) = .error (.trap cause v) := by
  rw [alignCheck, if_pos h, BitVec.ofNat_toNat, BitVec.setWidth_eq]

/-- A range that ends before every hole begins meets none. -/
theorem firstIn_eq_none {holes : List (Nat × Nat)} {a n : Nat} (h : ∀ x ∈ holes, a + n ≤ x.1) : firstIn holes a n = none := by
  refine List.findSome?_eq_none_iff.mpr fun x hx => if_neg ?_
  have := h x hx
  omega

/-- Nothing of the data rows is forbidden to a copy. -/
theorem rowsEnd_le_of_mem_spadHoles {s : State} {write : Bool} {x : Nat × Nat} (h : x ∈ s.spadHoles write) : rowsEnd s ≤ x.1 := by
  cases write
  case true =>
    obtain rfl := List.mem_singleton.mp h
    exact Nat.le_refl _
  case false =>
    have hx : s.split2 s.cur.core = true ∧ x = (0x17000, 0x2F000) ∨ x = (0x2F000, 0x2F800) ∨ x = (0x30000, 2 ^ 64) := by
      simp only [State.spadHoles, List.mem_append, List.mem_singleton, Bool.false_eq_true, if_false] at h
      obtain (h | h) | h := h
      · split at h
        next hs => exact .inl ⟨hs, List.mem_singleton.mp h⟩
        next => cases h
      · split at h
        next => cases h
        next => exact .inr (.inl (List.mem_singleton.mp h))
      · exact .inr (.inr h)
    unfold rowsEnd
    obtain ⟨hs, rfl⟩ | rfl | rfl := hx
    · rw [if_pos hs]
    · split <;> decide
    · split <;> decide

theorem rangeCheck_ok {s : State} {l : List (Nat × Nat)} (h : ∀ p ∈ l, p.1 + p.2 ≤ rowsEnd s) (write : Bool) :
    s.rangeCheck write l = .ok () := by
  have hnone : l.findSome? (fun r => firstIn (s.spadHoles write) r.1 r.2) = none :=
    List.findSome?_eq_none_iff.mpr fun p hp =>
      firstIn_eq_none fun x hx => (h p hp).trans (rowsEnd_le_of_mem_spadHoles hx)
  rw [State.rangeCheck, hnone]

/-- CPYR may write what lies in the data rows of each target, and of the issuing core where there is no target. -/
theorem targetCheck_ok {s : State} {mask a n : Nat} (ht : ∀ k ∈ copyTargets s.cur.core mask, a + n ≤ s.writeEnd k)
    (hs : a + n ≤ rowsEnd s) : s.targetCheck mask a n = .ok () := by
  have hone : ∀ k, a + n ≤ s.writeEnd k → firstIn [(s.writeEnd k, 2 ^ 64)] a n = none := fun k hk =>
    firstIn_eq_none (List.forall_mem_singleton.mpr hk)
  have hnone : (if (copyTargets s.cur.core mask).isEmpty then [s.cur.core] else copyTargets s.cur.core mask).findSome?
      (fun k => firstIn [(s.writeEnd k, 2 ^ 64)] a n) = none := by
    refine List.findSome?_eq_none_iff.mpr fun k hk => hone k ?_
    split at hk
    · obtain rfl := List.mem_singleton.mp hk
      exact hs
    · exact ht k hk
  unfold State.targetCheck
  dsimp only
  rw [hnone]

/-! ## The copy table (R88) -/

theorem enterCopy_room {s : State} (h : s.copyEntries < (if s.split2 s.cur.core then 256 else 512)) (d : Reg) (c : CopyOp) :
    s.enterCopy d c = .ok (s.start d (.copy c)) := by
  rw [State.enterCopy, decide_eq_false (Nat.not_le.mpr h), Bool.and_false]
  rfl

section
variable {s : State} {c : CopyOp} (hc : c.entered = true) (hfull : (if s.split2 s.cur.core then 256 else 512) ≤ s.copyEntries)
include hc hfull

/-- Where no entry is free, a copy that waits already waits on. -/
theorem enterCopy_waits (h : s.th.copyHeld = some c) (d : Reg) : s.enterCopy d c = .error (.park .none) := by
  rw [State.enterCopy, hc, decide_eq_true hfull, Bool.and_self, if_pos rfl, if_pos h]

/-- Where no entry is free, a copy that passes its checks is kept by its thread. -/
theorem enterCopy_begins_to_wait (h : s.th.copyHeld = none) (d : Reg) :
    s.enterCopy d c = .error (.hand (s.setTh { s.th with copyHeld := some c })) := by
  rw [State.enterCopy, hc, decide_eq_true hfull, Bool.and_self, if_pos rfl, if_neg (by simp [h])]

end

/-! ## A copy through a handle (R93) -/

/-- The copy that issues is the one of the statements. -/
theorem bounds_eq_withEntry (e : BitVec 128) {c : CopyOp} (h : c.status = none) :
    (if c.fn ≤ 1 ∧ ({ c with entry := e } : CopyOp).inHandle = false then { c with entry := e, status := some stBounds }
      else { c with entry := e }) = withEntry e c := by
  have hin : ({ c with entry := e } : CopyOp).inHandle = false ↔ handleOff c.handle % 8 ≠ 0
      ∨ c.rows * c.length ≠ 0 ∧ heLen e < handleOff c.handle + (c.rows - 1) * c.hpitch + c.length := by
    rw [← Bool.not_eq_true]
    simp only [CopyOp.inHandle, CopyOp.total, Bool.and_eq_true, Bool.or_eq_true, beq_iff_eq, decide_eq_true_eq, not_and_or, not_or,
      Nat.not_le, ne_eq]
  unfold withEntry
  simp only [hin]
  split
  · rfl
  · rw [← h]

/-- A copy that waits for an entry has been judged. -/
theorem sendCopy_held {s : State} {c : CopyOp} (h : s.th.copyHeld = some c) (d : Reg) (srcs : List Src) (c' : CopyOp)
    (aligned lists : List (Nat × Nat)) : s.sendCopy d srcs c' aligned lists = s.enterCopy d c := by
  rw [State.sendCopy, h]

section
variable {s : State} {srcs : List Src} {c : CopyOp} (hf : s.th.copyHeld = none) (hb : ∀ a ∈ srcs, a.b = false)
  (he : EntryReads s c.handle)
include hf hb he

theorem sendCopy_handle_trap {cause : Nat} {v : Word} (hh : s.handleCheck c.handle c.out = .error (.trap cause v)) (d : Reg)
    (aligned lists : List (Nat × Nat)) : s.sendCopy d srcs c aligned lists = .error (.trapIn s cause v) := by
  rw [State.sendCopy, hf]
  dsimp only
  rw [noBounded_ok hb, touchHandle_of_entryReads he, hh]
  rfl

theorem sendCopy_align_trap {e : BitVec 128} {cause : Nat} {v : Word} {aligned : List (Nat × Nat)}
    (hh : s.handleCheck c.handle c.out = .ok e) (ha : alignCheck (if c.out then 4 else 6) aligned = .error (.trap cause v)) (d : Reg)
    (lists : List (Nat × Nat)) : s.sendCopy d srcs c aligned lists = .error (.trapIn s cause v) := by
  rw [State.sendCopy, hf]
  dsimp only
  rw [noBounded_ok hb, touchHandle_of_entryReads he, hh, ha]
  rfl

/-- A copy that passes every check of R93 takes an entry of the copy table. -/
theorem sendCopy_passes {e : BitVec 128} {aligned lists : List (Nat × Nat)} (hh : s.handleCheck c.handle c.out = .ok e)
    (hs : c.status = none) (ha : ∀ p ∈ aligned, p.1 % p.2 = 0) (hl : ∀ p ∈ lists, p.1 + p.2 ≤ rowsEnd s)
    (hr : ∀ r, r < c.rows → c.spad + r * c.pitch + c.length ≤ rowsEnd s) (d : Reg) :
    s.sendCopy d srcs c aligned lists = keepIn s (s.enterCopy d (withEntry e c)) := by
  have hrows : ∀ p ∈ spadRows c, p.1 + p.2 ≤ rowsEnd s := by
    intro p hp
    obtain ⟨r, hmem, rfl⟩ := List.mem_map.mp hp
    exact hr r (List.mem_range.mp hmem)
  rw [State.sendCopy, hf]
  dsimp only
  rw [noBounded_ok hb, touchHandle_of_entryReads he, hh, alignCheck_ok ha, ← bounds_eq_withEntry e hs]
  simp only [rangeCheck_ok hl, rangeCheck_ok hrows, ite_self]
  rfl

end

/-! ## The instructions whose copy starts (R90-R92) -/

section
variable {M : Type} {s : State} {o : Fmt M} (ha : s.bitA o = false) (hb : s.bitB o = false) (hc : s.bitC o = false)
include ha hb hc

theorem sources_unbounded : ∀ x ∈ [s.read o.imm o.a, s.read o.imm o.b, s.read o.imm o.c], x.b = false := by
  simpa using ⟨ha, hb, hc⟩

end

/-- A copy that may start and passes the checks of its values starts. -/
theorem sendCopy_starts {M : Type} {s : State} {o : Fmt M} {e : BitVec 128} {c : CopyOp} (h : MayCopy s o c.out e)
    (hh : c.handle = s.opA o) (hs : c.status = none) {aligned lists : List (Nat × Nat)} (ha : ∀ p ∈ aligned, p.1 % p.2 = 0)
    (hl : ∀ p ∈ lists, p.1 + p.2 ≤ rowsEnd s) (hr : ∀ r, r < c.rows → c.spad + r * c.pitch + c.length ≤ rowsEnd s) :
    s.sendCopy o.d [s.read o.imm o.a, s.read o.imm o.b, s.read o.imm o.c] c aligned lists
      = .ok (s.started o (.copy (withEntry e c))) := by
  have hentry : EntryReads s c.handle := hh ▸ h.entry
  have hcheck : s.handleCheck c.handle c.out = .ok e := handleCheck_ok hentry (hh ▸ h.handle) h.may
  rw [sendCopy_passes h.fresh (sources_unbounded h.a h.b h.c) hentry hcheck hs ha hl hr, enterCopy_room h.room]
  rfl

/-- The copy of a CPY, of a CPY2, and of a CPYG or CPYS, before its entry is read. -/
def linearOf (s : State) (out : Bool) (o : Fmt Unit) : CopyOp :=
  { CopyOp.initial with out := out, handle := s.opA o, spad := (s.opB o).toNat, length := (s.opC o).toNat }
def planeOf (s : State) (out : Bool) (o : Fmt SwzMod) : CopyOp :=
  { CopyOp.initial with
    fn := 1, out := out, swz := o.mod.swz, handle := s.opA o, spad := (s.opB o).toNat, length := shapeLen (s.opC o)
    rows := shapeRows (s.opC o), hpitch := shapePitch (s.opC o), pitch := o.imm.toNat % 2 ^ 18 }
def picksOf (s : State) (fn : Nat) (out : Bool) (o : Fmt Unit) : CopyOp :=
  { CopyOp.initial with
    fn := fn, out := out, handle := s.opA o, spad := (s.opB o).toNat, length := o.imm.toNat % 2 ^ 20, rows := rowRows (s.opC o)
    hpitch := rowPitch (s.opC o), pitch := o.imm.toNat % 2 ^ 20, list := rowList (s.opC o) }

/-- What the values of a CPY2, and of a CPYG or CPYS, must be (R91-R93). -/
def PlaneFits (s : State) (o : Fmt SwzMod) : Prop :=
  let step := if o.mod.swz then 256 else 8
  let pitch := o.imm.toNat % 2 ^ 18
  (s.opB o).toNat % step = 0 ∧ shapeLen (s.opC o) % step = 0 ∧ pitch % step = 0 ∧ shapePitch (s.opC o) % 8 = 0
    ∧ ∀ r, r < shapeRows (s.opC o) → (s.opB o).toNat + r * pitch + shapeLen (s.opC o) ≤ rowsEnd s
def PicksFit (s : State) (o : Fmt Unit) : Prop :=
  let len := o.imm.toNat % 2 ^ 20
  (s.opB o).toNat % 8 = 0 ∧ rowPitch (s.opC o) % 8 = 0 ∧ rowList (s.opC o) % 4 = 0 ∧ len % 8 = 0
    ∧ rowList (s.opC o) + 4 * rowRows (s.opC o) ≤ rowsEnd s
    ∧ ∀ r, r < rowRows (s.opC o) → (s.opB o).toNat + r * len + len ≤ rowsEnd s

/-- What an instruction that issues asks of its copy: the values that must be aligned, and the index list. -/
theorem linearCopy_eq {s : State} {o : Fmt Unit} (h : s.Issues o) (out : Bool) :
    s.linearCopy out o = s.slot o.pred (s.sendCopy o.d [s.read o.imm o.a, s.read o.imm o.b, s.read o.imm o.c] (linearOf s out o)
      [((s.opB o).toNat, 8), ((s.opC o).toNat, 8)] []) := by
  rw [State.linearCopy, sources_bind h]
  rfl

theorem planeCopy_eq {s : State} {o : Fmt SwzMod} (h : s.Issues o) (out : Bool) :
    s.planeCopy out o = s.slot o.pred (s.sendCopy o.d [s.read o.imm o.a, s.read o.imm o.b, s.read o.imm o.c] (planeOf s out o)
      [((s.opB o).toNat, if o.mod.swz then 256 else 8), (shapeLen (s.opC o), if o.mod.swz then 256 else 8),
        (o.imm.toNat % 2 ^ 18, if o.mod.swz then 256 else 8), (shapePitch (s.opC o), 8)] []) := by
  rw [State.planeCopy, sources_bind h]
  rfl

theorem rowCopy_eq {s : State} {o : Fmt Unit} (h : s.Issues o) (fn : Nat) (out : Bool) :
    s.rowCopy fn out o = s.slot o.pred (s.sendCopy o.d [s.read o.imm o.a, s.read o.imm o.b, s.read o.imm o.c] (picksOf s fn out o)
      [((s.opB o).toNat, 8), (rowPitch (s.opC o), 8), (rowList (s.opC o), 4), (o.imm.toNat % 2 ^ 20, 8)]
      [(rowList (s.opC o), 4 * rowRows (s.opC o))]) := by
  rw [State.rowCopy, sources_bind h]
  rfl

/-- A CPY has one row. -/
theorem linearOf_rows {s : State} {out : Bool} {o : Fmt Unit} (h : (s.opB o).toNat + (s.opC o).toNat ≤ rowsEnd s) (r : Nat)
    (_ : r < (linearOf s out o).rows) :
    (linearOf s out o).spad + r * (linearOf s out o).pitch + (linearOf s out o).length ≤ rowsEnd s := h

theorem linearCopy_starts {s : State} {out : Bool} {o : Fmt Unit} {e : BitVec 128} (h : MayCopy s o out e)
    (hb : (s.opB o).toNat % 8 = 0) (hn : (s.opC o).toNat % 8 = 0) (hr : (s.opB o).toNat + (s.opC o).toNat ≤ rowsEnd s) :
    s.linearCopy out o = .next (s.started o (.copy (withEntry e (linearOf s out o)))) := by
  rw [linearCopy_eq h.issues, sendCopy_starts (c := linearOf s out o) h rfl rfl (by simp [hb, hn]) (by simp) (linearOf_rows hr),
    slot_ok h.issues.on]

theorem planeCopy_starts {s : State} {out : Bool} {o : Fmt SwzMod} {e : BitVec 128} (h : MayCopy s o out e) (hfit : PlaneFits s o) :
    s.planeCopy out o = .next (s.started o (.copy (withEntry e (planeOf s out o)))) := by
  obtain ⟨hb, hlen, hpitch, hhpitch, hrows⟩ := hfit
  rw [planeCopy_eq h.issues, sendCopy_starts (c := planeOf s out o) h rfl rfl (by simpa using ⟨hb, hlen, hpitch, hhpitch⟩) (by simp)
    hrows, slot_ok h.issues.on]

theorem rowCopy_starts {s : State} {fn : Nat} {out : Bool} {o : Fmt Unit} {e : BitVec 128} (h : MayCopy s o out e)
    (hfit : PicksFit s o) : s.rowCopy fn out o = .next (s.started o (.copy (withEntry e (picksOf s fn out o)))) := by
  obtain ⟨hb, hhpitch, hlist, hlen, hlistEnd, hrows⟩ := hfit
  rw [rowCopy_eq h.issues, sendCopy_starts (c := picksOf s fn out o) h rfl rfl (by simpa [hb, hhpitch, hlist] using hlen)
    (by simpa using hlistEnd) hrows, slot_ok h.issues.on]

/-- Ranges of which one ends before the other begins do not overlap. -/
theorem overlap_eq_false {a b n : Nat} (h : a + n ≤ b ∨ b + n ≤ a) : overlap a b n = false :=
  decide_eq_false (by omega)

/-- A CPYR may start: nothing bounded, a free entry of the copy table, its values aligned, both sides in the data rows, on every
target, and apart where the issuing core is a target (R88, R92, R93). -/
structure MayRelay (s : State) (o : Fmt Unit) : Prop where
  issues : s.Issues o
  a : s.bitA o = false
  b : s.bitB o = false
  c : s.bitC o = false
  fresh : s.th.copyHeld = none
  room : s.copyEntries < (if s.split2 s.cur.core then 256 else 512)
  source : (s.opA o).toNat % 8 = 0
  dest : (s.opB o).toNat % 8 = 0
  length : (s.opC o).toNat % 8 = 0
  sourceEnd : (s.opA o).toNat + (s.opC o).toNat ≤ rowsEnd s
  destEnd : (s.opB o).toNat + (s.opC o).toNat ≤ rowsEnd s
  targets : ∀ k ∈ copyTargets s.cur.core (o.imm.toNat % 256), (s.opB o).toNat + (s.opC o).toNat ≤ s.writeEnd k
  apart : (copyTargets s.cur.core (o.imm.toNat % 256)).contains s.cur.core = false
    ∨ (s.opA o).toNat + (s.opC o).toNat ≤ (s.opB o).toNat ∨ (s.opB o).toNat + (s.opC o).toNat ≤ (s.opA o).toNat

theorem execCpyr_starts {s : State} {o : Fmt Unit} (h : MayRelay s o) :
    execCpyr o s = .next (s.started o (.copy { CopyOp.initial with
      fn := 4, spad := (s.opB o).toNat, length := (s.opC o).toNat, list := (s.opA o).toNat, mask := o.imm.toNat % 256 })) := by
  have hmeet : ((copyTargets s.cur.core (o.imm.toNat % 256)).contains s.cur.core
      && overlap (s.opA o).toNat (s.opB o).toNat (s.opC o).toNat) = false := by
    obtain hno | happart := h.apart
    · rw [hno, Bool.false_and]
    · rw [overlap_eq_false happart, Bool.and_false]
  have halign : alignCheck 6 [((s.opA o).toNat, 8), ((s.opB o).toNat, 8), ((s.opC o).toNat, 8)] = .ok () :=
    alignCheck_ok (by simp [h.source, h.dest, h.length])
  have hsource : s.rangeCheck false [((s.opA o).toNat, (s.opC o).toNat)] = .ok () :=
    rangeCheck_ok (List.forall_mem_singleton.mpr h.sourceEnd) false
  have hunbounded := noBounded_ok (s := s) (sources_unbounded h.a h.b h.c)
  have htarget := targetCheck_ok h.targets h.destEnd
  refine slot_sources_ok h.issues.on h.issues ?_
  unfold State.opA State.opB State.opC at *
  dsimp only
  rw [h.fresh]
  dsimp only
  rw [hunbounded, halign, hmeet, htarget, hsource, enterCopy_room h.room]
  rfl

/-! ## A CPY that a check stops, and one that finds no entry free (R88, R93) -/

/-- A slot whose trap is found in a changed state, and one that hands its group to another unit (R22). -/
theorem slot_trapIn {s : State} {p : Pred} (h : s.predOn p = true) (t : State) (cause : Nat) (v : Word) :
    s.slot p (.error (.trapIn t cause v)) = .next (t.takeTrap cause v) := if_pos h
theorem slot_hand {s : State} {p : Pred} (h : s.predOn p = true) (t : State) :
    s.slot p (.error (.hand t)) = .next { t with iss := { t.iss with status := .queued } } := if_pos h

section
variable {s : State} {o : Fmt Unit} (h : s.Issues o) (ha : s.bitA o = false) (hb : s.bitB o = false) (hc : s.bitC o = false)
  (hf : s.th.copyHeld = none) (he : EntryReads s (s.opA o))
include h ha hb hc hf he

theorem linearCopy_handle_trap {out : Bool} (hh : s.handleCheck (s.opA o) out = .error (.trap 53 (s.opA o))) :
    s.linearCopy out o = .next (s.takeTrap 53 (s.opA o)) := by
  rw [linearCopy_eq h, sendCopy_handle_trap (c := linearOf s out o) hf (sources_unbounded ha hb hc) he hh,
    slot_trapIn h.on]

theorem linearCopy_misaligned {out : Bool} {e : BitVec 128} (hh : s.handleCheck (s.opA o) out = .ok e)
    (hm : (s.opB o).toNat % 8 ≠ 0) : s.linearCopy out o = .next (s.takeTrap (if out then 4 else 6) (s.opB o)) := by
  rw [linearCopy_eq h, sendCopy_align_trap (c := linearOf s out o) hf (sources_unbounded ha hb hc) he hh
    (alignCheck_head_misaligned _ hm _), slot_trapIn h.on]
  rfl

/-- A CPY that finds no entry free stands in its thread, and nothing else has changed. -/
theorem linearCopy_begins_to_wait {e : BitVec 128} {out : Bool} (hh : s.handleCheck (s.opA o) out = .ok e)
    (hb8 : (s.opB o).toNat % 8 = 0) (hn8 : (s.opC o).toNat % 8 = 0) (hr : (s.opB o).toNat + (s.opC o).toNat ≤ rowsEnd s)
    (hent : (withEntry e (linearOf s out o)).entered = true) (hfull : (if s.split2 s.cur.core then 256 else 512) ≤ s.copyEntries) :
    ∃ t, s.linearCopy out o = .next t ∧ t.th = { s.th with copyHeld := some (withEntry e (linearOf s out o)) }
      ∧ t.iss.status = .queued ∧ t.ops = s.ops ∧ SameMemory s t := by
  have hwaits : s.linearCopy out o = s.slot o.pred (.error (.hand
      (s.setTh { s.th with copyHeld := some (withEntry e (linearOf s out o)) }))) := by
    rw [linearCopy_eq h, sendCopy_passes (c := linearOf s out o) hf (sources_unbounded ha hb hc) he hh rfl (by simp [hb8, hn8]) (by simp)
      (linearOf_rows hr), enterCopy_begins_to_wait hent hfull hf]
    rfl
  exact ⟨_, hwaits.trans (slot_hand h.on _), th_setTh s _, rfl, rfl, fun _ => rfl, fun _ => rfl⟩

end

/-- A CPY that waits has been judged. -/
theorem linearCopy_held {s : State} {o : Fmt Unit} {c : CopyOp} (h : s.Issues o) (hc : s.th.copyHeld = some c) (out : Bool) :
    s.linearCopy out o = s.slot o.pred (s.enterCopy o.d c) := by
  rw [linearCopy_eq h, sendCopy_held hc]

/-- Settles O52: a copy that passes the checks of R93 takes an entry, each check stops it with its own cause, and one that finds
no entry free waits as it was judged. -/
theorem copyInstructions : Obligations.CopyInstructions := by
  intro s o z e
  refine ⟨fun hb hn hr => ⟨fun h => linearCopy_starts h hb hn hr, fun h => linearCopy_starts h hb hn hr⟩,
    fun hfit => ⟨fun h => planeCopy_starts h hfit, fun h => planeCopy_starts h hfit⟩,
    fun hfit => ⟨fun h => rowCopy_starts h hfit, fun h => rowCopy_starts h hfit⟩,
    fun h ha hb hc hf hroom ha8 hb8 hn8 haEnd hbEnd ht hapart =>
      execCpyr_starts ⟨h, ha, hb, hc, hf, hroom, ha8, hb8, hn8, haEnd, hbEnd, ht, hapart⟩,
    fun h ha hb hc hf he => ⟨fun hr => ?unresolved, fun hr => ?forbidden, fun hr hm => ?misaligned⟩,
    fun h => ⟨fun hheld hent => ⟨fun hfull => ?waits, fun hroom => ?issues⟩,
      fun ha hb hc hf he hr hrd hb8 hn8 hrows hent hfull => ?beginsToWait⟩⟩
  case unresolved =>
    exact ⟨linearCopy_handle_trap h ha hb hc hf he (handleCheck_unresolved he false hr),
      linearCopy_handle_trap h ha hb hc hf he (handleCheck_unresolved he true hr)⟩
  case forbidden =>
    exact ⟨fun hrd => linearCopy_handle_trap h ha hb hc hf he (handleCheck_forbidden he (write := false) hr hrd),
      fun hwr => linearCopy_handle_trap h ha hb hc hf he (handleCheck_forbidden he (write := true) hr hwr)⟩
  case misaligned =>
    exact ⟨fun hrd => linearCopy_misaligned h ha hb hc hf he (handleCheck_ok he (write := false) hr hrd) hm,
      fun hwr => linearCopy_misaligned h ha hb hc hf he (handleCheck_ok he (write := true) hr hwr) hm⟩
  case waits => exact (linearCopy_held h hheld false).trans (by rw [enterCopy_waits hent hfull hheld, slot_park h.on])
  case issues =>
    exact (linearCopy_held h hheld false).trans (by rw [enterCopy_room (Nat.not_le.mp hroom)]; exact slot_ok h.on _)
  case beginsToWait =>
    exact linearCopy_begins_to_wait h ha hb hc hf he (handleCheck_ok he (write := false) hr hrd) hb8 hn8 hrows hent hfull

end Sys2Proof.Machine
end

section
/-!
PROOF. The scratchpad's shared steps (07 R99, R103, R106-R108): the bytes of numbers and registers, what the checks of an access
answer, and what a store to the scratchpad leaves.
-/
namespace Sys2Proof.Machine
open Sys2Proof.Claims

/-! ## The bytes of numbers, words and registers -/

theorem getD_natToBytes {k i : Nat} (h : i < k) (n : Nat) : (natToBytes k n).getD i 0 = BitVec.ofNat 8 (n / 2 ^ (8 * i)) := by
  induction k generalizing n i with
  | zero => exact absurd h (Nat.not_lt_zero i)
  | succ k ih =>
    cases i with
    | zero => simp [natToBytes]
    | succ i =>
      rw [natToBytes, List.getD_cons_succ, ih (Nat.lt_of_succ_lt_succ h), Nat.div_div_eq_div_mul, show 8 * (i + 1) = 8 + 8 * i by omega,
        Nat.pow_add]

theorem testBit_bytesToNat (l : List Byte) (i : Nat) {j : Nat} (hj : j < 8) :
    (bytesToNat l).testBit (8 * i + j) = (l.getD i 0).getLsbD j := by
  induction l generalizing i with
  | nil => simp [bytesToNat]
  | cons b l ih =>
    rw [bytesToNat, Nat.add_comm b.toNat, show 256 = 2 ^ 8 from rfl, Nat.testBit_two_pow_mul_add _ b.isLt]
    cases i with
    | zero => simp [hj, BitVec.getLsbD]
    | succ i => rw [if_neg (by omega), show 8 * (i + 1) + j - 8 = 8 * i + j by omega, ih, List.getD_cons_succ]

theorem getLsbD_byte {n : Nat} (v : BitVec n) (i : Nat) {j : Nat} (hj : j < 8) :
    ((v >>> (8 * i)).setWidth 8).getLsbD j = v.getLsbD (8 * i + j) := by
  rw [BitVec.getLsbD_setWidth, decide_eq_true hj, Bool.true_and, BitVec.getLsbD_ushiftRight]

theorem ofNat_eq_byte {n : Nat} {b : Byte} (h : ∀ j, j < 8 → n.testBit j = b.getLsbD j) : BitVec.ofNat 8 n = b :=
  BitVec.eq_of_getLsbD_eq fun j hj => by rw [BitVec.getLsbD_ofNat, decide_eq_true hj, Bool.true_and, h j hj]

/-- Byte k of lane i of a register. -/
theorem ofNat_lane_byte {w k : Nat} (hk : k < w) (v : VWord) (i : Nat) :
    BitVec.ofNat 8 (lane w v i / 2 ^ (8 * k)) = (v >>> (8 * (w * i + k))).setWidth 8 := by
  refine ofNat_eq_byte fun j hj => ?_
  rw [getLsbD_byte _ _ hj, lane, bits, Nat.testBit_div_two_pow, Nat.testBit_mod_two_pow, Nat.testBit_div_two_pow,
    decide_eq_true (by omega), Bool.true_and, BitVec.getLsbD, show j + 8 * k + 8 * w * i = 8 * (w * i + k) + j by ring]

theorem testBit_foldr_lanes (w : Nat) (l : List Nat) (i : Nat) {p : Nat} (hp : p < 8 * w) :
    (l.foldr (fun x a => a * 2 ^ (8 * w) + x % 2 ^ (8 * w)) 0).testBit (8 * w * i + p) = (l.getD i 0).testBit p := by
  induction l generalizing i with
  | nil => simp
  | cons x l ih =>
    rw [List.foldr_cons, Nat.mul_comm _ (2 ^ (8 * w)), Nat.testBit_two_pow_mul_add _ (Nat.mod_lt x (Nat.two_pow_pos _))]
    cases i with
    | zero => simp [hp, Nat.testBit_mod_two_pow]
    | succ i =>
      have hsub : 8 * w * (i + 1) + p = 8 * w * i + p + 8 * w := by ring
      rw [hsub, if_neg (by omega), Nat.add_sub_cancel, ih, List.getD_cons_succ]

/-- Byte k of lane i of a register that is packed of lanes. -/
theorem byte_packLanes {w i k : Nat} {l : List Nat} (hl : w * l.length ≤ 32) (hi : i < l.length) (hk : k < w) :
    (packLanes w l >>> (8 * (w * i + k))).setWidth 8 = BitVec.ofNat 8 (l[i] / 2 ^ (8 * k)) := by
  have hlane : w * i + k < w * l.length := by
    calc w * i + k < w * (i + 1) := by rw [Nat.mul_succ]; omega
      _ ≤ w * l.length := Nat.mul_le_mul_left w hi
  refine (ofNat_eq_byte fun j hj => ?_).symm
  rw [getLsbD_byte _ _ hj, packLanes, BitVec.getLsbD_ofNat, decide_eq_true (by omega), Bool.true_and,
    show 8 * (w * i + k) + j = 8 * w * i + (j + 8 * k) by ring, testBit_foldr_lanes w l i (by omega), Nat.testBit_div_two_pow,
    List.getD_eq_getElem _ _ hi]

/-- Byte k of the data of a scalar store. -/
theorem getD_storeBytes {n k : Nat} (h : k < n) (v : Word) : (storeBytes n v).getD k 0 = (v >>> (8 * k)).setWidth 8 := by
  rw [storeBytes, getD_natToBytes h]
  refine ofNat_eq_byte fun j hj => ?_
  rw [getLsbD_byte _ _ hj, Nat.testBit_div_two_pow, Nat.testBit_mod_two_pow, decide_eq_true (by omega), Bool.true_and,
    BitVec.getLsbD, Nat.add_comm]

theorem signedLane_toNat {w : Nat} (hw : 0 < w) (x : BitVec (8 * w)) : signedLane w x.toNat = x.toInt := by
  have hhalf : 2 ^ (8 * w) = 2 * 2 ^ (8 * w - 1) := by rw [← Nat.pow_succ']; congr 1; omega
  have hsign : 2 * x.toNat < 2 ^ (8 * w) ↔ x.toNat < 2 ^ (8 * w - 1) := by omega
  simp only [BitVec.toInt_eq_toNat_cond, signedLane, hsign]
  push_cast
  rfl

/-! ## Elements of the scratchpad -/

theorem spadNat_lt (s : State) (a n : Nat) : s.spadNat a n < 2 ^ (8 * n) := by
  have h := bytesToNat_lt (s.cc.bytes a n)
  rwa [CoreCtx.bytes, List.length_map, List.length_range, show 256 = 2 ^ 8 from rfl, ← Nat.pow_mul] at h

theorem elementAt_eq (s : State) (a n : Nat) : elementAt s a n = BitVec.ofNat (8 * n) (s.spadNat a n) := rfl

theorem toNat_elementAt (s : State) (a n : Nat) : (elementAt s a n).toNat = s.spadNat a n := by
  rw [elementAt_eq, BitVec.toNat_ofNat, Nat.mod_eq_of_lt (spadNat_lt s a n)]

theorem ofNat_spadNat (s : State) (a n : Nat) : BitVec.ofNat 64 (s.spadNat a n) = (elementAt s a n).setWidth 64 := by
  refine BitVec.eq_of_toNat_eq (Eq.trans ?_ (BitVec.toNat_setWidth 64 (elementAt s a n)).symm)
  rw [toNat_elementAt]
  rfl
theorem ofInt_spadNat (s : State) (a : Nat) {n : Nat} (hn : 0 < n) :
    BitVec.ofInt 64 (signedLane n (s.spadNat a n)) = (elementAt s a n).signExtend 64 := by
  rw [← toNat_elementAt, signedLane_toNat hn]
  rfl

theorem testBit_spadNat (s : State) (a : Nat) {n i j : Nat} (hi : i < n) (hj : j < 8) :
    (s.spadNat a n).testBit (8 * i + j) = (s.cc.byte (a + i)).getLsbD j := by
  rw [State.spadNat, testBit_bytesToNat _ _ hj, CoreCtx.bytes, List.getD_eq_getElem _ _ (by simpa using hi)]
  simp

theorem ofNat_spadNat_byte (s : State) (a : Nat) {n k : Nat} (h : k < n) :
    BitVec.ofNat 8 (s.spadNat a n / 2 ^ (8 * k)) = s.cc.byte (a + k) := by
  exact ofNat_eq_byte fun j hj => by rw [Nat.testBit_div_two_pow, Nat.add_comm j, testBit_spadNat s a h hj]

theorem getLsbD_elementAt (s : State) (a : Nat) {n i j : Nat} (hi : i < n) (hj : j < 8) :
    (elementAt s a n).getLsbD (8 * i + j) = (s.cc.byte (a + i)).getLsbD j := by
  rw [elementAt_eq, BitVec.getLsbD_ofNat, decide_eq_true (by omega), Bool.true_and, testBit_spadNat s a hi hj]

theorem msb_elementAt (s : State) (a : Nat) {n : Nat} (h : 0 < n) : (elementAt s a n).msb = (s.cc.byte (a + n - 1)).msb := by
  rw [BitVec.msb_eq_getLsbD_last, BitVec.msb_eq_getLsbD_last, show 8 * n - 1 = 8 * (n - 1) + 7 by omega,
    getLsbD_elementAt s a (by omega) (by omega), Nat.add_sub_assoc h]

theorem spadNat_one (s : State) (a : Nat) : s.spadNat a 1 = (s.cc.byte a).toNat := by
  simp [State.spadNat, CoreCtx.bytes, bytesToNat]

/-! ## The checks of an access (R99, R108) -/

theorem spadMay_iff {s : State} {a : Nat} {write : Bool} : s.spadMay a write = true ↔ reaches s a write := by
  unfold State.spadMay reaches
  by_cases hlow : a < 0x17000
  · simp [hlow]
  by_cases hdata : a < 0x2F000
  · simp [hlow, hdata, show ¬ 0x2F000 ≤ a by omega, show ¬ 0x2F800 ≤ a by omega]
  by_cases hsave : a < 0x2F800
  · simp [hlow, hdata, hsave, show 0x2F000 ≤ a by omega, show ¬ 0x2F800 ≤ a by omega]
  · simp [hlow, hdata, hsave, show 0x2F800 ≤ a by omega]

theorem failFirst_ok {l : List Word} {bad : Word → Bool} (h : ∀ a ∈ l, bad a = false) (cause : Nat) :
    failFirst l bad cause = .ok () := by
  rw [failFirst, List.find?_eq_none.mpr fun a ha => by simp [h a ha]]
theorem failFirst_one {a : Word} {bad : Word → Bool} (h : bad a = true) (cause : Nat) :
    failFirst [a] bad cause = .error (.trap cause a) := by
  rw [failFirst, List.find?_cons_of_pos h]

section
variable {s : State} {l : List Word} {a : Word} {align n : Nat}

theorem spadCheck_ok {write : Bool} (ha : ∀ a ∈ l, a.toNat % align = 0) (hr : ∀ a ∈ l, reaches s a.toNat write) :
    s.spadCheck l align write = .ok () := by
  rw [State.spadCheck, failFirst_ok fun a h => by simp [ha a h], failFirst_ok fun a h => by simp [spadMay_iff.mpr (hr a h)]]
  rfl
theorem spadCheck_misaligned (h : a.toNat % align ≠ 0) (write : Bool) :
    s.spadCheck [a] align write = .error (.trap (if write then 6 else 4) a) := by
  rw [State.spadCheck, failFirst_one (decide_eq_true h)]
  rfl
theorem spadCheck_unreached {write : Bool} (ha : a.toNat % align = 0) (hr : ¬ reaches s a.toNat write) :
    s.spadCheck [a] align write = .error (.trap (if write then 7 else 5) a) := by
  rw [State.spadCheck, failFirst_ok fun x h => by simp [List.mem_singleton.mp h, ha],
    failFirst_one (by rw [Bool.eq_false_iff.mpr (mt spadMay_iff.mp hr)]; rfl)]
  rfl

theorem spadEcc_ok (h : ∀ a ∈ l, ∀ w ∈ s.cc.badWords, a.toNat + n ≤ w * 8 ∨ w * 8 + 8 ≤ a.toNat) :
    s.spadEcc l n = .ok () := by
  have hnone : ∀ a ∈ l, s.cc.badIn [a.toNat] n = [] := fun a ha => by
    refine List.filter_eq_nil_iff.mpr fun w hw => ?_
    have := h a ha w hw
    simp only [List.any_cons, List.any_nil, Bool.or_false, decide_eq_true_eq]
    omega
  rw [State.spadEcc, List.find?_eq_none.mpr fun a ha => by simp [hnone a ha]]
theorem spadEcc_of_no_bad_word (h : s.cc.badWords = []) (l : List Word) (n : Nat) : s.spadEcc l n = .ok () :=
  spadEcc_ok fun _ _ _ hw => absurd (h ▸ hw) List.not_mem_nil

/-- A load whose elements are aligned, within reach and sound answers the OR of their B bits (R107). -/
theorem spadLoad_ok (h : ∀ a ∈ l, a.toNat % align = 0 ∧ reaches s a.toNat false ∧ sound s a.toNat n) :
    s.spadLoad l align n = .ok (l.any fun a => tagB (s.cc.tag a.toNat)) := by
  rw [State.spadLoad, spadCheck_ok (fun a ha => (h a ha).1) fun a ha => (h a ha).2.1, spadEcc_ok fun a ha => (h a ha).2.2.1,
    State.spadPoison, failFirst_ok fun a ha => (h a ha).2.2.2]
  rfl

end

/-! ## Watchpoints that are not set (R379) -/

theorem watch_of_unwatched {s : State} (h : unwatched s) (key write : Bool) (a n : Nat) : s.watch key write a n = s := by
  unfold unwatched at h
  simp [State.watch, h, watchHit]
theorem watchAll_of_unwatched {s : State} (h : unwatched s) (key write : Bool) (l : List (Nat × Nat)) :
    s.watchAll key write l = s := by
  unfold State.watchAll
  induction l with
  | nil => rfl
  | cons p l ih => rw [List.foldl_cons, watch_of_unwatched h, ih]

/-! ## What a store leaves (R103) -/

theorem msb_eq_tagB (t : BitVec 16) : t.msb = tagB t := BitVec.msb_eq_getLsbD_last t

theorem tag_congr (c : CoreCtx) {a x : Nat} (h : a / 64 = x / 64) : c.tag a = c.tag x := by rw [CoreCtx.tag, h, CoreCtx.tag]

theorem storeTag_eq_tagAfter (t : BitVec 16) (b : Bool) : storeTag t b = tagAfter t b := by
  have hfmt : ∀ k < 2 ^ 7, tagFmt t = k ↔ (t >>> 8).setWidth 7 = BitVec.ofNat 7 k := fun k hk => by
    rw [tagFmt_eq, ← BitVec.toNat_inj, BitVec.toNat_ofNat, Nat.mod_eq_of_lt hk]
  have hraw : ∀ x : Bool, mkTag x 0 0 = if x then 0x8000 else 0 := by decide
  simp only [storeTag, tagAfter, tagPoison, tagZero, tagConst, Bool.or_eq_true, beq_iff_eq, hfmt 0x7F (by decide),
    hfmt 0x10 (by decide), hfmt 0x11 (by decide), hraw, msb_eq_tagB]
  rfl
theorem tagAfter_twice (t : BitVec 16) (b : Bool) : tagAfter (tagAfter t b) b = tagAfter t b := by
  simp only [← storeTag_eq_tagAfter, storeTag_twice]

theorem onlyScratch_refl (s : State) : OnlyScratch s s := ⟨rfl, fun _ _ _ => rfl, rfl⟩
theorem onlyScratch_trans {s t u : State} (h : OnlyScratch s t) (k : OnlyScratch t u) : OnlyScratch s u := by
  obtain ⟨hcc, hctx, hs⟩ := h
  obtain ⟨kcc, kctx, ks⟩ := k
  have hcur : t.cur = s.cur := by rw [hs]
  refine ⟨by rw [kcc, hcc], fun core ctx hne => (kctx core ctx (hcur ▸ hne)).trans (hctx core ctx hne), ?_⟩
  rw [ks, hs]

/-- A write of the current core context that keeps all but bytes, tags and marked words. -/
theorem onlyScratch_setCc {s : State} {c : CoreCtx}
    (h : c = { s.cc with spad := c.spad, tags := c.tags, badWords := c.badWords }) : OnlyScratch s (s.setCc c) := by
  refine ⟨?_, fun core ctx hne => (coreCtx_setCoreCtx s _ core _ ctx c).trans (if_neg hne), rfl⟩
  rw [cc_setCc]
  exact h

theorem onlyScratch_setTh (s : State) (th : Thread) : OnlyScratch s (s.setTh th) := ⟨rfl, fun _ _ _ => rfl, rfl⟩

/-- An aligned element lies in one block. -/
theorem element_in_block {a w : Nat} (hw : w ∣ 64) (h : a % w = 0) : a / 64 = (a + w - 1) / 64 := by
  obtain ⟨m, hm⟩ := hw
  obtain ⟨q, rfl⟩ := Nat.dvd_of_mod_eq_zero h
  have hpos : 0 < w := Nat.pos_of_ne_zero fun h0 => by simp [h0] at hm
  rw [hm, ← Nat.div_div_eq_div_mul, ← Nat.div_div_eq_div_mul, Nat.mul_div_cancel_left q hpos, Nat.add_sub_assoc hpos,
    Nat.mul_add_div hpos, Nat.div_eq_of_lt (Nat.sub_lt hpos Nat.one_pos), Nat.add_zero]

section
variable (s : State) (a : Nat) (l : List Byte) (b : Bool)

theorem cc_spadStore : (s.spadStore a l b).cc = (s.cc.store a l b).heal a l.length := cc_setCc s _

theorem onlyScratch_spadStore : OnlyScratch s (s.spadStore a l b) := by
  refine onlyScratch_setCc ?_
  rw [store_rest]
  rfl

theorem byte_spadStore (x : Nat) :
    (s.spadStore a l b).cc.byte x = if a ≤ x ∧ x < a + l.length then l.getD (x - a) 0 else s.cc.byte x := by
  rw [cc_spadStore, ← byte_store]
  rfl

/-- A store of one aligned element changes the tag of its block as R103 says, and no other. -/
theorem tag_spadStore {w : Nat} (hw : w ∣ 64) (hlen : l.length = w) (hal : a % w = 0) (x : Nat) :
    (s.spadStore a l b).cc.tag x = if x / 64 = a / 64 then tagAfter (s.cc.tag x) b else s.cc.tag x := by
  have hne : l ≠ [] := List.ne_nil_of_length_pos (hlen ▸ Nat.pos_of_dvd_of_pos hw (by decide))
  have hblock : a / 64 = (a + l.length - 1) / 64 := hlen ▸ element_in_block hw hal
  have htag : (s.spadStore a l b).cc.tag x = (s.cc.store a l b).tag x := by rw [cc_spadStore]; rfl
  rw [htag, tag_store _ _ _ _ _ hne hblock, storeTag_eq_tagAfter]
  refine if_ctx_congr Iff.rfl (fun h => ?_) fun _ => rfl
  rw [tag_congr s.cc h.symm]

end

/-- Two aligned elements with a byte in common are the same. -/
theorem element_unique {a b w x : Nat} (ha : a % w = 0) (hb : b % w = 0) (hax : a ≤ x ∧ x < a + w) (hbx : b ≤ x ∧ x < b + w) :
    a = b := by
  obtain ⟨p, rfl⟩ := Nat.dvd_of_mod_eq_zero ha
  obtain ⟨q, rfl⟩ := Nat.dvd_of_mod_eq_zero hb
  have hp : x / w = p := Nat.div_eq_of_lt_le (by rw [Nat.mul_comm]; exact hax.1) (by rw [Nat.succ_mul, Nat.mul_comm]; exact hax.2)
  have hq : x / w = q := Nat.div_eq_of_lt_le (by rw [Nat.mul_comm]; exact hbx.1) (by rw [Nat.succ_mul, Nat.mul_comm]; exact hbx.2)
  rw [← hp, hq]

theorem bytes_pos (w : Width) : 0 < Width.bytes w := by cases w <;> decide
theorem bytes_dvd_block (w : Width) : Width.bytes w ∣ 64 := by cases w <;> decide

/-! ## What a slot whose sources are there comes to -/

theorem slot_sources_trap {M : Type} {s : State} {o : Fmt M} {rest : Src × Src × Src → Except Stop State} {cause : Nat} {v : Word}
    (h : s.Issues o) (ht : rest (s.read o.imm o.a, s.read o.imm o.b, s.read o.imm o.c) = .error (.trap cause v)) :
    s.slot o.pred (s.sources o >>= rest) = .next (s.takeTrap cause v) := by
  rw [sources_bind h, ht, slot_trap h.on]

theorem effAddr_eq_eaOf {M : Type} (s : State) (o : Fmt M) : effAddr (s.read o.imm o.a) (s.read o.imm o.b) o.imm = eaOf s o := rfl

theorem base_unbounded {M : Type} {s : State} {o : Fmt M} (ha : s.bitA o = false) (hb : s.bitB o = false) :
    ∀ x ∈ [s.read o.imm o.a, s.read o.imm o.b], x.b = false := by
  simpa using ⟨ha, hb⟩

end Sys2Proof.Machine
end

section
/-!
PROOF. LDS, LDT, STS and STT (07 R99, R103, R105-R107).
-/
namespace Sys2Proof.Machine
open Sys2Proof.Claims

/-! ## LDS and LDT -/

/-- What LDS makes of an element: zero- or sign-extended (R106). -/
def loadedWord {n : Nat} (sx : Bool) (x : BitVec n) : Word := if sx then x.signExtend 64 else x.setWidth 64

theorem getLsbD_loadedWord {n p : Nat} (hp : p < 64) (sx : Bool) (x : BitVec n) :
    (loadedWord sx x).getLsbD p = if p < n then x.getLsbD p else sx && x.msb := by
  cases sx
  · rw [loadedWord, if_neg Bool.false_ne_true, BitVec.getLsbD_setWidth, decide_eq_true hp, Bool.true_and]
    split
    · rfl
    · exact BitVec.getLsbD_of_ge x p (by omega)
  · rw [loadedWord, if_pos rfl, BitVec.getLsbD_signExtend, decide_eq_true hp, Bool.true_and, Bool.true_and]

theorem loadedWord_elementAt (s : State) (a : Nat) {n : Nat} (hn : 0 < n) (sx : Bool) :
    (if sx then BitVec.ofInt 64 (signedLane n (s.spadNat a n)) else BitVec.ofNat 64 (s.spadNat a n))
      = loadedWord sx (elementAt s a n) := by
  cases sx
  · exact ofNat_spadNat s a n
  · exact ofInt_spadNat s a hn

/-- Byte i of a loaded word: of the element, or of the extension behind it. -/
theorem byte_loadedWord (s : State) (a : Nat) {n i : Nat} (hn : 0 < n) (hi : i < 8) (sx : Bool) :
    (loadedWord sx (elementAt s a n) >>> (8 * i)).setWidth 8
      = if i < n then s.cc.byte (a + i) else if sx && (s.cc.byte (a + n - 1)).msb then 0xFF else 0 := by
  have hones : ∀ x : Bool, ∀ j, j < 8 → (if x then (0xFF : Byte) else 0).getLsbD j = x := by decide
  refine BitVec.eq_of_getLsbD_eq fun j hj => ?_
  rw [getLsbD_byte _ _ hj, getLsbD_loadedWord (by omega)]
  by_cases h : i < n
  · rw [if_pos h, if_pos (by omega), getLsbD_elementAt s a h hj]
  · rw [if_neg h, if_neg (by omega), hones _ j hj, msb_elementAt s a hn]

theorem execLds_lands {s : State} {o : Fmt SpadMod} (h : s.Issues o) (ha : s.bitA o = false) (hb : s.bitB o = false)
    (hw : unwatched s) (hal : (eaOf s o).toNat % Width.bytes o.mod.w = 0) (hr : reaches s (eaOf s o).toNat false)
    (hs : sound s (eaOf s o).toNat (Width.bytes o.mod.w)) :
    exec (.lds o) s = .next (s.land o.d
      ((loadedWord o.mod.sx (elementAt s (eaOf s o).toNat (Width.bytes o.mod.w))).setWidth 256) (s.cc.tag (eaOf s o).toNat).msb 3) := by
  have hload : s.spadLoad [eaOf s o] (Width.bytes o.mod.w) (Width.bytes o.mod.w) = .ok (tagB (s.cc.tag (eaOf s o).toNat)) := by
    rw [spadLoad_ok (by simpa using ⟨hal, hr, hs⟩)]
    simp
  refine slot_sources_ok h.on h ?_
  dsimp only
  rw [noBounded_ok (base_unbounded ha hb), effAddr_eq_eaOf, hload, watch_of_unwatched hw, msb_eq_tagB,
    ← loadedWord_elementAt s _ (bytes_pos _)]
  rfl

theorem execLdt_lands {s : State} {o : Fmt Unit} (h : s.Issues o) (ha : s.bitA o = false) (hb : s.bitB o = false)
    (hr : reaches s (eaOf s o).toNat false) :
    exec (.ldt o) s = .next (s.land o.d ((s.cc.tag (eaOf s o).toNat).setWidth 256) false 3) := by
  refine slot_sources_ok h.on h ?_
  dsimp only
  rw [noBounded_ok (base_unbounded ha hb), effAddr_eq_eaOf,
    spadCheck_ok (by simp [Nat.mod_one]) (by simpa using hr)]
  rfl

theorem scratchScalarLoad : ScratchScalarLoad := by
  intro s o u
  refine ⟨fun h ha hb hw hal hr hs => ⟨_, execLds_lands h ha hb hw hal hr hs, fun i hi => ?_⟩,
    fun h ha hb hr => execLdt_lands h ha hb hr⟩
  exact byte_loadedWord s _ (bytes_pos _) hi _

/-! ## STS and STT -/

theorem execSts_stores {s : State} {o : Fmt SpadMod} (h : s.Issues o) (ha : s.bitA o = false) (hb : s.bitB o = false)
    (hw : unwatched s) (hal : (eaOf s o).toNat % Width.bytes o.mod.w = 0) (hr : reaches s (eaOf s o).toNat true) :
    exec (.sts o) s = .next (s.spadStore (eaOf s o).toNat (storeBytes (Width.bytes o.mod.w) (s.opC o)) (s.bitC o)) := by
  refine slot_sources_ok h.on h ?_
  dsimp only
  rw [noBounded_ok (base_unbounded ha hb), effAddr_eq_eaOf,
    spadCheck_ok (by simpa using hal) (by simpa using hr), watch_of_unwatched hw]
  rfl

/-- The count of a bounded block that STT clears (R107). -/
def countAccept (s : State) (cleared : Bool) : State :=
  if cleared then s.setTh { s.th with accepts := s.th.accepts + 1 } else s

section
variable (s : State) (cleared : Bool)

theorem cc_countAccept : (countAccept s cleared).cc = s.cc := by cases cleared <;> rfl
theorem th_countAccept : (countAccept s cleared).th = { s.th with accepts := s.th.accepts + if cleared then 1 else 0 } := by
  cases cleared
  · simp [countAccept]
  · exact th_setTh s _
theorem onlyScratch_countAccept : OnlyScratch s (countAccept s cleared) := by
  cases cleared
  · exact onlyScratch_refl s
  · exact onlyScratch_setTh s _
theorem sameOthers_countAccept : SameOthers s (countAccept s cleared) := by
  intro u hu
  cases cleared
  · rfl
  · exact (thread_setThread s s.cur u _).trans (if_neg hu)

end

/-- What STT leaves: the count, and the tag of the block at its address. -/
def sttState (s : State) (o : Fmt Unit) : State :=
  let t : BitVec 16 := (s.opC o).setWidth 16
  let u := countAccept s (tagB (s.cc.tag (eaOf s o).toNat) && !tagB t)
  u.setCc (u.cc.setTag (eaOf s o).toNat t)

theorem execStt_stores {s : State} {o : Fmt Unit} (h : s.Issues o) (ha : s.bitA o = false) (hb : s.bitB o = false)
    (hc : s.bitC o = false) (hal : (eaOf s o).toNat % 64 = 0) (hr : reaches s (eaOf s o).toNat true) :
    exec (.stt o) s = .next (sttState s o) := by
  have htag : (s.read o.imm o.c).val.setWidth 16 = (s.opC o).setWidth 16 := by simp [State.opC, Src.word, BitVec.setWidth_setWidth_of_le]
  refine slot_sources_ok h.on h ?_
  dsimp only
  rw [noBounded_ok (sources_unbounded ha hb hc), effAddr_eq_eaOf,
    spadCheck_ok (by simpa using hal) (by simpa using hr), htag]
  rfl

theorem scratchScalarStore : ScratchScalarStore := by
  intro s o u
  refine ⟨fun h ha hb hw hal hr => ⟨_, execSts_stores h ha hb hw hal hr, onlyScratch_spadStore _ _ _ _, rfl,
      fun a => ?byte, fun a => ?tag⟩,
    fun h ha hb hc hal hr => ⟨_, execStt_stores h ha hb hc hal hr, ?stt⟩⟩
  case byte =>
    rw [byte_spadStore, storeBytes, length_natToBytes]
    refine if_ctx_congr Iff.rfl (fun hin => ?_) fun _ => rfl
    exact getD_storeBytes (by omega) _
  case tag => exact tag_spadStore _ _ _ _ (bytes_dvd_block _) (length_natToBytes _ _) hal a
  case stt =>
    dsimp only [sttState]
    refine ⟨onlyScratch_trans (onlyScratch_countAccept s _) (onlyScratch_setCc rfl), sameOthers_countAccept s _,
      fun a => ?_, fun a => ?_, ?_⟩
    · rw [cc_setCc, byte_setTag, cc_countAccept]
    · rw [cc_setCc, tag_setTag, cc_countAccept]
    · rw [th_setCc, th_countAccept, msb_eq_tagB, msb_eq_tagB]

/-- Settles O21: a scalar access that passes its checks reads or writes its one element, which lies in one block, or the block's tag. -/
theorem scratchScalarAccess : Obligations.ScratchScalarAccess := ⟨scratchScalarLoad, scratchScalarStore⟩

end Sys2Proof.Machine
end

section
/-!
PROOF. The first check that fails decides the trap of LDS, STS, SAMO and SAMON (07 R108, R110).
-/
namespace Sys2Proof.Machine
open Sys2Proof.Claims

/-! ## A check that fails -/

theorem spadLoad_of_check {s : State} {l : List Word} {align : Nat} {e : Stop} (h : s.spadCheck l align false = .error e) (n : Nat) :
    s.spadLoad l align n = .error e := by
  rw [State.spadLoad, h]
  rfl

theorem spadLoad_poison {s : State} {a : Word} {align : Nat} (ha : a.toNat % align = 0) (hr : reaches s a.toNat false)
    (hbad : s.cc.badWords = []) (hp : tagPoison (s.cc.tag a.toNat) = true) (n : Nat) :
    s.spadLoad [a] align n = .error (.trap 29 a) := by
  rw [State.spadLoad, spadCheck_ok (by simpa using ha) (by simpa using hr), spadEcc_of_no_bad_word hbad, State.spadPoison,
    failFirst_one hp]
  rfl

theorem base_bounded {s : State} {o : Fmt SpadMod} (hab : s.bitA o = true ∨ s.bitB o = true) :
    s.noBounded [s.read o.imm o.a, s.read o.imm o.b] = .error (.trap 26 s.iss.pc) :=
  noBounded_trap (by simpa [State.bitA, State.bitB] using hab)

section
variable {s : State} {o : Fmt SpadMod} (h : s.Issues o)
include h

theorem execLds_bounded (hab : s.bitA o = true ∨ s.bitB o = true) : exec (.lds o) s = .next (s.takeTrap 26 s.iss.pc) := by
  refine slot_sources_trap h ?_
  dsimp only
  rw [base_bounded hab]
  rfl
theorem execSts_bounded (hab : s.bitA o = true ∨ s.bitB o = true) : exec (.sts o) s = .next (s.takeTrap 26 s.iss.pc) := by
  refine slot_sources_trap h ?_
  dsimp only
  rw [base_bounded hab]
  rfl

variable (ha : s.bitA o = false) (hb : s.bitB o = false) {cause : Nat} {v : Word}
include ha hb

theorem execLds_trap (he : s.spadLoad [eaOf s o] (Width.bytes o.mod.w) (Width.bytes o.mod.w) = .error (.trap cause v)) :
    exec (.lds o) s = .next (s.takeTrap cause v) := by
  refine slot_sources_trap h ?_
  dsimp only
  rw [noBounded_ok (base_unbounded ha hb), effAddr_eq_eaOf, he]
  rfl
theorem execSts_trap (he : s.spadCheck [eaOf s o] (Width.bytes o.mod.w) true = .error (.trap cause v)) :
    exec (.sts o) s = .next (s.takeTrap cause v) := by
  refine slot_sources_trap h ?_
  dsimp only
  rw [noBounded_ok (base_unbounded ha hb), effAddr_eq_eaOf, he]
  rfl

end

/-- An atomic whose target block has B set stops before it reads the block (R110). -/
theorem samoOp_bounded_target {s : State} {o : Fmt SamoMod} (h : s.Issues o) (ha : s.bitA o = false) (hb : s.bitB o = false)
    (hc : s.bitC o = false) (hbad : s.cc.badWords = []) (hal : (s.opA o + o.imm.signExtend 64).toNat % Width.bytes o.mod.w = 0)
    (hr : reaches s (s.opA o + o.imm.signExtend 64).toNat true) (ht : tagB (s.cc.tag (s.opA o + o.imm.signExtend 64).toNat) = true)
    (ret : Bool) : s.samoOp o ret = .next (s.takeTrap 26 (s.opA o + o.imm.signExtend 64)) := by
  refine slot_sources_trap h ?_
  dsimp only
  rw [noBounded_ok (sources_unbounded ha hb hc), show (s.read o.imm o.a).word + immWord o.imm = s.opA o + o.imm.signExtend 64 from rfl,
    spadCheck_ok (by simpa using hal) (by simpa using hr), spadEcc_of_no_bad_word hbad, ht]
  rfl

/-- Settles O24: the checks stand in the order of R108 and R110, and each stops the slot with its own cause once those before it have
passed. -/
theorem scratchChecks : Obligations.ScratchChecks := by
  intro s o k
  refine ⟨fun h hab => ⟨execLds_bounded h hab, execSts_bounded h hab⟩,
    fun h ha hb => ⟨fun hmis => ?misaligned, fun hal hr => ?loadOut, fun hal hr => ?storeOut, fun hal hr hbad hp => ?poison⟩,
    fun h ha hb hc hbad hal hr ht => ⟨samoOp_bounded_target h ha hb hc hbad hal hr ht true,
      samoOp_bounded_target h ha hb hc hbad hal hr ht false⟩⟩
  case misaligned =>
    exact ⟨execLds_trap h ha hb (spadLoad_of_check (spadCheck_misaligned hmis false) _),
      execSts_trap h ha hb (spadCheck_misaligned hmis true)⟩
  case loadOut => exact execLds_trap h ha hb (spadLoad_of_check (spadCheck_unreached hal hr) _)
  case storeOut => exact execSts_trap h ha hb (spadCheck_unreached hal hr)
  case poison => exact execLds_trap h ha hb (spadLoad_poison hal hr hbad hp _)

end Sys2Proof.Machine
end

section
/-!
PROOF. The bank atomics (07 R103, R109, R110): the element, its old value, and what stays as it was.
-/
namespace Sys2Proof.Machine
open Sys2Proof.Claims

/-! ## The value of an atomic (R109) -/

theorem ofNat_samoValue {n : Nat} (hn : 0 < n) (op : SamoOp) (old v cmp : BitVec (8 * n)) :
    BitVec.ofNat (8 * n) (samoValue op n old.toNat v.toNat cmp.toNat).1 = atomicValue op old v cmp := by
  cases op
  case add => exact BitVec.eq_of_toNat_eq (by simp [samoValue, atomicValue])
  case and | or | xor => exact BitVec.eq_of_toNat_eq (by simp [samoValue, atomicValue])
  case min | max =>
    simp only [samoValue, atomicValue, signedLane_toNat hn, BitVec.slt, decide_eq_true_eq]
    split <;> simp
  case minu =>
    have hmin : min old.toNat v.toNat = if v.toNat < old.toNat then v.toNat else old.toNat := by split <;> omega
    simp only [samoValue, atomicValue, hmin, BitVec.ult, decide_eq_true_eq]
    split <;> simp
  case maxu =>
    have hmax : max old.toNat v.toNat = if old.toNat < v.toNat then v.toNat else old.toNat := by split <;> omega
    simp only [samoValue, atomicValue, hmax, BitVec.ult, decide_eq_true_eq]
    split <;> simp
  case swap => simp [samoValue, atomicValue]
  case cas =>
    simp only [samoValue, atomicValue, BitVec.toNat_inj]
    split <;> simp
  case fadd => rfl

/-- Only the floating addition raises an event. -/
theorem samoValue_flags {op : SamoOp} (h : op ≠ .fadd) (n old v cmp : Nat) : (samoValue op n old v cmp).2 = .none := by
  cases op
  case fadd => exact absurd rfl h
  all_goals rfl

/-! ## The state after an atomic -/

theorem bytes_spadStore_natToBytes (s : State) (a n v : Nat) (b : Bool) :
    (s.spadStore a (natToBytes n v) b).cc.bytes a n = natToBytes n v := by
  refine List.ext_getElem (by simp [CoreCtx.bytes]) fun i hi _ => ?_
  have hin : i < n := by simpa [CoreCtx.bytes] using hi
  simp [CoreCtx.bytes, byte_spadStore, hin]

theorem elementAt_spadStore (s : State) (a n v : Nat) (b : Bool) :
    elementAt (s.spadStore a (natToBytes n v) b) a n = BitVec.ofNat (8 * n) v := by
  rw [elementAt, bytes_spadStore_natToBytes, bytesToNat_natToBytes, show 256 ^ n = 2 ^ (8 * n) by rw [Nat.pow_mul]]
  exact BitVec.eq_of_toNat_eq (by simp)

theorem th_raise (s : State) (f : Flags) : (s.raise f).th = { s.th with fpflags := s.th.fpflags ||| f.bits } := th_setTh s _
theorem cc_raise (s : State) (f : Flags) : (s.raise f).cc = s.cc := rfl

/-- The address of an atomic. -/
def samoAddr (s : State) (o : Fmt SamoMod) : Word := s.opA o + o.imm.signExtend 64
/-- The new value of its element, and its flags. -/
def samoResult (s : State) (o : Fmt SamoMod) : Nat × Flags :=
  let n := Width.bytes o.mod.w
  samoValue o.mod.op n (elementAt s (samoAddr s o).toNat n).toNat ((s.opC o).setWidth (8 * n)).toNat ((s.opB o).setWidth (8 * n)).toNat
/-- The state that it leaves. -/
def samoState (s : State) (o : Fmt SamoMod) : State :=
  (s.spadStore (samoAddr s o).toNat (natToBytes (Width.bytes o.mod.w) (samoResult s o).1) false).raise (samoResult s o).2

theorem samoOp_stores {s : State} {o : Fmt SamoMod} (h : s.Issues o) (ha : s.bitA o = false) (hb : s.bitB o = false)
    (hc : s.bitC o = false) (hw : unwatched s) (hal : (samoAddr s o).toNat % Width.bytes o.mod.w = 0)
    (hr : reaches s (samoAddr s o).toNat true) (hs : sound s (samoAddr s o).toNat (Width.bytes o.mod.w))
    (ht : (s.cc.tag (samoAddr s o).toNat).msb = false) (ret : Bool) :
    s.samoOp o ret = .next (if ret then (samoState s o).land o.d ((if o.mod.op = .fadd
        then (elementAt s (samoAddr s o).toNat (Width.bytes o.mod.w)).setWidth 64
        else (elementAt s (samoAddr s o).toNat (Width.bytes o.mod.w)).signExtend 64).setWidth 256) false 4 else samoState s o) := by
  obtain ⟨hbad, hpoison⟩ := hs
  rw [msb_eq_tagB] at ht
  refine slot_sources_ok h.on h ?_
  dsimp only
  rw [noBounded_ok (sources_unbounded ha hb hc), show (s.read o.imm o.a).word + immWord o.imm = samoAddr s o from rfl,
    spadCheck_ok (by simpa using hal) (by simpa using hr), spadEcc_ok (by simpa using hbad), ht, State.spadPoison,
    failFirst_ok (by simpa using hpoison), watch_of_unwatched hw, ← ofNat_spadNat, ← ofInt_spadNat _ _ (bytes_pos _),
    samoState, samoResult, toNat_elementAt, BitVec.toNat_setWidth, BitVec.toNat_setWidth]
  rfl

/-- Settles O23: what an atomic leaves is a store of one aligned element, and the flags of a floating addition. -/
theorem scratchAtomic : Obligations.ScratchAtomic := by
  intro s o n h ha hb hc hw hn _ _
  subst hn
  intro ea old hal hr hs ht
  refine ⟨samoState s o, samoOp_stores h ha hb hc hw hal hr hs ht false,
    onlyScratch_trans (onlyScratch_spadStore ..) (onlyScratch_setTh ..),
    fun u hu => (thread_setThread _ _ u _).trans (if_neg hu), ?flags, fun hop => ?noEvent, ?element, fun a hout => ?bytes, fun a => ?tags,
    samoOp_stores h ha hb hc hw hal hr hs ht true⟩
  case flags => rw [samoState, th_raise]; rfl
  case noEvent =>
    rw [samoState, th_raise, samoResult, samoValue_flags hop]
    exact BitVec.or_zero
  case element => exact (elementAt_spadStore s ea.toNat _ _ false).trans (ofNat_samoValue (bytes_pos _) _ _ _ _)
  case bytes =>
    rw [samoState, cc_raise, byte_spadStore, length_natToBytes]
    exact if_neg (by rw [not_and_or, Nat.not_le, Nat.not_lt]; exact hout)
  case tags =>
    rw [samoState, cc_raise]
    exact tag_spadStore _ _ _ _ (bytes_dvd_block _) (length_natToBytes _ _) hal a

end Sys2Proof.Machine
end

section
/-!
PROOF. LDSV, VGATHS, STSV and VSCATS (07 R103, R106-R108). The 32 bytes of LDSV and STSV are lanes of one byte, at the addresses ea + j:
one argument serves both forms of a load, and one both forms of a store.
-/
namespace Sys2Proof.Machine
open Sys2Proof.Claims

/-! ## The lanes that are active, and where each stands -/

/-- The lanes of w bytes that a mask picks. -/
def picked (m : BitVec 32) (w : Nat) : List Nat := (List.range (32 / w)).filter fun i => active m w i

theorem mem_picked {m : BitVec 32} {w i : Nat} : i ∈ picked m w ↔ i < 32 / w ∧ m.getLsbD (i * w) = true := by
  rw [picked, List.mem_filter, List.mem_range, active]
theorem mem_picked_bytes {m : BitVec 32} {j : Nat} : j ∈ picked m 1 ↔ j < 32 ∧ m.getLsbD j = true := by
  rw [mem_picked, Nat.mul_one]
theorem picked_ascending (m : BitVec 32) (w : Nat) : (picked m w).Pairwise (· < ·) := List.pairwise_lt_range.filter _
theorem contains_picked {m : BitVec 32} {w i : Nat} (h : i < 32 / w) : (picked m w).contains i = m.getLsbD (i * w) := by
  rw [Bool.eq_iff_iff, List.contains_iff_mem, mem_picked]
  exact ⟨And.right, fun hm => ⟨h, hm⟩⟩

theorem activeBytes_eq_picked (s : State) (m : SpadMod) : s.activeBytes m = picked (s.th.readM m.mask) 1 := rfl
theorem activeLanes_eq_picked (s : State) (m : SpadMod) : s.activeLanes m = picked (s.th.readM m.mask) (Width.bytes m.w) := rfl

/-- The index lane of R106, read as a number or as bits. -/
theorem laneAddr_eq_eaLane (s : State) (o : Fmt SpadMod) {w : Nat} (hw : 4 ≤ w) (i : Nat) :
    laneAddr w (s.read o.imm o.a) (s.read o.imm o.b) o.imm i = eaLane s o w i := by
  have hindex : BitVec.ofNat 32 (lane w (s.read o.imm o.b).val i) = ((s.read o.imm o.b).val >>> (8 * w * i)).setWidth 32 := by
    refine BitVec.eq_of_getLsbD_eq fun j hj => ?_
    rw [BitVec.getLsbD_ofNat, BitVec.getLsbD_setWidth, BitVec.getLsbD_ushiftRight, lane, bits, Nat.testBit_mod_two_pow,
      Nat.testBit_div_two_pow, decide_eq_true (by omega : j < 8 * w), Bool.true_and, Nat.add_comm j, BitVec.getLsbD]
  rw [laneAddr, hindex]
  rfl

theorem wide_bytes {w : Width} (h : wideWidth w = true) : 4 ≤ Width.bytes w := by
  cases w
  case w8 | w16 => exact absurd h (by decide)
  case w32 | w64 => decide

/-! ## What a masked load gives -/

/-- The register of a load: lane i read at its address where it is active, and kept otherwise. -/
def gathered (s : State) (m : BitVec 32) (w : Nat) (ad : Nat → Word) (old : VWord) : VWord :=
  packLanes w ((List.range (32 / w)).map fun i => if (picked m w).contains i then s.spadNat (ad i).toNat w else lane w old i)
/-- Its B: of what is kept, and of every block that is read (R107). -/
def gatheredB (s : State) (m : BitVec 32) (w : Nat) (ad : Nat → Word) (old : Bool) : Bool :=
  (picked m w).any (fun i => tagB (s.cc.tag (ad i).toNat)) || old

section
variable (s : State) (m : BitVec 32) {w : Nat} (ad : Nat → Word)

theorem byte_gathered (old : VWord) {i k : Nat} (hi : i < 32 / w) (hk : k < w) :
    (gathered s m w ad old >>> (8 * (w * i + k))).setWidth 8
      = if m.getLsbD (i * w) then s.cc.byte ((ad i).toNat + k) else (old >>> (8 * (w * i + k))).setWidth 8 := by
  rw [gathered, byte_packLanes (by simpa using Nat.mul_div_le 32 w) (by simpa using hi) hk, List.getElem_map, List.getElem_range,
    contains_picked hi]
  split
  · exact ofNat_spadNat_byte s _ hk
  · exact ofNat_lane_byte hk old i

theorem gatheredB_iff (old : Bool) : gatheredB s m w ad old = true ↔
    old = true ∨ ∃ i, i < 32 / w ∧ m.getLsbD (i * w) = true ∧ (s.cc.tag (ad i).toNat).msb = true := by
  rw [gatheredB, Bool.or_eq_true, List.any_eq_true, or_comm]
  simp only [mem_picked, msb_eq_tagB, and_assoc]

end

/-- The kept register, where it is read and where it is not. -/
theorem spadOld_ok {s : State} {m : SpadMod} {d : Fin 32} (h : keptPresent s m d) (imm : BitVec 32) :
    ∃ a, s.spadOld m (.v d) imm = .ok a ∧ a.val = (keptV s m d).1 ∧ a.b = (keptV s m d).2 := by
  by_cases hk : m.zm = false ∧ m.mask ≠ 0
  · obtain ⟨hz, hm⟩ := hk
    have hst : (s.th.readV d).st = .present := h ⟨hz, hm⟩
    refine ⟨(s.th.readV d).src, ?_, ?_, ?_⟩
    · simp [State.spadOld, hz, hm, State.read, RCell.src, firstFault, hst]
    · simp [keptV, hz, hm, RCell.src]
    · simp [keptV, hz, hm, RCell.src]
  · have hoff : m.zm = true ∨ m.mask = 0 := by rwa [not_and_or, Bool.not_eq_false, not_not] at hk
    refine ⟨.present 0, ?_, ?_, ?_⟩ <;> obtain hz | hm := hoff <;> simp [State.spadOld, keptV, Src.present, *]

/-! ## LDSV and VGATHS -/

/-- The elements of a load that are active pass its checks. -/
def LoadPasses (s : State) (m : BitVec 32) (w : Nat) (ad : Nat → Word) : Prop :=
  ∀ i, i < 32 / w → m.getLsbD (i * w) = true →
    (ad i).toNat % w = 0 ∧ reaches s (ad i).toNat false ∧ sound s (ad i).toNat w

theorem spadLoad_picked {s : State} {m : BitVec 32} {w : Nat} {ad : Nat → Word} (h : LoadPasses s m w ad) :
    s.spadLoad ((picked m w).map ad) w w = .ok ((picked m w).any fun i => tagB (s.cc.tag (ad i).toNat)) := by
  have hall : ∀ a ∈ (picked m w).map ad, a.toNat % w = 0 ∧ reaches s a.toNat false ∧ sound s a.toNat w := by
    intro a ha
    obtain ⟨i, hi, rfl⟩ := List.mem_map.mp ha
    obtain ⟨hlt, hon⟩ := mem_picked.mp hi
    exact h i hlt hon
  rw [spadLoad_ok hall, List.any_map]
  rfl

/-- The address of byte j of LDSV and STSV. -/
def byteAddr (s : State) (o : Fmt SpadMod) (j : Nat) : Word := eaOf s o + BitVec.ofNat 64 j

/-- Where every active byte has the base aligned, the check of the base passes. -/
theorem failIf_base_ok {m : BitVec 32} {a : Word} (h : ∀ j, j < 32 → m.getLsbD j = true → a.toNat % 8 = 0) (cause : Nat) :
    failIf (!(picked m 1).isEmpty && decide (a.toNat % 8 ≠ 0)) cause a = .ok () := by
  have hpass : (!(picked m 1).isEmpty && decide (a.toNat % 8 ≠ 0)) = false := by
    cases hp : picked m 1 with
    | nil => rfl
    | cons j l =>
      obtain ⟨hlt, hon⟩ := mem_picked_bytes.mp (hp ▸ List.mem_cons_self)
      simp [h j hlt hon]
  rw [hpass]
  rfl

section
variable {s : State} {o : Fmt SpadMod} {d : Fin 32} (h : s.Issues o) (ha : s.bitA o = false) (hb : s.bitB o = false)
  (hw : unwatched s) (hd : o.d = .v d) (hk : keptPresent s o.mod d)
include h ha hb hw hd hk

theorem execLdsv_lands (hal : ∀ j, j < 32 → (s.th.readM o.mod.mask).getLsbD j = true → (eaOf s o).toNat % 8 = 0)
    (hp : LoadPasses s (s.th.readM o.mod.mask) 1 (byteAddr s o)) :
    exec (.ldsv o) s = .next (s.land o.d (gathered s (s.th.readM o.mod.mask) 1 (byteAddr s o) (keptV s o.mod d).1)
      (gatheredB s (s.th.readM o.mod.mask) 1 (byteAddr s o) (keptV s o.mod d).2) 4) := by
  obtain ⟨old, hold, hval, hbit⟩ := spadOld_ok hk o.imm
  refine slot_sources_ok h.on h ?_
  dsimp only
  rw [hd, hold, noBounded_ok (base_unbounded ha hb), effAddr_eq_eaOf, activeBytes_eq_picked, failIf_base_ok hal,
    show (fun j => eaOf s o + BitVec.ofNat 64 j) = byteAddr s o from rfl]
  dsimp only [bind, Except.bind]
  rw [spadLoad_picked hp, watchAll_of_unwatched hw, gathered, gatheredB, ← hval, ← hbit]
  simp only [spadNat_one]
  rfl

theorem execVgaths_lands (hwide : wideWidth o.mod.w = true)
    (hp : LoadPasses s (s.th.readM o.mod.mask) (Width.bytes o.mod.w) (eaLane s o (Width.bytes o.mod.w))) :
    exec (.vgaths o) s = .next (s.land o.d
      (gathered s (s.th.readM o.mod.mask) (Width.bytes o.mod.w) (eaLane s o (Width.bytes o.mod.w)) (keptV s o.mod d).1)
      (gatheredB s (s.th.readM o.mod.mask) (Width.bytes o.mod.w) (eaLane s o (Width.bytes o.mod.w)) (keptV s o.mod d).2) 4) := by
  obtain ⟨old, hold, hval, hbit⟩ := spadOld_ok hk o.imm
  refine slot_sources_ok h.on h ?_
  dsimp only
  rw [hd, hold, noBounded_ok (base_unbounded ha hb), activeLanes_eq_picked]
  dsimp only [bind, Except.bind]
  rw [funext (laneAddr_eq_eaLane s o (wide_bytes hwide)), spadLoad_picked hp, watchAll_of_unwatched hw, gathered, gatheredB,
    ← hval, ← hbit]

end

theorem scratchVectorLoad : ScratchVectorLoad := by
  intro s o d hd h ha hb hw hk
  refine ⟨fun hp => ?bytes, ?lanes⟩
  case bytes =>
    have hpass : LoadPasses s (s.th.readM o.mod.mask) 1 (byteAddr s o) := fun j hj hon =>
      ⟨Nat.mod_one _, (hp j hj (Nat.mul_one j ▸ hon)).2⟩
    refine ⟨_, _, execLdsv_lands h ha hb hw hd hk (fun j hj hon => (hp j hj hon).1) hpass, fun j hj => ?_, ?_⟩
    · simpa only [Nat.one_mul, Nat.mul_one, Nat.add_zero, byteAddr] using
        byte_gathered s (s.th.readM o.mod.mask) (byteAddr s o) (keptV s o.mod d).1 hj Nat.one_pos
    · simpa only [Nat.mul_one, Nat.div_one, byteAddr] using
        gatheredB_iff s (s.th.readM o.mod.mask) (w := 1) (byteAddr s o) (keptV s o.mod d).2
  case lanes =>
    rintro w rfl hwide hp
    exact ⟨_, _, execVgaths_lands h ha hb hw hd hk hwide hp, fun i k hi hk => byte_gathered s _ _ _ hi hk, gatheredB_iff s _ _ _⟩

/-! ## What the lanes of a store leave -/

/-- The lanes of a list stored one after the other, lane i of a register at its address. -/
def storeLanes (s : State) (w : Nat) (ad : Nat → Word) (v : VWord) (b : Bool) (l : List Nat) : State :=
  l.foldl (fun t i => t.spadStore (ad i).toNat (natToBytes w (lane w v i)) b) s

section
variable {w : Nat} {ad : Nat → Word} (v : VWord) (b : Bool)

theorem storeLanes_cons (s : State) (i : Nat) (l : List Nat) : storeLanes s w ad v b (i :: l)
    = storeLanes (s.spadStore (ad i).toNat (natToBytes w (lane w v i)) b) w ad v b l := rfl

theorem onlyScratch_storeLanes (s : State) (l : List Nat) : OnlyScratch s (storeLanes s w ad v b l) := by
  induction l generalizing s with
  | nil => exact onlyScratch_refl s
  | cons i l ih => exact onlyScratch_trans (onlyScratch_spadStore ..) (ih _)

theorem threads_storeLanes (s : State) (l : List Nat) : (storeLanes s w ad v b l).threads = s.threads := by
  induction l generalizing s with
  | nil => rfl
  | cons i l ih => exact ih _

/-- A byte outside every stored element is as before. -/
theorem byte_storeLanes_outside (s : State) {l : List Nat} {x : Nat}
    (h : ∀ i ∈ l, x < (ad i).toNat ∨ (ad i).toNat + w ≤ x) : (storeLanes s w ad v b l).cc.byte x = s.cc.byte x := by
  induction l generalizing s with
  | nil => rfl
  | cons i l ih =>
    have hi := h i List.mem_cons_self
    rw [storeLanes_cons, ih _ fun j hj => h j (List.mem_cons_of_mem i hj), byte_spadStore, length_natToBytes, if_neg (by omega)]

/-- A byte of an element holds what the last lane that names the element stored. -/
theorem byte_storeLanes_last (s : State) {l : List Nat} (hasc : l.Pairwise (· < ·)) (hal : ∀ i ∈ l, (ad i).toNat % w = 0)
    {i k : Nat} (hi : i ∈ l) (hlast : ∀ j ∈ l, i < j → ad j ≠ ad i) (hk : k < w) :
    (storeLanes s w ad v b l).cc.byte ((ad i).toNat + k) = (v >>> (8 * (w * i + k))).setWidth 8 := by
  induction l generalizing s with
  | nil => exact absurd hi List.not_mem_nil
  | cons j l ih =>
    obtain ⟨hfirst, hrest⟩ := List.pairwise_cons.mp hasc
    rw [storeLanes_cons]
    by_cases hmem : i ∈ l
    · exact ih _ hrest (fun n hn => hal n (List.mem_cons_of_mem j hn)) hmem fun n hn => hlast n (List.mem_cons_of_mem j hn)
    · obtain rfl : i = j := (List.mem_cons.mp hi).resolve_right hmem
      have hout : ∀ n ∈ l, (ad i).toNat + k < (ad n).toNat ∨ (ad n).toNat + w ≤ (ad i).toNat + k := by
        intro n hn
        by_contra hin
        have hsame := element_unique (hal n (List.mem_cons_of_mem i hn)) (hal i hi) (x := (ad i).toNat + k) (by omega) (by omega)
        exact hlast n (List.mem_cons_of_mem i hn) (hfirst n hn) (BitVec.eq_of_toNat_eq hsame)
      rw [byte_storeLanes_outside v b _ hout, byte_spadStore, length_natToBytes, if_pos (by omega), Nat.add_sub_cancel_left,
        getD_natToBytes hk, ofNat_lane_byte hk]

/-- The tag of a block that an element lies in changes once, as R103 says; no other tag changes. -/
theorem tag_storeLanes (s : State) {l : List Nat} (hw : w ∣ 64) (hal : ∀ i ∈ l, (ad i).toNat % w = 0) (x : Nat) :
    ((∃ i ∈ l, (ad i).toNat / 64 = x / 64) → (storeLanes s w ad v b l).cc.tag x = tagAfter (s.cc.tag x) b)
      ∧ ((¬ ∃ i ∈ l, (ad i).toNat / 64 = x / 64) → (storeLanes s w ad v b l).cc.tag x = s.cc.tag x) := by
  induction l generalizing s with
  | nil => exact ⟨fun ⟨i, hi, _⟩ => absurd hi List.not_mem_nil, fun _ => rfl⟩
  | cons i l ih =>
    have hfirst := tag_spadStore s (ad i).toNat (natToBytes w (lane w v i)) b hw (length_natToBytes _ _) (hal i List.mem_cons_self) x
    obtain ⟨htouched, hleft⟩ := ih (s.spadStore (ad i).toNat (natToBytes w (lane w v i)) b) fun j hj =>
      hal j (List.mem_cons_of_mem i hj)
    simp only [List.exists_mem_cons_iff, storeLanes_cons]
    refine ⟨fun hin => ?_, fun hout => ?_⟩
    · by_cases hrest : ∃ j ∈ l, (ad j).toNat / 64 = x / 64
      · rw [htouched hrest, hfirst]
        split
        · exact tagAfter_twice _ b
        · rfl
      · rw [hleft hrest, hfirst, if_pos (hin.resolve_right hrest).symm]
    · obtain ⟨hne, hrest⟩ := not_or.mp hout
      rw [hleft hrest, hfirst, if_neg (Ne.symm hne)]

end

/-! ## STSV and VSCATS -/

/-- The elements of a store that are active pass its checks. -/
def StorePasses (s : State) (m : BitVec 32) (w : Nat) (ad : Nat → Word) : Prop :=
  ∀ i, i < 32 / w → m.getLsbD (i * w) = true → (ad i).toNat % w = 0 ∧ reaches s (ad i).toNat true

theorem spadCheck_picked {s : State} {m : BitVec 32} {w : Nat} {ad : Nat → Word} (h : StorePasses s m w ad) :
    s.spadCheck ((picked m w).map ad) w true = .ok () := by
  have hall : ∀ a ∈ (picked m w).map ad, a.toNat % w = 0 ∧ reaches s a.toNat true := by
    intro a ha
    obtain ⟨i, hi, rfl⟩ := List.mem_map.mp ha
    obtain ⟨hlt, hon⟩ := mem_picked.mp hi
    exact h i hlt hon
  exact spadCheck_ok (fun a ha => (hall a ha).1) fun a ha => (hall a ha).2

/-- The words of STSV whose eight bytes are all active. -/
def wholeWords (l : List Nat) : List Nat := (List.range 4).filter fun k => (List.range 8).all fun i => l.contains (8 * k + i)
/-- The words that STSV covers whole are marked no more (log 88). -/
def healWords (s : State) (a : Nat) (l : List Nat) : State := s.setCc (l.foldl (fun c k => c.heal (a + 8 * k) 8) s.cc)

theorem foldl_heal (c : CoreCtx) (a : Nat) (l : List Nat) : l.foldl (fun c k => c.heal (a + 8 * k) 8) c
    = { c with badWords := (l.foldl (fun c k => c.heal (a + 8 * k) 8) c).badWords } := by
  induction l generalizing c with
  | nil => rfl
  | cons k l ih =>
    rw [List.foldl_cons, ih]
    rfl

section
variable (s : State) (a : Nat) (l : List Nat)

theorem cc_healWords : (healWords s a l).cc = { s.cc with badWords := (healWords s a l).cc.badWords } := by
  rw [healWords, cc_setCc]
  exact foldl_heal s.cc a l
theorem byte_healWords (x : Nat) : (healWords s a l).cc.byte x = s.cc.byte x := by
  rw [cc_healWords]
  rfl
theorem tag_healWords (x : Nat) : (healWords s a l).cc.tag x = s.cc.tag x := by
  rw [cc_healWords]
  rfl
theorem onlyScratch_healWords : OnlyScratch s (healWords s a l) := by
  refine onlyScratch_setCc ?_
  rw [foldl_heal]

end

section
variable {s : State} {o : Fmt SpadMod} (h : s.Issues o) (ha : s.bitA o = false) (hb : s.bitB o = false) (hw : unwatched s)
include h ha hb hw

theorem execStsv_stores (hal : ∀ j, j < 32 → (s.th.readM o.mod.mask).getLsbD j = true → (eaOf s o).toNat % 8 = 0)
    (hp : StorePasses s (s.th.readM o.mod.mask) 1 (byteAddr s o)) :
    exec (.stsv o) s = .next (healWords (storeLanes s 1 (byteAddr s o) (s.read o.imm o.c).val (s.bitC o)
      (picked (s.th.readM o.mod.mask) 1)) (eaOf s o).toNat (wholeWords (picked (s.th.readM o.mod.mask) 1))) := by
  refine slot_sources_ok h.on h ?_
  dsimp only
  rw [noBounded_ok (base_unbounded ha hb), effAddr_eq_eaOf, activeBytes_eq_picked, failIf_base_ok hal,
    show (fun j => eaOf s o + BitVec.ofNat 64 j) = byteAddr s o from rfl, spadCheck_picked hp, watchAll_of_unwatched hw]
  rfl

theorem execVscats_stores (hwide : wideWidth o.mod.w = true)
    (hp : StorePasses s (s.th.readM o.mod.mask) (Width.bytes o.mod.w) (eaLane s o (Width.bytes o.mod.w))) :
    exec (.vscats o) s = .next (storeLanes s (Width.bytes o.mod.w) (eaLane s o (Width.bytes o.mod.w)) (s.read o.imm o.c).val (s.bitC o)
      (picked (s.th.readM o.mod.mask) (Width.bytes o.mod.w))) := by
  refine slot_sources_ok h.on h ?_
  dsimp only
  rw [noBounded_ok (base_unbounded ha hb), activeLanes_eq_picked, funext (laneAddr_eq_eaLane s o (wide_bytes hwide)), spadCheck_picked hp,
    watchAll_of_unwatched hw]
  rfl

end

/-- The addresses of the 32 bytes differ. -/
theorem byteAddr_injective {s : State} {o : Fmt SpadMod} {i j : Nat} (hi : i < 32) (hj : j < 32)
    (h : byteAddr s o i = byteAddr s o j) : i = j := by
  unfold byteAddr at h
  bv_omega

theorem scratchVectorStore : ScratchVectorStore := by
  intro s o h ha hb hw
  refine ⟨fun hp => ?bytes, ?lanes⟩
  case bytes =>
    have hal : ∀ j ∈ picked (s.th.readM o.mod.mask) 1, (byteAddr s o j).toNat % 1 = 0 := fun _ _ => Nat.mod_one _
    have hpass : StorePasses s (s.th.readM o.mod.mask) 1 (byteAddr s o) := fun j hj hon =>
      ⟨Nat.mod_one _, (hp j hj (Nat.mul_one j ▸ hon)).2⟩
    refine ⟨_, execStsv_stores h ha hb hw (fun j hj hon => (hp j hj hon).1) hpass,
      onlyScratch_trans (onlyScratch_storeLanes ..) (onlyScratch_healWords ..), threads_storeLanes .., fun j hj hon => ?_, fun a hout => ?_,
      fun a => ?_⟩
    · have hlast : ∀ i ∈ picked (s.th.readM o.mod.mask) 1, j < i → byteAddr s o i ≠ byteAddr s o j := fun i hi hji he =>
        absurd (byteAddr_injective (mem_picked_bytes.mp hi).1 hj he) (Nat.ne_of_gt hji)
      rw [byte_healWords]
      simpa only [Nat.one_mul, Nat.add_zero, byteAddr] using
        byte_storeLanes_last (s.read o.imm o.c).val (s.bitC o) s (picked_ascending _ _) hal (mem_picked_bytes.mpr ⟨hj, hon⟩) hlast
          Nat.one_pos
    · rw [byte_healWords]
      refine byte_storeLanes_outside _ _ s fun j hj => ?_
      have hne : a ≠ (byteAddr s o j).toNat := hout j (mem_picked_bytes.mp hj).1 (mem_picked_bytes.mp hj).2
      omega
    · have htag := tag_storeLanes (s.read o.imm o.c).val (s.bitC o) s (one_dvd 64) hal a
      simpa only [mem_picked_bytes, and_assoc, tag_healWords, byteAddr] using htag
  case lanes =>
    rintro w rfl hwide hp
    have hal : ∀ i ∈ picked (s.th.readM o.mod.mask) (Width.bytes o.mod.w),
        (eaLane s o (Width.bytes o.mod.w) i).toNat % Width.bytes o.mod.w = 0 :=
      fun i hi => (hp i (mem_picked.mp hi).1 (mem_picked.mp hi).2).1
    refine ⟨_, execVscats_stores h ha hb hw hwide hp, onlyScratch_storeLanes .., threads_storeLanes .., fun i k hi hk hon hlast => ?_,
      fun a hout => ?_, fun a => ?_⟩
    · exact byte_storeLanes_last _ _ s (picked_ascending _ _) hal (mem_picked.mpr ⟨hi, hon⟩)
        (fun j hj hij => hlast j hij (mem_picked.mp hj).1 (mem_picked.mp hj).2) hk
    · exact byte_storeLanes_outside _ _ s fun i hi => hout i (mem_picked.mp hi).1 (mem_picked.mp hi).2
    · have htag := tag_storeLanes (s.read o.imm o.c).val (s.bitC o) s (bytes_dvd_block _) hal a
      simpa only [mem_picked, and_assoc] using htag

/-- Settles O22: an access touches the active lanes alone, each at its own address; a store touches them in ascending order, so the
highest of those that name one element stands. -/
theorem scratchVectorAccess : Obligations.ScratchVectorAccess := ⟨scratchVectorLoad, scratchVectorStore⟩

end Sys2Proof.Machine
end

section
/-!
PROOF. The FUTURE instructions (08 R122, R123): what each answers to the state of the register that it names.
-/
namespace Sys2Proof.Machine

/-! ## FTEST (R123) -/

section
variable {s : State} {o : Fmt Bool}

/-- What FTEST asks of the state of its register. -/
def testHolds (o : Fmt Bool) (st : RState) : Prop :=
  o.mod = false ∧ st ≠ .pending ∨ o.mod = true ∧ ∃ c v, st = .faulted c v

theorem execFtest_of_holds (hp : s.predOn o.pred = true) (h : testHolds o (s.read o.imm o.a).st) :
    exec (.ftest o) s = .next (s.land o.d 1 false 1) := by
  refine (slot_ok hp _).trans ?_
  obtain ⟨hm, hst⟩ | ⟨hm, c, v, hst⟩ := h
  · simp [hm, bne_iff_ne.mpr hst]
  · simp [hm, hst]

theorem execFtest_of_not_holds (hp : s.predOn o.pred = true) (h : ¬ testHolds o (s.read o.imm o.a).st) :
    exec (.ftest o) s = .next (s.land o.d 0 false 1) := by
  refine (slot_ok hp _).trans ?_
  cases hm : o.mod
  · have hst : (s.read o.imm o.a).st = .pending := by_contra fun hst => h (.inl ⟨hm, hst⟩)
    simp [hst]
  · cases hst : (s.read o.imm o.a).st with
    | faulted c v => exact absurd (.inr ⟨hm, c, v, hst⟩) h
    | present | pending => rfl

end

/-! ## FWAIT, FCANCEL and FMOVC (R123) -/

section
variable {s : State} {o : Fmt Unit} (hp : s.predOn o.pred = true)
include hp

theorem execFwait_goes_on (ha : (s.read o.imm o.a).st ≠ .pending) (hb : (s.read o.imm o.b).st ≠ .pending)
    (hc : (s.read o.imm o.c).st ≠ .pending) : exec (.fwait o) s = .next s := by
  refine Eq.trans ?_ (slot_ok hp s)
  exact congrArg (s.slot o.pred) (if_neg (by simp [ha, hb, hc]))

theorem execFwait_parks (h : (s.read o.imm o.a).st = .pending ∨ (s.read o.imm o.b).st = .pending
    ∨ (s.read o.imm o.c).st = .pending) : exec (.fwait o) s = .next (s.park .none) := by
  refine Eq.trans ?_ (slot_park hp .none)
  exact congrArg (s.slot o.pred) (if_pos (by simpa using h))

theorem execFcancel_not_pending (ha : (s.read o.imm o.a).st ≠ .pending) : exec (.fcancel o) s = .next s :=
  (congrArg (s.slot o.pred) (if_neg ha)).trans (slot_ok hp s)

theorem execFcancel_marks {p : Op} (ha : (s.read o.imm o.a).st = .pending) (hb : s.boundOp o.a = some p) :
    exec (.fcancel o) s = .next (s.setOp { p with cancelled := true }) := by
  refine Eq.trans (congrArg (s.slot o.pred) ?_) (slot_ok hp _)
  rw [if_pos ha, hb]

variable {n : Fin 8} {m : Fin 32} (hd : o.d = .c n) (ha : o.a = .x m)
include hd ha

theorem execFmovc_parks (hn : (s.cc.readC n).st = .pending) : exec (.fmovc o) s = .next (s.park .none) := by
  refine Eq.trans (congrArg (s.slot o.pred) ?_) (slot_park hp .none)
  rw [hd, ha]
  exact if_pos hn

/-- The slot with a register that may be written and an x register as source; `t` is the state with its binding moved. -/
theorem execFmovc_moves (hn : (s.cc.readC n).st ≠ .pending) {t : State}
    (ht : (if (s.th.readX m).st = .pending then
        match s.boundOp o.a with
        | some p => s.setOp { p with dest := some (.c n) }
        | none => s
      else s) = t) :
    exec (.fmovc o) s = .next { t with iss := { t.iss with post := t.iss.post ++ [.store n (s.th.readX m), .clear m] } } := by
  refine Eq.trans (congrArg (s.slot o.pred) ?_) (slot_ok hp _)
  subst ht
  rw [hd, ha]
  exact if_neg hn

end

/-- Settles O35: each of the four reads the state of its register and answers it with its own next state. -/
theorem futureInstructions : Obligations.FutureInstructions := by
  intro s f o n m p
  refine ⟨fun hf => ⟨execFtest_of_holds hf, fun h => execFtest_of_not_holds hf ?_⟩, fun hp => ?_⟩
  · rintro (⟨hm, hst⟩ | ⟨hm, c, v, hst⟩) <;> simp_all
  · refine ⟨execFwait_goes_on hp, execFwait_parks hp, execFcancel_not_pending hp, execFcancel_marks hp, ?_, ?_,
      fun hd hn ha => execFmovc_parks hp hd ha hn⟩
    · intro hd ha hn hm
      exact execFmovc_moves hp hd ha hn (if_neg hm)
    · intro hd ha hn hm hb
      exact execFmovc_moves hp hd ha hn (by rw [if_pos hm, hb])

end Sys2Proof.Machine
end

section
/-!
PROOF. Access to the CSRs (08 R129; 23 R346): the words that CSRs read as and keep, which numbers read and write, and what CSRR, CSRW
and CSRX make of a number.
-/
namespace Sys2Proof.Machine
open Sys2Proof.Claims

/-! ## Words of fields -/

/-- One field is packed. The sums are rewritten step by step with this: the kernel would unfold a product with a high power of 2. -/
theorem foldl_field (a k v : Nat) (l : List (Nat × Nat)) :
    ((k, v) :: l).foldl (fun a f => a + f.2 * 2 ^ f.1) a = l.foldl (fun a f => a + f.2 * 2 ^ f.1) (a + v * 2 ^ k) := rfl

/-- A field above everything that has been packed so far. -/
theorem ofNat_add_field {a k : Nat} (h : a < 2 ^ k) (v : Nat) :
    BitVec.ofNat 64 (a + v * 2 ^ k) = (BitVec.ofNat 64 v <<< k) ||| BitVec.ofNat 64 a := by
  have hsum : a + v * 2 ^ k = v <<< k ||| a := by rw [← Nat.shiftLeft_add_eq_or_of_lt h, Nat.shiftLeft_eq]; omega
  have hshift : BitVec.ofNat 64 v <<< k = BitVec.ofNat 64 (v <<< k) := by
    apply BitVec.eq_of_toNat_eq
    simp [Nat.shiftLeft_eq, Nat.mod_mul_mod]
  rw [hsum, hshift, BitVec.ofNat_or]

/-- A field of one bit, whose word is given. -/
theorem ofNat_toNat_shiftLeft (b : Bool) {k : Nat} {w : Word} (h : 1#64 <<< k = w) :
    BitVec.ofNat 64 b.toNat <<< k = if b then w else 0 := by
  cases b
  · simp
  · exact h

/-- The fields of TSTAT (R153). -/
theorem tstat_eq (t : Thread) : t.tstat = ((t.ien.setWidth 64 <<< 32) ||| (t.lbn.setWidth 64 <<< 4) ||| (if t.pie then 8 else 0)
    ||| (if t.ie then 4 else 0) ||| (if t.phm then 2 else 0) ||| (if t.hm then 1 else 0)) := by
  have hhm := Bool.toNat_lt t.hm
  have hphm := Bool.toNat_lt t.phm
  have hie := Bool.toNat_lt t.ie
  have hpie := Bool.toNat_lt t.pie
  have hlbn : t.lbn.toNat < 8 := t.lbn.isLt
  rw [Thread.tstat, packFields, foldl_field, foldl_field, foldl_field, foldl_field, foldl_field, foldl_field, List.foldl_nil,
    ofNat_add_field (k := 32) (by omega), ofNat_add_field (k := 4) (by omega), ofNat_add_field (k := 3) (by omega),
    ofNat_add_field (k := 2) (by omega), ofNat_add_field (k := 1) (by omega), ofNat_add_field (k := 0) (by omega),
    BitVec.ofNat_toNat, BitVec.ofNat_toNat, ofNat_toNat_shiftLeft t.pie (w := 8) (by decide),
    ofNat_toNat_shiftLeft t.ie (w := 4) (by decide), ofNat_toNat_shiftLeft t.phm (w := 2) (by decide),
    ofNat_toNat_shiftLeft t.hm (w := 1) (by decide)]
  simp only [BitVec.or_assoc, BitVec.or_zero]

theorem pendingInt_five (s : State) (t : Thread) :
    s.pendingInt t 5 = true ↔ t.cyccmp ≠ 0 ∧ t.cyccmp.toNat ≤ s.cycle.toNat := by
  simp [State.pendingInt]
theorem pendingInt_seven (s : State) (t : Thread) :
    s.pendingInt t 7 = true ↔ t.icmp ≠ 0 ∧ t.icmp.toNat ≤ t.icount.toNat := by
  simp [State.pendingInt]

/-- The bits of IPEND (R343). -/
theorem ipend_eq (s : State) (t : Thread) : s.ipend t = ((if t.ipDb then 0x2 else 0) ||| (if t.ipDbo then 0x4 else 0)
    ||| (if t.cyccmp ≠ 0 ∧ t.cyccmp.toNat ≤ s.cycle.toNat then 0x20 else 0)
    ||| (if t.icmp ≠ 0 ∧ t.icmp.toNat ≤ t.icount.toNat then 0x80 else 0)
    ||| (if t.ipPrq then 0x200 else 0) ||| (if t.ipDbg then 0x800 else 0)) := by
  have hdb := Bool.toNat_lt t.ipDb
  have hdbo := Bool.toNat_lt t.ipDbo
  have h5 := Bool.toNat_lt (s.pendingInt t 5)
  have h7 := Bool.toNat_lt (s.pendingInt t 7)
  have hprq := Bool.toNat_lt t.ipPrq
  rw [State.ipend, packFields, foldl_field, foldl_field, foldl_field, foldl_field, foldl_field, foldl_field, List.foldl_nil,
    ofNat_add_field (k := 11) (by omega), ofNat_add_field (k := 9) (by omega), ofNat_add_field (k := 7) (by omega),
    ofNat_add_field (k := 5) (by omega), ofNat_add_field (k := 2) (by omega), ofNat_add_field (k := 1) (by omega),
    ofNat_toNat_shiftLeft t.ipDbg (w := 0x800) (by decide), ofNat_toNat_shiftLeft t.ipPrq (w := 0x200) (by decide),
    ofNat_toNat_shiftLeft (s.pendingInt t 7) (w := 0x80) (by decide),
    ofNat_toNat_shiftLeft (s.pendingInt t 5) (w := 0x20) (by decide), ofNat_toNat_shiftLeft t.ipDbo (w := 4) (by decide),
    ofNat_toNat_shiftLeft t.ipDb (w := 2) (by decide)]
  simp only [pendingInt_five, pendingInt_seven, BitVec.or_zero]
  ac_rfl

/-- The fields of XBINJ, one above the other (R206). -/
theorem low_eighteen (v : Word) : BitVec.ofNat 64 (v.toNat % 2 ^ 16 + bits v.toNat 16 2 * 2 ^ 16) = v &&& 0x3FFFF := by
  have hsum : v.toNat % 2 ^ 16 + bits v.toNat 16 2 * 2 ^ 16 = v.toNat &&& 2 ^ 18 - 1 := by
    rw [Nat.and_two_pow_sub_one_eq_mod, bits]
    omega
  rw [hsum, BitVec.ofNat_and, BitVec.ofNat_toNat, BitVec.setWidth_eq]
  rfl

theorem bit_thirtyOne (v : Word) : BitVec.ofNat 64 (bits v.toNat 31 1) <<< 31 = v &&& 0x80000000 := by
  have hbit : bits v.toNat 31 1 = (v.getLsbD 31).toNat := by
    rw [BitVec.getLsbD, Nat.toNat_testBit]
    rfl
  have hmask : v &&& 0x80000000 = if v.getLsbD 31 then 0x80000000 else 0 := BitVec.and_twoPow v 31
  rw [hbit, hmask]
  exact ofNat_toNat_shiftLeft _ (by decide)

/-- What XBINJ keeps of a word (R206). -/
theorem xbinjOf_eq (v : Word) :
    xbinjOf v = (v &&& 0x3FFFF) ||| (if v.setWidth 16 = 0 then 0 else v &&& 0x80000000) := by
  have hn : v.setWidth 16 = 0 ↔ v.toNat % 2 ^ 16 = 0 := by
    rw [← BitVec.toNat_inj, BitVec.toNat_setWidth]; rfl
  have hlow : v.toNat % 2 ^ 16 + bits v.toNat 16 2 * 2 ^ 16 < 2 ^ 31 := by
    rw [bits]
    omega
  have hfields : xbinjOf v = BitVec.ofNat 64 (packFields [(0, v.toNat % 2 ^ 16), (16, bits v.toNat 16 2),
    (31, if v.toNat % 2 ^ 16 = 0 then 0 else bits v.toNat 31 1)]) := rfl
  rw [hfields, packFields, foldl_field, foldl_field, foldl_field, List.foldl_nil, Nat.zero_add, Nat.pow_zero, Nat.mul_one,
    ofNat_add_field hlow, low_eighteen, BitVec.or_comm]
  simp only [hn]
  split
  · rfl
  · rw [bit_thirtyOne]

/-- What TVEC keeps of a word: whole lines (R153). -/
theorem ushiftRight_six_shiftLeft (v : Word) : v >>> 6 <<< 6 = v &&& ~~~ 63 := BitVec.shiftLeft_ushiftRight

/-! ## Which numbers read and which write (R346) -/

section
variable {s : State}

/-- The CSRs of a row of single numbers: what one that is neither of the trap registers nor a delay count reads as does not depend on
the mode. -/
theorem csrRead_dly {n : Nat} (h : n < 12) : s.csrRead (0x060 + n) = some (SMap.get 0 s.th.dly n) := by
  have htrap : ¬ (2 ≤ 0x060 + n ∧ 0x060 + n ≤ 6) := by omega
  have hdly : 0x060 ≤ 0x060 + n ∧ 0x060 + n ≤ 0x06B := by omega
  simp [State.csrRead, htrap, hdly]

theorem csrRead_trap_task {n : Nat} (hm : s.th.hm = false) (h : 2 ≤ n ∧ n ≤ 6) : s.csrRead n = none := by
  simp [State.csrRead, hm, h]

theorem csrRead_unassigned {n : Nat} (h : unassigned n) : s.csrRead n = none := by
  unfold unassigned at h
  have htrap : ¬ (2 ≤ n ∧ n ≤ 6) := by omega
  have hdly : ¬ (0x060 ≤ n ∧ n ≤ 0x06B) := by omega
  simp only [State.csrRead, htrap, hdly, decide_false, Bool.and_false, Bool.false_eq_true, if_false]
  split
  case h_24 => rfl
  all_goals omega -- the numbers of the table
end

/-- The CSRs that both modes write. -/
def writtenInEither (n : Nat) : Prop :=
  n = 0 ∨ n = 1 ∨ n = 0x009 ∨ n = 0x00A ∨ n = 0x010 ∨ n = 0x031 ∨ n = 0x050
/-- The CSRs that handler mode alone writes. -/
def writtenInHandler (n : Nat) : Prop :=
  n = 2 ∨ n = 3 ∨ n = 4 ∨ n = 5 ∨ n = 6 ∨ n = 8 ∨ n = 0x00B ∨ n = 0x040 ∨ n = 0x06C ∨ 0x060 ≤ n ∧ n ≤ 0x06B

theorem csrWrite_none {t : Thread} {n : Nat} (he : ¬ writtenInEither n) (hh : t.hm = true → ¬ writtenInHandler n) (v : Word) :
    t.csrWrite n v = none := by
  simp only [writtenInEither, not_or] at he
  obtain ⟨h0, h1, h9, hA, h10, h31, h50⟩ := he
  unfold Thread.csrWrite
  rw [if_neg h0, if_neg h1, if_neg h9, if_neg hA, if_neg h10, if_neg h31, if_neg h50]
  cases hm : t.hm
  · rfl
  · have hn := hh hm
    unfold writtenInHandler at hn
    rw [if_neg (by simp), if_neg (by omega)]
    split
    case h_10 => rfl
    all_goals omega -- the numbers of the table

section
variable {t : Thread} (hm : t.hm = true)
include hm

theorem csrWrite_dly {n : Nat} (h : n < 12) (v : Word) :
    t.csrWrite (0x060 + n) v = some { t with dly := SMap.set 0 t.dly n v } := by
  have hdly : 0x060 ≤ 0x060 + n ∧ 0x060 + n ≤ 0x06B := by omega
  unfold Thread.csrWrite
  rw [if_neg (by omega), if_neg (by omega), if_neg (by omega), if_neg (by omega), if_neg (by omega), if_neg (by omega),
    if_neg (by omega), if_neg (by simp [hm]), if_pos hdly, Nat.add_sub_cancel_left]

/-- R149: a write of 0 to STOPMAX is ignored. -/
theorem csrWrite_stopmax (v : Word) :
    t.csrWrite 0x008 v = some { t with stopmax := if v.setWidth 12 = 0 then t.stopmax else v.setWidth 12 } := by
  have hz : v.toNat % 2 ^ 12 = 0 ↔ v.setWidth 12 = 0 := by
    rw [← BitVec.toNat_inj, BitVec.toNat_setWidth]
    rfl
  have hwrite : t.csrWrite 0x008 v = some (if v.toNat % 2 ^ 12 = 0 then t else { t with stopmax := v.setWidth 12 }) := by
    simp [Thread.csrWrite, hm]
  rw [hwrite]
  simp only [hz]
  split <;> rfl

end

/-! ## The three instructions (R129) -/

section
variable {s : State} {o : Fmt Unit} (h : s.Issues o)
include h

theorem csrReads_of_csrRead {n : Nat} {v : Word} (hv : s.csrRead n = some v) : CsrReads s o n v := by
  intro (hn : csrNumber o.imm = n)
  refine Eq.trans (congrArg (s.slot o.pred) ?_) (slot_ok h.on _)
  rw [sources_bind h, hn, hv]

theorem csrr_faults {n : Nat} (hv : s.csrRead n = none) : CsrFaults s o (.csrr o) n := by
  intro (hn : csrNumber o.imm = n)
  refine Eq.trans (congrArg (s.slot o.pred) ?_) (slot_trap h.on _ _)
  rw [sources_bind h, hn, hv]
  rfl

theorem csrw_csrx_fault {n : Nat} (hv : s.th.csrWrite n (s.opA o) = none) :
    CsrFaults s o (.csrw o) n ∧ CsrFaults s o (.csrx o) n := by
  have hstore : s.csrStore n (s.read o.imm o.a).word = none := congrArg (Option.map _) hv
  refine ⟨fun (hn : csrNumber o.imm = n) => ?_, fun (hn : csrNumber o.imm = n) => ?_⟩
  · refine Eq.trans (congrArg (s.slot o.pred) ?_) (slot_trap h.on _ _)
    simp only [sources_bind h, hn, hstore]
    rfl
  · refine Eq.trans (congrArg (s.slot o.pred) ?_) (slot_trap h.on _ _)
    simp only [sources_bind h, hn, hstore]
    cases s.csrRead n <;> rfl

variable (ha : s.bitA o = false)
include ha

/-- CSRW and CSRX of a number whose register is stored. -/
theorem csrw_csrx_store {n : Nat} {t : State} (ht : s.csrStore n (s.opA o) = some t) (hn : csrNumber o.imm = n) :
    exec (.csrw o) s = .next t
      ∧ ∀ v, s.csrRead n = some v → exec (.csrx o) s = .next (t.land o.d (v.setWidth 256) false 1) := by
  have hstore : s.csrStore n (s.read o.imm o.a).word = some t := ht
  have hbound : s.noBounded [s.read o.imm o.a] = .ok () := noBounded_ok (List.forall_mem_singleton.mpr ha)
  refine ⟨?_, fun v hv => ?_⟩
  · refine Eq.trans (congrArg (s.slot o.pred) ?_) (slot_ok h.on _)
    simp only [sources_bind h, hn, hstore, hbound]
    rfl
  · refine Eq.trans (congrArg (s.slot o.pred) ?_) (slot_ok h.on _)
    simp only [sources_bind h, hn, hv, hstore, hbound]
    rfl

theorem csrWrites_of_csrWrite {n : Nat} {t : Thread} (hn : n ≠ 0x009) (ht : s.th.csrWrite n (s.opA o) = some t) :
    CsrWrites s o n t := by
  refine csrw_csrx_store h ha ?_
  rw [State.csrStore, ht]
  exact congrArg some (if_neg hn)

end

/-! ## The two statements -/

theorem csrReads : CsrRead := by
  intro s o h
  have reads : ∀ {n : Nat} {v : Word}, s.csrRead n = some v → CsrReads s o n v := csrReads_of_csrRead h
  refine ⟨reads ?_, reads ?_, reads ?_, reads ?_, reads ?_, reads ?_, reads ?_, reads ?_, reads ?_, reads ?_, reads ?_, reads ?_,
    reads ?_, reads ?_, reads ?_, reads ?_, reads ?_, fun hm => ⟨reads ?_, reads ?_, reads ?_, reads ?_, reads ?_⟩,
    fun hm n h2 h6 => csrr_faults h (csrRead_trap_task hm ⟨h2, h6⟩), reads ?_, fun n hn => reads (csrRead_dly hn),
    fun n hn => csrr_faults h (csrRead_unassigned hn)⟩
  all_goals simp [State.csrRead, tstat_eq, ipend_eq, tsave, *]

/-- The numbers of the constants that a mode may not write, as the statement lists them. -/
theorem task_numbers_not_written {n : Nat} (hn : n ∈ [2, 3, 4, 5, 6, 8, 0x00B, 0x040, 0x06C] ∨ 0x060 ≤ n ∧ n ≤ 0x06B) :
    ¬ writtenInEither n := by
  simp only [List.mem_cons, List.not_mem_nil, or_false] at hn
  unfold writtenInEither
  omega
theorem unassigned_not_written {n : Nat} (hn : unassigned n) : ¬ writtenInEither n ∧ ¬ writtenInHandler n := by
  unfold unassigned at hn
  unfold writtenInEither writtenInHandler
  omega
theorem readOnly_not_written {n : Nat} (hn : n ∈ [7, 0x00C, 0x020, 0x021, 0x022, 0x023, 0x030]) :
    ¬ writtenInEither n ∧ ¬ writtenInHandler n := by
  simp only [List.mem_cons, List.not_mem_nil, or_false] at hn
  unfold writtenInEither writtenInHandler
  omega

theorem csrWrites : CsrWrite := by
  intro s o h ha
  have writes : ∀ {n : Nat} {t : Thread}, n ≠ 0x009 → s.th.csrWrite n (s.opA o) = some t → CsrWrites s o n t :=
    csrWrites_of_csrWrite h ha
  have faults : ∀ {n : Nat}, ¬ writtenInEither n → (s.th.hm = true → ¬ writtenInHandler n) →
      CsrFaults s o (.csrw o) n ∧ CsrFaults s o (.csrx o) n := fun he hh => csrw_csrx_fault h (csrWrite_none he hh _)
  refine ⟨fun hm => writes (by decide) ?_, fun hm => writes (by decide) ?_, writes (by decide) ?_, writes (by decide) rfl,
    writes (by decide) rfl, writes (by decide) rfl, writes (by decide) ?_, fun hn => ?_, fun hm => ?_,
    fun hm n hn => faults (task_numbers_not_written hn) fun hm' => absurd (hm.symm.trans hm') (by decide),
    fun n hn => faults (unassigned_not_written hn).1 fun _ => (unassigned_not_written hn).2,
    fun n hn => faults (readOnly_not_written hn).1 fun _ => (readOnly_not_written hn).2⟩
  · simp [Thread.csrWrite, Thread.writeTstat, hm]
  · simp [Thread.csrWrite, Thread.writeTstat, hm]
  · rw [← ushiftRight_six_shiftLeft]
    rfl
  · rw [← xbinjOf_eq]
    rfl
  · obtain ⟨hcsrw, hcsrx⟩ := csrw_csrx_store h ha (n := 0x009) rfl hn
    exact ⟨_, hcsrw, th_setTh s _, rfl, hcsrx _ (by simp [State.csrRead])⟩
  · refine ⟨writes (by decide) ?_, writes (by decide) ?_, writes (by decide) ?_, writes (by decide) ?_, writes (by decide) ?_,
      writes (by decide) ?_, writes (by decide) ?_, writes (by decide) ?_, writes (by decide) ?_,
      fun n hn => writes (by omega) (csrWrite_dly hm hn _)⟩
    case refine_7 => exact csrWrite_stopmax hm _
    all_goals simp [Thread.csrWrite, hm]

/-- Settles O39: each number of the table reads and writes its own register, and every other number faults. -/
theorem csrAccess : Obligations.CsrAccess := ⟨csrReads, csrWrites⟩

end Sys2Proof.Machine
end

section
/-!
PROOF. Landing (08 R116, R118, R124): what the writes that are due change of a state, what each register holds after them, and how long
a result of some latency waits.
-/
namespace Sys2Proof.Machine
open Sys2Proof.Claims

/-! ## What landing changes -/

/-- The current thread's registers and landing list, and the unseen writes of core contexts; nothing else. -/
structure OnlyLands (s t : State) : Prop where
  device : t = { s with threads := t.threads, ctxs := t.ctxs }
  own : t.th = { s.th with landing := t.th.landing, x := t.th.x, v := t.th.v, m := t.th.m, p := t.th.p }
  others : SameOthers s t
  unseen : ∀ core ctx, t.coreCtx core ctx = { s.coreCtx core ctx with cnew := (t.coreCtx core ctx).cnew }

namespace OnlyLands

theorem refl (s : State) : OnlyLands s s := ⟨rfl, rfl, fun _ _ => rfl, fun _ _ => rfl⟩

theorem cur {s t : State} (h : OnlyLands s t) : t.cur = s.cur := (congrArg State.cur h.device).trans rfl

theorem trans {s t u : State} (h : OnlyLands s t) (k : OnlyLands t u) : OnlyLands s u where
  device := by rw [k.device, h.device]
  own := by rw [k.own, h.own]
  others := fun v hv => (k.others v (h.cur.symm ▸ hv)).trans (h.others v hv)
  unseen := fun core ctx => by rw [k.unseen, h.unseen]

theorem fold {α : Type} {f : State → α → State} {s : State} (hf : ∀ t a, OnlyLands s t → OnlyLands t (f t a)) (l : List α) :
    ∀ t, OnlyLands s t → OnlyLands s (l.foldl f t) := by
  induction l with
  | nil => exact fun t h => h
  | cons a r ih => exact fun t h => ih _ (h.trans (hf t a h))

/-- A change of the current thread's registers and landing list. -/
theorem of_setTh {s : State} {th : Thread}
    (h : th = { s.th with landing := th.landing, x := th.x, v := th.v, m := th.m, p := th.p }) : OnlyLands s (s.setTh th) where
  device := rfl
  own := by rw [th_setTh]; exact h
  others := fun u hu => (thread_setThread s s.cur u th).trans (if_neg hu)
  unseen := fun _ _ => rfl

/-- A change of the unseen writes of the current core context. -/
theorem of_cnew (s : State) (l : List CWrite) : OnlyLands s (s.setCc { s.cc with cnew := l }) where
  device := rfl
  own := rfl
  others := fun _ _ => rfl
  unseen := fun core ctx => by
    rw [State.setCc, coreCtx_setCoreCtx]
    split
    · next h => rw [State.cc, State.coreCtx, State.coreCtx, h]
    · rfl

theorem sameMemory {s t : State} (h : OnlyLands s t) : SameMemory s t := by
  rw [h.device]
  exact ⟨fun _ => rfl, fun _ => rfl⟩

theorem sameScratch {s t : State} (h : OnlyLands s t) : SameScratch s t :=
  ⟨fun core ctx a => by rw [h.unseen]; rfl, fun core ctx a => by rw [h.unseen]; rfl⟩

theorem readC {s t : State} (h : OnlyLands s t) (n : Fin 8) : t.cc.readC n = s.cc.readC n := by
  rw [State.cc, State.cc, h.unseen, h.cur]
  rfl

end OnlyLands

/-! ## One write that lands -/

/-- The registers of a thread after a write of its own has landed. -/
def Thread.landed (t : Thread) (l : Landing) : Thread :=
  match l.dest with
  | .x n => if (t.readX n).st = .pending then t else t.writeX n ⟨l.value.setWidth 64, l.b, .present⟩
  | .v n => if (t.readV n).st = .pending then t else t.writeV n ⟨l.value, l.b, .present⟩
  | .m n => t.writeM n (l.value.setWidth 32)
  | .p n => t.writeP n (l.value.getLsbD 0)
  | _ => t

theorem landOne_of_ne_c {s : State} {l : Landing} (h : ∀ n, l.dest ≠ .c n) : landOne s.cur s l = s.setTh (s.th.landed l) ∨
    landOne s.cur s l = s ∧ s.th.landed l = s.th := by
  unfold landOne Thread.landed
  cases hd : l.dest with
  | x n =>
    by_cases hp : (s.th.readX n).st = .pending
    · exact .inr ⟨if_pos (decide_eq_true hp), if_pos hp⟩
    · exact .inl ((if_neg fun h => hp (of_decide_eq_true h)).trans (congrArg s.setTh (if_neg hp).symm))
  | v n =>
    by_cases hp : (s.th.readV n).st = .pending
    · exact .inr ⟨if_pos (decide_eq_true hp), if_pos hp⟩
    · exact .inl ((if_neg fun h => hp (of_decide_eq_true h)).trans (congrArg s.setTh (if_neg hp).symm))
  | m n | p n => exact .inl rfl
  | c n => exact absurd hd (h n)
  | q n | i n | none | imm => exact .inr ⟨rfl, rfl⟩

theorem landOne_c {s : State} {l : Landing} {n : Fin 8} (h : l.dest = .c n) : landOne s.cur s l =
    if (s.cc.readC n).st = .pending then s
    else s.setCc { s.cc with cnew := s.cc.cnew ++ [⟨s.cur.thr, n, l.value.setWidth 64, l.b⟩] } := by
  unfold landOne
  rw [h]
  simp only [State.isPending, decide_eq_true_eq]
  rfl

theorem th_landOne (s : State) (l : Landing) : (landOne s.cur s l).th = s.th.landed l := by
  by_cases h : ∃ n, l.dest = .c n
  · obtain ⟨n, h⟩ := h
    have hsame : s.th.landed l = s.th := by rw [Thread.landed, h]
    rw [landOne_c h, hsame]
    split <;> rfl
  · obtain hset | ⟨hkeep, hsame⟩ := landOne_of_ne_c (s := s) (not_exists.mp h)
    · rw [hset, th_setTh]
    · rw [hkeep, hsame]

/-- A write to a register changes that register alone. -/
theorem landed_only (t : Thread) (l : Landing) : t.landed l =
    { t with x := (t.landed l).x, v := (t.landed l).v, m := (t.landed l).m, p := (t.landed l).p } := by
  unfold Thread.landed Thread.writeX Thread.writeM Thread.writeP
  cases l.dest with
  | x n =>
    dsimp only
    split
    · rfl
    · split <;> rfl
  | v n => dsimp only; split <;> rfl
  | m n | p n => dsimp only; split <;> rfl
  | c | q | i | none | imm => rfl

theorem onlyLands_landOne (s : State) (l : Landing) : OnlyLands s (landOne s.cur s l) := by
  by_cases h : ∃ n, l.dest = .c n
  · obtain ⟨n, h⟩ := h
    rw [landOne_c h]
    split
    · exact .refl s
    · exact .of_cnew s _
  · obtain hset | ⟨hkeep, -⟩ := landOne_of_ne_c (s := s) (not_exists.mp h)
    · rw [hset]
      refine .of_setTh ?_
      rw [landed_only]
    · rw [hkeep]
      exact .refl s

/-! ## All that is due -/

theorem landAll (l : List Landing) : ∀ s : State, OnlyLands s (l.foldl (landOne s.cur) s)
    ∧ (l.foldl (landOne s.cur) s).th = l.foldl Thread.landed s.th := by
  induction l with
  | nil => exact fun s => ⟨.refl s, rfl⟩
  | cons e r ih =>
    intro s
    have h := onlyLands_landOne s e
    obtain ⟨hfold, hth⟩ := ih (landOne s.cur s e)
    rw [h.cur] at hfold hth
    rw [th_landOne] at hth
    exact ⟨h.trans hfold, hth⟩

/-- What is due lands in producer order; what is not due waits on. -/
theorem landDue_spec (s : State) : OnlyLands s (landDue s s.cur) ∧ (landDue s s.cur).th =
    (s.th.landing.filter fun l => decide (l.rem ≤ 1)).foldl Thread.landed
      { s.th with landing := s.th.landing.filter fun l => decide (1 < l.rem) } := by
  have hset : OnlyLands s (s.setTh { s.th with landing := s.th.landing.filter fun l => decide (1 < l.rem) }) := .of_setTh rfl
  obtain ⟨hfold, hth⟩ := landAll (s.th.landing.filter fun l => decide (l.rem ≤ 1))
    (s.setTh { s.th with landing := s.th.landing.filter fun l => decide (1 < l.rem) })
  rw [th_setTh] at hth
  exact ⟨hset.trans hfold, hth⟩

/-- A group that passes lets what has become due land. -/
theorem ageLanding_spec (s : State) : OnlyLands s (ageLanding s s.cur) ∧ (ageLanding s s.cur).th =
    ((s.th.landing.map fun l => { l with rem := l.rem - 1 }).filter fun l => decide (l.rem ≤ 1)).foldl Thread.landed
      { s.th with landing := (s.th.landing.map fun l => { l with rem := l.rem - 1 }).filter fun l => decide (1 < l.rem) } := by
  have hset : OnlyLands s (s.setTh { s.th with landing := s.th.landing.map fun l => { l with rem := l.rem - 1 } }) := .of_setTh rfl
  obtain ⟨hdue, hth⟩ := landDue_spec (s.setTh { s.th with landing := s.th.landing.map fun l => { l with rem := l.rem - 1 } })
  rw [th_setTh] at hth
  exact ⟨hset.trans hdue, hth⟩

/-! ## What the registers hold (R116, R118) -/

/-- The last of some writes to a register, if one names it. -/
def lastWrite (l : List Landing) (r : Reg) : Option Landing := l.reverse.find? fun e => decide (e.dest = r)

theorem lastDue_eq (l : List Landing) (r : Reg) : lastDue l r = lastWrite (l.filter fun e => decide (e.rem ≤ 1)) r := rfl

theorem lastWrite_snoc (l : List Landing) (e : Landing) (r : Reg) :
    lastWrite (l ++ [e]) r = if e.dest = r then some e else lastWrite l r := by
  by_cases h : e.dest = r <;> simp [lastWrite, h]

/-- A part of the thread that a write leaves alone unless it names the register, and then sets: the last write stands. `open_` says that
the register takes writes. -/
theorem foldl_landed_last {ρ : Type} {read : Thread → ρ} {open_ : ρ → Prop} {r : Reg} {set : Landing → ρ} (l : List Landing)
    {t : Thread} (hit : ∀ t e, e.dest = r → open_ (read t) → read (t.landed e) = set e)
    (miss : ∀ t e, e.dest ≠ r → read (t.landed e) = read t) (hset : ∀ e, open_ (set e)) (ht : open_ (read t)) :
    read (l.foldl Thread.landed t) = match lastWrite l r with
      | some e => set e
      | none => read t := by
  have hopen : ∀ l : List Landing, open_ (read (l.foldl Thread.landed t)) := by
    intro l
    induction l using List.reverseRecOn with
    | nil => exact ht
    | append_singleton l e ih =>
      rw [List.foldl_append, List.foldl_cons, List.foldl_nil]
      by_cases he : e.dest = r
      · rw [hit _ e he ih]; exact hset e
      · rw [miss _ e he]; exact ih
  induction l using List.reverseRecOn with
  | nil => rfl
  | append_singleton l e ih =>
    rw [List.foldl_append, List.foldl_cons, List.foldl_nil, lastWrite_snoc]
    by_cases he : e.dest = r
    · rw [if_pos he, hit _ e he (hopen l)]
    · rw [if_neg he, miss _ e he, ih]

/-- A part of the thread that stands under every write. -/
theorem foldl_landed_same {ρ : Type} {read : Thread → ρ} (l : List Landing) {t : Thread}
    (h : ∀ u e, read u = read t → read (u.landed e) = read u) : read (l.foldl Thread.landed t) = read t := by
  induction l using List.reverseRecOn with
  | nil => rfl
  | append_singleton l e ih => rw [List.foldl_append, List.foldl_cons, List.foldl_nil, h _ e ih, ih]

/-! The four classes of a thread's own registers: one write to a register, one that lands elsewhere, and all of them. -/

section
variable (t : Thread)

@[simp] theorem readX_writeX (n k : Fin 32) (c : RCell 64) :
    (t.writeX n c).readX k = if k = n ∧ n ≠ 0 then c else t.readX k := by
  unfold Thread.writeX Thread.readX
  by_cases hn : n = 0
  · simp [hn]
  · by_cases hk : k = n
    · simp [hn, hk]
    · simp [hn, hk, SMap.get_set, Fin.val_inj]
@[simp] theorem readV_writeV (n k : Fin 32) (c : RCell 256) : (t.writeV n c).readV k = if k = n then c else t.readV k := by
  simp [Thread.writeV, Thread.readV, SMap.get_set, Fin.val_inj]
@[simp] theorem readM_writeM (n k : Fin 8) (c : BitVec 32) :
    (t.writeM n c).readM k = if k = n ∧ n ≠ 0 then c else t.readM k := by
  unfold Thread.writeM Thread.readM
  by_cases hn : n = 0
  · simp [hn]
  · by_cases hk : k = n
    · simp [hn, hk]
    · simp [hn, hk, SMap.get_set, Fin.val_inj]
@[simp] theorem readP_writeP (n k : Fin 8) (c : Bool) :
    (t.writeP n c).readP k = if k = n ∧ n ≠ 0 then c else t.readP k := by
  unfold Thread.writeP Thread.readP
  by_cases hn : n = 0
  · simp [hn]
  · by_cases hk : k = n
    · simp [hn, hk]
    · simp [hn, hk, SMap.get_set, Fin.val_inj]

@[simp] theorem readX_writeM (n : Fin 8) (k : Fin 32) (c : BitVec 32) : (t.writeM n c).readX k = t.readX k := by
  unfold Thread.writeM; split <;> rfl
@[simp] theorem readX_writeP (n : Fin 8) (k : Fin 32) (c : Bool) : (t.writeP n c).readX k = t.readX k := by
  unfold Thread.writeP; split <;> rfl
@[simp] theorem readX_writeV (n k : Fin 32) (c : RCell 256) : (t.writeV n c).readX k = t.readX k := rfl
@[simp] theorem readV_writeX (n k : Fin 32) (c : RCell 64) : (t.writeX n c).readV k = t.readV k := by
  unfold Thread.writeX; split <;> rfl
@[simp] theorem readV_writeM (n : Fin 8) (k : Fin 32) (c : BitVec 32) : (t.writeM n c).readV k = t.readV k := by
  unfold Thread.writeM; split <;> rfl
@[simp] theorem readV_writeP (n : Fin 8) (k : Fin 32) (c : Bool) : (t.writeP n c).readV k = t.readV k := by
  unfold Thread.writeP; split <;> rfl
@[simp] theorem readM_writeX (n : Fin 32) (k : Fin 8) (c : RCell 64) : (t.writeX n c).readM k = t.readM k := by
  unfold Thread.writeX; split <;> rfl
@[simp] theorem readM_writeV (n : Fin 32) (k : Fin 8) (c : RCell 256) : (t.writeV n c).readM k = t.readM k := rfl
@[simp] theorem readM_writeP (n k : Fin 8) (c : Bool) : (t.writeP n c).readM k = t.readM k := by
  unfold Thread.writeP; split <;> rfl
@[simp] theorem readP_writeX (n : Fin 32) (k : Fin 8) (c : RCell 64) : (t.writeX n c).readP k = t.readP k := by
  unfold Thread.writeX; split <;> rfl
@[simp] theorem readP_writeV (n : Fin 32) (k : Fin 8) (c : RCell 256) : (t.writeV n c).readP k = t.readP k := rfl
@[simp] theorem readP_writeM (n k : Fin 8) (c : BitVec 32) : (t.writeM n c).readP k = t.readP k := by
  unfold Thread.writeM; split <;> rfl

variable (e : Landing)

theorem readX_landed (k : Fin 32) : (t.landed e).readX k =
    if e.dest = .x k ∧ k ≠ 0 ∧ (t.readX k).st ≠ .pending then ⟨e.value.setWidth 64, e.b, .present⟩ else t.readX k := by
  unfold Thread.landed
  cases hd : e.dest with
  | x n =>
    by_cases hk : n = k
    · subst hk; by_cases hp : (t.readX n).st = .pending <;> simp [hp]
    · have hk' : k ≠ n := fun h => hk h.symm
      by_cases hp : (t.readX n).st = .pending <;> simp [hp, hk, hk']
  | v n => dsimp only; split <;> simp
  | m | p | c | q | i | none | imm => simp

theorem readV_landed (k : Fin 32) : (t.landed e).readV k =
    if e.dest = .v k ∧ (t.readV k).st ≠ .pending then ⟨e.value, e.b, .present⟩ else t.readV k := by
  unfold Thread.landed
  cases hd : e.dest with
  | v n =>
    by_cases hk : n = k
    · subst hk; by_cases hp : (t.readV n).st = .pending <;> simp [hp]
    · have hk' : k ≠ n := fun h => hk h.symm
      by_cases hp : (t.readV n).st = .pending <;> simp [hp, hk, hk']
  | x n => dsimp only; split <;> simp
  | m | p | c | q | i | none | imm => simp

theorem readM_landed (k : Fin 8) : (t.landed e).readM k =
    if e.dest = .m k ∧ k ≠ 0 then e.value.setWidth 32 else t.readM k := by
  unfold Thread.landed
  cases hd : e.dest with
  | m n =>
    by_cases hk : n = k
    · subst hk; simp
    · simp [hk, show k ≠ n from fun h => hk h.symm]
  | x n | v n => dsimp only; split <;> simp
  | p | c | q | i | none | imm => simp

theorem readP_landed (k : Fin 8) : (t.landed e).readP k =
    if e.dest = .p k ∧ k ≠ 0 then e.value.getLsbD 0 else t.readP k := by
  unfold Thread.landed
  cases hd : e.dest with
  | p n =>
    by_cases hk : n = k
    · subst hk; simp
    · simp [hk, show k ≠ n from fun h => hk h.symm]
  | x n | v n => dsimp only; split <;> simp
  | m | c | q | i | none | imm => simp

end

section
variable (l : List Landing) (t : Thread)

theorem readX_foldl_landed (n : Fin 32) : (l.foldl Thread.landed t).readX n =
    if n = 0 ∨ (t.readX n).st = .pending then t.readX n
    else match lastWrite l (.x n) with
      | some e => ⟨e.value.setWidth 64, e.b, .present⟩
      | none => t.readX n := by
  split
  · next h =>
    refine foldl_landed_same (read := fun t => t.readX n) l fun u e hu => ?_
    obtain rfl | h := h
    · simp [readX_landed]
    · simp [readX_landed, hu, h]
  · next h =>
    rw [not_or] at h
    refine foldl_landed_last (read := fun t => t.readX n) (open_ := fun c => c.st ≠ .pending) l ?_ ?_ (fun e => by simp) h.2
    · intro u e he hu
      exact (readX_landed u e n).trans (if_pos ⟨he, h.1, hu⟩)
    · intro u e he
      exact (readX_landed u e n).trans (if_neg fun k => he k.1)

theorem readV_foldl_landed (n : Fin 32) : (l.foldl Thread.landed t).readV n =
    if (t.readV n).st = .pending then t.readV n
    else match lastWrite l (.v n) with
      | some e => ⟨e.value, e.b, .present⟩
      | none => t.readV n := by
  split
  · next h =>
    refine foldl_landed_same (read := fun t => t.readV n) l fun u e hu => ?_
    simp [readV_landed, hu, h]
  · next h =>
    refine foldl_landed_last (read := fun t => t.readV n) (open_ := fun c => c.st ≠ .pending) l ?_ ?_ (fun e => by simp) h
    · intro u e he hu
      exact (readV_landed u e n).trans (if_pos ⟨he, hu⟩)
    · intro u e he
      exact (readV_landed u e n).trans (if_neg fun k => he k.1)

theorem readM_foldl_landed {n : Fin 8} (h : n ≠ 0) : (l.foldl Thread.landed t).readM n =
    match lastWrite l (.m n) with
      | some e => e.value.setWidth 32
      | none => t.readM n := by
  refine foldl_landed_last (read := fun t => t.readM n) (open_ := fun _ => True) l ?_ ?_ (fun _ => trivial) trivial
  · intro u e he _
    exact (readM_landed u e n).trans (if_pos ⟨he, h⟩)
  · intro u e he
    exact (readM_landed u e n).trans (if_neg fun k => he k.1)

theorem readP_foldl_landed {n : Fin 8} (h : n ≠ 0) : (l.foldl Thread.landed t).readP n =
    match lastWrite l (.p n) with
      | some e => e.value.getLsbD 0
      | none => t.readP n := by
  refine foldl_landed_last (read := fun t => t.readP n) (open_ := fun _ => True) l ?_ ?_ (fun _ => trivial) trivial
  · intro u e he _
    exact (readP_landed u e n).trans (if_pos ⟨he, h⟩)
  · intro u e he
    exact (readP_landed u e n).trans (if_neg fun k => he k.1)

theorem landing_foldl_landed : (l.foldl Thread.landed t).landing = t.landing :=
  foldl_landed_same (read := Thread.landing) l fun u e _ => by rw [landed_only]

end

theorem landingWritesRegisters : LandingWritesRegisters := by
  intro s
  obtain ⟨honly, hth⟩ := landDue_spec s
  refine ⟨_, rfl, ?_, fun n => ?_, fun n => ?_, fun n => ?_, fun n => ?_, honly.readC, honly.others, honly.sameMemory,
    honly.sameScratch, ?_⟩
  · rw [hth, landing_foldl_landed]
  · rw [hth]; exact readX_foldl_landed _ _ n
  · rw [hth]; exact readV_foldl_landed _ _ n
  · rw [hth]
    by_cases hn : n = 0
    · rw [if_pos hn, hn]; rfl
    · rw [if_neg hn]; exact readM_foldl_landed _ _ hn
  · rw [hth]
    by_cases hn : n = 0
    · rw [if_pos hn, hn]; rfl
    · rw [if_neg hn]; exact readP_foldl_landed _ _ hn
  · rw [SameDevice, honly.device]

/-! ## Latency (R116) -/

section
variable {s : State} {e : Landing}

theorem ageLanding_waiting (h : s.th.landing = [e]) (hr : 2 < e.rem) :
    (ageLanding s s.cur).th = { s.th with landing := [{ e with rem := e.rem - 1 }] } := by
  have hlater : 1 < e.rem - 1 := by omega
  rw [(ageLanding_spec s).2, h]
  simp [hlater, Nat.not_le.mpr hlater]

theorem ageLanding_due (h : s.th.landing = [e]) (hr : e.rem ≤ 2) :
    (ageLanding s s.cur).th = Thread.landed { s.th with landing := [] } { e with rem := e.rem - 1 } := by
  have hdue : e.rem - 1 ≤ 1 := by omega
  rw [(ageLanding_spec s).2, h]
  simp [hdue]

/-- k groups later, while the result is still at least two groups away. -/
theorem th_iterate_ageLanding (h : s.th.landing = [e]) (k : Nat) (hr : k + 1 < e.rem) :
    ((fun t => ageLanding t t.cur)^[k] s).th = { s.th with landing := [{ e with rem := e.rem - k }] } := by
  induction k with
  | zero => rw [Nat.sub_zero, ← h]; rfl
  | succ k ih =>
    have hk := ih (by omega)
    rw [Function.iterate_succ_apply', ageLanding_waiting (by rw [hk]) (show 2 < e.rem - k by omega), hk]
    rfl

end

theorem th_land_x {s : State} {n : Fin 32} (hn : n ≠ 0) (v : VWord) (b : Bool) (l : Nat) :
    (s.land (.x n) v b l).th = { s.th with landing := s.th.landing ++ [⟨.x n, v, b, l + 1⟩] } := by
  have hkeeps : discards (.x n) = false := beq_eq_false_iff_ne.mpr hn
  rw [State.land.eq_def]
  simp [hkeeps]

theorem latencyCountsGroups : LatencyCountsGroups := by
  intro s n v b l k hn hl hempty hp
  have hland := th_land_x (s := s) hn (v.setWidth 256) b l
  rw [hempty, List.nil_append] at hland
  have hwaits := fun k hk => th_iterate_ageLanding (s := s.land (.x n) (v.setWidth 256) b l) (by rw [hland]) k hk
  have hlast : ((fun t => ageLanding t t.cur)^[l] (s.land (.x n) (v.setWidth 256) b l)).th =
      Thread.landed { s.th with landing := [] } ⟨.x n, v.setWidth 256, b, 1⟩ := by
    obtain ⟨j, rfl⟩ := Nat.exists_eq_add_of_le' hl
    have hj := hwaits j (show j + 1 < j + 1 + 1 by omega)
    rw [Function.iterate_succ_apply', ageLanding_due (by rw [hj]) (show j + 1 + 1 - j ≤ 2 by omega), hj, hland]
    rw [show j + 1 + 1 - j - 1 = 1 by omega]
  refine ⟨fun hk => ?_, ?_, ?_⟩
  · rw [hwaits k (show k + 1 < l + 1 by omega), hland]
    rfl
  · rw [hlast, readX_landed, if_pos ⟨rfl, hn, hp⟩]
    simp
  · rw [hlast, landed_only]

/-! ## The c registers (R124) -/

theorem sharedRegisterWriteIsSeenByItsThreadFirst : SharedRegisterWriteIsSeenByItsThreadFirst := by
  intro s n v b l hd hv hb hp
  have hcc : (landOne s.cur s l).cc = { s.cc with cnew := s.cc.cnew ++ [⟨s.cur.thr, n, v, b⟩] } := by
    rw [landOne_c hd, if_neg hp, cc_setCc, hv, hb, BitVec.setWidth_setWidth_of_le v (by decide), BitVec.setWidth_eq]
  refine ⟨?_, fun u hu => ?_, fun hnew u => ?_⟩
  · rw [hcc]
    simp [CoreCtx.readCOf]
  · have hother : (s.cur.thr == u) = false := beq_eq_false_iff_ne.mpr (Ne.symm hu)
    rw [hcc]
    simp [CoreCtx.readCOf, CoreCtx.readC, hother]
  · have hp' : (SMap.get (RCell.initial 64) s.cc.c n.val).st ≠ .pending := hp
    rw [hcc, hnew]
    simp [CoreCtx.publishC, hp', CoreCtx.readCOf, CoreCtx.readC, CoreCtx.writeC]

/-- Settles O6: the last due write of each register stands, the list ages by one with each group, and a c register's write waits
unseen until it is published. -/
theorem landingAndLatency : Obligations.LandingAndLatency :=
  ⟨landingWritesRegisters, latencyCountsGroups, sharedRegisterWriteIsSeenByItsThreadFirst⟩

end Sys2Proof.Machine
end

section
/-!
PROOF. Interrupts and the other events of a thread's turn (08 R117, R141, R147, R148, R150, R152, R185).
-/
namespace Sys2Proof.Machine
open Sys2Proof.Claims

/-! ## The interrupt that a thread takes (R150) -/

/-- The interrupts that may be pending, from the highest down. -/
def interruptCodes : List Nat := [11, 9, 7, 5, 1]

/-- What the search for an interrupt asks of a code. -/
def interruptTaken (s : State) (c : Nat) : Bool := s.pendingInt s.th c && (c == 11 || c == 9 || (s.th.ie && s.th.ien.getLsbD c))

theorem mem_codes_of_pendingInt {s : State} {t : Thread} {c : Nat} (h : s.pendingInt t c = true) : c ∈ interruptCodes := by
  unfold State.pendingInt at h
  split at h
  case h_6 => cases h
  all_goals decide -- the five codes

theorem interruptTaken_iff (s : State) (c : Nat) : interruptTaken s c = true ↔ qualifies s c := by
  unfold interruptTaken qualifies
  rw [Bool.and_eq_true]
  refine and_congr_right fun h => ?_
  have hc := mem_codes_of_pendingInt h
  simp only [interruptCodes, List.mem_cons, List.not_mem_nil, or_false] at hc
  obtain rfl | rfl | rfl | rfl | rfl := hc <;> simp

theorem interruptOf_eq_highest {s : State} {c : Nat} (hm : s.th.hm = false) (h : qualifies s c) (hmax : ∀ d, qualifies s d → d ≤ c) :
    s.interruptOf s.th = some c := by
  have hfind : s.interruptOf s.th = interruptCodes.find? (interruptTaken s) := by
    rw [State.interruptOf, hm]
    rfl
  have hlower : ∀ d, c < d → interruptTaken s d = false := fun d hd =>
    Bool.eq_false_iff.mpr fun k => absurd (hmax d ((interruptTaken_iff s d).mp k)) (by omega)
  have hc := mem_codes_of_pendingInt h.1
  have htaken := (interruptTaken_iff s c).mpr h
  rw [hfind]
  simp only [interruptCodes, List.mem_cons, List.not_mem_nil, or_false] at hc
  obtain rfl | rfl | rfl | rfl | rfl := hc <;> simp [interruptCodes, htaken, hlower]

/-! ## Entering the handler (R152) -/

theorem cur_putBack (s : State) (t : ThreadId) (p : Reg × Src) : (s.putBack t p).cur = s.cur := by
  unfold State.putBack
  split <;> rfl

theorem cur_foldr_putBack (t : ThreadId) (l : List (Reg × Src)) (s : State) :
    (l.foldr (fun p s => s.putBack t p) s).cur = s.cur := by
  induction l with
  | nil => rfl
  | cons p r ih => exact (cur_putBack _ t p).trans ih

theorem cur_releaseHeld (s : State) (t : ThreadId) : (s.releaseHeld t).cur = s.cur := by
  unfold State.releaseHeld
  dsimp only
  split <;> exact cur_foldr_putBack t _ s

theorem th_emit (s : State) (t : ThreadId) (kind : Nat) (value : Word) : (s.emit t kind value).th = s.th := by
  rw [emit_onlyCores]
  rfl

theorem th_enterHandler (s : State) (interrupt : Bool) (code : Nat) (tval : Word) :
    (s.enterHandler s.cur interrupt code tval).th.tcause = BitVec.ofNat 64 (interrupt.toNat * 2 ^ 63 + code)
      ∧ (s.enterHandler s.cur interrupt code tval).th.tval = tval := by
  unfold State.enterHandler
  dsimp only
  rw [th_emit, State.th]
  simp only [State.setThread_cur, State.setCoreCtx_cur, cur_releaseHeld, thread_setThread_same]
  exact ⟨rfl, rfl⟩

theorem stopHonoured_spec {t : Thread} (h : t.stopHonoured = true) : t.q0.an = false ∧ t.landing = [] := by
  rw [Thread.stopHonoured, Bool.and_eq_true, Bool.and_eq_true] at h
  obtain ⟨⟨han, hempty⟩, -⟩ := h
  exact ⟨by simpa using han, by simpa using hempty⟩

theorem interruptIsTaken : InterruptIsTakenAtAnHonouredStop := by
  intro s c
  refine ⟨fun hm hstop hq hmax => ?_, fun hm => ?_, fun hstop => ?_, stopHonoured_spec⟩
  · obtain ⟨hcause, htval⟩ := th_enterHandler s true c 0
    refine ⟨?_, ?_, htval⟩
    · simp [exec, execInterruptEntry, hstop, interruptOf_eq_highest hm hq hmax]
    · rw [hcause, Bool.toNat_true, Nat.one_mul]
  · simp [exec, execInterruptEntry, State.interruptOf, hm]
  · simp [exec, execInterruptEntry, hstop]

/-! ## Empty and annulled groups (R117, R141, R151) -/

theorem emptyGroup_counts (s : State) : s.emptyGroup.th.icount = s.th.icount
    ∧ s.emptyGroup.th.stop = (if s.th.hm then s.th.stop else s.th.stop + 1) ∧ s.emptyGroup.th.q0 = s.th.q0 := by
  have hown := (ageLanding_spec (s.setTh { s.th.count false with group := none })).1.own
  rw [th_setTh] at hown
  rw [State.emptyGroup, ← State.setTh_cur, hown]
  unfold Thread.count
  cases s.th.hm <;> exact ⟨rfl, rfl, rfl⟩

/-- The end of a thread lets its partner's writes land, and changes nothing else of the thread. -/
theorem landRest_own (s : State) : s.landRest.th = { s.th with
    landing := s.landRest.th.landing, x := s.landRest.th.x, v := s.landRest.th.v, m := s.landRest.th.m, p := s.landRest.th.p } := by
  unfold State.landRest
  split
  · exact (OnlyLands.fold (fun t _ _ => (ageLanding_spec t).1) _ s (.refl s)).own
  · rfl

theorem refreshQueue_iss (s : State) : s.refreshQueue.iss = s.iss := rfl

/-- The end of a group that leaves nothing to bind: the thread is counted and moves its queue on; Q[1] and Q[2] are looked at once more,
and what is due lands. -/
theorem finishGroup_own {s : State} (hpost : s.iss.post = []) (hadv : s.iss.noAdvance = false) :
    let u := (s.th.count (!s.iss.keepCount)).advance s.iss.redirect s.iss.annul
    s.finishGroup.th.q0 = u.q0 ∧ s.finishGroup.th.icount = u.icount ∧ s.finishGroup.th.stop = u.stop := by
  intro u
  unfold State.finishGroup
  dsimp only
  rw [refreshQueue_iss, State.setTh_iss, hpost, hadv]
  simp only [Bool.false_eq_true, if_false, List.foldl_nil]
  generalize hstored : s.setTh _ = stored
  have hth : stored.th.q0 = u.q0 ∧ stored.th.icount = u.icount ∧ stored.th.stop = u.stop := by
    rw [← hstored, th_setTh]
    exact ⟨rfl, rfl, rfl⟩
  generalize hlast : (ageLanding stored.refreshQueue stored.refreshQueue.cur).landRest = last
  change last.th.q0 = _ ∧ last.th.icount = _ ∧ last.th.stop = _
  obtain ⟨q1, q2, hlooked⟩ := refreshQueue_th stored
  rw [← hlast, landRest_own, (ageLanding_spec _).1.own, hlooked]
  exact hth

theorem annulledGroup_counts {s : State} (h : s.th.q0.an = true) : ∃ t, exec .annulledGroup s = .next t ∧ t.th.q0 = s.th.q1
    ∧ t.th.icount = (if s.th.hm then s.th.icount else s.th.icount + 1)
    ∧ t.th.stop = (if s.th.hm then s.th.stop else s.th.stop + 1) := by
  obtain ⟨hq0, hicount, hstop⟩ := finishGroup_own (s := { s with iss := .initial }) rfl rfl
  have hcount : ∀ t : Thread, ((t.count true).advance none false).q0 = t.q1
      ∧ ((t.count true).advance none false).icount = (if t.hm then t.icount else t.icount + 1)
      ∧ ((t.count true).advance none false).stop = (if t.hm then t.stop else t.stop + 1) := by
    intro t
    unfold Thread.count
    cases t.hm <;> exact ⟨rfl, rfl, rfl⟩
  obtain ⟨cq0, cicount, cstop⟩ := hcount s.th
  exact ⟨_, congrArg Host.Outcome.next (if_pos h), hq0.trans cq0, hicount.trans cicount, hstop.trans cstop⟩

/-! ## The other events -/

theorem turnEvents : TurnEvents := by
  intro s
  obtain ⟨hicount, hstop, hq0⟩ := emptyGroup_counts s
  refine ⟨⟨rfl, hicount, hstop, hq0⟩, fun h _ => annulledGroup_counts h, fun hm hno hmax => ?_, fun _ => rfl, fun _ _ => rfl,
    fun hwait hen hne hle => ?_, fun n k hm hdue => ?_⟩
  · simp [exec, execStopSpacingFault, hm, hno, hmax]
  · have hpend : s.pendingInt s.th 5 = true := (pendingInt_five s s.th).mpr ⟨hne, hle⟩
    have hwakes : (s.pendingInt s.th 5 && s.th.ien.getLsbD 5 && s.th.pause = .wfi) = true := by simp only [hpend, hen, hwait]; rfl
    exact congrArg Host.Outcome.next (if_pos hwakes)
  · simp [exec, execMatrixThresholdTrap, hdue, lowestDue, hm]

/-- Settles O20: the highest interrupt that qualifies is the first that the search from the highest down finds; a group that is empty or
annulled counts as its end counts it. -/
theorem interruptsAndTurns : Obligations.InterruptsAndTurns := ⟨interruptIsTaken, turnEvents⟩

end Sys2Proof.Machine
end

section
/-!
PROOF. Messages (08 R127, R128; 21 R321-R323): which cores a SEND reaches, what SEND and RECV do, and what becomes of a message that
arrives.
-/
namespace Sys2Proof.Machine
open Sys2Proof.Claims

/-! ## The cores that a SEND may name (R128, R332) -/

theorem bits_one_eq_toNat_iff (w : Word) (i : Nat) (b : Bool) : bits w.toNat i 1 = b.toNat ↔ w.getLsbD i = b := by
  have hbit : bits w.toNat i 1 = (w.getLsbD i).toNat := by
    rw [BitVec.getLsbD, Nat.toNat_testBit]
    rfl
  rw [hbit]
  exact (by decide : ∀ p q : Bool, p.toNat = q.toNat ↔ p = q) _ b
theorem bits_one_eq_one_iff (w : Word) (i : Nat) : bits w.toNat i 1 = 1 ↔ w.getLsbD i = true := bits_one_eq_toNat_iff w i true
theorem bits_eq_setWidth (w : Word) (i n : Nat) : bits w.toNat i n = ((w >>> i).setWidth n).toNat := by
  rw [bits, BitVec.toNat_setWidth, BitVec.toNat_ushiftRight, Nat.shiftRight_eq_div_pow]

theorem mayReach_iff (s : State) (dst : Nat) : s.mayReach dst = true ↔ reachable s dst := by
  unfold State.mayReach reachable
  dsimp only
  split
  · exact Iff.rfl
  · simp only [Bool.and_eq_true, decide_eq_true_eq, List.any_eq_true, List.mem_range, beq_iff_eq, and_assoc, bits_one_eq_one_iff,
      bits_one_eq_toNat_iff]
    simp only [bits_eq_setWidth]

/-! ## SEND and RECV (R128) -/

section
variable {s : State} {o : Fmt SendMod} (h : s.Issues o) (ha : s.bitA o = false)
include h ha

theorem execSend_reaching (hr : reachable s (s.opA o).toNat) :
    exec (.send o) s = .next (if (s.ops.filter fun p => p.core == s.cur.core && p.kind.isSend).length < 16
      then launched s (.send (s.opA o).toNat (posted s o) false) else s.park .none) := by
  have hbound : s.noBounded [s.read o.imm o.a] = .ok () := noBounded_ok (List.forall_mem_singleton.mpr ha)
  have hmay : s.mayReach (s.read o.imm o.a).word.toNat = true := (mayReach_iff s _).mpr hr
  split
  · next hroom =>
    refine Eq.trans (congrArg (s.slot o.pred) ?_) (slot_ok h.on _)
    simp only [sources_bind h, hbound, hmay, Nat.not_le.mpr hroom, if_false]
    rfl
  · next hfull =>
    refine Eq.trans (congrArg (s.slot o.pred) ?_) (slot_park h.on _)
    simp only [sources_bind h, hbound, hmay, Nat.not_lt.mp hfull, if_true]
    rfl

theorem execSend_not_reaching (hr : ¬ reachable s (s.opA o).toNat) : exec (.send o) s = .next (s.takeTrap 7 (s.opA o)) := by
  have hbound : s.noBounded [s.read o.imm o.a] = .ok () := noBounded_ok (List.forall_mem_singleton.mpr ha)
  have hmay : s.mayReach (s.read o.imm o.a).word.toNat = false := Bool.eq_false_iff.mpr fun k => hr ((mayReach_iff s _).mp k)
  refine Eq.trans (congrArg (s.slot o.pred) ?_) (slot_trap h.on _ _)
  simp only [sources_bind h, hbound, hmay]
  rfl

end

section
variable {s : State} {o : Fmt Unit} {n : Fin 32} (h : s.Issues o) (hi : o.a = .i n)
include h hi

theorem execRecv_eq : exec (.recv o) s = .next ((s.setCc ((s.cc.writeI n.val inboxEmpty).refill n.val)).land o.d
    ((s.cc.readI n.val).val.setWidth 256) (s.cc.readI n.val).b 1) := by
  refine Eq.trans (congrArg (s.slot o.pred) ?_) (slot_ok h.on _)
  rw [sources_bind h, hi]
  rfl

end

/-! ## Inboxes (R127) -/

theorem readI_writeI (c : CoreCtx) (n : Nat) (v : RCell 64) : (c.writeI n v).readI n = v := SMap.get_set_same _ _ _ _

theorem refill_none {c : CoreCtx} {n : Nat} (h : c.waiting.find? (fun m => m.inbox == n) = none) : c.refill n = c := by
  unfold CoreCtx.refill
  split
  · rw [h]
  · rfl
theorem refill_present {c : CoreCtx} {n : Nat} (h : (c.readI n).st ≠ .pending) : c.refill n = c := if_neg h
theorem refill_takes {c : CoreCtx} {n : Nat} {m : Message} (h : (c.readI n).st = .pending)
    (hm : c.waiting.find? (fun m => m.inbox == n) = some m) :
    c.refill n = { (c.writeI n ⟨m.value, m.b, .present⟩) with waiting := c.waiting.erase m } := by
  rw [CoreCtx.refill, if_pos h, hm]

theorem readI_land (s : State) (d : Reg) (v : VWord) (b : Bool) (l n : Nat) : (s.land d v b l).cc.readI n = s.cc.readI n := by
  unfold State.land
  split
  case h_4 q => rw [cc_setCc]; rfl
  case h_5 => split <;> rfl
  all_goals rfl

theorem messages : Messages := by
  intro s o u n
  refine ⟨fun h ha => ⟨execSend_reaching h ha, execSend_not_reaching h ha⟩, fun h hi => ⟨fun hw => ?_, fun m hm => ?_⟩⟩
  · have hempty : ((s.cc.writeI n.val inboxEmpty).waiting.find? fun m => m.inbox == n.val) = none := by
      rw [show (s.cc.writeI n.val inboxEmpty).waiting = [] from hw]
      rfl
    rw [execRecv_eq h hi, refill_none hempty]
  · refine ⟨_, execRecv_eq h hi, ?_⟩
    have hempty : ((s.cc.writeI n.val inboxEmpty).readI n.val).st = .pending := congrArg RCell.st (readI_writeI _ _ _)
    rw [readI_land, cc_setCc, refill_takes hempty hm]
    exact readI_writeI _ _ _

/-! ## What an error in HBM leaves alone (R82) -/

section
variable (s : State)

theorem ctxs_foldl {α : Type} {f : State → α → State} (hf : ∀ s a, (f s a).ctxs = s.ctxs) (l : List α) :
    (l.foldl f s).ctxs = s.ctxs := by
  induction l generalizing s with
  | nil => rfl
  | cons a r ih => exact (ih (f s a)).trans (hf s a)

theorem ctxs_recordFor {make : State → Nat → Bool → State} (hm : ∀ s p c, (make s p c).ctxs = s.ctxs) (users : List (Nat × Bool)) :
    (s.recordFor users make).ctxs = s.ctxs := by
  cases users with
  | nil => exact hm { s with records := [] } 0 false
  | cons c l => exact ctxs_foldl s (fun s c => hm s c.1 c.2) (c :: l)

theorem ctxs_tellLasting (src : ErrSource) (count detail : Nat) : (s.tellLasting src count detail).ctxs = s.ctxs := by
  unfold State.tellLasting
  dsimp only
  split
  all_goals exact ctxs_recordFor s (by intros; rfl) _

theorem ctxs_makeLasting (src : ErrSource) (count detail : Nat) : (s.makeLasting src count detail).ctxs = s.ctxs := by
  have hdown : ∀ s : State, (s.takeDown src).ctxs = s.ctxs := fun s => by cases src <;> rfl
  unfold State.makeLasting
  split
  · rfl
  · exact (ctxs_tellLasting _ _ _ _).trans (hdown _)

theorem ctxs_errorEvent (src : ErrSource) (time addr detail : Nat) : (s.errorEvent src time addr detail).ctxs = s.ctxs := by
  unfold State.errorEvent
  dsimp only
  split
  · exact ctxs_makeLasting _ _ _ _
  · rfl

theorem ctxs_errorWith {own : State → Nat → Bool → State} (ho : ∀ s n b, (own s n b).ctxs = s.ctxs) (src : ErrSource)
    (event addr detail : Nat) : (s.errorWith src event addr detail own).ctxs = s.ctxs := by
  unfold State.errorWith
  dsimp only
  split
  · exact (ctxs_makeLasting _ _ _ _).trans (ho _ _ _)
  · exact ho _ _ _

theorem ctxs_eccBlock (r : Reader) (pa : Nat) : (State.eccBlock r s pa).ctxs = s.ctxs := by
  unfold State.eccBlock
  split
  · unfold State.foundError
    dsimp only
    split
    · exact ctxs_errorWith _ (fun s _ _ => ctxs_recordFor s (by intros; rfl) _) _ _ _ _
    · exact ctxs_errorEvent _ _ _ _ _
  · rfl

theorem ctxs_ecc (pa n : Nat) : (s.ecc pa n).ctxs = s.ctxs := by
  unfold State.ecc State.eccFor
  split
  · rfl
  · exact ctxs_foldl s (fun s pa => ctxs_eccBlock s noReader pa) _

end

/-! ## What a store to HBM leaves alone (R81) -/

theorem ctxs_foldlAt {α : Type} {f : State → Nat → α → State} (hf : ∀ s a v, (f s a v).ctxs = s.ctxs) (l : List α) (a : Nat)
    (s : State) : (l.foldl (fun (p : Nat × State) v => (p.1 + 1, f p.2 p.1 v)) (a, s)).2.ctxs = s.ctxs := by
  induction l generalizing a s with
  | nil => rfl
  | cons v r ih => exact (ih (a + 1) (f s a v)).trans (hf s a v)

theorem ctxs_dramStore (s : State) (pa : Nat) (l : List Byte) (b : Bool) : (s.dramStore pa l b).ctxs = s.ctxs := by
  refine ctxs_foldlAt (f := fun s a v => s.dramStoreByte a v b) (fun s a v => ?_) l pa s
  have hmade : (s.materialise a).ctxs = s.ctxs := by
    unfold State.materialise
    dsimp only
    split
    · exact ctxs_foldlAt (f := State.putByte) (fun _ _ _ => rfl) _ _ s
    · rfl
  exact hmade

/-! ## Arrival (R127, R321, R322) -/

/-- The one operation in flight, which is this SEND. -/
structure OnlySend (s : State) (n : Nat) (op : Op) (dst : Nat) (m : Message) : Prop where
  found : s.op n = some op
  id : op.id = n
  ops : s.ops = [op]
  kind : op.kind = .send dst m false

section
variable {s : State} {n : Nat} {op : Op} {dst : Nat} {m : Message} (h : OnlySend s n op dst m)
include h

/-- No earlier SEND holds the message back: what happens turns on whether its context is resident and whether its core takes it. -/
theorem execMessageArrive_eq : exec (.messageArrive n) s =
    let part := s.partOf op.core
    let arrived := fun (s : State) => s.setOp { op with kind := .send dst m true }
    let c := s.coreCtx dst op.ctx
    if (s.part part).res != op.ctx || (s.part part).swapping then
      .next (arrived ((s.spillWaiting part op.ctx dst).spill part op.ctx dst m))
    else if !s.holdsThread m op.ctx dst then .next (arrived (s.deadLetter op.ctx dst m))
    else if (c.readI m.inbox).st ≠ .pending ∧ 32 ≤ c.waiting.length then .next s
    else .next (arrived (s.setCoreCtx dst op.ctx (c.deliver m))) := by
  change execMessageArrive n s = _
  unfold execMessageArrive
  rw [h.found]
  dsimp only
  rw [h.kind]
  dsimp only
  exact if_neg (by simp [h.ops])

theorem setOp_only (k : OpKind) : (s.setOp { op with kind := k }).ops = [{ op with kind := k }] := by
  simp [State.setOp, h.ops]

section
variable (hres : (s.part (s.partOf op.core)).res = op.ctx) (hstay : (s.part (s.partOf op.core)).swapping = false)
include hres hstay

theorem messageArrive_delivered (hholds : s.holdsThread m op.ctx dst = true)
    (hroom : ((s.coreCtx dst op.ctx).readI m.inbox).st = .pending ∨ (s.coreCtx dst op.ctx).waiting.length < 32) :
    exec (.messageArrive n) s = .next ((s.setCoreCtx dst op.ctx ((s.coreCtx dst op.ctx).deliver m)).setOp
      { op with kind := .send dst m true }) := by
  have hfits : ¬ (((s.coreCtx dst op.ctx).readI m.inbox).st ≠ .pending ∧ 32 ≤ (s.coreCtx dst op.ctx).waiting.length) := by
    rintro ⟨hp, hfull⟩
    obtain hp' | hroom := hroom
    · exact hp hp'
    · omega
  rw [execMessageArrive_eq h]
  simp only [hres, hstay, hholds, bne_self_eq_false, Bool.or_self, Bool.not_true, Bool.false_eq_true, if_false]
  exact if_neg hfits

theorem messageArrive_dead (hholds : s.holdsThread m op.ctx dst = false) :
    exec (.messageArrive n) s = .next ((s.deadLetter op.ctx dst m).setOp { op with kind := .send dst m true }) := by
  rw [execMessageArrive_eq h]
  simp [hres, hstay, hholds]

end

theorem messageArrive_spilled (hres : (s.part (s.partOf op.core)).res ≠ op.ctx) :
    exec (.messageArrive n) s = .next (((s.spillWaiting (s.partOf op.core) op.ctx dst).spill (s.partOf op.core) op.ctx dst m).setOp
      { op with kind := .send dst m true }) := by
  rw [execMessageArrive_eq h]
  simp [bne_iff_ne.mpr hres]

end

/-! ## What the inbox and the save area hold after it -/

theorem deliver_to_empty {c : CoreCtx} {m : Message} (hp : (c.readI m.inbox).st = .pending) (hw : c.waiting = []) :
    (c.deliver m).readI m.inbox = ⟨m.value, m.b, .present⟩ := by
  have hp' : (CoreCtx.readI { c with waiting := c.waiting ++ [m] } m.inbox).st = .pending := hp
  rw [CoreCtx.deliver, refill_takes (m := m) hp' (by simp [hw])]
  exact readI_writeI _ _ _

theorem deliver_to_full {c : CoreCtx} {m : Message} (hp : (c.readI m.inbox).st ≠ .pending) :
    c.deliver m = { c with waiting := c.waiting ++ [m] } := refill_present (c := { c with waiting := c.waiting ++ [m] }) hp

/-- Nothing waits in the interface: the core context is written back as it is. -/
theorem spillWaiting_nothing {s : State} {core : Nat} {ctx : Bool} (h : (s.coreCtx core ctx).waiting = []) (part : Nat) :
    s.spillWaiting part ctx core = s.setCoreCtx core ctx (s.coreCtx core ctx) := by
  have hsame : ({ s.coreCtx core ctx with waiting := [] } : CoreCtx) = s.coreCtx core ctx := by rw [← h]
  unfold State.spillWaiting
  dsimp only
  rw [hsame, h]
  rfl

theorem coreCtx_rewritten (s : State) (core core' : Nat) (ctx ctx' : Bool) :
    (s.setCoreCtx core ctx (s.coreCtx core ctx)).coreCtx core' ctx' = s.coreCtx core' ctx' := by
  rw [coreCtx_setCoreCtx]
  split
  · next hk => rw [State.coreCtx, State.coreCtx, hk]
  · rfl

theorem spill_fits {s : State} {part : Nat} {ctx : Bool} {p : PartCtx} (hp : s.pctx part ctx = p)
    (hroom : p.spilled < 256 * bits p.msgsave.toNat 48 16) (hhbm : p.spillAt p.spilled + 16 ≤ hbmEnd) (dst : Nat) (m : Message) :
    (s.spill part ctx dst m).ctxs = s.ctxs ∧ ((s.spill part ctx dst m).pctx part ctx).spilled = p.spilled + 1 := by
  subst hp
  have hfits : ¬ (256 * bits (s.pctx part ctx).msgsave.toNat 48 16 ≤ (s.pctx part ctx).spilled
      ∨ hbmEnd < (s.pctx part ctx).spillAt (s.pctx part ctx).spilled + 16) := by omega
  have hspill : s.spill part ctx dst m = ((s.ecc ((s.pctx part ctx).spillAt (s.pctx part ctx).spilled) 16).dramStore
      ((s.pctx part ctx).spillAt (s.pctx part ctx).spilled) (spillRecord dst m) false).setPctx part ctx { s.pctx part ctx with
        spilled := (s.pctx part ctx).spilled + 1, spillers := (s.pctx part ctx).spillers ++ [(m.task, m.taskid)] } := if_neg hfits
  rw [hspill]
  constructor
  · rw [State.setPctx_ctxs, ctxs_dramStore, ctxs_ecc]
  · rw [State.pctx, State.setPctx, SMap.get_set_same]

/-- R322: what a dead letter leaves: a record and a count. -/
theorem deadLetter_spec (s : State) (ctx : Bool) (dst : Nat) (m : Message) :
    (∃ r, (s.deadLetter ctx dst m).records = s.records ++ [r])
      ∧ ((s.deadLetter ctx dst m).pctx (s.partOf m.core) ctx).dead = (s.pctx (s.partOf m.core) ctx).dead + 1
      ∧ (s.deadLetter ctx dst m).ctxs = s.ctxs := by
  unfold State.deadLetter
  refine ⟨⟨_, rfl⟩, ?_, rfl⟩
  dsimp only
  rw [State.pctx, State.record_pctxs, State.setPctx, SMap.get_set_same]

section
variable {s : State} {n : Nat} {op : Op} {dst : Nat} {m : Message} (h : OnlySend s n op dst m)
include h

theorem messageArrive_spills (hres : (s.part (s.partOf op.core)).res ≠ op.ctx) (hw : (s.coreCtx dst op.ctx).waiting = [])
    {p : PartCtx} (hp : s.pctx (s.partOf op.core) op.ctx = p) (hroom : p.spilled < 256 * bits p.msgsave.toNat 48 16)
    (hhbm : p.spillAt p.spilled + 16 ≤ hbmEnd) :
    ∃ t, exec (.messageArrive n) s = .next t ∧ (∀ core ctx, t.coreCtx core ctx = s.coreCtx core ctx)
      ∧ (t.pctx (s.partOf op.core) op.ctx).spilled = p.spilled + 1 := by
  have hp' : (s.setCoreCtx dst op.ctx (s.coreCtx dst op.ctx)).pctx (s.partOf op.core) op.ctx = p := hp
  obtain ⟨hctxs, hspilled⟩ := spill_fits hp' hroom hhbm dst m
  rw [messageArrive_spilled h hres, spillWaiting_nothing hw]
  refine ⟨_, rfl, fun core ctx => ?_, hspilled⟩
  rw [← coreCtx_rewritten s dst core op.ctx ctx]
  exact congrArg (fun l => SMap.get CoreCtx.initial l (ctxKey core ctx)) hctxs

variable (hres : (s.part (s.partOf op.core)).res = op.ctx) (hstay : (s.part (s.partOf op.core)).swapping = false)
  (hholds : s.holdsThread m op.ctx dst = true)
include hres hstay hholds

theorem messageArrive_writes (hp : ((s.coreCtx dst op.ctx).readI m.inbox).st = .pending) (hw : (s.coreCtx dst op.ctx).waiting = []) :
    ∃ t, exec (.messageArrive n) s = .next t ∧ (t.coreCtx dst op.ctx).readI m.inbox = ⟨m.value, m.b, .present⟩
      ∧ t.ops = [{ op with kind := .send dst m true }] ∧ SameMemory s t := by
  refine ⟨_, messageArrive_delivered h hres hstay hholds (.inl hp), ?_, setOp_only h _, fun _ => rfl, fun _ => rfl⟩
  change ((s.setCoreCtx _ _ _).coreCtx _ _).readI _ = _
  rw [coreCtx_setCoreCtx_same]
  exact deliver_to_empty hp hw

theorem messageArrive_waits (hp : ((s.coreCtx dst op.ctx).readI m.inbox).st ≠ .pending)
    (hroom : (s.coreCtx dst op.ctx).waiting.length < 32) :
    ∃ t, exec (.messageArrive n) s = .next t ∧ (t.coreCtx dst op.ctx).readI m.inbox = (s.coreCtx dst op.ctx).readI m.inbox
      ∧ (t.coreCtx dst op.ctx).waiting = (s.coreCtx dst op.ctx).waiting ++ [m] := by
  have hcc : ∀ k, ((s.setCoreCtx dst op.ctx ((s.coreCtx dst op.ctx).deliver m)).setOp k).coreCtx dst op.ctx
      = { s.coreCtx dst op.ctx with waiting := (s.coreCtx dst op.ctx).waiting ++ [m] } := fun k => by
    rw [← deliver_to_full hp]
    exact coreCtx_setCoreCtx_same s _ _ _
  refine ⟨_, messageArrive_delivered h hres hstay hholds (.inr hroom), ?_, ?_⟩
  · rw [hcc]; rfl
  · rw [hcc]

end

theorem sendAck_ends {s : State} {n : Nat} {op : Op} {dst : Nat} {m : Message} (hop : s.op n = some op) (hid : op.id = n)
    (hops : s.ops = [op]) (hk : op.kind = .send dst m true) : exec (.sendAck n) s = .next { s with ops := [] } := by
  have hnone : s.removeOp n = { s with ops := [] } := by simp [State.removeOp, hops, hid]
  rw [← hnone]
  change execSendAck n s = _
  unfold execSendAck
  rw [hop]
  dsimp only
  rw [hk]

theorem messageEvents : MessageEvents := by
  intro s n op dst m hop hid hops hcore
  have only : op.kind = .send dst m false → OnlySend s n op dst m := fun hk => ⟨hop, hid, hops, hk⟩
  refine ⟨fun hk hres hstay => ⟨fun hholds => messageArrive_writes (only hk) hres hstay hholds,
    fun hholds => messageArrive_waits (only hk) hres hstay hholds, fun hholds => ?_⟩,
    fun hk hres hw => messageArrive_spills (only hk) hres hw rfl, sendAck_ends hop hid hops⟩
  obtain ⟨⟨r, hrecords⟩, hdead, hctxs⟩ := deadLetter_spec s op.ctx dst m
  rw [hcore] at hdead
  exact ⟨_, r, messageArrive_dead (only hk) hres hstay hholds, hrecords, hdead, hctxs⟩

/-- Settles O36: a SEND names a core of its partition or traps, RECV frees its inbox for the oldest message that waits, and a message
that arrives is written, waits, spills or is a dead letter by where its context stands. -/
theorem messageInstructionsAndEvents : Obligations.MessageInstructionsAndEvents := ⟨messages, messageEvents⟩

end Sys2Proof.Machine
end

section
/-!
PROOF. The frame of the scalar, predicate, vector and mask families (08 R113, 09 R131, R138, 11 R157, R219): what a slot of them leaves
is a chain of landings, pops of queues, events and accepts, and each link keeps everything else.
-/
namespace Sys2Proof.Machine
open Sys2Proof.Claims

/-! ## The frame, and that it composes -/

/-- The current thread gains writes to `ds` that wait to land; `fl` says that it may raise events, `acc` that it may count an accept;
queues may change; everything else stands. -/
structure Produces (fl acc : Bool) (ds : List Reg) (s t : State) : Prop where
  device : t = { s with threads := t.threads, ctxs := t.ctxs }
  own : ∃ new, t.th = { s.th with landing := s.th.landing ++ new, fpflags := t.th.fpflags, accepts := t.th.accepts }
    ∧ ∀ e ∈ new, e.dest ∈ ds
  flags : fl = false → t.th.fpflags = s.th.fpflags
  accepts : acc = false → t.th.accepts = s.th.accepts
  others : SameOthers s t
  queues : OnlyQueues s t

namespace Produces
variable {fl acc : Bool} {ds : List Reg} {s t u : State}

theorem refl (s : State) : Produces fl acc ds s s :=
  ⟨rfl, ⟨[], by rw [List.append_nil], List.forall_mem_nil _⟩, fun _ => rfl, fun _ => rfl, fun _ _ => rfl, fun _ _ => rfl⟩

theorem cur (h : Produces fl acc ds s t) : t.cur = s.cur := (congrArg State.cur h.device).trans rfl

theorem iss (h : Produces fl acc ds s t) : t.iss = s.iss := (congrArg State.iss h.device).trans rfl

theorem trans (h : Produces fl acc ds s t) (k : Produces fl acc ds t u) : Produces fl acc ds s u where
  device := by rw [k.device, h.device]
  own := by
    obtain ⟨new, hth, hnew⟩ := h.own
    obtain ⟨more, kth, kmore⟩ := k.own
    refine ⟨new ++ more, ?_, List.forall_mem_append.mpr ⟨hnew, kmore⟩⟩
    rw [kth, hth, List.append_assoc]
  flags := fun hf => (k.flags hf).trans (h.flags hf)
  accepts := fun ha => (k.accepts ha).trans (h.accepts ha)
  others := fun v hv => (k.others v (h.cur.symm ▸ hv)).trans (h.others v hv)
  queues := fun core ctx => by rw [k.queues, h.queues]

theorem foldl {α : Type} {f : State → α → State} {l : List α} (hf : ∀ t, ∀ a ∈ l, Produces fl acc ds t (f t a)) :
    ∀ s, Produces fl acc ds s (l.foldl f s) := by
  induction l with
  | nil => exact refl
  | cons a r ih =>
    exact fun s => (hf s a List.mem_cons_self).trans (ih (fun t b hb => hf t b (List.mem_cons_of_mem _ hb)) _)

/-! ## The links of the chain -/

/-- A change of the current thread's landing list, events and accepts. -/
theorem of_setTh {th : Thread} {new : List Landing}
    (hth : th = { s.th with landing := s.th.landing ++ new, fpflags := th.fpflags, accepts := th.accepts })
    (hnew : ∀ e ∈ new, e.dest ∈ ds) (hfl : fl = false → th.fpflags = s.th.fpflags)
    (hacc : acc = false → th.accepts = s.th.accepts) : Produces fl acc ds s (s.setTh th) where
  device := rfl
  own := ⟨new, by rw [th_setTh]; exact hth, hnew⟩
  flags := by rw [th_setTh]; exact hfl
  accepts := by rw [th_setTh]; exact hacc
  others := fun u hu => (thread_setThread s s.cur u th).trans (if_neg hu)
  queues := fun _ _ => rfl

/-- A change of one queue of the current core context. -/
theorem of_writeQ (s : State) (n : Fin 4) (l : List (Word × Bool)) : Produces fl acc ds s (s.setCc (s.cc.writeQ n l)) where
  device := rfl
  own := ⟨[], by rw [List.append_nil]; rfl, List.forall_mem_nil _⟩
  flags := fun _ => rfl
  accepts := fun _ => rfl
  others := fun _ _ => rfl
  queues := fun core ctx => by
    rw [State.setCc, coreCtx_setCoreCtx]
    split
    · next h => rw [State.cc, State.coreCtx, State.coreCtx, h]; rfl
    · rfl

/-- A result waits to land in its register, enters its queue, or is discarded (R26, R116, R125). -/
theorem land (s : State) {d : Reg} (hd : d ∈ ds) (v : VWord) (b : Bool) (l : Nat) : Produces fl acc ds s (s.land d v b l) := by
  have wait : Produces fl acc ds s
      (if discards d then s else s.setTh { s.th with landing := s.th.landing ++ [⟨d, v, b, l + 1⟩] }) := by
    split
    · exact .refl s
    · exact .of_setTh rfl (List.forall_mem_singleton.mpr hd) (fun _ => rfl) fun _ => rfl
  cases d with
  | none | imm | i => exact .refl s
  | q n => exact .of_writeQ s n _
  | x | v | m | p | c => exact wait

theorem popOne (s : State) (r : Reg) : Produces fl acc ds s (s.popOne r) := by
  cases r with
  | q n =>
    unfold State.popOne
    dsimp only
    split
    · exact .refl s
    · exact .of_writeQ s n _
  | x | v | m | p | c | i | none | imm => exact .refl s

theorem pops {M : Type} (s : State) (o : Fmt M) : Produces fl acc ds s (s.pops o) :=
  ((popOne s o.a).trans (popOne _ o.b)).trans (popOne _ o.c)

/-- Events enter FPFLAGS; no event leaves it as it was (R159). -/
theorem raise (s : State) {f : Flags} (hf : fl = false → f = .none) : Produces fl acc ds s (s.raise f) :=
  .of_setTh (new := []) (by rw [List.append_nil]) (List.forall_mem_nil _)
    (fun h => by rw [hf h]; exact BitVec.or_zero) fun _ => rfl

/-- Where events may be raised, any may (R159). -/
theorem raiseAny (s : State) (f : Flags) : Produces true acc ds s (s.raise f) := raise s nofun

/-- An accept is counted (R220). -/
theorem count (s : State) : Produces fl true ds s (s.setTh { s.th with accepts := s.th.accepts + 1 }) :=
  .of_setTh (new := []) (by rw [List.append_nil]) (List.forall_mem_nil _) (fun _ => rfl) nofun

/-! ## What the frame says of memory -/

theorem sameMemory (h : Produces fl acc ds s t) : SameMemory s t := by
  rw [h.device]
  exact ⟨fun _ => rfl, fun _ => rfl⟩

theorem sameScratch (h : Produces fl acc ds s t) : SameScratch s t :=
  ⟨fun core ctx a => by rw [h.queues]; rfl, fun core ctx a => by rw [h.queues]; rfl⟩

theorem sameDevice (h : Produces fl acc ds s t) : SameDevice s t := by
  unfold SameDevice
  rw [h.iss]
  exact h.device

end Produces

theorem orFlags_none {l : List Flags} (h : ∀ f ∈ l, f = .none) : orFlags l = .none := by
  unfold orFlags
  induction l with
  | nil => rfl
  | cons f r ih =>
    rw [List.foldl_cons, h f List.mem_cons_self]
    exact ih fun g hg => h g (List.mem_cons_of_mem _ hg)

/-- A vector instruction whose lanes raise no event raises none. -/
theorem vecLanes_noEvents (m : VecMod) (v : VecIn) {f : Nat → Nat × Flags} (hf : ∀ i, (f i).2 = .none) :
    (vecLanes m v f).2 = .none := by
  refine orFlags_none ?_
  intro x hx
  obtain ⟨y, hy, rfl⟩ := List.mem_map.mp hx
  obtain ⟨i, -, rfl⟩ := List.mem_map.mp hy
  split
  · exact hf i
  · rfl

/-! ## The body of a slot -/

/-- Where a body yields a state, the state satisfies `P`. -/
def Yields (P : State → Prop) (x : Except Stop State) : Prop := ∀ t, x = .ok t → P t

theorem yields_ok {P : State → Prop} {t : State} (h : P t) : Yields P (.ok t) := fun _ ht => Except.ok.inj ht ▸ h

theorem yields_error {P : State → Prop} (e : Stop) : Yields P (.error e) := fun _ ht => absurd ht (by simp)

theorem yields_bind {α : Type} {P : State → Prop} {x : Except Stop α} {f : α → Except Stop State} (h : ∀ a, Yields P (f a)) :
    Yields P (x >>= f) := by
  cases x with
  | ok a => exact h a
  | error e => exact yields_error e

/-- A slot that goes on running did what its body says, or was predicated off (R22, R29). -/
theorem slot_yields {P : State → Prop} {s t : State} {p : Pred} {body : Except Stop State} (hs : P s) (hbody : Yields P body)
    (h : s.slot p body = .next t) (hrun : t.iss.status = .running) : P t := by
  unfold State.slot at h
  split at h
  · split at h <;> cases h
    · exact hbody _ rfl
    all_goals exact absurd hrun nofun
  · cases h
    exact hs

section
variable {fl acc : Bool} {ds : List Reg} {s t : State}

theorem slot_produces {p : Pred} {body : Except Stop State} (hbody : Yields (Produces fl acc ds s) body)
    (h : s.slot p body = .next t) (hrun : t.iss.status = .running) : Produces fl acc ds s t :=
  slot_yields (.refl s) hbody h hrun

/-! ## Scalar families -/

variable (hrun : t.iss.status = .running)
include hrun

theorem intOp_produces {o : Fmt IntMod} {l : Nat} {f : Word → Word → Int} (h : s.intOp o l f = .next t) :
    Produces fl acc [o.d] s t :=
  slot_produces (yields_bind fun _ => yields_ok ((Produces.pops s o).trans (.land _ (List.mem_singleton_self _) _ _ _))) h hrun

theorem bitOp_produces {M : Type} {o : Fmt M} {f : Word → Word → Word → Word} (h : s.bitOp o f = .next t) :
    Produces fl acc [o.d] s t :=
  slot_produces (yields_bind fun _ => yields_ok ((Produces.pops s o).trans (.land _ (List.mem_singleton_self _) _ _ _))) h hrun

theorem sel_produces {o : Fmt Unit} (h : execSel o s = .next t) : Produces fl acc [o.d] s t :=
  slot_produces (yields_bind fun _ => yields_ok ((Produces.pops s o).trans (.land _ (List.mem_singleton_self _) _ _ _))) h hrun

theorem movi_produces {p : Pred} {d : Fin 32} {imm : BitVec 64} (h : execMovi p d imm s = .next t) :
    Produces fl acc [.x d] s t := by
  refine slot_produces ?_ h hrun
  split
  · exact yields_error _
  · exact yields_ok (.land s (List.mem_singleton_self _) _ _ _)

theorem predOp_produces {o : Fmt Unit} {f : Bool → Bool → Bool} (h : s.predOp o f = .next t) : Produces fl acc [o.d] s t :=
  slot_produces (yields_bind fun _ => yields_ok (.land s (List.mem_singleton_self _) _ _ _)) h hrun

theorem cmp_produces {o : Fmt CondMod} (h : execCmp o s = .next t) : Produces fl acc [o.d] s t :=
  slot_produces (yields_bind fun _ => yields_bind fun _ =>
    yields_ok ((Produces.pops s o).trans (.land _ (List.mem_singleton_self _) _ _ _))) h hrun

theorem pmovTox_produces {o : Fmt Unit} (h : execPmovTox o s = .next t) : Produces fl acc [o.d] s t :=
  slot_produces (yields_bind fun _ => yields_ok (.land s (List.mem_singleton_self _) _ _ _)) h hrun

theorem pmovFromx_produces {o : Fmt Unit} (h : execPmovFromx o s = .next t) :
    Produces fl acc [.p 1, .p 2, .p 3, .p 4, .p 5, .p 6, .p 7] s t := by
  have dest : ∀ i ∈ List.range 7, Reg.p (Fin.ofNat 8 (i + 1)) ∈ [Reg.p 1, .p 2, .p 3, .p 4, .p 5, .p 6, .p 7] := by decide
  exact slot_produces (yields_bind fun _ => yields_bind fun _ =>
    yields_ok ((Produces.pops s o).trans (.foldl (fun u i hi => .land u (dest i hi) _ _ _) _))) h hrun

/-! ## Vector and mask families -/

theorem laneOp_produces {o : Fmt VecMod} {l : Nat} {f : Nat → Nat → Nat → Nat × Flags}
    (hf : fl = false → ∀ a b c, (f a b c).2 = .none) (h : s.laneOp o l f = .next t) : Produces fl acc [o.d] s t :=
  slot_produces (yields_bind fun v => yields_ok
    ((Produces.raise s fun hfl => vecLanes_noEvents o.mod v fun _ => hf hfl _ _ _).trans
      (.land _ (List.mem_singleton_self _) _ _ _))) h hrun

theorem laneOp_produces_events {o : Fmt VecMod} {l : Nat} {f : Nat → Nat → Nat → Nat × Flags} (h : s.laneOp o l f = .next t) :
    Produces true acc [o.d] s t :=
  laneOp_produces hrun nofun h

theorem arith_produces {o : Fmt VecMod} {fi : Int → Int → Int → Int} {ff : Nat → Nat → Nat → Nat × Flags}
    (h : s.arith o fi ff = .next t) : Produces true acc [o.d] s t := by
  unfold State.arith at h
  exact laneOp_produces_events hrun h

theorem vdiv_produces {o : Fmt VecMod} (h : execVdiv o s = .next t) : Produces true acc [o.d] s t := by
  unfold execVdiv at h
  exact laneOp_produces_events hrun h

theorem vsqrt_produces {o : Fmt VecMod} (h : execVsqrt o s = .next t) : Produces true acc [o.d] s t := by
  unfold execVsqrt at h
  exact laneOp_produces_events hrun h

theorem vcvt_produces {o : Fmt VecMod} (h : execVcvt o s = .next t) : Produces true acc [o.d] s t :=
  slot_produces (yields_bind fun _ => yields_ok
    ((Produces.raiseAny s _).trans (.land _ (List.mem_singleton_self _) _ _ _))) h hrun

theorem vcmp_produces {o : Fmt VecMod} (h : execVcmp o s = .next t) : Produces true acc [o.d] s t :=
  slot_produces (yields_bind fun _ => yields_bind fun _ => yields_ok
    ((Produces.raiseAny s _).trans (.land _ (List.mem_singleton_self _) _ _ _))) h hrun

theorem vsel_produces {o : Fmt VecMod} (h : execVsel o s = .next t) : Produces fl acc [o.d] s t :=
  slot_produces (yields_bind fun _ => yields_ok (.land s (List.mem_singleton_self _) _ _ _)) h hrun

theorem vbcast_produces {o : Fmt VecMod} (h : execVbcast o s = .next t) : Produces fl acc [o.d] s t :=
  slot_produces (yields_bind fun _ => yields_bind fun _ => yields_ok (.land s (List.mem_singleton_self _) _ _ _)) h hrun

theorem vext_produces {o : Fmt VecMod} (h : execVext o s = .next t) : Produces fl acc [o.d] s t :=
  slot_produces (yields_bind fun _ => yields_bind fun _ => yields_ok (.land s (List.mem_singleton_self _) _ _ _)) h hrun

theorem vins_produces {o : Fmt VecMod} (h : execVins o s = .next t) : Produces fl acc [o.d] s t :=
  slot_produces (yields_bind fun _ => yields_bind fun _ => yields_bind fun _ =>
    yields_ok (.land s (List.mem_singleton_self _) _ _ _)) h hrun

theorem vperm_produces {o : Fmt VecMod} (h : execVperm o s = .next t) : Produces fl acc [o.d] s t :=
  slot_produces (yields_bind fun _ => yields_bind fun _ => yields_bind fun _ =>
    yields_ok (.land s (List.mem_singleton_self _) _ _ _)) h hrun

theorem vslide_produces {o : Fmt VecMod} (h : execVslide o s = .next t) : Produces fl acc [o.d] s t :=
  slot_produces (yields_bind fun _ => yields_ok (.land s (List.mem_singleton_self _) _ _ _)) h hrun

theorem viota_produces {o : Fmt VecMod} (h : execViota o s = .next t) : Produces fl acc [o.d] s t :=
  slot_produces (yields_bind fun _ => yields_ok (.land s (List.mem_singleton_self _) _ _ _)) h hrun

/-- VSORTKV lands its keys in vd and its values in the register after it (R169). -/
theorem vsortkv_produces {o : Fmt VecMod} (h : execVsortkv o s = .next t) : Produces fl acc [o.d, nextV o.d] s t := by
  refine slot_produces ?_ h hrun
  split
  · exact yields_error _
  · exact yields_bind fun _ => yields_bind fun _ => yields_ok
      ((Produces.land s List.mem_cons_self _ _ _).trans (.land _ (List.mem_cons_of_mem _ (List.mem_singleton_self _)) _ _ _))

theorem reduce_produces {o : Fmt VecMod} {f : Nat → Nat → Nat × Flags} (h : s.reduce o f = .next t) :
    Produces true acc [o.d] s t :=
  slot_produces (yields_bind fun _ => yields_ok
    ((Produces.raiseAny s _).trans (.land _ (List.mem_singleton_self _) _ _ _))) h hrun

theorem vredadd_produces {o : Fmt VecMod} (h : execVredadd o s = .next t) : Produces true acc [o.d] s t := by
  unfold execVredadd at h
  dsimp only at h
  split at h
  · exact slot_produces (yields_bind fun _ => yields_ok (.land s (List.mem_singleton_self _) _ _ _)) h hrun
  · exact reduce_produces hrun h

theorem vpopm_produces {o : Fmt VecMod} (h : execVpopm o s = .next t) : Produces fl acc [o.d] s t :=
  slot_produces (yields_bind fun _ => yields_ok (.land s (List.mem_singleton_self _) _ _ _)) h hrun

theorem maskOp_produces {o : Fmt VecMod} {f : BitVec 32 → BitVec 32 → BitVec 32} (h : s.maskOp o f = .next t) :
    Produces fl acc [o.d] s t :=
  slot_produces (yields_bind fun _ => yields_ok (.land s (List.mem_singleton_self _) _ _ _)) h hrun

theorem mfirst_produces {o : Fmt VecMod} (h : execMfirst o s = .next t) : Produces fl acc [o.d] s t :=
  slot_produces (yields_bind fun _ => yields_ok (.land s (List.mem_singleton_self _) _ _ _)) h hrun

/-- ACPT counts the accept of a bounded source, and lands its value (R219, R220). -/
theorem acpt_produces {o : Fmt Unit} (h : execAcpt o s = .next t) : Produces fl true [o.d] s t := by
  have step : ∀ a : Src, Produces fl true [o.d] s
      ((if a.b then s.setTh { s.th with accepts := s.th.accepts + 1 } else s).land o.d a.val false 1) := by
    intro a
    refine .trans ?_ (.land _ (List.mem_singleton_self _) _ _ _)
    split
    · exact .count s
    · exact .refl s
  exact slot_produces (yields_bind (f := fun x : Src × Src × Src => _) fun x => yields_ok (step x.1)) h hrun

theorem btest_produces {o : Fmt Unit} (h : execBtest o s = .next t) : Produces fl acc [o.d] s t :=
  slot_produces (yields_bind fun _ => yields_ok (.land s (List.mem_singleton_self _) _ _ _)) h hrun

end

/-! ## Every instruction of the families -/

/-- ACPT is the only instruction that counts an accept (R220). -/
def countsAccept : Instr → Bool
  | .acpt _ => true
  | _ => false

theorem countsAccept_eq_false {i : Instr} (h : ∀ o, i ≠ .acpt o) : countsAccept i = false := by
  cases hi : countsAccept i with
  | false => rfl
  | true =>
    cases i with
    | acpt o => exact absurd rfl (h o)
    | _ => exact absurd hi nofun

theorem exec_produces {i : Instr} {ds : List Reg} {s t : State} (hds : registersOf i = some ds) (h : exec i s = .next t)
    (hrun : t.iss.status = .running) : Produces (raises i) (countsAccept i) ds s t := by
  cases i
  all_goals cases hds
  all_goals dsimp only [exec] at h
  case nop => cases h; exact .refl s
  case add | sub | mul | mulh | mulhu | div | divu | rem | remu | and | or | xor | shl | shr | sra | min | max | minu | maxu =>
    exact intOp_produces hrun h
  case clz | ctz | popc | bfx | bfi | lea => exact bitOp_produces hrun h
  case sel => exact sel_produces hrun h
  case movi => exact movi_produces hrun h
  case cmp => exact cmp_produces hrun h
  case pand | por | pxor | pnot | pmov => exact predOp_produces hrun h
  case pmovTox => exact pmovTox_produces hrun h
  case pmovFromx => exact pmovFromx_produces hrun h
  case vadd | vsub | vmul | vfma | vfms | vmin | vmax | vabs | vneg =>
    dsimp only [execVadd, execVsub, execVmul, execVfma, execVfms, execVmin, execVmax, execVabs, execVneg] at h
    exact arith_produces hrun h
  case vdiv => exact vdiv_produces hrun h
  case vsqrt => exact vsqrt_produces hrun h
  case vand | vor | vxor | vshl | vshr | vsra => exact laneOp_produces hrun (fun _ _ _ _ => rfl) h
  case vcvt => exact vcvt_produces hrun h
  case vcmp => exact vcmp_produces hrun h
  case vsel => exact vsel_produces hrun h
  case vbcast => exact vbcast_produces hrun h
  case vext => exact vext_produces hrun h
  case vins => exact vins_produces hrun h
  case vperm => exact vperm_produces hrun h
  case vslide => exact vslide_produces hrun h
  case viota => exact viota_produces hrun h
  case vredadd => exact vredadd_produces hrun h
  case vredmin | vredmax => exact reduce_produces hrun h
  case vpopm => exact vpopm_produces hrun h
  case mand | mor | mxor | mnot => exact maskOp_produces hrun h
  case mfirst => exact mfirst_produces hrun h
  case acpt => exact acpt_produces hrun h
  case btest => exact btest_produces hrun h
  case vsortkv => exact vsortkv_produces hrun h

/-- Settles O5: every instruction of the families leaves a chain of landings, pops, events and accepts. -/
theorem registerFrame : Obligations.RegisterFrame := by
  unfold Obligations.RegisterFrame
  intro i ds s t hds _ h hrun
  have p := exec_produces hds h hrun
  exact ⟨⟨p.own, p.flags, fun hi => p.accepts (countsAccept_eq_false hi)⟩, p.queues, p.others, p.sameMemory, p.sameScratch,
    p.sameDevice, p.iss⟩

end Sys2Proof.Machine
end

section
/-!
PROOF. How a load of device memory starts (15 R119, R222, R233, R261): its elements pass their checks, each becomes a request, and the
operation stands last in flight with the lanes that a slice decides on the core's path.
-/
namespace Sys2Proof.Machine
open Sys2Proof.Claims

/-! ## The elements and their addresses (R233) -/

/-- An element whose translation is known. -/
def elemWith (addr : Nat → Word) (leaf : Nat → TlbEntry) (i : Nat) : GElem := ⟨i, addr i, leaf i, (leaf i).paOf (addr i).toNat⟩

/-- An element that the checks of a load let through (R79, R234, R270): `Fits`, but for what a 64-bit access of a BITS32 region asks. -/
structure Passes (s : State) (m : GlobMod) (cls : Nat) (ea : Word) (leaf : TlbEntry) : Prop where
  aligned : ea.toNat % globWm m = 0
  mapped : s.translate ea .load = .ok leaf
  page : leaf.cls = cls
  free : cls ≠ 1 → ∀ l, s.regionLock = some l → l.1 ≠ leaf.region
  valid : cls ≠ 1 → regV (s.region leaf.region) = true
  width : cls ≠ 1 → regBytes (s.region leaf.region) = globWm m ∨ regType (s.region leaf.region) = 6 ∧ m.w64 = true
  float : m.fc ≠ .none → cls ≠ 1 ∧ regType (s.region leaf.region) = 4

section
variable {s : State} {m : GlobMod} {o : Fmt GlobMod} {cls : Nat} {ea : Word} {leaf : TlbEntry}

theorem passes_of_fits (h : Fits s m .load cls ea leaf) : Passes s m cls ea leaf :=
  ⟨h.aligned, h.mapped, h.page, h.free, h.valid, fun hc => .inl (h.width hc), h.float⟩

theorem base_add_word (s : State) (o : Fmt GlobMod) :
    (s.read o.imm o.a).word + immWord o.imm + (s.read o.imm o.b).word = eaOf s o := by
  unfold eaOf State.opA State.opB immWord
  ac_rfl

theorem globElems_scalar (s : State) (o : Fmt GlobMod) :
    s.globElems .scalar o (s.read o.imm o.a) (s.read o.imm o.b) = [0].map fun i => (i, eaOf s o) := by
  unfold State.globElems
  dsimp only
  rw [base_add_word]
  rfl

theorem globElems_contiguous (s : State) (o : Fmt GlobMod) :
    s.globElems .contiguous o (s.read o.imm o.a) (s.read o.imm o.b) = (lanesOn s o).map fun i => (i, contiguousAddr s o i) := by
  unfold State.globElems
  dsimp only
  rw [base_add_word]
  rfl

/-- A lane of at least 32 bits, read as a number or as bits. -/
theorem ofNat_lane_eq {w : Nat} (hw : 4 ≤ w) (v : VWord) (i : Nat) :
    BitVec.ofNat 32 (lane w v i) = (v >>> (8 * w * i)).setWidth 32 := by
  refine BitVec.eq_of_getLsbD_eq fun j hj => ?_
  rw [BitVec.getLsbD_ofNat, BitVec.getLsbD_setWidth, BitVec.getLsbD_ushiftRight, lane, bits, Nat.testBit_mod_two_pow,
    Nat.testBit_div_two_pow, decide_eq_true (by omega : j < 8 * w), Bool.true_and, Nat.add_comm j, BitVec.getLsbD]

theorem four_le_globLw (m : GlobMod) : 4 ≤ globLw m := by
  unfold globLw
  split <;> decide

theorem globElems_indexed (s : State) (o : Fmt GlobMod) :
    s.globElems .indexed o (s.read o.imm o.a) (s.read o.imm o.b) = (lanesOn s o).map fun i => (i, indexedAddr s o i) := by
  unfold State.globElems
  dsimp only
  simp only [ofNat_lane_eq (four_le_globLw o.mod)]
  rfl

/-! ## The checks (R234) -/

theorem translateAll_ok {k : Access} {addr : Nat → Word} {leaf : Nat → TlbEntry} {l : List Nat}
    (h : ∀ i ∈ l, s.translate (addr i) k = .ok (leaf i)) :
    s.translateAll k (l.map fun i => (i, addr i)) = .ok (l.map (elemWith addr leaf)) := by
  induction l with
  | nil => rfl
  | cons i r ih =>
    obtain ⟨hi, hr⟩ := List.forall_mem_cons.mp h
    simp only [List.map_cons, State.translateAll, hi, ih hr]
    rfl

theorem regionHeld_free {l : List GElem}
    (h : ∀ e ∈ l, e.leaf.cls ≠ 1 → ∀ k, s.regionLock = some k → k.1 ≠ e.leaf.region) : s.regionHeld l = false := by
  unfold State.regionHeld
  cases hk : s.regionLock with
  | none => rfl
  | some k =>
    refine List.any_eq_false.mpr fun e he hheld => ?_
    obtain ⟨hcls, hreg⟩ := Bool.and_eq_true_iff.mp hheld
    exact h e he (bne_iff_ne.mp hcls) k hk (beq_iff_eq.mp hreg).symm

theorem globMisfit_passes (h : Passes s m cls ea leaf) (i pa : Nat) : s.globMisfit m false ⟨i, ea, leaf, pa⟩ = false := by
  unfold State.globMisfit
  dsimp only
  rw [h.page]
  by_cases hc : cls = 1
  · have hfc : m.fc = .none := by
      by_contra hfc
      exact (h.float hfc).1 hc
    simp [hc, hfc]
  · have hfloat : (m.fc != .none && regType (s.region leaf.region) != 4) = false := by
      by_cases hfc : m.fc = .none
      · simp [hfc]
      · simp [(h.float hfc).2]
    have hwidth : (regBytes (s.region leaf.region) != globWm m && !(regType (s.region leaf.region) == 6 && m.w64)) = false := by
      obtain hw | ⟨htype, hw⟩ := h.width hc
      · simp [hw]
      · simp [htype, hw]
    rw [if_neg hc, hfloat, hwidth, h.valid hc]
    rfl

theorem failElem_ok {l : List GElem} {bad : GElem → Bool} (h : ∀ e ∈ l, bad e = false) (cause : Nat) :
    failElem l bad cause = .ok () := by
  rw [failElem, List.find?_eq_none.mpr fun e he => by simp [h e he]]

theorem globCheck_ok {f : GForm} {l : List Nat} {addr : Nat → Word} {leaf : Nat → TlbEntry} (ha : s.bitA o = false)
    (hb : s.bitB o = false)
    (hel : s.globElems f o (s.read o.imm o.a) (s.read o.imm o.b) = l.map fun i => (i, addr i))
    (hl : ∀ i ∈ l, Passes s o.mod cls (addr i) (leaf i)) :
    s.globCheck f o false false (s.read o.imm o.a) (s.read o.imm o.b) = .ok (l.map (elemWith addr leaf)) := by
  have haligned : ∀ a ∈ (l.map fun i => (i, addr i)).map (·.2), decide (a.toNat % globWm o.mod ≠ 0) = false := by
    intro a ha
    obtain ⟨p, hp, rfl⟩ := List.mem_map.mp ha
    obtain ⟨i, hi, rfl⟩ := List.mem_map.mp hp
    exact decide_eq_false (not_not.mpr (hl i hi).aligned)
  have hheld : s.regionHeld (l.map (elemWith addr leaf)) = false := by
    refine regionHeld_free fun e he => ?_
    obtain ⟨i, hi, rfl⟩ := List.mem_map.mp he
    intro hc
    exact (hl i hi).free fun h => hc ((hl i hi).page.trans h)
  have hfit : ∀ e ∈ l.map (elemWith addr leaf), s.globMisfit o.mod false e = false := by
    intro e he
    obtain ⟨i, hi, rfl⟩ := List.mem_map.mp he
    exact globMisfit_passes (hl i hi) _ _
  unfold State.globCheck
  rw [noBounded_ok (base_unbounded ha hb), hel]
  dsimp only
  rw [failFirst_ok haligned, if_neg Bool.false_ne_true, translateAll_ok fun i hi => (hl i hi).mapped]
  change (if s.regionHeld (l.map (elemWith addr leaf)) = true then _ else do
    failElem (l.map (elemWith addr leaf)) (s.globMisfit o.mod false) 50
    .ok (l.map (elemWith addr leaf))) = _
  rw [hheld, failElem_ok hfit]
  rfl

/-! ## The requests (R222, R229, R233) -/

/-- An element that fits its region is one request. -/
theorem laneReqs_fits (h : Fits s m .load cls ea leaf) (i : Nat) :
    s.laneReqs m ⟨i, ea, leaf, leaf.paOf ea.toNat⟩ = [asked s m i cls ea leaf] := by
  have hone : (leaf.cls != 1 && regType (s.region leaf.region) == 6 && m.w64) = false := by
    by_contra hhalf
    simp only [Bool.not_eq_false, Bool.and_eq_true, bne_iff_ne, beq_iff_eq] at hhalf
    obtain ⟨⟨hcls, htype⟩, hw⟩ := hhalf
    have hwidth := h.width fun hc => hcls (h.page.trans hc)
    simp [regBytes, htype, globWm, hw] at hwidth
  unfold State.laneReqs
  dsimp only
  rw [hone, h.page]
  rfl

/-- A 64-bit element of a BITS32 region is two. -/
theorem laneReqs_halves (hcls : leaf.cls ≠ 1) (htype : regType (s.region leaf.region) = 6) (hw : m.w64 = true) :
    s.laneReqs m ⟨0, ea, leaf, leaf.paOf ea.toNat⟩ = [askedHalf s leaf.cls ea leaf 0, askedHalf s leaf.cls ea leaf 1] := by
  have htwo : (leaf.cls != 1 && regType (s.region leaf.region) == 6 && m.w64) = true := by simp [hcls, htype, hw]
  unfold State.laneReqs
  dsimp only
  rw [htwo]
  rfl

theorem laneReqs_all {l : List Nat} {addr : Nat → Word} {leaf : Nat → TlbEntry}
    (h : ∀ i ∈ l, Fits s m .load cls (addr i) (leaf i)) :
    ((l.map (elemWith addr leaf)).map fun e => s.laneReqs m e).flatten = l.map fun i => asked s m i cls (addr i) (leaf i) := by
  induction l with
  | nil => rfl
  | cons i r ih =>
    obtain ⟨hi, hr⟩ := List.forall_mem_cons.mp h
    have hone : s.laneReqs m (elemWith addr leaf i) = [asked s m i cls (addr i) (leaf i)] := laneReqs_fits hi i
    rw [List.map_cons, List.map_cons, List.flatten_cons, ih hr, hone]
    rfl

/-! ## The lanes on the path (R261) -/

/-- What a fold of `sendLanes` leaves: the items of the waiting lanes behind what the path held. -/
def Sends (op : Nat) (l : List (LaneReq × Nat)) (s t : State) : Prop :=
  ∃ sent, t = { s with paths := s.paths ++ sent, serial := t.serial }
    ∧ sent.map (·.item) = (l.filter fun p => p.1.cls == 0 && p.1.result == .waiting).map fun p => PathItem.load op p.2

theorem sendLanes_sends (op : Nat) (l : List LaneReq) (s : State) : Sends op l.zipIdx s (s.sendLanes op l) := by
  have fold : ∀ (l : List (LaneReq × Nat)) (s : State), Sends op l s (l.foldl (fun s p =>
      if p.1.cls = 0 ∧ p.1.result = .waiting then s.pushPath (pathOf s.cur.core) (sliceOf p.1.pa) (.load op p.2) else s) s) := by
    intro l
    induction l with
    | nil => exact fun s => ⟨[], by rw [List.append_nil]; rfl, rfl⟩
    | cons p r ih =>
      intro s
      rw [List.foldl_cons]
      by_cases hp : p.1.cls = 0 ∧ p.1.result = .waiting
      · obtain ⟨sent, ht, hsent⟩ := ih (s.pushPath (pathOf s.cur.core) (sliceOf p.1.pa) (.load op p.2))
        rw [if_pos hp]
        refine ⟨⟨pathOf s.cur.core, sliceOf p.1.pa, s.serial, .load op p.2⟩ :: sent, ?_, ?_⟩
        · refine ht.trans ?_
          simp only [State.pushPath, List.append_assoc, List.singleton_append]
        · rw [List.filter_cons_of_pos (by simp [hp]), List.map_cons, List.map_cons, hsent]
      · obtain ⟨sent, ht, hsent⟩ := ih s
        rw [if_neg hp]
        exact ⟨sent, ht, by rw [List.filter_cons_of_neg (by simpa using hp), hsent]⟩
  exact fold l.zipIdx s

/-! ## The whole load -/

theorem loadStarts_of {vec : Bool} {base : VWord} {baseB : Bool} {lanes : List LaneReq} {r : Host.Outcome State Fault Refusal}
    (h : r = .next ((s.start o.d (.load ⟨vec, o.mod.w64, o.mod.fc, o.mod.sx, globLw o.mod, base, baseB⟩ lanes)).sendLanes
      s.nextOp lanes)) : LoadStarts s o vec base baseB lanes r := by
  obtain ⟨sent, ht, hsent⟩ := sendLanes_sends s.nextOp lanes
    (s.start o.d (.load ⟨vec, o.mod.w64, o.mod.fc, o.mod.sx, globLw o.mod, base, baseB⟩ lanes))
  refine ⟨_, h, ?_⟩
  rw [ht]
  exact ⟨rfl, rfl, rfl, ⟨sent, rfl, hsent⟩, rfl⟩

theorem portBusy_free (h : portFree s) : s.portBusy = false := by
  obtain ⟨hmerging, hport⟩ := h
  simp [State.portBusy, hmerging, hport]

/-- What every form of a load needs: its slot issues, its addresses are not bounded, no watchpoint is set, and the port is free where
its pages are MERGE. -/
structure MayLoad (s : State) (o : Fmt GlobMod) (cls : Nat) : Prop where
  issues : s.Issues o
  a : s.bitA o = false
  b : s.bitB o = false
  unwatched : unwatched s
  port : cls = 0 → portFree s

theorem globLoad_ok {f : GForm} {l : List Nat} {addr : Nat → Word} {leaf : Nat → TlbEntry} {old : Src} (h : MayLoad s o cls)
    (hold : s.globOld f o = .ok old)
    (hel : s.globElems f o (s.read o.imm o.a) (s.read o.imm o.b) = l.map fun i => (i, addr i))
    (hl : ∀ i ∈ l, Passes s o.mod cls (addr i) (leaf i)) :
    LoadStarts s o (f != .scalar) old.val old.b ((l.map (elemWith addr leaf)).map fun e => s.laneReqs o.mod e).flatten
      (s.globLoad f o) := by
  have hport : (!((l.map (elemWith addr leaf)).filter fun e => e.leaf.cls == 0).isEmpty && s.portBusy) = false := by
    by_cases hc : cls = 0
    · rw [portBusy_free (h.port hc), Bool.and_false]
    · have hnone : (l.map (elemWith addr leaf)).filter (fun e => e.leaf.cls == 0) = [] := by
        refine List.filter_eq_nil_iff.mpr fun e he => ?_
        obtain ⟨i, hi, rfl⟩ := List.mem_map.mp he
        exact fun h0 => hc ((hl i hi).page.symm.trans (beq_iff_eq.mp h0))
      rw [hnone]
      rfl
  refine loadStarts_of (slot_sources_ok h.issues.on h.issues ?_)
  dsimp only
  rw [hold, globCheck_ok h.a h.b hel hl]
  change (if (!((l.map (elemWith addr leaf)).filter fun e => e.leaf.cls == 0).isEmpty && s.portBusy) = true then _ else _) = _
  rw [hport, watchAll_of_unwatched h.unwatched]
  rfl

/-- Every element fits: one request for each. -/
theorem globLoad_fits {f : GForm} {l : List Nat} {addr : Nat → Word} {leaf : Nat → TlbEntry} {old : Src} (h : MayLoad s o cls)
    (hold : s.globOld f o = .ok old)
    (hel : s.globElems f o (s.read o.imm o.a) (s.read o.imm o.b) = l.map fun i => (i, addr i))
    (hl : ∀ i ∈ l, Fits s o.mod .load cls (addr i) (leaf i)) :
    LoadStarts s o (f != .scalar) old.val old.b (l.map fun i => asked s o.mod i cls (addr i) (leaf i)) (s.globLoad f o) :=
  laneReqs_all hl ▸ globLoad_ok h hold hel fun i hi => passes_of_fits (hl i hi)

/-- The old destination of a vector load, which it reads where its mask keeps part of it (R156). -/
theorem globOld_vector {f : GForm} {d : Fin 32} (hf : (f != .scalar) = true) (hd : o.d = .v d)
    (hp : (o.mod.zm = false ∧ o.mod.mask ≠ 0) → (s.th.readV d).st = .present) :
    ∃ old, s.globOld f o = .ok old ∧ (old.val, old.b) = keptBy s o.mod d := by
  by_cases hk : o.mod.zm = false ∧ o.mod.mask ≠ 0
  · have hst : (s.read o.imm o.d).st = .present := by rw [hd]; exact hp hk
    obtain ⟨hz, hm⟩ := hk
    refine ⟨s.read o.imm o.d, by simp [State.globOld, hf, hz, hm, firstFault, hst], ?_⟩
    rw [keptBy, if_neg (by simp [hz, hm]), hd]
    simp [State.read, RCell.src]
  · have hskip : (o.mod.zm || o.mod.mask == 0) = true := by
      by_contra h
      exact hk (by simpa using h)
    have hread : ¬ (f != .scalar && !o.mod.zm && o.mod.mask != 0) = true := by
      rw [hf, Bool.true_and]
      exact fun h => hk (by simpa using h)
    exact ⟨.present 0, if_neg hread, (if_pos hskip).symm⟩

theorem globLoad_vector {f : GForm} {addr : Nat → Word} {leaf : Nat → TlbEntry} {d : Fin 32} (h : MayLoad s o cls)
    (hf : (f != .scalar) = true) (hd : o.d = .v d) (hp : (o.mod.zm = false ∧ o.mod.mask ≠ 0) → (s.th.readV d).st = .present)
    (hel : s.globElems f o (s.read o.imm o.a) (s.read o.imm o.b) = (lanesOn s o).map fun i => (i, addr i))
    (hl : ∀ i ∈ lanesOn s o, Fits s o.mod .load cls (addr i) (leaf i)) :
    LoadStarts s o true (keptBy s o.mod d).1 (keptBy s o.mod d).2
      ((lanesOn s o).map fun i => asked s o.mod i cls (addr i) (leaf i)) (s.globLoad f o) := by
  obtain ⟨old, hold, hkept⟩ := globOld_vector hf hd hp
  rw [← hkept, ← hf]
  exact globLoad_fits h hold hel hl

theorem ldg_halves {leaf : TlbEntry} (h : MayLoad s o leaf.cls) (hw : o.mod.w64 = true) (hfc : o.mod.fc = .none) (hcls : leaf.cls ≠ 1)
    (hal : (eaOf s o).toNat % 8 = 0) (hmap : s.translate (eaOf s o) .load = .ok leaf) (hlock : s.regionLock = none)
    (hv : regV (s.region leaf.region) = true) (ht : regType (s.region leaf.region) = 6) :
    LoadStarts s o false 0 false [askedHalf s leaf.cls (eaOf s o) leaf 0, askedHalf s leaf.cls (eaOf s o) leaf 1]
      (exec (.ldg o) s) := by
  have hpass : Passes s o.mod leaf.cls (eaOf s o) leaf :=
    ⟨by rw [globWm, hw]; exact hal, hmap, rfl, fun _ l hl => (by rw [hlock] at hl; cases hl), fun _ => hv, fun _ => .inr ⟨ht, hw⟩,
      fun h => absurd hfc h⟩
  have hreqs := laneReqs_halves (s := s) (m := o.mod) (ea := eaOf s o) hcls ht hw
  have hload := globLoad_ok (f := .scalar) (leaf := fun _ => leaf) h rfl (globElems_scalar s o) (List.forall_mem_singleton.mpr hpass)
  rw [List.map_singleton, List.map_singleton, elemWith, hreqs] at hload
  exact hload

end

/-- Settles O27: the checks let every element through, and each becomes the request that the statement names. -/
theorem globalLoadStarts : Obligations.GlobalLoadStarts := by
  unfold Obligations.GlobalLoadStarts
  intro s o cls leaf h ha hb hw hport
  have hmay : MayLoad s o cls := ⟨h, ha, hb, hw, hport⟩
  refine ⟨fun hfit => ?_, ?_, fun d hd hp => ⟨fun hfit => ?_, fun hfit => ?_⟩⟩
  · exact globLoad_fits hmay rfl (globElems_scalar s o) (List.forall_mem_singleton.mpr hfit)
  · rintro hw64 hfc hcls hal hmap rfl hlock hv ht
    exact ldg_halves hmay hw64 hfc hcls hal hmap hlock hv ht
  · exact globLoad_vector hmay rfl hd hp (globElems_contiguous s o) hfit
  · exact globLoad_vector hmay rfl hd hp (globElems_indexed s o) hfit

end Sys2Proof.Machine
end

section
/-!
PROOF. How a load of device memory resolves (15 R119, R222, R227-R229, R233, R235): what a lane composes from the entries of its key, and
what LOAD_SERVE does with a lane at the head of its path and with a load whose lanes are all decided.
-/
namespace Sys2Proof.Machine
open Sys2Proof.Claims

/-! ## Composing a lane (R227, R229) -/

section
variable {s : State} {l : LaneReq} {e f : RunEntry}

/-- What a lane answers with a value: fitted to its region, or cause 49 at its key. -/
def fitted (s : State) (l : LaneReq) (b : Bool) (v : Option Int) : LaneResult :=
  match v with
  | none => .fault 49 (BitVec.ofNat 64 (l.pa / 4 * 4))
  | some v => match regFit (s.region l.region) v with
    | none => .fault 49 (BitVec.ofNat 64 (l.pa / 4 * 4))
    | some n => .value n b

/-- The entries from the newest SET decide a lane alone. -/
theorem laneResult_set {es new : List RunEntry} (hnew : sinceSet es = new) (hset : hasSet new = true) :
    s.laneResult l es = fitted s l false (if oneRegion new then composeValue s none new else none) := by
  unfold State.laneResult
  dsimp only
  rw [hnew, if_pos hset]
  rfl

/-- Without a SET the element of DRAM is the oldest value. -/
theorem laneResult_dram {es new : List RunEntry} (hnew : sinceSet es = new) (hset : hasSet new = false)
    (hpoison : tagPoison (s.blockTag l.pa) = false) : s.laneResult l es = fitted s l (tagB (s.blockTag l.pa))
      (if oneRegion new then composeValue s (some (s.dramElement (s.region l.region) l.pa)) new else none) := by
  unfold State.laneResult
  dsimp only
  rw [hnew, if_neg (by simp [hset]), if_neg (by simp [hpoison])]
  rfl

theorem laneResult_poison (hpoison : tagPoison (s.blockTag l.pa) = true) :
    s.laneResult l [] = .fault 29 (BitVec.ofNat 64 l.va) := by
  unfold State.laneResult
  dsimp only
  exact (if_neg Bool.false_ne_true).trans (if_pos hpoison)

end

theorem loadComposesTheLevels : LoadComposesTheLevels := by
  intro s l e f r tval answer
  have hanswer : ∀ v b, fitted s l b (some v) = answer v b := by
    intro v b
    unfold fitted
    dsimp only [answer]
    cases regFit (s.region l.region) v <;> rfl
  refine ⟨laneResult_poison, fun hp => ?_, fun he => ?_, fun hp he hr => ?_, fun he hf hr hl => ?_, fun he hf hr => ?_, fun hf => ?_⟩
  · rw [laneResult_dram rfl rfl hp, ← hanswer]
    rfl
  · rw [laneResult_set (new := [e]) (by simp [sinceSet, he]) (by simp [hasSet, he]), ← hanswer]
    simp [oneRegion, composeValue, he]
  · rw [laneResult_dram (new := [e]) (by simp [sinceSet, he]) (by simp [hasSet, he]) hp, ← hanswer]
    simp [oneRegion, composeValue, he, hr, r]
  · rw [laneResult_set (new := [e, f]) (by simp [sinceSet, he, hf]) (by simp [hasSet, he]), ← hanswer]
    simp [oneRegion, composeValue, he, hf, hr, hl, r]
  · rw [laneResult_set (new := [e, f]) (by simp [sinceSet, he, hf]) (by simp [hasSet, he])]
    simp [oneRegion, Ne.symm hr, fitted, tval]
  · rw [laneResult_set (new := [f]) (by simp [sinceSet, hf]) (by simp [hasSet, hf]), ← hanswer]
    simp [oneRegion, composeValue, hf]

/-! ## A load whose lanes are all decided (R119, R233) -/

theorem decided_iff (l : LaneReq) : l.decided = true ↔ l.result ≠ .waiting := by
  unfold LaneReq.decided
  cases l.result <;> simp

/-- The delays of a load touch threads alone (R384). -/
theorem addDelay_device (s : State) (t : ThreadId) (stack : Option Nat) (i : Nat) :
    s.addDelay t stack i = { s with threads := (s.addDelay t stack i).threads } := by
  unfold State.addDelay
  cases stack <;> rfl

/-- A load that resolves, with the delays it carried back counted. -/
def State.delayed (s : State) (o : Op) (lanes : List LaneReq) : State :=
  ((s.loadStacks lanes).zipIdx).foldl (fun s p => s.addDelay o.owner p.1 p.2) s

theorem delayed_device (s : State) (o : Op) (lanes : List LaneReq) :
    s.delayed o lanes = { s with threads := (s.delayed o lanes).threads } := by
  have fold : ∀ (l : List (Option Nat × Nat)) (s : State), l.foldl (fun s p => s.addDelay o.owner p.1 p.2) s
      = { s with threads := (l.foldl (fun s p => s.addDelay o.owner p.1 p.2) s).threads } := by
    intro l
    induction l with
    | nil => exact fun _ => rfl
    | cons p r ih =>
      intro s
      rw [List.foldl_cons, ih, addDelay_device]
  exact fold _ s

section
variable {s : State} {o : Op} {v : VWord} {b : Bool} {st : RState} {d : Fin 32}

theorem op_resolve (hd : o.dest = some (.x d)) : (s.resolve o v b st).op o.id = none := by
  unfold State.resolve
  dsimp only
  rw [hd]
  exact List.find?_eq_none.mpr fun p hp => by simpa using (List.mem_filter.mp hp).2

theorem readX_resolve (hd : o.dest = some (.x d)) (h0 : d ≠ 0) :
    ((s.resolve o v b st).thread o.owner).readX d = ⟨v.setWidth 64, b, st⟩ := by
  unfold State.resolve
  dsimp only
  rw [hd]
  simp only [State.writeReg, thread_setThread_same]
  rw [readX_writeX, if_pos ⟨rfl, h0⟩]

theorem resolve_device (hd : o.dest = some (.x d)) :
    s.resolve o v b st = { s with ops := (s.resolve o v b st).ops, threads := (s.resolve o v b st).threads } := by
  unfold State.resolve
  dsimp only
  rw [hd]
  rfl

theorem resolve_keeps (hd : o.dest = some (.x d)) : SameMemory s (s.resolve o v b st) ∧ SameScratch s (s.resolve o v b st) := by
  rw [resolve_device hd]
  exact ⟨⟨fun _ => rfl, fun _ => rfl⟩, fun _ _ _ => rfl, fun _ _ _ => rfl⟩

theorem delayed_keeps (s : State) (o : Op) (lanes : List LaneReq) :
    SameMemory s (s.delayed o lanes) ∧ SameScratch s (s.delayed o lanes) := by
  rw [delayed_device]
  exact ⟨⟨fun _ => rfl, fun _ => rfl⟩, fun _ _ _ => rfl, fun _ _ _ => rfl⟩

/-- What resolves after the delays keeps memory and the scratchpads of the state before them. -/
theorem delayed_resolve_keeps (lanes : List LaneReq) (hd : o.dest = some (.x d)) :
    SameMemory s ((s.delayed o lanes).resolve o v b st) ∧ SameScratch s ((s.delayed o lanes).resolve o v b st) := by
  obtain ⟨⟨hbyte, htag⟩, hspad, hstag⟩ := delayed_keeps s o lanes
  obtain ⟨⟨kbyte, ktag⟩, kspad, kstag⟩ := resolve_keeps (s := s.delayed o lanes) (v := v) (b := b) (st := st) hd
  exact ⟨⟨fun a => (kbyte a).trans (hbyte a), fun a => (ktag a).trans (htag a)⟩,
    fun core ctx a => (kspad core ctx a).trans (hspad core ctx a), fun core ctx a => (kstag core ctx a).trans (hstag core ctx a)⟩

end

section
variable {s : State} {n : Nat} {op : Op} {fmt : LoadFmt} {lanes : List LaneReq}

theorem finishLoad_value (h : laneFault lanes = none) : s.finishLoad op fmt lanes
    = (s.delayed op lanes).resolve op (fmt.value lanes) (fmt.baseB || lanes.any LaneReq.bounded) .present := by
  unfold State.finishLoad
  rw [h]
  rfl

theorem finishLoad_fault {c : Nat} {v : Word} (h : laneFault lanes = some (c, v)) : s.finishLoad op fmt lanes
    = (s.delayed op lanes).resolve op 0 false (.faulted c v) := by
  unfold State.finishLoad
  rw [h]
  rfl

/-! ## LOAD_SERVE -/

variable (hop : s.op n = some op) (hk : op.kind = .load fmt lanes)
include hop hk

theorem loadServe_decided (h : ∀ l ∈ lanes, l.result ≠ .waiting) : exec (.loadServe n) s = .next (s.finishLoad op fmt lanes) := by
  have hall : lanes.all LaneReq.decided = true := List.all_eq_true.mpr fun l hl => (decided_iff l).mpr (h l hl)
  change execLoadServe n s = _
  unfold execLoadServe
  rw [hop]
  dsimp only
  rw [hk]
  dsimp only
  rw [if_pos hall]

theorem loadServe_resolves {d : Fin 32} (hid : op.id = n) (hd : op.dest = some (.x d)) (h0 : d ≠ 0)
    (h : ∀ l ∈ lanes, l.result ≠ .waiting) : ∃ t, exec (.loadServe n) s = .next t ∧ t.op n = none
    ∧ (laneFault lanes = none → (t.thread op.owner).readX d
        = ⟨(fmt.value lanes).setWidth 64, fmt.baseB || lanes.any LaneReq.bounded, .present⟩)
    ∧ (∀ c v, laneFault lanes = some (c, v) → (t.thread op.owner).readX d = ⟨0, false, .faulted c v⟩)
    ∧ SameMemory s t ∧ SameScratch s t := by
  refine ⟨_, loadServe_decided hop hk h, ?_⟩
  subst hid
  cases hf : laneFault lanes with
  | none =>
    rw [finishLoad_value hf]
    exact ⟨op_resolve hd, fun _ => readX_resolve hd h0, nofun, delayed_resolve_keeps lanes hd⟩
  | some p =>
    rw [finishLoad_fault hf]
    refine ⟨op_resolve hd, nofun, fun c v hcv => ?_, delayed_resolve_keeps lanes hd⟩
    cases hcv
    exact readX_resolve hd h0

end

/-- An operation that is replaced is found in its place. -/
theorem op_setOp {s : State} {o p : Op} (h : s.op o.id = some p) : (s.setOp o).op o.id = some o := by
  have hid : p.id = o.id := by simpa using List.find?_some h
  have hsame : ((fun q : Op => q.id == o.id) ∘ fun q => if q.id == o.id then o else q) = fun q => q.id == o.id := by
    funext q
    by_cases hq : q.id = o.id <;> simp [hq]
  have hfind : s.ops.find? (fun q => q.id == o.id) = some p := h
  unfold State.op State.setOp
  dsimp only
  rw [List.find?_map, hsame, hfind, Option.map_some, if_pos (beq_iff_eq.mpr hid)]

/-- One lane waits at the head of its path, which holds nothing else. -/
structure LaneAtHead (s : State) (n : Nat) (op : Op) (fmt : LoadFmt) (l : LaneReq) (e : PathEntry) : Prop where
  found : s.op n = some op
  id : op.id = n
  kind : op.kind = .load fmt [l]
  waits : l.result = .waiting
  path : s.paths = [e]
  item : e.item = .load n 0

section
variable {s : State} {n : Nat} {op : Op} {fmt : LoadFmt} {l : LaneReq} {e : PathEntry} (h : LaneAtHead s n op fmt l e)
include h

theorem servable_atHead : s.servable n = if s.reserved l.pa l.width = false then [(e, 0)] else [] := by
  have hhead : s.pathHead e = true := by simp [State.pathHead, h.path]
  have hheld : s.laneHeld n 0 = s.reserved l.pa l.width := by
    unfold State.laneHeld
    rw [h.found]
    dsimp only
    rw [h.kind]
    rfl
  unfold State.servable
  rw [h.path]
  simp only [List.filterMap_cons, List.filterMap_nil, h.item, hhead, hheld, true_and]
  by_cases hr : s.reserved l.pa l.width = false
  · rw [if_pos hr, if_pos hr]
  · rw [if_neg hr, if_neg hr]

theorem loadServe_waiting : exec (.loadServe n) s = match s.pick (s.servable n) with
    | some (e, i) =>
      let s := match [l][i]? with
        | some l => if hasSet (s.beyond (l.pa / 4) ++ l.view) then s else s.eccFor (op.reader 29) l.pa l.width
        | none => s
      .next ((s.popPath e).setOp { op with kind := .load fmt ([l].modify i fun l =>
        s.decideLane l (s.beyond (l.pa / 4) ++ l.view)) })
    | none => .next s := by
  have hall : ¬ [l].all LaneReq.decided = true := by simp [LaneReq.decided, h.waits]
  change execLoadServe n s = _
  unfold execLoadServe
  rw [h.found]
  dsimp only
  rw [h.kind]
  dsimp only
  exact if_neg hall

theorem loadServe_reserved (hr : s.reserved l.pa l.width = true) : exec (.loadServe n) s = .next s := by
  rw [loadServe_waiting h, servable_atHead h, if_neg (by simp [hr])]
  rfl

theorem loadServe_decides (hr : s.reserved l.pa l.width = false) (hw : flawless s l.pa l.width) : exec (.loadServe n) s
    = .next ((s.popPath e).setOp { op with kind := .load fmt [s.decideLane l (s.beyond (l.pa / 4) ++ l.view)] }) := by
  rw [loadServe_waiting h, servable_atHead h, if_pos hr]
  have hpick : s.pick [(e, 0)] = some (e, 0) := by simp [State.pick, Nat.mod_one]
  rw [hpick]
  simp only [List.getElem?_cons_zero, eccFor_of_flawless hw, ite_self]
  rfl

/-- The lane is decided, and its item has left the path. -/
theorem loadServe_atHead (hr : s.reserved l.pa l.width = false) (hw : flawless s l.pa l.width) :
    ∃ t, exec (.loadServe n) s = .next t ∧ t.paths = []
      ∧ t.op n = some { op with kind := .load fmt [s.decideLane l (s.beyond (l.pa / 4) ++ l.view)] } := by
  refine ⟨_, loadServe_decides h hr hw, ?_, ?_⟩
  · simp [State.popPath, State.setOp, h.path]
  · have hid := h.id
    subst hid
    exact op_setOp (s := s.popPath e) h.found

end

theorem loadServeResolves : LoadServeResolves := by
  intro s n op fmt lanes d hop hid hk hd h0
  refine ⟨loadServe_resolves hop hk hid hd h0, ?_⟩
  rintro l e rfl hwait hpath hitem
  have h : LaneAtHead s n op fmt l e := ⟨hop, hid, hk, hwait, hpath, hitem⟩
  exact ⟨loadServe_atHead h, loadServe_reserved h⟩

/-- Settles O29: a lane composes what the levels hold, and LOAD_SERVE decides lanes and resolves the load. -/
theorem globalLoadsResolve : Obligations.GlobalLoadsResolve := by
  unfold Obligations.GlobalLoadsResolve
  exact ⟨loadComposesTheLevels, loadServeResolves⟩

end Sys2Proof.Machine
end

section
/-!
PROOF. The integer and logical operations (09 R131-R134): what the arithmetic of the low N bits of two operands comes to as a word, at
every width, in the two forms of an INT instruction, and with the saturation of ADD, SUB and MUL.
-/
namespace Sys2Proof.Machine
open Sys2Proof.Claims

/-! ## R134, at every width -/

section
variable {n : Nat} (x y : BitVec n)

theorem ofInt_add_toInt : BitVec.ofInt n (x.toInt + y.toInt) = x + y := by simp [BitVec.ofInt_add]
theorem ofInt_sub_toInt : BitVec.ofInt n (x.toInt - y.toInt) = x - y := by
  simp [Int.sub_eq_add_neg, BitVec.ofInt_add, BitVec.ofInt_neg, BitVec.sub_eq_add_neg]
theorem ofInt_mul_toInt : BitVec.ofInt n (x.toInt * y.toInt) = x * y := by simp [BitVec.ofInt_mul]

/-- The quotient by 2^n of a number keeps, of its low 2n bits, the high half. -/
theorem ofInt_ediv_two_pow (z : Int) : BitVec.ofInt n (z / 2 ^ n) = (BitVec.ofInt (2 * n) z >>> n).setWidth n := by
  have hpow : (2 : Int) ^ (2 * n) = 2 ^ n * 2 ^ n := by ring
  have hpos : (0 : Int) < 2 ^ n := by positivity
  have hquot : z / 2 ^ n % 2 ^ n = z % (2 ^ n * 2 ^ n) / 2 ^ n % 2 ^ n := by
    conv_lhs => rw [← Int.emod_add_mul_ediv z (2 ^ n * 2 ^ n), Int.mul_assoc, Int.add_mul_ediv_left _ _ hpos.ne',
      Int.add_mul_emod_self_left]
  apply BitVec.eq_of_toNat_eq
  zify
  rw [BitVec.toNat_setWidth, BitVec.toNat_ushiftRight, Nat.shiftRight_eq_div_pow, BitVec.toNat_ofInt, BitVec.toNat_ofInt]
  push_cast
  rw [Int.toNat_of_nonneg (Int.emod_nonneg _ hpos.ne'), Int.toNat_of_nonneg (Int.emod_nonneg _ (by positivity)), hpow, hquot]

theorem ofInt_mulh : BitVec.ofInt n (x.toInt * y.toInt / 2 ^ n) = highSigned x y := by
  rw [ofInt_ediv_two_pow, BitVec.ofInt_mul]
  rfl
theorem ofInt_mulhu : BitVec.ofInt n ((x.toNat * y.toNat / 2 ^ n : Nat) : Int) = highUnsigned x y := by
  push_cast
  rw [ofInt_ediv_two_pow, BitVec.ofInt_mul, BitVec.ofInt_natCast, BitVec.ofInt_natCast, BitVec.ofNat_toNat, BitVec.ofNat_toNat]
  rfl

theorem toInt_eq_zero_iff : x.toInt = 0 ↔ x = 0 := by rw [← BitVec.toInt_inj]; simp
theorem toNat_eq_zero_iff : x.toNat = 0 ↔ x = 0 := by rw [← BitVec.toNat_inj]; simp

theorem eq_intMin_of_toInt (h : x.toInt = intMin true n) : x = BitVec.intMin n := by
  rw [BitVec.intMin_eq_neg_two_pow, ← BitVec.ofInt_toInt (x := x), h]
  rfl

theorem ofInt_neg_one : BitVec.ofInt n (-1) = BitVec.allOnes n := by
  rw [BitVec.ofInt_neg, ← BitVec.neg_one_eq_allOnes]
  rfl

/-- The quotient that overflows wraps to the dividend. -/
theorem ofInt_div : BitVec.ofInt n (if y.toInt = 0 then -1 else if x.toInt = intMin true n ∧ y.toInt = -1 then x.toInt
    else x.toInt.tdiv y.toInt) = if y = 0 then BitVec.allOnes n else x.sdiv y := by
  simp only [toInt_eq_zero_iff]
  split
  · exact ofInt_neg_one
  split
  next h =>
    obtain ⟨hx, hy⟩ := h
    have hy : y = BitVec.allOnes n := by rw [← BitVec.ofInt_toInt (x := y), hy, ofInt_neg_one]
    rw [BitVec.ofInt_toInt, eq_intMin_of_toInt x hx, hy, ← BitVec.neg_one_eq_allOnes, BitVec.intMin_sdiv_neg_one]
  next => exact BitVec.eq_of_toInt_eq (by rw [BitVec.toInt_ofInt, BitVec.toInt_sdiv])

theorem ofInt_divu : BitVec.ofInt n (if y.toNat = 0 then intMax false n else ((x.toNat / y.toNat : Nat) : Int))
    = if y = 0 then BitVec.allOnes n else x / y := by
  simp only [toNat_eq_zero_iff]
  split
  · rw [← ofInt_neg_one]
    have hmax : intMax false n = -1 + (2 ^ n : Nat) := by
      rw [intMax, if_neg (by decide), Int.sub_eq_add_neg, Int.add_comm]
      norm_cast
    exact BitVec.eq_of_toInt_eq (by rw [hmax, BitVec.toInt_ofInt, BitVec.toInt_ofInt, Int.add_bmod_right])
  · rw [← BitVec.toNat_udiv, BitVec.ofInt_natCast, BitVec.ofNat_toNat, BitVec.setWidth_eq]

theorem ofInt_rem : BitVec.ofInt n (if y.toInt = 0 then x.toInt else if x.toInt = intMin true n ∧ y.toInt = -1 then 0
    else x.toInt - y.toInt * x.toInt.tdiv y.toInt) = if y = 0 then x else x.srem y := by
  simp only [toInt_eq_zero_iff]
  split
  · exact BitVec.ofInt_toInt
  rw [← BitVec.ofInt_toInt (x := x.srem y), BitVec.toInt_srem, ← Int.tmod_def]
  split
  next h => rw [h.2, Int.tmod_neg, Int.tmod_one]
  next => rfl

theorem ofInt_remu : BitVec.ofInt n (if y.toNat = 0 then (x.toNat : Int)
    else ((x.toNat - y.toNat * (x.toNat / y.toNat) : Nat) : Int)) = if y = 0 then x else x % y := by
  simp only [toNat_eq_zero_iff, ← Nat.mod_eq_sub]
  split
  · simp
  · rw [← BitVec.toNat_umod, BitVec.ofInt_natCast, BitVec.ofNat_toNat, BitVec.setWidth_eq]

theorem ofInt_shl : BitVec.ofInt n ((x.toNat * 2 ^ (y.toNat % n) : Nat) : Int) = x <<< (y.toNat % n) :=
  BitVec.eq_of_toNat_eq (by rw [BitVec.ofInt_natCast, BitVec.toNat_ofNat, BitVec.toNat_shiftLeft, Nat.shiftLeft_eq])
theorem ofInt_shr : BitVec.ofInt n ((x.toNat / 2 ^ (y.toNat % n) : Nat) : Int) = x >>> (y.toNat % n) := by
  rw [← Nat.shiftRight_eq_div_pow, ← BitVec.toNat_ushiftRight, BitVec.ofInt_natCast, BitVec.ofNat_toNat, BitVec.setWidth_eq]
theorem ofInt_sra : BitVec.ofInt n (x.toInt / 2 ^ (y.toNat % n)) = x.sshiftRight (y.toNat % n) := by
  rw [← BitVec.ofInt_toInt (x := x.sshiftRight _), BitVec.toInt_sshiftRight, Int.shiftRight_eq_div_pow]
  norm_cast

theorem ofInt_min : BitVec.ofInt n (min x.toInt y.toInt) = if x.slt y then x else y := by
  simp only [BitVec.slt_iff_toInt_lt]
  split
  next h => rw [min_eq_left h.le, BitVec.ofInt_toInt]
  next h => rw [min_eq_right (not_lt.mp h), BitVec.ofInt_toInt]
theorem ofInt_max : BitVec.ofInt n (max x.toInt y.toInt) = if x.slt y then y else x := by
  simp only [BitVec.slt_iff_toInt_lt]
  split
  next h => rw [max_eq_right h.le, BitVec.ofInt_toInt]
  next h => rw [max_eq_left (not_lt.mp h), BitVec.ofInt_toInt]
theorem ofInt_minu : BitVec.ofInt n ((min x.toNat y.toNat : Nat) : Int) = if x.ult y then x else y := by
  simp only [BitVec.ult_iff_toNat_lt]
  split
  next h => rw [min_eq_left h.le]; simp
  next h => rw [min_eq_right (not_lt.mp h)]; simp
theorem ofInt_maxu : BitVec.ofInt n ((max x.toNat y.toNat : Nat) : Int) = if x.ult y then y else x := by
  simp only [BitVec.ult_iff_toNat_lt]
  split
  next h => rw [max_eq_right h.le]; simp
  next h => rw [max_eq_left (not_lt.mp h)]; simp

end

/-! ## The two widths (R133) -/

/-- The arithmetic of an operation of N bits, in the numbers of R134: N, sa, sb, ua and ub. -/
abbrev WidthArith := Nat → Int → Int → Nat → Nat → Int

/-- An arithmetic of the low N bits of the operands, where it gives the words g32 and g64 in the two widths. -/
theorem narrow_eq_byWidth (f : WidthArith) {g32 : BitVec 32 → BitVec 32 → BitVec 32} {g64 : Word → Word → Word}
    (h32 : ∀ x y, BitVec.ofInt 32 (f 32 x.toInt y.toInt x.toNat y.toNat) = g32 x y)
    (h64 : ∀ x y, BitVec.ofInt 64 (f 64 x.toInt y.toInt x.toNat y.toNat) = g64 x y) (h : Bool) (a b : Word) :
    narrow h (f (opWidth h) (lowS h a) (lowS h b) (lowU h a) (lowU h b)) = byWidth h g32 g64 a b := by
  cases h with
  | true => exact congrArg (BitVec.signExtend 64) (h32 (a.setWidth 32) (b.setWidth 32))
  | false =>
    rw [lowU_false, lowU_false]
    exact h64 a b

theorem clampInt_eq_max_min {lo hi : Int} (h : lo ≤ hi) (e : Int) : clampInt lo hi e = max lo (min hi e) := by
  unfold clampInt
  split_ifs <;> omega

theorem narrow_eq_withOverflow (f : Int → Int → Int) {g32 : BitVec 32 → BitVec 32 → BitVec 32} {g64 : Word → Word → Word}
    (h32 : ∀ x y, BitVec.ofInt 32 (f x.toInt y.toInt) = g32 x y) (h64 : ∀ x y, BitVec.ofInt 64 (f x.toInt y.toInt) = g64 x y)
    (m : IntMod) (a b : Word) :
    narrow m.h (satOf m.ov m.h (f (exOf m.ov m.h a) (exOf m.ov m.h b))) = withOverflow m f g32 g64 a b := by
  obtain ⟨h, ov⟩ := m
  cases ov with
  | wrap => exact narrow_eq_byWidth (fun _ sa sb _ _ => f sa sb) h32 h64 h a b
  | sats =>
    cases h with
    | false => exact congrArg (BitVec.ofInt 64) (clampInt_eq_max_min (by decide) _)
    | true => exact congrArg (fun e => (BitVec.ofInt 32 e).signExtend 64) (clampInt_eq_max_min (by decide) _)
  | satu =>
    cases h with
    | false =>
      dsimp only [satOf, exOf]
      rw [lowU_false, lowU_false]
      exact congrArg (BitVec.ofInt 64) (clampInt_eq_max_min (by decide) _)
    | true => exact congrArg (fun e => (BitVec.ofInt 32 e).signExtend 64) (clampInt_eq_max_min (by decide) _)

/-! ## INT instructions that issue (R131, R132) -/

section
variable {s : State} {o : Fmt IntMod} (hi : s.Issues o)
include hi

theorem intOp_eq_produced {l : Nat} {F : Word → Word → Int} {r : Word} (hr : narrow o.mod.h (F (s.opA o) (s.opB o)) = r) :
    s.intOp o l F = .next (s.produced o r (s.bitA o || s.bitB o) l) := by
  rw [← hr]
  exact slot_sources_ok hi.on hi rfl

/-- An operation whose result is an arithmetic of the low N bits of its operands. -/
theorem intOp_eq_byWidth {l : Nat} (f : WidthArith) {g32 : BitVec 32 → BitVec 32 → BitVec 32} {g64 : Word → Word → Word}
    (h32 : ∀ x y, BitVec.ofInt 32 (f 32 x.toInt y.toInt x.toNat y.toNat) = g32 x y)
    (h64 : ∀ x y, BitVec.ofInt 64 (f 64 x.toInt y.toInt x.toNat y.toNat) = g64 x y) :
    s.intOp o l (fun a b => f (opWidth o.mod.h) (lowS o.mod.h a) (lowS o.mod.h b) (lowU o.mod.h a) (lowU o.mod.h b))
      = .next (s.produced o (byWidth o.mod.h g32 g64 (s.opA o) (s.opB o)) (s.bitA o || s.bitB o) l) :=
  intOp_eq_produced hi (narrow_eq_byWidth f h32 h64 _ _ _)

/-- ADD, SUB and MUL: an exact operation that wraps to words g32 and g64 in the two widths, or saturates. -/
theorem intOp_eq_withOverflow {l : Nat} (f : Int → Int → Int) {g32 : BitVec 32 → BitVec 32 → BitVec 32} {g64 : Word → Word → Word}
    (h32 : ∀ x y, BitVec.ofInt 32 (f x.toInt y.toInt) = g32 x y) (h64 : ∀ x y, BitVec.ofInt 64 (f x.toInt y.toInt) = g64 x y) :
    s.intOp o l (fun a b => satOf o.mod.ov o.mod.h (f (exOf o.mod.ov o.mod.h a) (exOf o.mod.ov o.mod.h b)))
      = .next (s.produced o (withOverflow o.mod f g32 g64 (s.opA o) (s.opB o)) (s.bitA o || s.bitB o) l) :=
  intOp_eq_produced hi (narrow_eq_withOverflow f h32 h64 _ _ _)

/-- A bitwise operation, which reads the whole operands: its low half is the operation on their low halves. -/
theorem intOp_eq_bitwise {l : Nat} {g32 : BitVec 32 → BitVec 32 → BitVec 32} {g64 : Word → Word → Word}
    (hlow : ∀ a b, (g64 a b).setWidth 32 = g32 (a.setWidth 32) (b.setWidth 32)) :
    s.intOp o l (fun a b => ((g64 a b).toNat : Int))
      = .next (s.produced o (byWidth o.mod.h g32 g64 (s.opA o) (s.opB o)) (s.bitA o || s.bitB o) l) := by
  refine intOp_eq_produced hi ?_
  cases o.mod.h with
  | true => exact congrArg (BitVec.signExtend 64) ((BitVec.ofNat_toNat _ _).trans (hlow _ _))
  | false => exact (BitVec.ofNat_toNat _ _).trans (BitVec.setWidth_eq _)

end

theorem addSubMulResult : AddSubMulResult := by
  intro s o hi
  refine ⟨?add, ?sub, ?mul⟩
  case add => exact intOp_eq_withOverflow hi (· + ·) ofInt_add_toInt ofInt_add_toInt
  case sub => exact intOp_eq_withOverflow hi (· - ·) ofInt_sub_toInt ofInt_sub_toInt
  case mul => exact intOp_eq_withOverflow hi (· * ·) ofInt_mul_toInt ofInt_mul_toInt

theorem mulhDivRemResult : MulhDivRemResult := by
  intro s o hi
  refine ⟨?mulh, ?mulhu, ?div, ?divu, ?rem, ?remu⟩
  case mulh => exact intOp_eq_byWidth hi (fun n sa sb _ _ => sa * sb / 2 ^ n) ofInt_mulh ofInt_mulh
  case mulhu => exact intOp_eq_byWidth hi (fun n _ _ ua ub => (ua * ub / 2 ^ n : Nat)) ofInt_mulhu ofInt_mulhu
  case div =>
    exact intOp_eq_byWidth hi (fun n sa sb _ _ => if sb = 0 then -1 else if sa = intMin true n ∧ sb = -1 then sa else sa.tdiv sb)
      ofInt_div ofInt_div
  case divu =>
    exact intOp_eq_byWidth hi (fun n _ _ ua ub => if ub = 0 then intMax false n else (ua / ub : Nat)) ofInt_divu ofInt_divu
  case rem =>
    exact intOp_eq_byWidth hi
      (fun n sa sb _ _ => if sb = 0 then sa else if sa = intMin true n ∧ sb = -1 then 0 else sa - sb * sa.tdiv sb)
      ofInt_rem ofInt_rem
  case remu =>
    exact intOp_eq_byWidth hi (fun _ _ _ ua ub => if ub = 0 then ua else (ua - ub * (ua / ub) : Nat)) ofInt_remu ofInt_remu

theorem logicShiftMinMaxResult : LogicShiftMinMaxResult := by
  intro s o hi
  refine ⟨?and, ?or, ?xor, ?shl, ?shr, ?sra, ?min, ?max, ?minu, ?maxu⟩
  case and => exact intOp_eq_bitwise hi fun _ _ => BitVec.setWidth_and
  case or => exact intOp_eq_bitwise hi fun _ _ => BitVec.setWidth_or
  case xor => exact intOp_eq_bitwise hi fun _ _ => BitVec.setWidth_xor
  case shl => exact intOp_eq_byWidth hi (fun n _ _ ua ub => (ua * 2 ^ (ub % n) : Nat)) ofInt_shl ofInt_shl
  case shr => exact intOp_eq_byWidth hi (fun n _ _ ua ub => (ua / 2 ^ (ub % n) : Nat)) ofInt_shr ofInt_shr
  case sra => exact intOp_eq_byWidth hi (fun n sa _ _ ub => sa / 2 ^ (ub % n)) ofInt_sra ofInt_sra
  case min => exact intOp_eq_byWidth hi (fun _ sa sb _ _ => min sa sb) ofInt_min ofInt_min
  case max => exact intOp_eq_byWidth hi (fun _ sa sb _ _ => max sa sb) ofInt_max ofInt_max
  case minu => exact intOp_eq_byWidth hi (fun _ _ _ ua ub => (min ua ub : Nat)) ofInt_minu ofInt_minu
  case maxu => exact intOp_eq_byWidth hi (fun _ _ _ ua ub => (max ua ub : Nat)) ofInt_maxu ofInt_maxu

/-- Settles O2: each result is an arithmetic of the low N bits of its operands, which is the word operation in both widths; ADD, SUB
and MUL saturate as R134 has it. -/
theorem integerResults : Obligations.IntegerResults := by
  unfold Obligations.IntegerResults
  exact ⟨addSubMulResult, mulhDivRemResult, logicShiftMinMaxResult⟩

end Sys2Proof.Machine
end

section
/-!
PROOF. The bit-field instructions, LEA and SEL (09 R132, R136): the counts of bits at every width, and the bits of a field that is
taken out or put in.
-/
namespace Sys2Proof.Machine
open Sys2Proof.Claims

/-! ## Counts of bits (R136), at every width -/

/-- The count from the lowest bit up is k where the k lowest bits are zero and the next one, within the width, is not. -/
theorem trailingZeros_eq {n k v : Nat} (hk : k ≤ n) (hlow : ∀ i < k, v.testBit i = false) (hbit : k < n → v.testBit k = true) :
    trailingZeros v n = k := by
  induction n generalizing v k with
  | zero => exact (Nat.le_zero.mp hk).symm
  | succ n ih =>
    have hodd : v % 2 = 1 ↔ v.testBit 0 = true := by simp [Nat.testBit_zero]
    simp only [trailingZeros, hodd]
    cases k with
    | zero => rw [if_pos (hbit n.succ_pos)]
    | succ k =>
      rw [if_neg (by simp [hlow 0 k.succ_pos]), ih (k := k) (by omega)]
      · exact fun i hi => (Nat.testBit_div_two v i).trans (hlow (i + 1) (by omega))
      · exact fun h => (Nat.testBit_div_two v k).trans (hbit (by omega))

/-- One more bit at the top. -/
theorem onesOf_succ (v n : Nat) : onesOf v (n + 1) = onesOf v n + (v.testBit n).toNat := by
  induction n generalizing v with
  | zero => rw [onesOf, onesOf, onesOf, Nat.toNat_testBit, Nat.pow_zero, Nat.div_one, Nat.add_comm]
  | succ n ih => rw [onesOf, ih, Nat.testBit_div_two, onesOf, Nat.add_assoc]

section
variable {n : Nat} (x : BitVec n)

theorem leadingZeros_eq_clz (hn : 0 < n) : leadingZeros n x.toNat = x.clz.toNat := by
  unfold leadingZeros
  split
  next h =>
    have hx : x = 0 := (toNat_eq_zero_iff x).mp h
    simp [BitVec.clz_eq_iff_eq_zero.mpr hx]
  next h =>
    have hx : x ≠ 0 := fun h0 => h (by rw [h0]; rfl)
    have hclz : x.clz.toNat < n := by simpa [BitVec.lt_def] using BitVec.clz_lt_iff_ne_zero.mpr hx
    have hlog : Nat.log2 x.toNat = n - 1 - x.clz.toNat :=
      (Nat.log2_eq_iff h).mpr ⟨BitVec.two_pow_sub_clz_le_toNat_of_ne_zero hn hx,
        (BitVec.toNat_lt_two_pow_sub_clz).trans_eq (congrArg _ (by omega))⟩
    omega

theorem trailingZeros_eq_ctz : trailingZeros x.toNat n = x.ctz.toNat := by
  by_cases hx : x = 0
  · subst hx
    have hfull : (0 : BitVec n).ctz.toNat = n := by
      rw [BitVec.ctz_eq_reverse_clz, BitVec.clz_eq_iff_eq_zero.mpr (by simp)]
      simp
    rw [hfull]
    exact trailingZeros_eq le_rfl (by simp) (fun h => absurd h (lt_irrefl n))
  · have hctz : x.ctz.toNat < n := by simpa [BitVec.lt_def] using BitVec.ctz_lt_iff_ne_zero.mpr hx
    exact trailingZeros_eq hctz.le (fun i hi => BitVec.getLsbD_false_of_lt_ctz hi) fun _ => BitVec.getLsbD_true_ctz_of_ne_zero hx

theorem cpopNatRec_eq_onesOf (k : Nat) : x.cpopNatRec k 0 = onesOf x.toNat k := by
  induction k with
  | zero => rfl
  | succ k ih => rw [BitVec.cpopNatRec_succ, BitVec.cpopNatRec_eq, ih, onesOf_succ]; simp [BitVec.getLsbD, Nat.add_comm]

theorem onesOf_eq_cpop : onesOf x.toNat n = x.cpop.toNat := by
  rw [BitVec.toNat_cpop, cpopNatRec_eq_onesOf]

end

/-- A count of the low N bits of the operand, where it is that of the words in the two widths. -/
theorem ofNat_eq_counted (c : Nat → Nat → Nat) {f32 : BitVec 32 → BitVec 32} {f64 : Word → Word}
    (h32 : ∀ x, c 32 x.toNat = (f32 x).toNat) (h64 : ∀ x, c 64 x.toNat = (f64 x).toNat) (h : Bool) (a : Word) :
    BitVec.ofNat 64 (c (opWidth h) (lowU h a)) = counted h f32 f64 a := by
  cases h with
  | true => exact (congrArg (BitVec.ofNat 64) (h32 (a.setWidth 32))).trans (BitVec.ofNat_toNat _ _)
  | false =>
    rw [lowU_false]
    exact (congrArg (BitVec.ofNat 64) (h64 a)).trans ((BitVec.ofNat_toNat _ _).trans (BitVec.setWidth_eq _))

/-! ## Bit fields (R136) -/

theorem fieldPos_eq_posOf (c : Word) : fieldPos c = posOf c := (BitVec.toNat_setWidth 6 c).symm
theorem fieldLen_eq_lenOf (c : Word) : fieldLen c = lenOf c := by
  rw [fieldLen, lenOf, fieldPos_eq_posOf, bits_eq_setWidth]
theorem posOf_add_lenOf_le (c : Word) : posOf c + lenOf c ≤ 64 := by
  have hpos : posOf c < 64 := (c.setWidth 6).isLt
  unfold lenOf
  omega

/-- The n bits of a from pos up. -/
def fieldAt (a : Word) (p n : Nat) : BitVec n := (a >>> p).setWidth n

theorem getLsbD_fieldAt (a : Word) (p n i : Nat) : (fieldAt a p n).getLsbD i = (decide (i < n) && a.getLsbD (p + i)) := by
  simp [fieldAt]

/-- The field shifted to the top and down again, with zeros. -/
theorem setWidth_fieldAt {p n : Nat} (h : p + n ≤ 64) (a : Word) : (fieldAt a p n).setWidth 64 = (a <<< (64 - p - n)) >>> (64 - n) := by
  refine BitVec.eq_of_getLsbD_eq fun i hi => ?_
  simp only [BitVec.getLsbD_setWidth, getLsbD_fieldAt, BitVec.getLsbD_ushiftRight, BitVec.getLsbD_shiftLeft, hi, decide_true,
    Bool.true_and]
  by_cases hin : i < n
  · rw [show 64 - n + i - (64 - p - n) = p + i by omega]
    simp [hin, show 64 - n + i < 64 by omega, show ¬ 64 - n + i < 64 - p - n by omega]
  · simp [hin, show ¬ 64 - n + i < 64 by omega]

/-- The field shifted to the top and down again, with its sign. -/
theorem signExtend_fieldAt {p n : Nat} (h : p + n ≤ 64) (hn : 0 < n) (a : Word) :
    (fieldAt a p n).signExtend 64 = (a <<< (64 - p - n)).sshiftRight (64 - n) := by
  refine BitVec.eq_of_getLsbD_eq fun i hi => ?_
  have hmsb : (a <<< (64 - p - n)).msb = a.getLsbD (p + (n - 1)) := by
    rw [BitVec.msb_eq_getLsbD_last, BitVec.getLsbD_shiftLeft, show 64 - 1 - (64 - p - n) = p + (n - 1) by omega]
    simp [show ¬ 63 < 64 - p - n by omega]
  rw [BitVec.getLsbD_signExtend, BitVec.getLsbD_sshiftRight, BitVec.msb_eq_getLsbD_last, hmsb, getLsbD_fieldAt, getLsbD_fieldAt,
    BitVec.getLsbD_shiftLeft, decide_eq_true hi, decide_eq_true (show n - 1 < n by omega)]
  by_cases hin : i < n
  · rw [show 64 - n + i - (64 - p - n) = p + i by omega]
    simp [hin, show ¬ 64 ≤ i by omega, show 64 - n + i < 64 by omega, show ¬ 64 - n + i < 64 - p - n by omega]
  · simp [hin, show ¬ 64 ≤ i by omega, show ¬ 64 - n + i < 64 by omega]

theorem bits_eq_toNat_fieldAt (a : Word) (p n : Nat) : bits a.toNat p n = (fieldAt a p n).toNat := bits_eq_setWidth a p n

theorem ofInt_signed_field {n : Nat} (hn : 0 < n) (x : BitVec n) :
    (if 2 ^ (n - 1) ≤ x.toNat then BitVec.ofInt 64 ((x.toNat : Int) - 2 ^ n) else BitVec.ofNat 64 x.toNat) = x.signExtend 64 := by
  have hpow : 2 * 2 ^ (n - 1) = 2 ^ n := by rw [← Nat.pow_succ', Nat.succ_eq_add_one, Nat.sub_one_add_one hn.ne']
  rw [BitVec.signExtend, BitVec.toInt]
  split
  · rw [if_neg (by omega)]; norm_cast
  · rw [if_pos (by omega), BitVec.ofInt_natCast]

theorem bfx_eq_extracted (sx : Bool) (a c : Word) :
    (if fieldLen c = 0 then 0
      else if sx && decide (2 ^ (fieldLen c - 1) ≤ bits a.toNat (fieldPos c) (fieldLen c))
        then BitVec.ofInt 64 ((bits a.toNat (fieldPos c) (fieldLen c) : Int) - 2 ^ fieldLen c)
      else BitVec.ofNat 64 (bits a.toNat (fieldPos c) (fieldLen c))) = extracted sx a c := by
  have hle := posOf_add_lenOf_le c
  rw [fieldLen_eq_lenOf, fieldPos_eq_posOf, bits_eq_toNat_fieldAt, extracted]
  split
  · rfl
  have hn : 0 < lenOf c := by omega
  cases sx with
  | true =>
    simp only [Bool.true_and, decide_eq_true_eq]
    exact (ofInt_signed_field hn _).trans (signExtend_fieldAt hle hn a)
  | false => exact (BitVec.ofNat_toNat _ _).trans (setWidth_fieldAt hle a)

/-- Bit i of a field's mask. -/
theorem getLsbD_fieldMask (c : Word) (i : Nat) :
    (fieldMask c).getLsbD i = (decide (posOf c ≤ i) && decide (i < posOf c + lenOf c)) := by
  have hle := posOf_add_lenOf_le c
  rw [fieldMask, BitVec.getLsbD_shiftLeft, BitVec.getLsbD_ushiftRight, BitVec.getLsbD_allOnes, Bool.eq_iff_iff]
  simp only [Bool.and_eq_true, Bool.not_eq_true', decide_eq_true_eq, decide_eq_false_iff_not]
  omega

/-- The low p bits of a, the n low bits of b above them, and the bits of a from p + n up. -/
theorem testBit_inserted (a b p n i : Nat) :
    (a % 2 ^ p + b % 2 ^ n * 2 ^ p + a / 2 ^ (p + n) * 2 ^ (p + n)).testBit i
      = if i < p then a.testBit i else if i < p + n then b.testBit (i - p) else a.testBit i := by
  have hlow : a % 2 ^ p < 2 ^ p := Nat.mod_lt _ (Nat.two_pow_pos p)
  have hmid : a % 2 ^ p + b % 2 ^ n * 2 ^ p < 2 ^ (p + n) :=
    calc a % 2 ^ p + b % 2 ^ n * 2 ^ p < (b % 2 ^ n + 1) * 2 ^ p := by rw [Nat.add_one_mul]; omega
      _ ≤ 2 ^ n * 2 ^ p := Nat.mul_le_mul_right _ (Nat.mod_lt _ (Nat.two_pow_pos n))
      _ = 2 ^ (p + n) := by rw [Nat.pow_add, Nat.mul_comm]
  rw [Nat.add_comm, Nat.mul_comm _ (2 ^ (p + n)), Nat.testBit_two_pow_mul_add _ hmid, Nat.add_comm (a % 2 ^ p),
    Nat.mul_comm _ (2 ^ p), Nat.testBit_two_pow_mul_add _ hlow]
  simp only [Nat.testBit_mod_two_pow, Nat.testBit_div_two_pow]
  by_cases hp : i < p
  · simp [hp, show i < p + n by omega]
  · by_cases hn : i < p + n
    · simp [hp, hn, show i - p < n by omega]
    · simp [hp, hn, Nat.sub_add_cancel (Nat.not_lt.mp hn)]

theorem bfi_eq_masked (a b c : Word) :
    BitVec.ofNat 64 (a.toNat % 2 ^ fieldPos c + b.toNat % 2 ^ fieldLen c * 2 ^ fieldPos c
        + a.toNat / 2 ^ (fieldPos c + fieldLen c) * 2 ^ (fieldPos c + fieldLen c))
      = (a &&& ~~~ fieldMask c) ||| ((b <<< posOf c) &&& fieldMask c) := by
  rw [fieldLen_eq_lenOf, fieldPos_eq_posOf]
  refine BitVec.eq_of_getLsbD_eq fun i hi => ?_
  rw [BitVec.getLsbD_ofNat, testBit_inserted]
  simp only [BitVec.getLsbD_or, BitVec.getLsbD_and, BitVec.getLsbD_not, BitVec.getLsbD_shiftLeft, getLsbD_fieldMask, hi, decide_true,
    Bool.true_and]
  by_cases hp : i < posOf c
  · simp [hp, show ¬ posOf c ≤ i by omega, BitVec.getLsbD]
  · by_cases hn : i < posOf c + lenOf c
    · simp [hp, hn, show posOf c ≤ i by omega, BitVec.getLsbD]
    · simp [hp, hn, BitVec.getLsbD]

/-! ## BIT instructions that issue (R132, R136) -/

theorem bitOp_eq_produced {M : Type} {s : State} {o : Fmt M} (hi : s.Issues o) {F : Word → Word → Word → Word} {r : Word}
    (hr : F (s.opA o) (s.opB o) (s.opC o) = r) :
    s.bitOp o F = .next (s.produced o r (s.bitA o || s.bitB o || s.bitC o) 1) := by
  rw [← hr]
  exact slot_sources_ok hi.on hi rfl

theorem lea_eq (a i : Word) (k : Nat) (imm : BitVec 32) : a + (i <<< k) + immWord imm = a + i * (1 <<< k) + imm.signExtend 64 := by
  rw [BitVec.shiftLeft_eq_mul_twoPow, immWord]
  rfl

theorem bitFamilyResult : BitFamilyResult := by
  intro s h u l
  refine ⟨fun hi => ⟨?clz, ?ctz, ?popc, ?bfx⟩, fun hi => ?bfi, fun hi => ?lea⟩
  case clz =>
    change execClz h s = _
    exact bitOp_eq_produced hi
      (ofNat_eq_counted leadingZeros (leadingZeros_eq_clz · (by decide)) (leadingZeros_eq_clz · (by decide)) _ _)
  case ctz =>
    change execCtz h s = _
    exact bitOp_eq_produced hi (ofNat_eq_counted (fun n v => trailingZeros v n) trailingZeros_eq_ctz trailingZeros_eq_ctz _ _)
  case popc =>
    change execPopc h s = _
    exact bitOp_eq_produced hi (ofNat_eq_counted (fun n v => onesOf v n) onesOf_eq_cpop onesOf_eq_cpop _ _)
  case bfx =>
    change execBfx h s = _
    exact bitOp_eq_produced hi (bfx_eq_extracted _ _ _)
  case bfi =>
    change execBfi u s = _
    exact bitOp_eq_produced hi (bfi_eq_masked _ _ _)
  case lea =>
    change execLea l s = _
    exact bitOp_eq_produced hi (lea_eq _ _ _ _)

theorem getLsbD_zero_read_p (s : State) (imm : BitVec 32) (n : Fin 8) : (s.read imm (.p n)).val.getLsbD 0 = s.th.readP n := by
  cases h : s.th.readP n <;> simp [State.read, Src.present, h]

theorem exec_sel {s : State} {o : Fmt Unit} (hi : s.Issues o) : exec (.sel o) s = .next
    (if (s.read o.imm o.a).val.getLsbD 0 then s.produced o (s.opB o) (s.bitB o) 1 else s.produced o (s.opC o) (s.bitC o) 1) := by
  refine slot_sources_ok hi.on hi ?_
  dsimp only
  split <;> rfl

theorem selTakesTheChosenSource : SelTakesTheChosenSource := by
  intro s o n hi ha
  rw [exec_sel hi, ha, getLsbD_zero_read_p]

/-- Settles O3: the counts and the fields of the model's numbers are those of the words, and SEL reads its predicate's bit. -/
theorem bitFieldAndSelectResults : Obligations.BitFieldAndSelectResults := by
  unfold Obligations.BitFieldAndSelectResults
  exact ⟨bitFamilyResult, selTakesTheChosenSource⟩

end Sys2Proof.Machine
end

section
/-!
PROOF. Traps (10 R145, R152-R154): what a group that is given up leaves, what trap entry and a double trap change, and a write in
flight whose value TSAVE does not hold.
-/
namespace Sys2Proof.Machine
open Sys2Proof.Claims

/-! ## Giving up a group (R22, R234) -/

/-- The registers q of core contexts alone. -/
structure OnlyQueues (s t : State) : Prop where
  device : t = { s with ctxs := t.ctxs }
  queues : ∀ core ctx, t.coreCtx core ctx = { s.coreCtx core ctx with q := (t.coreCtx core ctx).q }

theorem onlyQueues_putBack (s : State) (t : ThreadId) (p : Reg × Src) : OnlyQueues s (s.putBack t p) := by
  unfold State.putBack
  split
  · next n hn =>
    refine ⟨rfl, fun core ctx => ?_⟩
    rw [coreCtx_setCoreCtx]
    split
    · next hk => rw [State.coreCtx, State.coreCtx, hk]; rfl
    · rfl
  · exact ⟨rfl, fun _ _ => rfl⟩

theorem onlyQueues_putBackAll (s : State) (t : ThreadId) (l : List (Reg × Src)) :
    OnlyQueues s (l.foldr (fun p s => s.putBack t p) s) := by
  induction l with
  | nil => exact ⟨rfl, fun _ _ => rfl⟩
  | cons p r ih =>
    have hp := onlyQueues_putBack (r.foldr (fun p s => s.putBack t p) s) t p
    refine ⟨?_, fun core ctx => ?_⟩
    · rw [List.foldr_cons, hp.device, ih.device]
    · rw [List.foldr_cons, hp.queues, ih.queues]

/-- A thread whose group is given up. -/
def Thread.givenUp (t : Thread) : Thread :=
  { t with group := none, verdict := none, copyHeld := none, wait := if t.verdict.isSome then .none else t.wait }

section
variable (s : State) (t : ThreadId)

/-- What giving up a group changes: its thread, queues, and what it held at a region or a controller. -/
theorem releaseHeld_changes : ∃ u, OnlyQueues s u ∧ s.releaseHeld t
      = { u.setThread t (s.thread t).givenUp with regionLock := (s.releaseHeld t).regionLock, ops := (s.releaseHeld t).ops }
    ∧ ((s.thread t).verdict ≠ some .waiting → s.releaseHeld t = u.setThread t (s.thread t).givenUp) := by
  refine ⟨_, onlyQueues_putBackAll s t (match (s.thread t).group with | some h => h.taken | none => []), ?_, fun hv => ?_⟩
  · unfold State.releaseHeld
    dsimp only
    split <;> rfl
  · exact congrArg (State.setThread · t (s.thread t).givenUp) (if_neg hv)

theorem releaseHeld_device : s.releaseHeld t = { s with
    threads := SMap.set Thread.initial s.threads (threadKey t) (s.thread t).givenUp, ctxs := (s.releaseHeld t).ctxs
    regionLock := (s.releaseHeld t).regionLock, ops := (s.releaseHeld t).ops } := by
  obtain ⟨u, hu, hrel, -⟩ := releaseHeld_changes s t
  rw [hrel, hu.device]
  rfl

theorem thread_releaseHeld (v : ThreadId) :
    (s.releaseHeld t).thread v = if threadKey v = threadKey t then (s.thread t).givenUp else s.thread v := by
  rw [releaseHeld_device]
  exact thread_setThread s t v _

theorem coreCtx_releaseHeld (core : Nat) (ctx : Bool) : (s.releaseHeld t).coreCtx core ctx
    = { s.coreCtx core ctx with q := ((s.releaseHeld t).coreCtx core ctx).q } := by
  obtain ⟨u, hu, hrel, -⟩ := releaseHeld_changes s t
  rw [hrel]
  exact hu.queues core ctx

variable {s t}

theorem ops_releaseHeld (h : (s.thread t).verdict ≠ some .waiting) : (s.releaseHeld t).ops = s.ops := by
  obtain ⟨u, hu, -, hrel⟩ := releaseHeld_changes s t
  rw [hrel h, hu.device]
  rfl

/-- A thread that holds no group loses nothing outside it. -/
theorem releaseHeld_of_no_group (hg : (s.thread t).group = none) (hv : (s.thread t).verdict ≠ some .waiting) :
    s.releaseHeld t = s.setThread t (s.thread t).givenUp := by
  unfold State.releaseHeld
  dsimp only
  rw [hg, if_neg hv]
  rfl

end

theorem findPart_congr {s t : State} (h : t.parts = s.parts) (cluster n : Nat) : findPart t cluster n = findPart s cluster n := by
  induction n with
  | zero => rfl
  | succ n ih => rw [findPart, findPart, ih, State.part, State.part, h]
theorem partOf_congr {s t : State} (hp : t.parts = s.parts) (hg : t.gqcfg = s.gqcfg) (core : Nat) : t.partOf core = s.partOf core := by
  rw [State.partOf, State.partOf, findPart_congr hp, hg]

/-! ## Trap entry (R152, R153) -/

theorem ofNat_pcLine (pc : Word) : BitVec.ofNat 64 (pcLine pc) = pc &&& ~~~ 63 := by
  rw [← ushiftRight_six_shiftLeft, ← BitVec.toNat_inj, BitVec.toNat_shiftLeft, BitVec.toNat_ushiftRight, BitVec.toNat_ofNat,
    Nat.shiftRight_eq_div_pow, Nat.shiftLeft_eq]
  rfl
theorem ofNat_pcSlot (pc : Word) : BitVec.ofNat 64 (pcSlot pc) = pc &&& 7 := by
  rw [← BitVec.toNat_inj, BitVec.toNat_and, BitVec.toNat_ofNat, pcSlot, Nat.mod_eq_of_lt (by omega)]
  exact (Nat.and_two_pow_sub_one_eq_mod pc.toNat 3).symm

theorem tepcOf_eq (e : QEntry) :
    tepcOf e = (e.pc &&& ~~~ 63) + (if e.sq then 16 else 0) + (if e.an then 8 else 0) + (e.pc &&& 7) := by
  rw [tepcOf, BitVec.ofNat_add, BitVec.ofNat_add, BitVec.ofNat_add, ofNat_pcLine, ofNat_pcSlot]
  cases e.sq <;> cases e.an <;> rfl

theorem seqOf_an (t : Thread) (e : QEntry) : (t.seqOf e).an = false := by
  unfold Thread.seqOf
  split <;> rfl

section
variable (s : State) (cause : Nat) (tval : Word)

/-- The state of a trap entry before its trace message: its thread is given up, saved and set at its handler. -/
theorem enterHandler_eq : ∃ r : State, r = s.releaseHeld s.cur ∧ s.enterHandler s.cur false cause tval
    = ((r.setCoreCtx s.cur.core s.cur.ctx (saveLanding (r.coreCtx s.cur.core s.cur.ctx) s.cur.thr s.th.landing)).setThread s.cur
        (Thread.startAt { s.th.givenUp with
          tepc0 := tepcOf { s.th.q0 with sq := false }, tepc1 := tepcOf s.th.q1, tepc2 := tepcOf s.th.q2
          lbn := BitVec.ofNat 3 s.th.landing.length, landing := [], phm := false, hm := true, pie := s.th.ie, ie := false
          tcause := BitVec.ofNat 64 (false.toNat * 2 ^ 63 + cause), tval := tval
          wait := .none, walkFaults := [], resumed := false } s.th.tvec)).emit s.cur 4 (tepcOf { s.th.q0 with sq := false }) := by
  refine ⟨_, rfl, ?_⟩
  have hth : (s.releaseHeld s.cur).thread s.cur = s.th.givenUp := (thread_releaseHeld s s.cur s.cur).trans (if_pos rfl)
  unfold State.enterHandler
  dsimp only
  rw [hth]
  rfl

theorem th_enterHandler_eq : (s.enterHandler s.cur false cause tval).th = Thread.startAt { s.th.givenUp with
    tepc0 := tepcOf { s.th.q0 with sq := false }, tepc1 := tepcOf s.th.q1, tepc2 := tepcOf s.th.q2
    lbn := BitVec.ofNat 3 s.th.landing.length, landing := [], phm := false, hm := true, pie := s.th.ie, ie := false
    tcause := BitVec.ofNat 64 cause, tval := tval, wait := .none, walkFaults := [], resumed := false } s.th.tvec := by
  obtain ⟨r, hr, hentry⟩ := enterHandler_eq s cause tval
  have hcur : r.cur = s.cur := hr ▸ cur_releaseHeld s s.cur
  rw [hentry, th_emit, State.th, State.setThread_cur, State.setCoreCtx_cur, hcur, thread_setThread_same, Bool.toNat_false, Nat.zero_mul,
    Nat.zero_add]

theorem sameOthers_enterHandler : SameOthers s (s.enterHandler s.cur false cause tval) := by
  intro u hu
  obtain ⟨r, hr, hentry⟩ := enterHandler_eq s cause tval
  rw [hentry, emit_onlyCores]
  refine (thread_setThread _ s.cur u _).trans ((if_neg hu).trans ?_)
  rw [hr]
  exact (thread_releaseHeld s s.cur u).trans (if_neg hu)

theorem sameMemory_enterHandler : SameMemory s (s.enterHandler s.cur false cause tval) := by
  obtain ⟨r, hr, hentry⟩ := enterHandler_eq s cause tval
  rw [hentry, emit_onlyCores, hr, releaseHeld_device]
  exact ⟨fun _ => rfl, fun _ => rfl⟩

theorem ops_enterHandler (h : s.th.verdict ≠ some .waiting) : (s.enterHandler s.cur false cause tval).ops = s.ops := by
  obtain ⟨r, hr, hentry⟩ := enterHandler_eq s cause tval
  rw [hentry, emit_onlyCores, hr]
  exact ops_releaseHeld h

theorem sameScratch_enterHandler (h : s.th.landing = []) : SameScratch s (s.enterHandler s.cur false cause tval) := by
  obtain ⟨r, hr, hentry⟩ := enterHandler_eq s cause tval
  have hcc : ∀ core ctx, (s.enterHandler s.cur false cause tval).coreCtx core ctx = (s.releaseHeld s.cur).coreCtx core ctx := by
    intro core ctx
    rw [hentry, emit_onlyCores, h, hr]
    exact coreCtx_rewritten (s.releaseHeld s.cur) s.cur.core core s.cur.ctx ctx
  refine ⟨fun core ctx a => ?_, fun core ctx a => ?_⟩
  · rw [hcc, coreCtx_releaseHeld]; rfl
  · rw [hcc, coreCtx_releaseHeld]; rfl

end

/-- Settles O7: trap entry gives up the group, saves what R153 says of the thread and starts its queue at TVEC. -/
theorem trapEntrySavesAndEnters : Obligations.TrapEntrySavesAndEnters := by
  intro s cause tval hm _
  have htrap : s.trapThread s.cur cause tval = s.enterHandler s.cur false cause tval := if_neg (by rw [← State.th, hm]; decide)
  rw [htrap]
  have htepc0 := tepcOf_eq { s.th.q0 with sq := false }
  simp only [Bool.false_eq_true, if_false, add_zero] at htepc0
  intro t u
  have hu : u = _ := th_enterHandler_eq s cause tval
  clear_value u
  subst hu
  exact ⟨rfl, rfl, rfl, rfl, rfl, rfl, htepc0, tepcOf_eq _, tepcOf_eq _, rfl, rfl, rfl, rfl, rfl, seqOf_an _ _, seqOf_an _ _,
    rfl, rfl, rfl, rfl, rfl, rfl, rfl, rfl, rfl, rfl, rfl, rfl, rfl, rfl, rfl, rfl, rfl, rfl, ops_enterHandler s cause tval,
    sameOthers_enterHandler s cause tval, sameMemory_enterHandler s cause tval, sameScratch_enterHandler s cause tval⟩

/-! ## The double trap (R154, R357) -/

section
variable (s : State) (cause : Nat) (tval : Word)

/-- The record of a double trap. -/
def doubleTrapRecord : Record := ⟨10000 + s.cur.core, s.partOf s.cur.core, s.cur.ctx, true, BitVec.ofNat 512 (packFields
  [(0, 0x20), (40, s.partOf s.cur.core % 16), (44, s.cur.ctx.toNat), (320, s.cycle.toNat), (24, cause), (45, s.cur.thr),
    (48, s.cur.core), (128, s.th.tcause.toNat), (192, s.th.tepc0.toNat), (256, s.th.tval.toNat), (384, s.th.q0.pc.toNat),
    (448, tval.toNat)])⟩

theorem doubleTrap_eq : s.doubleTrap s.cur cause tval = { s.releaseHeld s.cur with
    threads := SMap.set Thread.initial (s.releaseHeld s.cur).threads (threadKey s.cur) { s.th.givenUp with run := .stopped }
    records := s.records ++ [doubleTrapRecord s cause tval] } := by
  have hth : (s.releaseHeld s.cur).thread s.cur = s.th.givenUp := (thread_releaseHeld s s.cur s.cur).trans (if_pos rfl)
  have hpart : ∀ th, ((s.releaseHeld s.cur).setThread s.cur th).partOf s.cur.core = s.partOf s.cur.core := fun th =>
    partOf_congr (by rw [releaseHeld_device]; rfl) (by rw [releaseHeld_device]; rfl) _
  have hcycle : (s.releaseHeld s.cur).cycle = s.cycle := by rw [releaseHeld_device]
  have hrecords : (s.releaseHeld s.cur).records = s.records := by rw [releaseHeld_device]
  unfold State.doubleTrap State.record
  dsimp only
  rw [hth, hpart, State.setThread_cycle, State.setThread_records, hcycle, hrecords]
  rfl

theorem th_doubleTrap : (s.doubleTrap s.cur cause tval).th = { s.th.givenUp with run := .stopped } := by
  rw [doubleTrap_eq, State.th]
  dsimp only
  rw [cur_releaseHeld]
  exact thread_setThread_same (s.releaseHeld s.cur) s.cur _

theorem sameOthers_doubleTrap : SameOthers s (s.doubleTrap s.cur cause tval) := by
  intro u hu
  rw [doubleTrap_eq]
  refine (thread_setThread (s.releaseHeld s.cur) s.cur u _).trans ((if_neg hu).trans ?_)
  exact (thread_releaseHeld s s.cur u).trans (if_neg hu)

theorem sameMemory_doubleTrap : SameMemory s (s.doubleTrap s.cur cause tval) := by
  rw [doubleTrap_eq, releaseHeld_device]
  exact ⟨fun _ => rfl, fun _ => rfl⟩

theorem sameScratch_doubleTrap : SameScratch s (s.doubleTrap s.cur cause tval) := by
  have hcc : ∀ core ctx, (s.doubleTrap s.cur cause tval).coreCtx core ctx = (s.releaseHeld s.cur).coreCtx core ctx := fun _ _ => by
    rw [doubleTrap_eq]; rfl
  refine ⟨fun core ctx a => ?_, fun core ctx a => ?_⟩
  · rw [hcc, coreCtx_releaseHeld]; rfl
  · rw [hcc, coreCtx_releaseHeld]; rfl

/-- A double trap of a thread that holds no group changes only the thread and the records. -/
theorem doubleTrap_only (hg : s.th.group = none) (hv : s.th.verdict ≠ some .waiting) : s.doubleTrap s.cur cause tval
    = { s with threads := (s.doubleTrap s.cur cause tval).threads, records := (s.doubleTrap s.cur cause tval).records } := by
  rw [doubleTrap_eq, releaseHeld_of_no_group hg hv]
  rfl

theorem trapThread_of_handler (hm : s.th.hm = true) : s.trapThread s.cur cause tval = s.doubleTrap s.cur cause tval := if_pos hm

end

/-- Settles O8: a trap in handler mode gives up the group, stops the thread and sends the record of R357. -/
theorem doubleTrapStopsTheThread : Obligations.DoubleTrapStopsTheThread := by
  intro s cause tval hm
  rw [trapThread_of_handler s cause tval hm]
  refine ⟨th_doubleTrap s cause tval, ⟨doubleTrapRecord s cause tval, ?_, rfl, rfl, rfl, rfl⟩, sameOthers_doubleTrap s cause tval,
    sameMemory_doubleTrap s cause tval, sameScratch_doubleTrap s cause tval, doubleTrap_only s cause tval, fun code => ?_⟩
  · rw [doubleTrap_eq]
  · obtain ⟨-, hnone, -⟩ := interruptIsTaken s code
    exact hnone hm

/-! ## A value that TSAVE does not hold (R153) -/

/-- The reset state with a write to x1 in flight whose value has a bit above the 64 of an x register. -/
def wideWriteInFlight : State :=
  State.reset.setTh { State.reset.th with landing := [⟨.x 1, BitVec.ofNat 256 (2 ^ 64), false, 1⟩] }

/-- A return takes 64 bits of an x register's value from TSAVE (log 119). -/
theorem wideWriteInFlight_returns_zero :
    (wideWriteInFlight.trapThread wideWriteInFlight.cur 0 0).returnFrom.map (fun t => t.th.landing.map Landing.value) = some [0] := by
  decide +kernel

theorem wideWriteInFlight_landing : wideWriteInFlight.th.landing = [⟨.x 1, BitVec.ofNat 256 (2 ^ 64), false, 1⟩] := by decide +kernel

/-- Refutes O9: `savable` bounds the destination and the groups that remain of a write to x1, and not its value; a bit of it above the
64 of the register is lost. -/
theorem not_trapThenReturnRestores : ¬ Obligations.TrapThenReturnRestores := by
  intro h
  have hsavable : ∀ l ∈ wideWriteInFlight.th.landing, savable l := by
    rw [wideWriteInFlight_landing]
    exact List.forall_mem_singleton.mpr ⟨by decide, by decide, .inl ⟨1, by decide, rfl⟩⟩
  have horder : inLandingOrder wideWriteInFlight.th.landing := by
    rw [wideWriteInFlight_landing]
    trivial
  obtain ⟨t, ht, hlanding, -⟩ := h wideWriteInFlight 0 0 (by decide +kernel) (by decide +kernel) (by decide +kernel) hsavable horder
    (by unfold goodPc; decide +kernel) (by unfold goodPc; decide +kernel) (by unfold goodPc; decide +kernel) (by decide +kernel)
  have hzero := wideWriteInFlight_returns_zero
  rw [ht, Option.map_some, hlanding, wideWriteInFlight_landing] at hzero
  exact absurd hzero (by decide)

end Sys2Proof.Machine
end

section
/-!
PROOF. The end of a group and the returns and waits of a thread (10 R140, R141, R145, R146, R148, R151): what the commit of a group
leaves of its queue and counts, what ERET restores, and when a thread waits.
-/
namespace Sys2Proof.Machine
open Sys2Proof.Claims

/-! ## What a commit changes of the current thread (R22, R116) -/

/-- The current thread changes in its registers and its landing list alone. -/
structure OwnRegisters (s t : State) : Prop where
  cur : t.cur = s.cur
  own : t.th = { s.th with landing := t.th.landing, x := t.th.x, v := t.th.v, m := t.th.m, p := t.th.p }

namespace OwnRegisters

theorem refl (s : State) : OwnRegisters s s := ⟨rfl, rfl⟩
theorem trans {s t u : State} (h : OwnRegisters s t) (k : OwnRegisters t u) : OwnRegisters s u :=
  ⟨k.cur.trans h.cur, by rw [k.own, h.own]⟩
theorem fold {α : Type} {f : State → α → State} (hf : ∀ t a, OwnRegisters t (f t a)) (l : List α) :
    ∀ s, OwnRegisters s (l.foldl f s) := by
  induction l with
  | nil => exact refl
  | cons a r ih => exact fun s => (hf s a).trans (ih (f s a))
theorem of_onlyLands {s t : State} (h : OnlyLands s t) : OwnRegisters s t := ⟨h.cur, h.own⟩
theorem of_setTh {s : State} {th : Thread}
    (h : th = { s.th with landing := th.landing, x := th.x, v := th.v, m := th.m, p := th.p }) : OwnRegisters s (s.setTh th) :=
  of_onlyLands (.of_setTh h)

theorem writeReg (s : State) (r : Reg) (v : VWord) (b : Bool) (st : RState) : OwnRegisters s (s.writeReg s.cur r v b st) := by
  cases r with
  | x n => refine of_setTh ?_; rw [State.th, Thread.writeX]; split <;> rfl
  | v n => exact of_setTh rfl
  | m n => refine of_setTh ?_; rw [State.th, Thread.writeM]; split <;> rfl
  | p n => refine of_setTh ?_; rw [State.th, Thread.writeP]; split <;> rfl
  | c | q | i | none | imm => exact ⟨rfl, rfl⟩

theorem postOne (s : State) (p : Post) : OwnRegisters s (s.postOne p) := by
  unfold State.postOne
  split
  · exact ⟨rfl, rfl⟩
  · exact writeReg s _ 0 false .pending
  · exact writeReg s _ 0 false .present
  · exact ⟨rfl, rfl⟩

theorem landRest (s : State) : OwnRegisters s s.landRest := by
  unfold State.landRest
  split
  · have h := fold (fun t (_ : Nat) => of_onlyLands (ageLanding_spec t).1)
      (List.range (s.th.landing.foldl (fun m l => max m l.rem) 0)) s
    exact ⟨h.cur, h.own⟩
  · exact refl s

end OwnRegisters

/-- The thread as the commit of its group stores it, before its queue is looked at once more. -/
def State.committed (s : State) : Thread :=
  let th := if s.iss.noAdvance then s.th else (s.th.count (!s.iss.keepCount)).advance s.iss.redirect s.iss.annul
  { th with
    wait := (match th.wait with
      | .fence f a => .fence f a
      | .barrier obj p => .barrier obj p
      | .service => .service
      | _ => .none)
    walkFaults := [], group := none, verdict := none, copyHeld := none, resumed := false }

/-- After the commit, the bindings and what is due change registers and the landing list alone. -/
theorem finishGroup_ownRegisters (s : State) : OwnRegisters (s.setTh s.committed).refreshQueue s.finishGroup := by
  have hissue : (s.setTh s.committed).refreshQueue.iss = s.iss := rfl
  have hpost := OwnRegisters.fold OwnRegisters.postOne s.iss.post (s.setTh s.committed).refreshQueue
  obtain ⟨hcur, hown⟩ := (hpost.trans (.of_onlyLands (ageLanding_spec _).1)).trans (.landRest _)
  generalize hstored : s.setTh s.committed = stored at *
  have hfinish : s.finishGroup = { (ageLanding (s.iss.post.foldl State.postOne stored.refreshQueue)
      (s.iss.post.foldl State.postOne stored.refreshQueue).cur).landRest with iss := .initial } := by
    rw [← hissue, ← hstored]
    rfl
  generalize (ageLanding (s.iss.post.foldl State.postOne stored.refreshQueue)
      (s.iss.post.foldl State.postOne stored.refreshQueue).cur).landRest = last at *
  rw [hfinish]
  exact ⟨hcur, hown⟩

/-! ## The queue and the counts at the end of a group (R140, R141, R148, R151) -/

theorem refreshQueue_kept {s : State} (h1 : s.th.q1.sq = false) (h2 : s.th.q2.sq = false) : s.refreshQueue.th = s.th := by
  unfold State.refreshQueue
  rw [th_setTh]
  simp only [h1, h2, Bool.false_and, Bool.false_eq_true, if_false]

/-- A provisional Q[2] alone is looked at anew. -/
theorem refreshQueue_keeps_q1 {s : State} (h1 : s.th.q1.sq = false) :
    s.refreshQueue.th = { s.th with q2 := s.refreshQueue.th.q2 } := by
  unfold State.refreshQueue
  rw [th_setTh]
  simp only [h1, Bool.false_eq_true, if_false]

section
variable (t : Thread) (redirect : Option Word) (annul icount : Bool)

theorem advance_q0 : (t.advance redirect annul).q0 = { t.q1 with an := annul || t.q1.an } := by
  cases annul <;> rfl
theorem advance_q1 : (t.advance redirect annul).q1 = { t.q2 with an := annul || t.q2.an } := by
  cases annul <;> rfl
theorem advance_q2 : (t.advance redirect annul).q2 = match redirect with
    | some pc => ⟨pc, false, false, true⟩
    | none => t.seqOf t.q2 := by
  cases annul <;> rfl
theorem advance_rest : t.advance redirect annul = { t with
    q0 := (t.advance redirect annul).q0, q1 := (t.advance redirect annul).q1, q2 := (t.advance redirect annul).q2 } := by
  cases annul <;> rfl

/-- R148, R151: what a group counts, in task mode alone. -/
theorem count_eq : t.count icount = { t with
    stop := if t.hm then t.stop else t.stop + 1
    icount := if t.hm ∨ icount = false then t.icount else t.icount + 1 } := by
  unfold Thread.count
  by_cases hm : t.hm = true
  · rw [if_pos hm, if_pos hm, if_pos (.inl hm)]
  · rw [if_neg hm, if_neg hm]
    cases icount <;> simp [hm]

theorem seqOf_of_pairs {e : QEntry} {p : Nat} (h : t.pairs e.pc = some p) : t.seqOf e = ⟨seqPc p e.pc, false, e.sq, false⟩ := by
  rw [Thread.seqOf, h]

end

/-- A group that moves its queue on stores it moved on and counted. -/
theorem committed_eq {s : State} (h : s.iss.noAdvance = false) :
    let moved := (s.th.count (!s.iss.keepCount)).advance s.iss.redirect s.iss.annul
    s.committed = { moved with wait := s.committed.wait, walkFaults := [], group := none, verdict := none, copyHeld := none,
                               resumed := false } := by
  intro moved
  have hth : (if s.iss.noAdvance then s.th else (s.th.count (!s.iss.keepCount)).advance s.iss.redirect s.iss.annul) = moved :=
    if_neg (by rw [h]; decide)
  unfold State.committed
  dsimp only
  rw [hth]

/-- Where Q[1] of the stored thread stands, the look at the queue changes at most a provisional Q[2]. -/
theorem finishGroup_keeps {s : State} (h1 : s.committed.q1.sq = false) :
    s.finishGroup.th.q0 = s.committed.q0 ∧ s.finishGroup.th.q1 = s.committed.q1 ∧ s.finishGroup.th.stop = s.committed.stop
      ∧ s.finishGroup.th.icount = s.committed.icount ∧ (s.committed.q2.sq = false → s.finishGroup.th.q2 = s.committed.q2) := by
  have hown := (finishGroup_ownRegisters s).own
  have hlooked := refreshQueue_keeps_q1 (s := s.setTh s.committed) (by rw [th_setTh]; exact h1)
  have hkept := refreshQueue_kept (s := s.setTh s.committed) (by rw [th_setTh]; exact h1)
  rw [th_setTh] at hlooked hkept
  generalize s.finishGroup.th = t at *
  generalize (s.setTh s.committed).refreshQueue.th = r at *
  generalize s.committed = c at *
  exact ⟨by rw [hown, hlooked], by rw [hown, hlooked], by rw [hown, hlooked], by rw [hown, hlooked],
    fun h2 => by rw [hown, hkept h2]⟩

section
variable {s : State} (hadv : s.iss.noAdvance = false)
include hadv

theorem committed_counts : s.committed.stop = (if s.th.hm then s.th.stop else s.th.stop + 1)
    ∧ s.committed.icount = if s.th.hm ∨ s.iss.keepCount = true then s.th.icount else s.th.icount + 1 := by
  rw [committed_eq hadv, advance_rest, count_eq]
  exact ⟨rfl, by simp⟩

theorem committed_queue : s.committed.q0 = { s.th.q1 with an := s.iss.annul || s.th.q1.an }
    ∧ s.committed.q1 = { s.th.q2 with an := s.iss.annul || s.th.q2.an }
    ∧ s.committed.q2 = match s.iss.redirect with
      | some pc => ⟨pc, false, false, true⟩
      | none => s.th.seqOf s.th.q2 := by
  rw [committed_eq hadv, count_eq]
  exact ⟨advance_q0 _ _ _, advance_q1 _ _ _, advance_q2 _ _ _⟩

end

/-- Settles O18: the commit stores the queue moved on, which is not looked at anew where nothing of it is provisional, and counts the
group by its mode. -/
theorem groupAdvancesTheQueue : Obligations.GroupAdvancesTheQueue := by
  intro s hadv h1 h2 t
  obtain ⟨hq0, hq1, hq2⟩ := committed_queue hadv
  obtain ⟨hstop, hicount⟩ := committed_counts hadv
  obtain ⟨kq0, kq1, kstop, kicount, kq2⟩ := finishGroup_keeps (s := s) (by rw [hq1]; exact h2)
  refine ⟨kq0.trans hq0, kq1.trans hq1, fun pc hr => ?_, fun p hr hp => ?_, kstop.trans hstop, kicount.trans hicount, rfl⟩
  · rw [hr] at hq2
    exact (kq2 (by rw [hq2])).trans hq2
  · rw [hr] at hq2
    have hseq : s.committed.q2 = ⟨seqPc p s.th.q2.pc, false, false, false⟩ :=
      hq2.trans ((seqOf_of_pairs _ hp).trans (by rw [h2]))
    exact (kq2 (by rw [hseq])).trans hseq

/-! ## What an error in a scratchpad leaves alone (R359) -/

/-- Records, the steward's log and interrupts, and what is counted of errors; nothing of a thread or a core. -/
def OnlyReports (s t : State) : Prop := t = { s with
  records := t.records, stewardLog := t.stewardLog, errors := t.errors, lasting := t.lasting, interrupts := t.interrupts
  ports := t.ports }

namespace OnlyReports

theorem refl (s : State) : OnlyReports s s := rfl
theorem trans {s t u : State} (h : OnlyReports s t) (k : OnlyReports t u) : OnlyReports s u := by
  unfold OnlyReports at *
  rw [k, h]
theorem fold {α : Type} {f : State → α → State} (hf : ∀ t a, OnlyReports t (f t a)) (l : List α) :
    ∀ s, OnlyReports s (l.foldl f s) := by
  induction l with
  | nil => exact refl
  | cons a r ih => exact fun s => (hf s a).trans (ih (f s a))

variable (s : State)

theorem recordFor {make : State → Nat → Bool → State} (hm : ∀ s p c, OnlyReports s (make s p c)) (users : List (Nat × Bool)) :
    OnlyReports s (s.recordFor users make) := by
  cases users with
  | nil =>
    have h := hm { s with records := [] } 0 false
    unfold State.recordFor State.logged
    dsimp only
    unfold OnlyReports at *
    rw [h]
  | cons c l => exact fold (fun s (c : Nat × Bool) => hm s c.1 c.2) (c :: l) s

theorem tellLasting (src : ErrSource) (count detail : Nat) : OnlyReports s (s.tellLasting src count detail) := by
  have hrecords := fun unit place addr => recordFor s (make := fun s part ctx =>
    s.hwError part ctx unit 2 place addr detail 0 0 0 count true) (fun _ _ _ => rfl) (s.users src)
  unfold State.tellLasting
  dsimp only
  split
  · exact (hrecords _ _ _).trans rfl
  · exact hrecords _ _ _

theorem makeLasting (src : ErrSource) (count detail : Nat) : OnlyReports s (s.makeLasting src count detail) := by
  have hdown : OnlyReports s ({ s with lasting := s.lasting ++ [src] }.takeDown src) := by cases src <;> rfl
  unfold State.makeLasting
  split
  · exact refl s
  · exact hdown.trans (tellLasting _ _ _ _)

theorem errorWith {own : State → Nat → Bool → State} (ho : ∀ s n b, OnlyReports s (own s n b)) (src : ErrSource)
    (event addr detail : Nat) : OnlyReports s (s.errorWith src event addr detail own) := by
  have hcounted : OnlyReports s ((s.report src event addr detail).countEvent src s.now) := rfl
  unfold State.errorWith
  dsimp only
  split
  · exact (hcounted.trans (ho _ _ _)).trans (makeLasting _ _ _ _)
  · exact hcounted.trans (ho _ _ _)

end OnlyReports

/-- An uncorrectable word that a read finds changes no thread. -/
theorem badWord_threads (s : State) (core : Nat) (ctx : Bool) (unit pc cause thr w : Nat) :
    (s.badWord core ctx unit pc cause thr w).threads = s.threads ∧ (s.badWord core ctx unit pc cause thr w).cur = s.cur := by
  have hown : ∀ (d : Nat) (s : State) (n : Nat) (b : Bool), OnlyReports s
      (if unit = 0 then s else s.hwError (s.partOf core) ctx unit 1 core (w * 8) d pc cause thr n b) := fun d s n b => by
    split <;> rfl
  have hreports := fun t d => OnlyReports.errorWith t (hown d) (.bank core (bankOfWord w)) 1 (w * 8) d
  unfold State.badWord
  dsimp only
  rw [hreports]
  exact ⟨rfl, rfl⟩

/-! ## ERET (R145) -/

section
variable {s : State}

theorem spadEcc_of_sound {l : List Word} {n : Nat} (h : ∀ a ∈ l, s.cc.badIn [a.toNat] n = []) : s.spadEcc l n = .ok () := by
  rw [State.spadEcc, List.find?_eq_none.mpr fun a ha => by simp [h a ha]]

/-- A read that meets an uncorrectable word traps, in a state with the same threads. -/
theorem spadEcc_of_bad {l : List Word} {n : Nat} (h : ∃ a ∈ l, s.cc.badIn [a.toNat] n ≠ []) :
    ∃ u a, s.spadEcc l n = .error (.trapIn u 28 a) ∧ u.th = s.th := by
  obtain ⟨a, ha, hbad⟩ := h
  have hfound : (l.find? fun a => !(s.cc.badIn [a.toNat] n).isEmpty).isSome = true :=
    List.find?_isSome.mpr ⟨a, ha, by simpa using hbad⟩
  obtain ⟨b, hb⟩ := Option.isSome_iff_exists.mp hfound
  refine ⟨_, b, by rw [State.spadEcc, hb], ?_⟩
  have hfold : ∀ (ws : List Nat) (u : State),
      (ws.foldl (State.badWord · s.cur.core s.cur.ctx 3 s.iss.pc.toNat 28 s.cur.thr) u).threads = u.threads
        ∧ (ws.foldl (State.badWord · s.cur.core s.cur.ctx 3 s.iss.pc.toNat 28 s.cur.thr) u).cur = u.cur := by
    intro ws
    induction ws with
    | nil => exact fun u => ⟨rfl, rfl⟩
    | cons w r ih =>
      intro u
      obtain ⟨hthreads, hcur⟩ := badWord_threads u s.cur.core s.cur.ctx 3 s.iss.pc.toNat 28 s.cur.thr w
      exact ⟨(ih _).1.trans hthreads, (ih _).2.trans hcur⟩
  obtain ⟨hthreads, hcur⟩ := hfold (s.cc.badIn (l.map (·.toNat)) n) s
  rw [State.th, State.thread, hthreads, hcur]
  rfl

theorem watchSaved_of_unwatched (h : unwatched s) : s.watchSaved = s := watchAll_of_unwatched h _ _ _

theorem th_returnWith (s : State) (l : List Landing) : (s.returnWith l).th = { s.th with
    q0 := ofTepc s.th.tepc0 true, q1 := ofTepc s.th.tepc1 false, q2 := ofTepc s.th.tepc2 false
    landing := s.th.landing ++ l.map fun e => { e with rem := e.rem + 1 }, hm := s.th.phm, ie := s.th.pie, stop := 0 } :=
  th_setTh s _

/-- The return adds its trace message and is `returnWith` else. -/
theorem comeBack_returns (s : State) (l : List Landing) : s.comeBack l = { s.returnWith l with cores := (s.comeBack l).cores }
    ∧ (s.comeBack l).th = (s.returnWith l).th := by
  refine ⟨?_, th_emit _ _ _ _⟩
  rw [State.comeBack, emit_onlyCores]

variable {o : Fmt Unit} (hp : s.predOn o.pred = true)
include hp

theorem exec_eret_task (hm : s.th.hm = false) : exec (.eret o) s = .next (s.takeTrap 2 s.iss.pc) := by
  refine Eq.trans (congrArg (s.slot o.pred) ?_) (slot_trap hp _ _)
  rw [hm]
  rfl

section
variable (hm : s.th.hm = true)
include hm

/-- With a write in flight ERET hands an empty group over. -/
theorem exec_eret_held (hheld : s.iss.held ≠ 0) :
    exec (.eret o) s = .next { s.emptyGroup with iss := { s.emptyGroup.iss with status := .queued } } := by
  refine Eq.trans (congrArg (s.slot o.pred) ?_) (slot_hand hp s.emptyGroup)
  rw [hm, if_neg (by decide), if_pos hheld]

variable (hheld : s.iss.held = 0)
include hheld

theorem exec_eret_reload {l : List Landing} (hl : s.th.reload = some l) : exec (.eret o) s = .next (s.watchSaved.comeBack l) := by
  refine Eq.trans (congrArg (s.slot o.pred) ?_) (slot_ok hp _)
  rw [hm, if_neg (by decide), if_neg (not_not.mpr hheld), hl]

variable (hl : s.th.reload = none)
include hl

omit hp in
/-- Without saved entries at hand ERET reads TSAVE. -/
theorem exec_eret_reads : exec (.eret o) s = s.slot o.pred (do
    s.spadEcc s.savedWords 8
    match s.savedEntries with
    | none => s.pcTrap 2
    | some l => .ok (s.watchSaved.comeBack l)) := by
  refine congrArg (s.slot o.pred) ?_
  rw [hm, if_neg (by decide), if_neg (not_not.mpr hheld)]
  generalize s.th.reload = r at hl
  subst hl
  rfl

/-- R154: an uncorrectable word of TSAVE traps in handler mode, which stops the thread. -/
theorem exec_eret_bad (hbad : ∃ a ∈ s.savedWords, s.cc.badIn [a.toNat] 8 ≠ []) :
    ∃ t, exec (.eret o) s = .next t ∧ t.iss.status = .trapped ∧ t.th.run = .stopped := by
  obtain ⟨u, a, hecc, hth⟩ := spadEcc_of_bad hbad
  have htrap : u.takeTrap 28 a = { u.doubleTrap u.cur 28 a with iss := { (u.doubleTrap u.cur 28 a).iss with status := .trapped } } := by
    rw [State.takeTrap, trapThread_of_handler u 28 a (hth ▸ hm)]
  refine ⟨u.takeTrap 28 a, ?_, rfl, ?_⟩
  · rw [exec_eret_reads hm hheld hl, hecc]
    exact slot_trapIn hp u 28 a
  · rw [htrap]
    exact congrArg Thread.run (th_doubleTrap u 28 a)

variable (hsound : ∀ a ∈ s.savedWords, s.cc.badIn [a.toNat] 8 = [])
include hsound

theorem exec_eret_refused (hnone : s.savedEntries = none) : exec (.eret o) s = .next (s.takeTrap 2 s.iss.pc) := by
  rw [exec_eret_reads hm hheld hl, spadEcc_of_sound hsound, hnone]
  exact slot_trap hp _ _
theorem exec_eret_restores {l : List Landing} (hsome : s.savedEntries = some l) :
    exec (.eret o) s = .next (s.watchSaved.comeBack l) := by
  rw [exec_eret_reads hm hheld hl, spadEcc_of_sound hsound, hsome]
  exact slot_ok hp _

end
end

theorem eretReturns : EretReturns := by
  intro s o hp quiet back
  have hback : ∀ l, quiet → back (s.returnWith l) (s.watchSaved.comeBack l) := fun l hq => by
    obtain ⟨honly, hth⟩ := comeBack_returns s l
    rw [watchSaved_of_unwatched hq]
    have hissue : (s.comeBack l).iss.noAdvance = true := by rw [honly]; rfl
    have hreturned := hth.trans (th_returnWith s l)
    exact ⟨honly, congrArg Thread.hm hreturned, congrArg Thread.ie hreturned, congrArg Thread.stop hreturned, hissue,
      congrArg (fun t => t.q0.pc) hreturned, congrArg (fun t => t.q0.an) hreturned⟩
  refine ⟨exec_eret_task hp, fun l hm hheld hl hq => ⟨_, exec_eret_reload hp hm hheld hl, hback l hq⟩,
    exec_eret_held hp, fun hm hheld hl => exec_eret_bad hp hm hheld hl, fun hm hheld hl hsound hnone => ?_,
    fun t hm hheld hl hsound ht hq => ?_⟩
  · exact exec_eret_refused hp hm hheld hl hsound (Option.map_eq_none_iff.mp hnone)
  · obtain ⟨l, hsome, rfl⟩ := Option.map_eq_some_iff.mp ht
    exact ⟨_, exec_eret_restores hp hm hheld hl hsound hsome, hback l hq⟩

/-! ## YIELD, WFI and WAITT (R146) -/

section
variable {s : State} {o : Fmt Unit} (h : s.Issues o)
include h

theorem exec_waitt (ha : s.bitA o = false) :
    exec (.waitt o) s = .next (if s.cycle.toNat < (s.opA o).toNat then s.park .none else s) := by
  have hbound : s.noBounded [s.read o.imm o.a] = .ok () := noBounded_ok (List.forall_mem_singleton.mpr ha)
  by_cases hc : s.cycle.toNat < (s.opA o).toNat
  · rw [if_pos hc]
    refine Eq.trans (congrArg (s.slot o.pred) ?_) (slot_park h.on _)
    simp only [sources_bind h, hbound]
    exact if_pos hc
  · rw [if_neg hc]
    refine Eq.trans (congrArg (s.slot o.pred) ?_) (slot_ok h.on _)
    simp only [sources_bind h, hbound]
    exact if_neg hc

theorem exec_waitt_bounded (ha : s.bitA o = true) : exec (.waitt o) s = .next (s.takeTrap 26 s.iss.pc) := by
  have hbound : s.noBounded [s.read o.imm o.a] = .error (.trap 26 s.iss.pc) := noBounded_trap ⟨_, List.mem_singleton_self _, ha⟩
  refine Eq.trans (congrArg (s.slot o.pred) ?_) (slot_trap h.on _ _)
  simp only [sources_bind h, hbound]
  rfl

end

theorem mayRun_of_yield {s : State} (h : s.th.pause = .yield) : s.mayRun = false := by simp [State.mayRun, h]
theorem mayRun_of_wfi {s : State} (h : s.th.pause = .wfi) (hw : s.wakes s.th = false) : s.mayRun = false := by
  simp [State.mayRun, h, hw]

theorem flowWaits : FlowWaits := by
  intro s o
  refine ⟨fun hp => ⟨slot_ok hp _, slot_ok hp _⟩, fun h ha hc => ?_, fun h ha hc => ?_, exec_waitt_bounded,
    fun hy => ⟨mayRun_of_yield hy, congrArg Host.Outcome.next (if_pos hy)⟩, fun hw hnone => mayRun_of_wfi hw ?_⟩
  · rw [exec_waitt h ha, if_neg (Nat.not_lt.mpr hc)]
  · rw [exec_waitt h ha, if_pos hc]
  · refine List.any_eq_false.mpr fun c hc hand => ?_
    obtain ⟨hpend, hen⟩ := Bool.and_eq_true_iff.mp hand
    exact Bool.false_ne_true ((hnone c hc hpend).symm.trans hen)

/-- Settles O19: ERET returns with the entries that it read, traps or waits by what stands in its way; a thread that rests may not run. -/
theorem returnsAndWaits : Obligations.ReturnsAndWaits := ⟨eretReturns, flowWaits⟩

end Sys2Proof.Machine
end

section
/-!
PROOF. STOPMAX and the system calls (10 R149, R154; 23 R347, R348, R357): what CSRR and CSRW make of STOPMAX, and the record of a double
trap on a core whose number its field does not hold.
-/
namespace Sys2Proof.Machine
open Sys2Proof.Claims

/-- Settles O40: STOPMAX is one of the CSRs that handler mode alone writes. -/
theorem stopmaxRegister : Obligations.StopmaxRegister := by
  intro s o h ha hn
  have hread : s.csrRead 0x008 = some (s.th.stopmax.setWidth 64) := by simp [State.csrRead]
  have hwrite : s.th.hm = true → exec (.csrw o) s
      = .next (s.setTh { s.th with stopmax := if (s.opA o).setWidth 12 = 0 then s.th.stopmax else (s.opA o).setWidth 12 }) := fun hm =>
    (csrWrites_of_csrWrite h ha (by decide) (csrWrite_stopmax hm _) hn).1
  refine ⟨csrReads_of_csrRead h hread hn, rfl, fun hm hv => ?_, fun hm hv => ?_, fun hm => ?_⟩
  · rw [hwrite hm, if_neg hv]
  · rw [hwrite hm, if_pos hv]
  · have hnone : s.th.csrWrite 0x008 (s.opA o) = none :=
      csrWrite_none (by unfold writtenInEither; omega) (fun hm' => absurd (hm.symm.trans hm') (by decide)) _
    exact (csrw_csrx_fault h hnone).1 hn

/-! ## A core number that its field does not hold (R357) -/

/-- A thread in handler mode on a core of number 2 ^ 400. -/
def farHandler : State :=
  let s : State := { State.reset with cur := ⟨2 ^ 400, false, 0⟩ }
  s.setTh { s.th with hm := true }
/-- TRAP, under p0. -/
def plainTrap : Fmt Unit := ⟨⟨false, 0⟩, .x 0, .x 0, .x 0, .x 0, (), 0⟩

/-- The record adds up its fields: the core number, from bit 48 on, reaches the field of TVAL at bit 448. -/
theorem farHandler_tval :
    (farHandler.trapAfter 2 farHandler.iss.pc).records.map (fun q : Record => (q.bits >>> 448).setWidth 64) = [(1 : Word)] := by
  decide +kernel

/-- Refutes O41: nothing bounds the core number of the statement's state, and with that of `farHandler` the record of the double trap
that TRAP takes has TVAL 1, where the second trap's is the PC 0. -/
theorem not_systemCalls : ¬ Obligations.SystemCalls := by
  intro h
  obtain ⟨-, hhandler, -⟩ := h farHandler plainTrap (by decide +kernel)
  obtain ⟨⟨t, q, ht, -, -, hrecords, -, -, -, -, -, htval⟩, -⟩ := hhandler (by decide +kernel)
  have htrap : exec (.trap plainTrap) farHandler = .next (farHandler.trapAfter 2 farHandler.iss.pc) := by
    change execTrap plainTrap farHandler = _
    rw [execTrap, if_pos (by decide +kernel), if_pos (by decide +kernel)]
  cases htrap.symm.trans ht
  have hbits := farHandler_tval
  rw [hrecords, List.map_append, List.map_singleton, htval] at hbits
  exact absurd hbits (by decide +kernel)

end Sys2Proof.Machine
end

section
/-!
PROOF. Vector instructions lane by lane (11 R155-R162): the lanes of a packed register, what a vector instruction reads once its
sources are there, and what its active and inactive lanes take; then VARITH, VLOGIC, VDIV and VSQRT.
-/
namespace Sys2Proof.Machine
open Sys2Proof.Claims

/-! ## Lanes as numbers and as bits (R155) -/

theorem toNat_laneOf (w : Nat) (v : VWord) (i : Nat) : (laneOf w v i).toNat = lane w v i := by
  rw [laneOf, BitVec.toNat_setWidth, BitVec.toNat_ushiftRight, Nat.shiftRight_eq_div_pow, lane, bits]

theorem ofNat_lane (w : Nat) (v : VWord) (i : Nat) : BitVec.ofNat (8 * w) (lane w v i) = laneOf w v i := by
  rw [← toNat_laneOf, BitVec.ofNat_toNat, BitVec.setWidth_eq]

theorem laneOf_zero (w i : Nat) : laneOf w 0 i = 0 := by simp [laneOf]

/-- Lane i of a register that is packed of lanes. -/
theorem laneOf_packLanes {w i : Nat} {l : List Nat} (hl : w * l.length ≤ 32) (hi : i < l.length) :
    laneOf w (packLanes w l) i = BitVec.ofNat _ l[i] := by
  refine BitVec.eq_of_getLsbD_eq fun p hp => ?_
  have hlane : 8 * w * i + p < 256 := by
    calc 8 * w * i + p < 8 * w * (i + 1) := by rw [Nat.mul_succ]; omega
      _ ≤ 8 * w * l.length := Nat.mul_le_mul_left _ hi
      _ ≤ 256 := by rw [Nat.mul_assoc]; omega
  rw [laneOf, BitVec.getLsbD_setWidth, BitVec.getLsbD_ushiftRight, packLanes, BitVec.getLsbD_ofNat, BitVec.getLsbD_ofNat,
    testBit_foldr_lanes w l i hp, List.getD_eq_getElem _ _ hi, decide_eq_true hlane, Bool.true_and]

/-- The same for a register that is packed lane by lane. -/
theorem laneOf_packRange {w i : Nat} (hi : i < 32 / w) (f : Nat → Nat) :
    laneOf w (packLanes w ((List.range (32 / w)).map f)) i = BitVec.ofNat _ (f i) := by
  rw [laneOf_packLanes (by simpa using Nat.mul_div_le 32 w) (by simpa using hi), List.getElem_map, List.getElem_range]

theorem typeBytes_pos (t : ElType) : 0 < t.bytes := by cases t <;> decide
theorem typeBytes_dvd (t : ElType) : t.bytes ∣ 32 := by cases t <;> decide
/-- The governing mask bit of a lane is one of the 32. -/
theorem maskBit_lt (t : ElType) {i : Nat} (hi : i < 32 / t.bytes) : i * t.bytes < 32 := by
  rw [Nat.mul_comm]
  exact (Nat.lt_div_iff_mul_lt' (typeBytes_dvd t) i).mp hi
theorem lane_of_maskBit_lt (t : ElType) {j : Nat} (hj : j < 32) : j / t.bytes < 32 / t.bytes :=
  Nat.div_lt_div_of_lt_of_dvd (typeBytes_dvd t) hj

/-! ## Numbers in lanes (R161) -/

theorem toNat_ofInt_lane (t : ElType) (e : Int) : (BitVec.ofInt (8 * t.bytes) e).toNat = laneBits t e := by
  rw [BitVec.toNat_ofInt, laneBits]
  norm_cast

theorem ofNat_laneBits (t : ElType) (e : Int) : BitVec.ofNat (8 * t.bytes) (laneBits t e) = BitVec.ofInt _ e := by
  rw [← toNat_ofInt_lane, BitVec.ofNat_toNat, BitVec.setWidth_eq]

theorem laneInt_toNat (t : ElType) (x : BitVec (8 * t.bytes)) : laneInt t x.toNat = number t x := by
  rw [laneInt, number, signedLane_toNat (typeBytes_pos t)]

theorem ofInt_number (t : ElType) (x : BitVec (8 * t.bytes)) : BitVec.ofInt _ (number t x) = x := by
  unfold number
  split <;> simp

theorem intMin_le_intMax (signed : Bool) (w : Nat) : intMin signed w ≤ intMax signed w := by
  have hpow : ∀ n : Nat, (0 : Int) < 2 ^ n := fun n => by positivity
  cases signed
  · exact Int.le_sub_one_of_lt (hpow w)
  · have := hpow (w - 1)
    simp only [intMin, intMax, if_true]
    omega

theorem toNat_intoLane (m : VecMod) (e : Int) : (intoLane m e).toNat = (intLane m e).1 := by
  unfold intLane intoLane
  dsimp only
  rw [← toNat_ofInt_lane, clampInt_eq_max_min (intMin_le_intMax _ _)]
  cases isSigned m.type <;> rfl

theorem ofNat_intLane (m : VecMod) (e : Int) : BitVec.ofNat (8 * m.type.bytes) (intLane m e).1 = intoLane m e := by
  rw [← toNat_intoLane, BitVec.ofNat_toNat, BitVec.setWidth_eq]

/-! ## What a vector instruction reads (R156) -/

/-- What `vecSources` gives where everything that it reads is present. -/
def vecRead (s : State) (o : Fmt VecMod) (old : Bool) : VecIn :=
  ⟨vecA s o, vecB' s o, vecC s o, if old then (s.read o.imm o.d).val else 0, vecB s o old, s.bitA o, s.bitB o,
    s.th.readM o.mod.mask⟩

theorem vecSources_bind {s : State} {o : Fmt VecMod} {old : Bool} (h : VecIssues s o old) (f : VecIn → Except Stop State) :
    (s.vecSources o old >>= f) = f (vecRead s o old) := by
  obtain ⟨hi, hd⟩ := h
  cases old with
  | false => simp [State.vecSources, sources_ok hi, bind, Except.bind, firstFault, Src.present, vecRead, vecA, vecB', vecC, vecB,
      State.bitA, State.bitB, State.bitC]
  | true => simp [State.vecSources, sources_ok hi, bind, Except.bind, firstFault, hd rfl, vecRead, vecA, vecB', vecC, vecB,
      State.bitA, State.bitB, State.bitC]

/-- A slot that reads the vector sources and goes on from them to a next state. -/
theorem slot_vecSources_ok {s t : State} {o : Fmt VecMod} {old : Bool} (h : VecIssues s o old) {rest : VecIn → Except Stop State}
    (ht : rest (vecRead s o old) = .ok t) : s.slot o.pred (s.vecSources o old >>= rest) = .next t := by
  rw [vecSources_bind h, ht, slot_ok h.1.on]

/-! ## The lanes of a result (R156, R159) -/

theorem vecLanes_events (m : VecMod) (v : VecIn) (f : Nat → Nat × Flags) : (vecLanes m v f).2
    = orFlags ((List.range (32 / m.type.bytes)).map fun i => if active v.mask m.type.bytes i then (f i).2 else .none) := by
  rw [vecLanes]
  dsimp only
  rw [List.map_map]
  refine congrArg orFlags (List.map_congr_left fun i _ => ?_)
  rw [Function.comp_apply, apply_ite Prod.snd]

theorem laneOf_vecLanes (m : VecMod) (v : VecIn) (f : Nat → Nat × Flags) {i : Nat} (hi : i < 32 / m.type.bytes) :
    laneOf m.type.bytes (vecLanes m v f).1 i = if active v.mask m.type.bytes i then BitVec.ofNat _ (f i).1
      else if m.zm && m.mask != 0 then 0 else laneOf m.type.bytes v.d i := by
  rw [vecLanes]
  dsimp only
  rw [List.map_map, laneCount, laneOf_packRange hi, Function.comp_apply, apply_ite Prod.fst, apply_ite (BitVec.ofNat _)]
  refine if_congr Iff.rfl rfl ?_
  rw [apply_ite (BitVec.ofNat _), ofNat_lane]
  rfl

/-- An inactive lane is as vd stood only where the encoding reads vd. -/
theorem laneOf_vecRead_d (s : State) (o : Fmt VecMod) (old : Bool) (w i : Nat) :
    laneOf w (vecRead s o old).d i = if old then laneOf w (s.read o.imm o.d).val i else 0 := by
  cases old
  · exact laneOf_zero w i
  · rfl

/-- What a function of the sources' lanes gives in lane i. -/
def perLane {α : Type} (s : State) (o : Fmt VecMod) (f : Nat → Nat → Nat → α) (i : Nat) : α :=
  f (laneOf o.mod.type.bytes (vecA s o) i).toNat (laneOf o.mod.type.bytes (vecB' s o) i).toNat
    (laneOf o.mod.type.bytes (vecC s o) i).toNat

section
variable {s : State} {o : Fmt VecMod} (h : VecIssues s o (keepsOld o.mod))
include h

/-- An instruction that works lane by lane, from the lanes of its sources. -/
theorem lanes_laneOp (l : Nat) (f : Nat → Nat → Nat → Nat × Flags) : Lanes s o l (vecB s o (keepsOld o.mod))
    (code o (perLane s o f)) (fun i => (perLane s o f i).2) (s.laneOp o l f) := by
  have hnext : s.laneOp o l f = .next ((s.raise (vecLanes o.mod (vecRead s o (keepsOld o.mod)) (perLane s o f)).2).land o.d
      (vecLanes o.mod (vecRead s o (keepsOld o.mod)) (perLane s o f)).1 (vecB s o (keepsOld o.mod)) l) := by
    unfold perLane
    simp only [toNat_laneOf]
    exact slot_vecSources_ok h rfl
  rw [hnext, vecLanes_events]
  refine ⟨_, rfl, fun i hi => ?_⟩
  rw [laneOf_vecLanes _ _ _ hi, laneOf_vecRead_d]
  rfl

/-- Such an instruction whose results are given as bits, and that raises nothing. -/
theorem lanes_laneOp_quiet {f : Nat → Nat → Nat → Nat × Flags} {l : Nat} {g : Nat → BitVec (8 * o.mod.type.bytes)}
    (hf : ∀ a b c, (f a b c).2 = .none) (hg : ∀ i, BitVec.ofNat _ (perLane s o f i).1 = g i) :
    Lanes s o l (vecB s o (keepsOld o.mod)) g (fun _ => .none) (s.laneOp o l f) := by
  have hlanes := lanes_laneOp h l f
  rwa [show code o (perLane s o f) = g from funext hg, show (fun i => (perLane s o f i).2) = fun _ => .none from
    funext fun _ => hf _ _ _] at hlanes

/-! ## VARITH (R158, R161) -/

theorem lanes_arith_int (ht : o.mod.type.isInteger = true) (fi : Int → Int → Int → Int)
    (ff : Nat → Nat → Nat → Nat × Flags) :
    Lanes s o 2 (vecB s o (keepsOld o.mod)) (ints s o fi) (fun _ => .none) (s.arith o fi ff) := by
  simp only [State.arith, ht, if_true]
  exact lanes_laneOp_quiet h (fun _ _ _ => rfl) fun i => by simp only [perLane, ofNat_intLane, laneInt_toNat, ints]

theorem lanes_arith_float (ht : o.mod.type.isInteger = false) (fi : Int → Int → Int → Int)
    (ff : Nat → Nat → Nat → Nat × Flags) :
    Lanes s o 4 (vecB s o (keepsOld o.mod)) (code o (perLane s o ff)) (fun i => (perLane s o ff i).2) (s.arith o fi ff) := by
  simp only [State.arith, ht, Bool.false_eq_true, if_false]
  exact lanes_laneOp h 4 ff

/-! ## VLOGIC (R162) -/

theorem lanes_bitwise {f : Nat → Nat → Nat}
    {g : BitVec (8 * o.mod.type.bytes) → BitVec (8 * o.mod.type.bytes) → BitVec (8 * o.mod.type.bytes)}
    (hg : ∀ x y, BitVec.ofNat _ (f x.toNat y.toNat) = g x y) :
    Lanes s o 2 (vecB s o (keepsOld o.mod)) (bitwise s o g) (fun _ => .none) (s.laneOp o 2 fun a b _ => (f a b, .none)) :=
  lanes_laneOp_quiet h (fun _ _ _ => rfl) fun _ => hg _ _

end

/-! ## The two statements -/

/-- Settles O42: on integer lanes VARITH is its exact function, taken into the lane, and VLOGIC works on the bits
of a lane. -/
theorem vectorIntegerLanes : Obligations.VectorIntegerLanes := by
  intro s o h
  dsimp only [exec, execVadd, execVsub, execVmul, execVfma, execVfms, execVmin, execVmax, execVabs, execVneg,
    execVand, execVor, execVxor, execVshl, execVshr, execVsra]
  refine ⟨fun ht => ?varith, lanes_bitwise h fun x y => ?and, lanes_bitwise h fun x y => ?or, lanes_bitwise h fun x y => ?xor,
    lanes_bitwise h fun x y => ?shl, lanes_bitwise h fun x y => ?shr, lanes_bitwise h fun x y => ?sra⟩
  case varith =>
    and_intros
    all_goals exact lanes_arith_int h ht _ _
  case and => simp [BitVec.ofNat_and]
  case or => simp [BitVec.ofNat_or]
  case xor => simp [BitVec.ofNat_xor]
  case shl => exact (ofNat_laneBits _ _).trans (ofInt_shl x y)
  case shr => exact (BitVec.ofInt_natCast _ _).symm.trans (ofInt_shr x y)
  case sra => rw [ofNat_laneBits, signedLane_toNat (typeBytes_pos _), ofInt_sra]

/-- Settles O43: on floating lanes VARITH is its floating operation on the codes of the lanes, and so are VDIV and VSQRT. -/
theorem vectorFloatLanes : Obligations.VectorFloatLanes := by
  intro s o h
  dsimp only [exec, execVadd, execVsub, execVmul, execVfma, execVfms, execVmin, execVmax, execVabs, execVneg,
    execVdiv, execVsqrt]
  refine ⟨fun ht => ?_, lanes_laneOp h 16 _, lanes_laneOp h 16 _⟩
  and_intros
  all_goals exact lanes_arith_float h ht _ _

end Sys2Proof.Machine
end

section
/-!
PROOF. Vector conversions, compares and moves (11 R163-R168): what a VCVT writes of its part, the mask bits that a VCMP packs, and
the lanes that VSEL and VLANE move.
-/
namespace Sys2Proof.Machine
open Sys2Proof.Claims

/-- Where nothing is bounded, a body goes on behind the check of R217. -/
theorem noBounded_bind {s : State} {l : List Src} (h : ∀ a ∈ l, a.b = false) (body : Except Stop State) :
    (s.noBounded l >>= fun _ => body) = body := by
  rw [noBounded_ok h]
  rfl

/-! ## Moves (R156, R166, R168) -/

section
variable {s : State} {o : Fmt VecMod} {l : Nat} {b : Bool} {r : Host.Outcome State Fault Refusal}
  {g : Nat → BitVec (8 * o.mod.type.bytes)}

/-- A register that is packed lane by lane. -/
theorem moves_packLanes {f : Nat → Nat}
    (hr : r = .next (s.land o.d (packLanes o.mod.type.bytes ((List.range (32 / o.mod.type.bytes)).map f)) b l))
    (hf : ∀ i, i < 32 / o.mod.type.bytes → BitVec.ofNat _ (f i) = g i) : Moves s o l b g r :=
  ⟨_, hr, fun i hi => (laneOf_packRange hi f).trans (hf i hi)⟩

/-- A register of active and inactive lanes. -/
theorem moves_vecLanes {f : Nat → Nat × Flags}
    (hr : r = .next (s.land o.d (vecLanes o.mod (vecRead s o (keepsOld o.mod)) f).1 b l))
    (hf : ∀ i, BitVec.ofNat _ (f i).1 = g i) : Moves s o l b (masked s o g) r := by
  refine ⟨_, hr, fun i hi => ?_⟩
  have hidle : (if o.mod.zm && o.mod.mask != 0 then 0 else laneOf o.mod.type.bytes (vecRead s o (keepsOld o.mod)).d i)
      = idle s o i := by
    rw [laneOf_vecRead_d, idle, keepsOld]
    cases o.mod.zm <;> simp
  rw [laneOf_vecLanes _ _ _ hi, hf, hidle]
  rfl

end

/-- A register with one of its lanes replaced. -/
theorem laneOf_packLanes_set {w i : Nat} (v : VWord) (x k : Nat) (hi : i < 32 / w) :
    laneOf w (packLanes w ((lanesOf w v).set k x)) i = if i = k then BitVec.ofNat _ x else laneOf w v i := by
  rw [laneOf_packLanes (by simpa [lanesOf] using Nat.mul_div_le 32 w) (by simpa [lanesOf] using hi), List.getElem_set,
    apply_ite (BitVec.ofNat _)]
  refine if_congr eq_comm rfl ?_
  simp only [lanesOf, List.getElem_map, List.getElem_range, ofNat_lane]

/-- The low bits of a word fill a lane (R167). -/
theorem ofNat_toNat_mod (w : Nat) (a : Word) : BitVec.ofNat (8 * w) (a.toNat % 2 ^ (8 * w)) = a.setWidth _ := by
  rw [← BitVec.toNat_setWidth, BitVec.ofNat_toNat, BitVec.setWidth_eq]

section
variable {s : State} {o : Fmt VecMod}

theorem moves_vsel (h : s.Issues o) : Moves s o 2 (vecB s o false)
    (fun i => if on s o i then laneOf o.mod.type.bytes (vecA s o) i else laneOf o.mod.type.bytes (vecB' s o) i) (execVsel o s) := by
  refine moves_packLanes (slot_vecSources_ok (old := false) ⟨h, nofun⟩ rfl) fun i _ => ?_
  rw [apply_ite (BitVec.ofNat _), ofNat_lane, ofNat_lane]
  rfl

section
variable (h : VecIssues s o (keepsOld o.mod))
include h

theorem moves_vbcast : Moves s o 2 (vecB s o (keepsOld o.mod)) (masked s o fun _ => (s.opA o).setWidth _) (execVbcast o s) :=
  moves_vecLanes (slot_sources_ok h.1.on h.1 (vecSources_bind h _)) fun _ => ofNat_toNat_mod _ _

theorem moves_vperm (hb : s.bitB o = false) : Moves s o 2 (vecB s o (keepsOld o.mod)) (masked s o fun i =>
    laneOf o.mod.type.bytes (vecA s o) ((laneOf o.mod.type.bytes (vecB' s o) i).toNat % (32 / o.mod.type.bytes))) (execVperm o s) :=
  moves_vecLanes (slot_sources_ok h.1.on h.1
      ((noBounded_bind (List.forall_mem_singleton.mpr hb) _).trans (vecSources_bind h _))) fun i => by
    rw [toNat_laneOf]
    exact ofNat_lane _ _ _

theorem moves_vslide : Moves s o 2 (vecB s o (keepsOld o.mod)) (masked s o fun i =>
    let j : Int := (i : Int) + o.imm.toInt
    if 0 ≤ j ∧ j < (32 / o.mod.type.bytes : Nat) then laneOf o.mod.type.bytes (vecA s o) j.toNat
    else if o.b = .none then 0
    else laneOf o.mod.type.bytes (vecB' s o) (if ((32 / o.mod.type.bytes : Nat) : Int) ≤ j then j - (32 / o.mod.type.bytes : Nat)
      else j + (32 / o.mod.type.bytes : Nat)).toNat) (execVslide o s) := by
  refine moves_vecLanes (slot_vecSources_ok h rfl) fun i => ?_
  dsimp only
  rw [apply_ite (BitVec.ofNat _), apply_ite (BitVec.ofNat _), ofNat_lane, ofNat_lane]
  rfl

theorem moves_viota : Moves s o 2 (vecB s o (keepsOld o.mod))
    (masked s o fun i => BitVec.ofNat _ ((List.range i).filter fun k => on s o k).length) (execViota o s) := by
  refine moves_vecLanes (slot_vecSources_ok h rfl) fun i => ?_
  exact BitVec.eq_of_toNat_eq (by rw [BitVec.toNat_ofNat, Nat.mod_mod, BitVec.toNat_ofNat]; rfl)

end

/-- VINS replaces one lane of the old vd. -/
theorem moves_vins (h : VecIssues s o true) (hb : s.bitB o = false) : Moves s o 2 (vecB s o true) (fun i =>
    if i = (s.opB o).toNat % (32 / o.mod.type.bytes) then (s.opA o).setWidth _
    else laneOf o.mod.type.bytes (s.read o.imm o.d).val i)
    (execVins o s) := by
  refine ⟨_, slot_sources_ok h.1.on h.1
    ((noBounded_bind (List.forall_mem_singleton.mpr hb) _).trans (vecSources_bind h _)), fun i hi => ?_⟩
  exact (laneOf_packLanes_set _ _ _ hi).trans (if_congr Iff.rfl (ofNat_toNat_mod _ _) rfl)

end

/-! ## A lane as a scalar register holds it (R168, R170) -/

theorem redWord_toNat (t : ElType) (x : BitVec (8 * t.bytes)) : redWord t x.toNat = asWord t x := by
  rw [redWord, laneInt_toNat, number, asWord, BitVec.ofNat_toNat]
  cases isSigned t <;> rfl

theorem execVext_lands {s : State} {o : Fmt VecMod} (h : s.Issues o) (hb : s.bitB o = false) :
    execVext o s = .next (s.land o.d ((asWord o.mod.type
      (laneOf o.mod.type.bytes (s.read o.imm o.a).val ((s.opB o).toNat % (32 / o.mod.type.bytes)))).setWidth 256)
      (s.bitA o) 2) := by
  refine slot_sources_ok h.on h ((noBounded_bind (List.forall_mem_singleton.mpr hb) _).trans ?_)
  rw [← redWord_toNat, toNat_laneOf]
  rfl

/-! ## Fields of one width, packed side by side -/

section
variable {w : Nat} (base : Nat) {x : Nat → Nat} (hx : ∀ i, x i < 2 ^ w)
include hx

/-- The fields from field `base` on. -/
theorem packFields_lt (n : Nat) : packFields ((List.range n).map fun i => ((base + i) * w, x i)) < 2 ^ ((base + n) * w) := by
  induction n with
  | zero => exact Nat.two_pow_pos _
  | succ n ih =>
    have hx := hx n
    have hpow : 2 ^ ((base + (n + 1)) * w) = 2 ^ w * 2 ^ ((base + n) * w) := by rw [← Nat.pow_add]; congr 1; ring
    have hfield : (x n + 1) * 2 ^ ((base + n) * w) ≤ 2 ^ w * 2 ^ ((base + n) * w) := Nat.mul_le_mul_right _ hx
    rw [List.range_succ, List.map_append, packFields, List.foldl_append, hpow]
    rw [packFields] at ih
    simp only [List.map_cons, List.map_nil, List.foldl_cons, List.foldl_nil]
    rw [Nat.succ_mul] at hfield
    omega

theorem testBit_packFields (hw : 0 < w) (n j : Nat) : (packFields ((List.range n).map fun i => ((base + i) * w, x i))).testBit j
    = (decide (base ≤ j / w ∧ j / w < base + n) && (x (j / w - base)).testBit (j % w)) := by
  induction n with
  | zero =>
    have hnone : ¬ (base ≤ j / w ∧ j / w < base + 0) := by omega
    rw [decide_eq_false hnone]
    simp [packFields]
  | succ n ih =>
    have hlt := packFields_lt base hx n
    rw [List.range_succ, List.map_append, packFields, List.foldl_append]
    rw [packFields] at ih hlt
    simp only [List.map_cons, List.map_nil, List.foldl_cons, List.foldl_nil]
    rw [Nat.add_comm, Nat.mul_comm (x n), Nat.testBit_two_pow_mul_add _ hlt, ih]
    simp only [← Nat.div_lt_iff_lt_mul hw]
    have hj := Nat.div_add_mod' j w
    obtain hbelow | hat | habove := Nat.lt_trichotomy (j / w) (base + n)
    · have hsucc : j / w < base + (n + 1) := by omega
      simp only [hbelow, hsucc, if_true]
    · have hsub : j - (base + n) * w = j % w := by rw [← hat]; omega
      simp [hat, hsub]
    · have hout : 2 ^ w ≤ 2 ^ (j - (base + n) * w) := by
        refine Nat.pow_le_pow_right Nat.two_pos ?_
        have := Nat.mul_le_mul_right w habove
        rw [Nat.succ_mul] at this
        omega
      have hsucc : ¬ j / w < base + (n + 1) := by omega
      simp [Nat.not_lt.mpr habove.le, hsucc, Nat.testBit_lt_two_pow (Nat.lt_of_lt_of_le (hx n) hout)]

end

/-! ## VCVT (R163, R164) -/

/-- The lanes that a narrowing VCVT writes are those of its part: its mask is packed of them. -/
def cvtMask (s : State) (o : Fmt VecMod) : BitVec 32 :=
  let n := 32 / max (cvtSrc o.imm).bytes o.mod.type.bytes
  if o.mod.type.bytes < (cvtSrc o.imm).bytes then
    BitVec.ofNat 32 (packFields ((List.range n).map fun i =>
      ((cvtPart o.imm * n + i) * o.mod.type.bytes, (on s o (cvtPart o.imm * n + i)).toNat)))
  else s.th.readM o.mod.mask
/-- What a VCVT converts its source of a lane to, and with which events. -/
def cvtLane (s : State) (o : Fmt VecMod) (i : Nat) : Nat × Flags :=
  let x := (laneOf (cvtSrc o.imm).bytes (vecA s o) (cvtFrom o i)).toNat
  if cvtScale o.imm = 0 then convertLane (cvtSrc o.imm) o.mod.type o.mod.rnd x
  else roundLane o.mod.type o.mod.rnd ((laneVal (cvtSrc o.imm) x).scale (cvtScale o.imm))

theorem active_cvtMask (s : State) (o : Fmt VecMod) {i : Nat} (hi : i < 32 / o.mod.type.bytes) :
    active (cvtMask s o) o.mod.type.bytes i = cvtOn s o i := by
  have hpos := typeBytes_pos o.mod.type
  have hbit := maskBit_lt o.mod.type hi
  have hfield : ∀ k, (on s o k).toNat < 2 ^ o.mod.type.bytes := fun k =>
    Nat.lt_of_lt_of_le (Bool.toNat_lt _) (Nat.pow_le_pow_right Nat.two_pos hpos)
  unfold active cvtMask cvtOn
  dsimp only
  split
  next hnarrow =>
    rw [BitVec.getLsbD_ofNat, decide_eq_true hbit, Bool.true_and, testBit_packFields _ (fun k => hfield _) hpos,
      Nat.mul_div_cancel _ hpos, Nat.mul_mod_left, decide_eq_false (Nat.not_le.mpr hnarrow), Bool.false_or, Bool.and_comm]
    by_cases hpart : cvtPart o.imm * (32 / max (cvtSrc o.imm).bytes o.mod.type.bytes) ≤ i
    · rw [Nat.add_sub_cancel' hpart]
      cases on s o i <;> simp
    · simp [hpart]
  next hwide => rw [decide_eq_true (Nat.not_lt.mp hwide), Bool.true_or, Bool.and_true]; rfl

theorem cvtFrom_eq (o : Fmt VecMod) (i : Nat) :
    (if (cvtSrc o.imm).bytes < o.mod.type.bytes then
      cvtPart o.imm * (32 / max (cvtSrc o.imm).bytes o.mod.type.bytes) + if o.mod.type.bytes < (cvtSrc o.imm).bytes then
        i - cvtPart o.imm * (32 / max (cvtSrc o.imm).bytes o.mod.type.bytes) else i
      else if o.mod.type.bytes < (cvtSrc o.imm).bytes then
        i - cvtPart o.imm * (32 / max (cvtSrc o.imm).bytes o.mod.type.bytes) else i) = cvtFrom o i := by
  unfold cvtFrom
  dsimp only
  by_cases hwide : (cvtSrc o.imm).bytes < o.mod.type.bytes
  · simp only [hwide, Nat.lt_asymm hwide, if_true, if_false]
  · simp only [hwide, if_false]

theorem execVcvt_lands {s : State} {o : Fmt VecMod}
    (h : VecIssues s o (keepsOld o.mod || (cvtSrc o.imm).bytes != o.mod.type.bytes)) :
    let v := { vecRead s o (keepsOld o.mod || (cvtSrc o.imm).bytes != o.mod.type.bytes) with mask := cvtMask s o }
    execVcvt o s
      = .next ((s.raise (vecLanes o.mod v (cvtLane s o)).2).land o.d (vecLanes o.mod v (cvtLane s o)).1 v.bounded 4) := by
  refine slot_vecSources_ok h ?_
  unfold cvtLane
  simp only [toNat_laneOf, ← cvtFrom_eq]
  rfl

theorem vcvt_lanes {s : State} {o : Fmt VecMod}
    (h : VecIssues s o (keepsOld o.mod || (cvtSrc o.imm).bytes != o.mod.type.bytes)) :
    ∃ v : VWord, execVcvt o s = .next ((s.raise (orFlags ((List.range (32 / o.mod.type.bytes)).map fun i =>
        if cvtOn s o i then (cvtLane s o i).2 else .none))).land o.d v
          (vecB s o (keepsOld o.mod || (cvtSrc o.imm).bytes != o.mod.type.bytes)) 4)
      ∧ ∀ i, i < 32 / o.mod.type.bytes → laneOf o.mod.type.bytes v i = if cvtOn s o i then BitVec.ofNat _ (cvtLane s o i).1
        else if o.mod.zm && o.mod.mask != 0 then 0
        else if keepsOld o.mod || (cvtSrc o.imm).bytes != o.mod.type.bytes then
          laneOf o.mod.type.bytes (s.read o.imm o.d).val i else 0 := by
  have hnext := execVcvt_lands h
  have hevents : ((List.range (32 / o.mod.type.bytes)).map fun i =>
        if active (cvtMask s o) o.mod.type.bytes i then (cvtLane s o i).2 else .none)
      = (List.range (32 / o.mod.type.bytes)).map fun i => if cvtOn s o i then (cvtLane s o i).2 else .none :=
    List.map_congr_left fun i hi => by rw [active_cvtMask s o (List.mem_range.mp hi)]
  dsimp only at hnext
  rw [vecLanes_events, hevents] at hnext
  refine ⟨_, hnext, fun i hi => ?_⟩
  rw [laneOf_vecLanes _ _ _ hi, active_cvtMask s o hi, laneOf_vecRead_d]

/-! ## VCMP (R165) -/

/-- The comparison of a lane. -/
def cmpLane (s : State) (o : Fmt VecMod) (i : Nat) : Bool × Flags :=
  compareLane o.mod.type (o.imm.toNat % 8) (laneOf o.mod.type.bytes (s.read o.imm o.a).val i).toNat
    (laneOf o.mod.type.bytes (s.read o.imm o.b).val i).toNat
/-- The mask bits of a lane after it. -/
def cmpField (s : State) (o : Fmt VecMod) (i : Nat) : Nat :=
  if on s o i then if (cmpLane s o i).1 then 2 ^ o.mod.type.bytes - 1 else 0
  else if o.mod.zm then 0 else bits (maskOf (s.read o.imm o.d)).toNat (i * o.mod.type.bytes) o.mod.type.bytes
/-- The mask that VCMP writes. -/
def cmpMask (s : State) (o : Fmt VecMod) : Nat :=
  packFields ((List.range (32 / o.mod.type.bytes)).map fun i => (i * o.mod.type.bytes, cmpField s o i))

theorem cmpField_lt (s : State) (o : Fmt VecMod) (i : Nat) : cmpField s o i < 2 ^ o.mod.type.bytes := by
  have hpos := Nat.two_pow_pos o.mod.type.bytes
  unfold cmpField
  split_ifs
  · exact Nat.sub_lt hpos Nat.one_pos
  · exact hpos
  · exact hpos
  · exact Nat.mod_lt _ hpos

theorem testBit_cmpField (s : State) (o : Fmt VecMod) (i : Nat) {p : Nat} (hp : p < o.mod.type.bytes)
    (hbit : i * o.mod.type.bytes + p < 32) : (cmpField s o i).testBit p = if on s o i then (cmpLane s o i).1
      else !o.mod.zm && (s.read o.imm o.d).val.getLsbD (i * o.mod.type.bytes + p) := by
  unfold cmpField
  split
  · cases (cmpLane s o i).1
    · simp
    · simp [Nat.testBit_two_pow_sub_one, hp]
  · cases o.mod.zm
    · have hold := BitVec.getLsbD_setWidth 32 (s.read o.imm o.d).val (i * o.mod.type.bytes + p)
      rw [decide_eq_true hbit, Bool.true_and] at hold
      rw [if_neg Bool.false_ne_true, bits, Nat.testBit_mod_two_pow, decide_eq_true hp, Bool.true_and, Nat.testBit_div_two_pow,
        Nat.add_comm p]
      exact hold
    · simp

theorem cmpMask_eq (s : State) (o : Fmt VecMod) : cmpMask s o
    = packFields ((List.range (32 / o.mod.type.bytes)).map fun i => ((0 + i) * o.mod.type.bytes, cmpField s o i)) := by
  simp only [Nat.zero_add]
  rfl

theorem cmpMask_lt (s : State) (o : Fmt VecMod) : cmpMask s o < 2 ^ 32 := by
  have hlt := packFields_lt 0 (cmpField_lt s o) (32 / o.mod.type.bytes)
  rwa [← cmpMask_eq, Nat.zero_add, Nat.div_mul_cancel (typeBytes_dvd _)] at hlt

theorem testBit_cmpMask (s : State) (o : Fmt VecMod) {j : Nat} (hj : j < 32) : (cmpMask s o).testBit j
    = if on s o (j / o.mod.type.bytes) then (cmpLane s o (j / o.mod.type.bytes)).1
      else !o.mod.zm && (s.read o.imm o.d).val.getLsbD j := by
  have hpos := typeBytes_pos o.mod.type
  have hsplit := Nat.div_add_mod' j o.mod.type.bytes
  have hlane : 0 ≤ j / o.mod.type.bytes ∧ j / o.mod.type.bytes < 0 + 32 / o.mod.type.bytes :=
    ⟨Nat.zero_le _, by rw [Nat.zero_add]; exact lane_of_maskBit_lt _ hj⟩
  rw [cmpMask_eq, testBit_packFields 0 (cmpField_lt s o) hpos, decide_eq_true hlane, Bool.true_and, Nat.sub_zero,
    testBit_cmpField s o _ (Nat.mod_lt _ hpos) (by omega), hsplit]

theorem execVcmp_lands {s : State} {o : Fmt VecMod} (h : s.Issues o) (ha : s.bitA o = false) (hb : s.bitB o = false) :
    execVcmp o s = .next ((s.raise (orFlags ((List.range (32 / o.mod.type.bytes)).map fun i =>
      if on s o i then (cmpLane s o i).2 else .none))).land o.d (BitVec.ofNat 256 (cmpMask s o)) false 1) := by
  have hbound : ∀ a ∈ [s.read o.imm o.a, s.read o.imm o.b], a.b = false :=
    List.forall_mem_cons.mpr ⟨ha, List.forall_mem_singleton.mpr hb⟩
  refine slot_sources_ok h.on h ((noBounded_bind hbound _).trans ?_)
  dsimp only
  rw [List.zipWith_map_right, List.zipWith_self, List.map_map]
  unfold cmpMask cmpField cmpLane
  have hcond : bits o.imm.toNat 0 3 = o.imm.toNat % 8 := by simp [bits]
  simp only [hcond, toNat_laneOf, apply_ite Prod.fst, apply_ite Prod.snd, Function.comp_def]
  rfl

theorem vcmp_lanes {s : State} {o : Fmt VecMod} (h : s.Issues o) (ha : s.bitA o = false) (hb : s.bitB o = false) :
    ∃ m : BitVec 32, execVcmp o s = .next ((s.raise (orFlags ((List.range (32 / o.mod.type.bytes)).map fun i =>
        if on s o i then (cmpLane s o i).2 else .none))).land o.d (m.setWidth 256) false 1)
      ∧ ∀ j, j < 32 → m.getLsbD j = if on s o (j / o.mod.type.bytes) then (cmpLane s o (j / o.mod.type.bytes)).1
        else !o.mod.zm && (s.read o.imm o.d).val.getLsbD j := by
  have hmask : BitVec.ofNat 256 (cmpMask s o) = (BitVec.ofNat 32 (cmpMask s o)).setWidth 256 :=
    (BitVec.setWidth_ofNat_of_le_of_lt (by decide) (cmpMask_lt s o)).symm
  refine ⟨_, (execVcmp_lands h ha hb).trans (by rw [hmask]), fun j hj => ?_⟩
  rw [BitVec.getLsbD_ofNat, decide_eq_true hj, Bool.true_and, testBit_cmpMask s o hj]

end Sys2Proof.Machine
end

section
/-!
PROOF. VSORTKV (11 R169): the order of integer keys, and the sort by insertion as a permutation of lanes that leaves equal keys in
place; then the statement on vector moves and compares.
-/
namespace Sys2Proof.Machine
open Sys2Proof.Claims

/-! ## The order of integer keys -/

theorem lt_ofInt (a b : Int) : (FVal.ofInt a).lt (FVal.ofInt b) = decide (a < b) := by
  have hscaled : ∀ n : Int, FVal.scaled (decide (n < 0)) n.natAbs 0 (min 0 0) = n := by
    intro n
    by_cases hn : n < 0
    · simp [FVal.scaled, hn, abs_of_neg hn]
    · simp [FVal.scaled, hn, abs_of_nonneg (Int.not_lt.mp hn)]
  unfold FVal.ofInt FVal.lt
  dsimp only
  rw [hscaled, hscaled]

theorem laneVal_of_isInteger {t : ElType} (ht : t.isInteger = true) (n : Nat) : laneVal t n = .ofInt (laneInt t n) := by
  cases t
  case mk8 | fp16 | bf16 | fp32 | fp64 => exact absurd ht Bool.false_ne_true
  all_goals rfl

theorem keyLess_of_isInteger {t : ElType} (ht : t.isInteger = true) (a b : Nat) :
    keyLess t a b = decide (laneInt t a < laneInt t b) := by
  rw [keyLess, laneVal_of_isInteger ht, laneVal_of_isInteger ht]
  exact lt_ofInt _ _

/-! ## The sort as a permutation of lanes -/

/-- Lane i stands before lane j in the sort: by its key, and among equal keys by its place. -/
def SortedBefore (key : Nat → Int) (i j : Nat) : Prop := key i < key j ∨ key i = key j ∧ i < j

theorem SortedBefore.key_le {key : Nat → Int} {i j : Nat} (h : SortedBefore key i j) : key i ≤ key j :=
  h.elim Int.le_of_lt fun heq => Int.le_of_eq heq.1

section
variable {t : ElType} (ht : t.isInteger = true) (pair : Nat → Nat × Nat)
include ht

/-- A lane behind all others in place goes in behind the keys that are not above its own. -/
theorem insertKey_map (n : Nat) {p : List Nat} (hp : p.Pairwise (SortedBefore fun i => laneInt t (pair i).1))
    (hlt : ∀ i ∈ p, i < n) :
    ∃ q : List Nat, insertKey t (pair n) (p.map pair) = q.map pair ∧ q.Perm (n :: p)
      ∧ q.Pairwise (SortedBefore fun i => laneInt t (pair i).1) := by
  induction p with
  | nil => exact ⟨[n], rfl, .refl _, List.pairwise_singleton _ _⟩
  | cons i p ih =>
    obtain ⟨hi, hrest⟩ := List.pairwise_cons.mp hp
    rw [List.map_cons, insertKey, keyLess_of_isInteger ht]
    by_cases hkey : laneInt t (pair n).1 < laneInt t (pair i).1
    · refine ⟨n :: i :: p, by simp [hkey], .refl _, List.pairwise_cons.mpr ⟨?_, hp⟩⟩
      refine List.forall_mem_cons.mpr ⟨.inl hkey, fun j hj => .inl (hkey.trans_le (hi j hj).key_le)⟩
    · obtain ⟨q, hq, hperm, hsorted⟩ := ih hrest fun j hj => hlt j (List.mem_cons_of_mem _ hj)
      refine ⟨i :: q, by simp [hkey, hq], (hperm.cons i).trans (.swap n i p),
        List.pairwise_cons.mpr ⟨fun j hj => ?_, hsorted⟩⟩
      obtain rfl | hj := List.mem_cons.mp (hperm.mem_iff.mp hj)
      · have hin := hlt i List.mem_cons_self
        unfold SortedBefore
        dsimp only
        omega
      · exact hi j hj

theorem sortKeys_range (n : Nat) : ∃ p : List Nat, sortKeys t ((List.range n).map pair) = p.map pair ∧ p.Perm (List.range n)
    ∧ p.Pairwise (SortedBefore fun i => laneInt t (pair i).1) := by
  induction n with
  | zero => exact ⟨[], rfl, .refl _, .nil⟩
  | succ n ih =>
    obtain ⟨p, hp, hperm, hsorted⟩ := ih
    obtain ⟨q, hq, hqperm, hqsorted⟩ := insertKey_map ht pair n hsorted fun i hi => List.mem_range.mp (hperm.mem_iff.mp hi)
    refine ⟨q, ?_, ?_, hqsorted⟩
    · rw [← hq, ← hp, List.range_succ, List.map_append, sortKeys, List.foldl_append]
      rfl
    · rw [List.range_succ]
      exact hqperm.trans ((hperm.cons n).trans (List.perm_append_singleton n _).symm)

end

/-! ## VSORTKV -/

/-- Key and value of a lane. -/
def keyValue (s : State) (o : Fmt VecMod) (i : Nat) : Nat × Nat :=
  (lane o.mod.type.bytes (s.read o.imm o.a).val i, lane o.mod.type.bytes (s.read o.imm o.b).val i)

section
variable {s : State} {o : Fmt VecMod}

theorem execVsortkv_lands (h : s.Issues o) (ha : s.bitA o = false) (hfree : s.isPending s.cur (nextV o.d) = false)
    (hall : ∀ i, i < 32 / o.mod.type.bytes → on s o i = true) :
    let l := sortKeys o.mod.type ((List.range (32 / o.mod.type.bytes)).map (keyValue s o))
    execVsortkv o s = .next ((s.land o.d (packLanes o.mod.type.bytes (l.map (·.1))) false 6).land (nextV o.d)
      (packLanes o.mod.type.bytes (l.map (·.2))) (s.bitB o) 6) := by
  have hactive : ∀ i, i < 32 / o.mod.type.bytes → active (s.th.readM o.mod.mask) o.mod.type.bytes i = true := hall
  have hfront : ((List.range (32 / o.mod.type.bytes)).map fun i => (active (s.th.readM o.mod.mask) o.mod.type.bytes i,
      keyValue s o i)).filter (·.1) = (List.range (32 / o.mod.type.bytes)).map fun i =>
        (active (s.th.readM o.mod.mask) o.mod.type.bytes i, keyValue s o i) := by
    simpa [List.filter_eq_self] using hactive
  have hback : ((List.range (32 / o.mod.type.bytes)).map fun i => (active (s.th.readM o.mod.mask) o.mod.type.bytes i,
      keyValue s o i)).filter (!·.1) = [] := by
    simpa [List.filter_eq_nil_iff] using hactive
  unfold execVsortkv
  rw [if_neg (by rw [hfree]; exact Bool.false_ne_true)]
  refine slot_sources_ok h.on h ((noBounded_bind (List.forall_mem_singleton.mpr ha) _).trans ?_)
  unfold keyValue at hfront hback
  dsimp only [laneCount]
  rw [hfront, hback, List.map_map, List.map_nil, List.map_nil, List.append_nil]
  rfl

/-- Lanes of a register that are packed in another order. -/
theorem laneOf_packLanes_map {w i : Nat} {p : List Nat} (hfits : w * p.length ≤ 32) (hi : i < p.length) (v : VWord) :
    laneOf w (packLanes w (p.map (lane w v))) i = laneOf w v (p.getD i 0) := by
  rw [laneOf_packLanes (by simpa using hfits) (by simpa using hi), List.getElem_map, ofNat_lane, List.getD_eq_getElem _ _ hi]

theorem vsortkv_orders (h : s.Issues o) (ha : s.bitA o = false) (hfree : s.isPending s.cur (nextV o.d) = false)
    (ht : o.mod.type.isInteger = true) (hall : ∀ i, i < 32 / o.mod.type.bytes → on s o i = true) :
    ∃ (k v : VWord) (p : List Nat), execVsortkv o s = .next ((s.land o.d k false 6).land (nextV o.d) v (s.bitB o) 6)
      ∧ p.Perm (List.range (32 / o.mod.type.bytes))
      ∧ (∀ i, i < 32 / o.mod.type.bytes →
        laneOf o.mod.type.bytes k i = laneOf o.mod.type.bytes (s.read o.imm o.a).val (p.getD i 0)
        ∧ laneOf o.mod.type.bytes v i = laneOf o.mod.type.bytes (s.read o.imm o.b).val (p.getD i 0))
      ∧ ∀ i j, i < j → j < 32 / o.mod.type.bytes → SortedBefore
        (fun n => number o.mod.type (laneOf o.mod.type.bytes (s.read o.imm o.a).val n)) (p.getD i 0) (p.getD j 0) := by
  obtain ⟨p, hp, hperm, hsorted⟩ := sortKeys_range ht (keyValue s o) (32 / o.mod.type.bytes)
  have hlen : p.length = 32 / o.mod.type.bytes := hperm.length_eq.trans List.length_range
  have hfits : o.mod.type.bytes * p.length ≤ 32 := by
    rw [hlen]
    exact Nat.mul_div_le 32 _
  have hnext := execVsortkv_lands h ha hfree hall
  rw [hp] at hnext
  dsimp only at hnext
  rw [List.map_map, List.map_map] at hnext
  refine ⟨_, _, p, hnext, hperm, fun i hi => ?lanes, fun i j hij hj => ?order⟩
  case lanes =>
    have hip : i < p.length := hlen ▸ hi
    exact ⟨laneOf_packLanes_map hfits hip (s.read o.imm o.a).val, laneOf_packLanes_map hfits hip (s.read o.imm o.b).val⟩
  case order =>
    have hjp : j < p.length := hlen ▸ hj
    simp only [← laneInt_toNat, toNat_laneOf]
    rw [List.getD_eq_getElem _ _ hjp, List.getD_eq_getElem _ _ (hij.trans hjp)]
    exact List.pairwise_iff_getElem.mp hsorted i j _ hjp hij

end

/-! ## The statement -/

/-- Settles O44: each instruction packs its lanes one by one, or by the permutation that sorts them. -/
theorem vectorMovesAndCompares : Obligations.VectorMovesAndCompares := by
  intro s o
  exact ⟨vcvt_lanes, vcmp_lanes, moves_vsel, fun h => ⟨moves_vbcast h, moves_vperm h, moves_vslide h, moves_viota h⟩,
    execVext_lands, moves_vins, vsortkv_orders⟩

end Sys2Proof.Machine
end

section
/-!
PROOF. Vector reductions, masks and the bounded type (11 R170-R172; 14 R219): what the tree of R171 leaves of the lanes that it
combines, and what VPOPM, MASK, ACPT and BTEST give.
-/
namespace Sys2Proof.Machine
open Sys2Proof.Claims

/-! ## The tree of an operation that chooses (R171) -/

/-- Each value in m is among those in l, and of each in l there is one in m whose key is not above its own. -/
def Covers (key : Nat → Int) (m l : List (Option Nat)) : Prop :=
  (∀ a, some a ∈ m → some a ∈ l) ∧ ∀ b, some b ∈ l → ∃ a, some a ∈ m ∧ key a ≤ key b

namespace Covers

variable {key : Nat → Int} {k m l m' l' : List (Option Nat)}

theorem refl (l : List (Option Nat)) : Covers key l l := ⟨fun _ h => h, fun b h => ⟨b, h, le_refl _⟩⟩

theorem trans (hkm : Covers key k m) (hml : Covers key m l) : Covers key k l := by
  refine ⟨fun a ha => hml.1 a (hkm.1 a ha), fun b hb => ?_⟩
  obtain ⟨c, hc, hcb⟩ := hml.2 b hb
  obtain ⟨a, ha, hac⟩ := hkm.2 c hc
  exact ⟨a, ha, hac.trans hcb⟩

theorem append (h : Covers key m l) (h' : Covers key m' l') : Covers key (m ++ m') (l ++ l') := by
  constructor
  · intro a ha
    exact List.mem_append.mpr ((List.mem_append.mp ha).imp (h.1 a) (h'.1 a))
  · intro b hb
    obtain hb | hb := List.mem_append.mp hb
    · obtain ⟨a, ha, hab⟩ := h.2 b hb
      exact ⟨a, List.mem_append_left _ ha, hab⟩
    · obtain ⟨a, ha, hab⟩ := h'.2 b hb
      exact ⟨a, List.mem_append_right _ ha, hab⟩

end Covers

/-- The operation gives one of its operands, of the lesser key, and raises nothing. -/
def Picks (key : Nat → Int) (f : Nat → Nat → Nat × Flags) : Prop :=
  ∀ a b, f a b = (a, .none) ∧ key a ≤ key b ∨ f a b = (b, .none) ∧ key b ≤ key a

theorem covers_headD {key : Nat → Int} {l : List (Option Nat)} (h : l.length ≤ 1) : Covers key [l.headD none] l := by
  match l, h with
  | [], _ => simp [Covers]
  | [x], _ => exact .refl _

theorem treeLevel_cons (f : Nat → Nat → Nat × Flags) (x y : Option Nat) (r : List (Option Nat)) :
    treeLevel f (x :: y :: r) = ((comb f x y).1 :: (treeLevel f r).1, (comb f x y).2.or (treeLevel f r).2) := rfl
theorem tree_long (f : Nat → Nat → Nat × Flags) (n : Nat) {l : List (Option Nat)} (h : 1 < l.length) :
    tree f (n + 1) l = ((tree f n (treeLevel f l).1).1, (treeLevel f l).2.or (tree f n (treeLevel f l).1).2) :=
  if_neg (Nat.not_le.mpr h)

theorem length_treeLevel (f : Nat → Nat → Nat × Flags) :
    ∀ l : List (Option Nat), 2 * (treeLevel f l).1.length ≤ l.length + 1
  | [] => Nat.zero_le _
  | [_] => Nat.le_refl _
  | x :: y :: r => by
    have ih := length_treeLevel f r
    rw [treeLevel_cons, List.length_cons, List.length_cons, List.length_cons]
    omega

section
variable {key : Nat → Int} {f : Nat → Nat → Nat × Flags} (hf : Picks key f)
include hf

theorem comb_covers (x y : Option Nat) : Covers key [(comb f x y).1] [x, y] ∧ (comb f x y).2 = .none := by
  cases x with
  | none => exact ⟨⟨by simp [comb], fun b hb => ⟨b, by simpa [comb] using hb, le_refl _⟩⟩, rfl⟩
  | some a =>
    cases y with
    | none => exact ⟨by simp [comb, Covers], rfl⟩
    | some b => obtain ⟨h, hle⟩ | ⟨h, hle⟩ := hf a b <;> exact ⟨by simp [comb, h, Covers, hle], by simp [comb, h]⟩

theorem treeLevel_covers : ∀ l : List (Option Nat), Covers key (treeLevel f l).1 l ∧ (treeLevel f l).2 = .none
  | [] => ⟨.refl _, rfl⟩
  | [_] => ⟨.refl _, rfl⟩
  | x :: y :: r => by
    obtain ⟨hcomb, hquiet⟩ := comb_covers hf x y
    obtain ⟨hlevel, hlevelQuiet⟩ := treeLevel_covers r
    rw [treeLevel_cons, hquiet, hlevelQuiet]
    exact ⟨hcomb.append hlevel, rfl⟩

theorem tree_covers (n : Nat) {l : List (Option Nat)} (hl : l.length ≤ 2 ^ n) :
    Covers key [(tree f n l).1] l ∧ (tree f n l).2 = .none := by
  induction n generalizing l with
  | zero => exact ⟨covers_headD hl, rfl⟩
  | succ n ih =>
    by_cases hshort : l.length ≤ 1
    · rw [tree, if_pos hshort]
      exact ⟨covers_headD hshort, rfl⟩
    · obtain ⟨hlevel, hlevelQuiet⟩ := treeLevel_covers hf l
      have hhalf := length_treeLevel f l
      obtain ⟨htree, htreeQuiet⟩ := @ih (treeLevel f l).1 (by rw [Nat.pow_succ] at hl; omega)
      rw [tree_long f n (Nat.not_le.mp hshort), hlevelQuiet, htreeQuiet]
      exact ⟨htree.trans hlevel, rfl⟩

end

/-! ## MIN and MAX choose (R171) -/

theorem picks_min {t : ElType} (ht : t.isInteger = true) : Picks (laneInt t) (pickLane t false) := by
  intro a b
  by_cases hlt : laneInt t b < laneInt t a
  · exact .inr ⟨by simp [pickLane, ht, hlt], hlt.le⟩
  · exact .inl ⟨by simp [pickLane, ht, hlt], not_lt.mp hlt⟩
theorem picks_max {t : ElType} (ht : t.isInteger = true) : Picks (fun a => -laneInt t a) (pickLane t true) := by
  intro a b
  by_cases hlt : laneInt t a < laneInt t b
  · exact .inr ⟨by simp [pickLane, ht, hlt], neg_le_neg hlt.le⟩
  · exact .inl ⟨by simp [pickLane, ht, hlt], neg_le_neg (not_lt.mp hlt)⟩

/-! ## Masks as sources (R172) -/

/-- A mask bit of a lane, as the 32 bits or as the source holds it. -/
theorem active_maskOf (t : ElType) (a : Src) {i : Nat} (hi : i < 32 / t.bytes) :
    active (maskOf a) t.bytes i = a.val.getLsbD (i * t.bytes) := by
  rw [active, maskOf, BitVec.getLsbD_setWidth, decide_eq_true (maskBit_lt t hi), Bool.true_and]

theorem setWidth_word (a : Src) : a.word.setWidth 32 = maskOf a := BitVec.setWidth_setWidth_of_le _ (by decide)

/-! ## The values that a reduction combines (R170) -/

section
variable (s : State) (o : Fmt VecMod)

/-- The leaves of the tree: absent lanes are those that are not active. -/
def treeLeaves : List (Option Nat) := (List.range (32 / o.mod.type.bytes)).map fun i =>
  if on s o i then some (laneOf o.mod.type.bytes (s.read o.imm o.a).val i).toNat else none
/-- The initial value, where B gives one. -/
def treeInitial : Option Nat := if o.b = .none then none else some ((s.opB o).setWidth (8 * o.mod.type.bytes)).toNat
/-- What the tree and the initial value come to, with its events. -/
def treeCombined (f : Nat → Nat → Nat × Flags) : Option Nat × Flags :=
  let top := tree f 5 (treeLeaves s o)
  let all := comb f top.1 (treeInitial s o)
  (all.1, top.2.or all.2)

/-- A value that a reduction combines is the bits of a lane or of the initial value, and its number is among those reduced. -/
theorem mem_operands {a : Nat} (ha : some a ∈ treeLeaves s o ++ [treeInitial s o]) :
    ∃ x : BitVec (8 * o.mod.type.bytes), a = x.toNat ∧ number o.mod.type x ∈ reduced s o := by
  unfold reduced
  obtain ha | ha := List.mem_append.mp ha
  · obtain ⟨i, hi, hlane⟩ := List.mem_map.mp ha
    split at hlane
    next hon =>
      cases hlane
      exact ⟨_, rfl, List.mem_append_left _ (List.mem_map.mpr ⟨i, List.mem_filter.mpr ⟨hi, hon⟩, rfl⟩)⟩
    next => cases hlane
  · have hinit := List.mem_singleton.mp ha
    unfold treeInitial at hinit
    split at hinit
    next => cases hinit
    next hb =>
      cases hinit
      exact ⟨_, rfl, List.mem_append_right _ (by rw [if_neg hb]; exact List.mem_singleton_self _)⟩

theorem mem_reduced {n : Int} (hn : n ∈ reduced s o) :
    ∃ x : BitVec (8 * o.mod.type.bytes), n = number o.mod.type x ∧ some x.toNat ∈ treeLeaves s o ++ [treeInitial s o] := by
  unfold reduced at hn
  obtain hn | hn := List.mem_append.mp hn
  · obtain ⟨i, hi, rfl⟩ := List.mem_map.mp hn
    obtain ⟨hi, hon⟩ := List.mem_filter.mp hi
    exact ⟨_, rfl, List.mem_append_left _ (List.mem_map.mpr ⟨i, hi, if_pos hon⟩)⟩
  · split at hn
    next => cases hn
    next hb =>
      cases List.mem_singleton.mp hn
      exact ⟨_, rfl, List.mem_append_right _ (List.mem_singleton.mpr (if_neg hb).symm)⟩

theorem sum_reduced : (reduced s o).sum
    = ((List.range (32 / o.mod.type.bytes)).filter fun i => on s o i).foldl
        (fun x i => x + number o.mod.type (laneOf o.mod.type.bytes (s.read o.imm o.a).val i)) 0
      + if o.b = .none then 0 else number o.mod.type ((s.opB o).setWidth _) := by
  rw [reduced, List.sum_append, List.sum_eq_foldl, List.foldl_map]
  split <;> simp

theorem treeCombined_covers {key : Nat → Int} {f : Nat → Nat → Nat × Flags} (hf : Picks key f) :
    Covers key [(treeCombined s o f).1] (treeLeaves s o ++ [treeInitial s o]) ∧ (treeCombined s o f).2 = .none := by
  have hlen : (treeLeaves s o).length ≤ 2 ^ 5 := by
    rw [treeLeaves, List.length_map, List.length_range]
    exact Nat.div_le_self _ _
  obtain ⟨htree, htreeQuiet⟩ := tree_covers hf 5 hlen
  obtain ⟨hcomb, hquiet⟩ := comb_covers hf (tree f 5 (treeLeaves s o)).1 (treeInitial s o)
  unfold treeCombined
  dsimp only
  rw [htreeQuiet, hquiet]
  exact ⟨hcomb.trans (htree.append (.refl [treeInitial s o])), rfl⟩

end

/-! ## A reduction that issues (R170, R171) -/

section
variable {s : State} {o : Fmt VecMod} (h : s.Issues o)
include h

theorem reduce_lands (f : Nat → Nat → Nat × Flags) : s.reduce o f = .next ((s.raise (treeCombined s o f).2).land o.d
    ((redWord o.mod.type ((treeCombined s o f).1.getD 0)).setWidth 256) (s.bitA o || s.bitB o) 6) := by
  refine slot_sources_ok h.on h ?_
  unfold treeCombined treeLeaves treeInitial
  simp only [toNat_laneOf, BitVec.toNat_setWidth]
  rfl

/-- Floating lanes (R171). -/
theorem reduce_float (ht : o.mod.type.isInteger = false) (f : Nat → Nat → Nat × Flags) :
    s.reduce o f = .next (treeResult s o f) := by
  have hsigned : isSigned o.mod.type = false := by
    cases htype : o.mod.type
    case int8 | int16 | int32 | int64 => rw [htype] at ht; cases ht
    all_goals rfl
  rw [reduce_lands h, redWord, if_neg (by rw [hsigned]; exact Bool.false_ne_true)]
  rfl

section
variable {key : Nat → Int} {f : Nat → Nat → Nat × Flags} (hf : Picks key f)
include hf

/-- A reduction that chooses gives one of its numbers. -/
theorem reduce_chooses (hne : reduced s o ≠ []) : ∃ x : BitVec (8 * o.mod.type.bytes), number o.mod.type x ∈ reduced s o
    ∧ (∀ n ∈ reduced s o, ∃ y, n = number o.mod.type y ∧ key x.toNat ≤ key y.toNat)
    ∧ s.reduce o f = .next ((s.raise .none).land o.d ((asWord o.mod.type x).setWidth 256) (s.bitA o || s.bitB o) 6) := by
  obtain ⟨⟨hmem, hleast⟩, hquiet⟩ := treeCombined_covers s o hf
  obtain ⟨n, hn⟩ := List.exists_mem_of_ne_nil _ hne
  obtain ⟨y, -, hy⟩ := mem_reduced s o hn
  obtain ⟨a, ha, -⟩ := hleast _ hy
  obtain ⟨x, rfl, hx⟩ := mem_operands s o (hmem a ha)
  have hresult := List.mem_singleton.mp ha
  refine ⟨x, hx, fun m hm => ?_, ?_⟩
  · obtain ⟨z, rfl, hz⟩ := mem_reduced s o hm
    obtain ⟨b, hb, hle⟩ := hleast _ hz
    cases (List.mem_singleton.mp hb).trans hresult.symm
    exact ⟨z, rfl, hle⟩
  · rw [reduce_lands h, hquiet, ← hresult, Option.getD_some, redWord_toNat]

theorem reduce_empty (he : reduced s o = []) :
    s.reduce o f = .next ((s.raise .none).land o.d 0 (s.bitA o || s.bitB o) 6) := by
  obtain ⟨⟨hmem, -⟩, hquiet⟩ := treeCombined_covers s o hf
  have hnone : (treeCombined s o f).1 = none := by
    refine Option.eq_none_iff_forall_ne_some.mpr fun a ha => ?_
    obtain ⟨x, -, hx⟩ := mem_operands s o (hmem a (by rw [ha]; exact List.mem_singleton_self _))
    rw [he] at hx
    cases hx
  have hzero : redWord o.mod.type 0 = 0 := by cases o.mod.type <;> rfl
  rw [reduce_lands h, hquiet, hnone, Option.getD_none, hzero]
  rfl

end

/-! ## VREDADD, VREDMIN and VREDMAX (R171) -/

theorem vredadd_int (ht : o.mod.type.isInteger = true) : execVredadd o s
    = .next (s.land o.d ((asWord o.mod.type (intoLane o.mod (reduced s o).sum)).setWidth 256) (s.bitA o || s.bitB o) 6) := by
  unfold execVredadd
  dsimp only
  rw [if_pos ht]
  refine slot_sources_ok h.on h ?_
  rw [sum_reduced, ← redWord_toNat, toNat_intoLane]
  simp only [← laneInt_toNat, toNat_laneOf, BitVec.toNat_setWidth]
  rfl

theorem vredadd_float (ht : o.mod.type.isInteger = false) : execVredadd o s
    = .next (treeResult s o fun x y => floatAdd o.mod.type o.mod.rnd (laneVal o.mod.type x) (laneVal o.mod.type y)) := by
  unfold execVredadd
  dsimp only
  rw [if_neg (by rw [ht]; exact Bool.false_ne_true), reduce_float h ht]

theorem vredmin_vredmax_float (ht : o.mod.type.isInteger = false) :
    execVredmin o s = .next (treeResult s o (floatPick o.mod.type false))
    ∧ execVredmax o s = .next (treeResult s o (floatPick o.mod.type true)) := by
  have hpick : ∀ max, pickLane o.mod.type max = floatPick o.mod.type max := fun max => by
    funext a b
    exact if_neg (by rw [ht]; exact Bool.false_ne_true)
  rw [← hpick, ← hpick]
  exact ⟨reduce_float h ht _, reduce_float h ht _⟩

theorem vredmin_vredmax_int (ht : o.mod.type.isInteger = true) (hne : reduced s o ≠ []) :
    ∃ lo ∈ reduced s o, ∃ hi ∈ reduced s o, (∀ x ∈ reduced s o, lo ≤ x ∧ x ≤ hi)
      ∧ execVredmin o s = .next ((s.raise .none).land o.d ((asWord o.mod.type (BitVec.ofInt _ lo)).setWidth 256)
        (s.bitA o || s.bitB o) 6)
      ∧ execVredmax o s = .next ((s.raise .none).land o.d ((asWord o.mod.type (BitVec.ofInt _ hi)).setWidth 256)
        (s.bitA o || s.bitB o) 6) := by
  obtain ⟨lo, hlo, hleast, hmin⟩ := reduce_chooses h (picks_min ht) hne
  obtain ⟨hi, hhi, hmost, hmax⟩ := reduce_chooses h (picks_max ht) hne
  refine ⟨_, hlo, _, hhi, fun x hx => ⟨?_, ?_⟩, ?_, ?_⟩
  · obtain ⟨y, rfl, hle⟩ := hleast x hx
    rwa [laneInt_toNat, laneInt_toNat] at hle
  · obtain ⟨y, rfl, hle⟩ := hmost x hx
    rwa [laneInt_toNat, laneInt_toNat, neg_le_neg_iff] at hle
  · rw [ofInt_number]
    exact hmin
  · rw [ofInt_number]
    exact hmax

/-! ## VPOPM and MASK (R170, R172) -/

theorem execVpopm_lands : execVpopm o s = .next (s.land o.d (BitVec.ofNat 256 ((List.range (32 / o.mod.type.bytes)).filter fun i =>
    (s.read o.imm o.a).val.getLsbD (i * o.mod.type.bytes)).length) false 6) := by
  have hfilter : (List.range (32 / o.mod.type.bytes)).filter (fun i => (s.read o.imm o.a).val.getLsbD (i * o.mod.type.bytes))
      = (List.range (32 / o.mod.type.bytes)).filter fun i => active (maskOf (s.read o.imm o.a)) o.mod.type.bytes i :=
    List.filter_congr fun i hi => (active_maskOf _ _ (List.mem_range.mp hi)).symm
  rw [hfilter]
  exact slot_sources_ok h.on h rfl

theorem maskOp_lands (f : BitVec 32 → BitVec 32 → BitVec 32) : s.maskOp o f
    = .next (s.land o.d ((f ((s.opA o).setWidth 32) ((s.opB o).setWidth 32)).setWidth 256) false 1) := by
  rw [State.opA, State.opB, setWidth_word, setWidth_word]
  exact slot_sources_ok h.on h rfl

theorem mfirst_found {i : Nat} (hi : i < 32 / o.mod.type.bytes)
    (hbit : (s.read o.imm o.a).val.getLsbD (i * o.mod.type.bytes) = true)
    (hfirst : ∀ k, k < i → (s.read o.imm o.a).val.getLsbD (k * o.mod.type.bytes) = false) :
    execMfirst o s = .next (s.land o.d (BitVec.ofNat 256 i) false 2) := by
  have hfind : (List.range (32 / o.mod.type.bytes)).find? (fun i => active (maskOf (s.read o.imm o.a)) o.mod.type.bytes i)
      = some i := by
    refine List.find?_range_eq_some.mpr ⟨(active_maskOf _ _ hi).trans hbit, List.mem_range.mpr hi, fun k hk => ?_⟩
    rw [active_maskOf _ _ (hk.trans hi), hfirst k hk]
    rfl
  have hwide : (BitVec.ofNat 64 i).setWidth 256 = BitVec.ofNat 256 i :=
    BitVec.setWidth_ofNat_of_le_of_lt (by decide) ((hi.trans_le (Nat.div_le_self _ _)).trans (by decide))
  refine slot_sources_ok h.on h ?_
  dsimp only [laneCount]
  rw [hfind, ← hwide]

theorem mfirst_none (hnone : ∀ i, i < 32 / o.mod.type.bytes → (s.read o.imm o.a).val.getLsbD (i * o.mod.type.bytes) = false) :
    execMfirst o s = .next (s.land o.d ((BitVec.allOnes 64).setWidth 256) false 2) := by
  have hfind : (List.range (32 / o.mod.type.bytes)).find? (fun i => active (maskOf (s.read o.imm o.a)) o.mod.type.bytes i)
      = none := by
    refine List.find?_eq_none.mpr fun i hi hon => ?_
    rw [active_maskOf _ _ (List.mem_range.mp hi), hnone i (List.mem_range.mp hi)] at hon
    cases hon
  refine slot_sources_ok h.on h ?_
  dsimp only [laneCount]
  rw [hfind]

end

/-! ## The statement -/

/-- Settles O45: a reduction that chooses leaves one of its numbers, because each node of the tree does. -/
theorem vectorReductionsAndMasks : Obligations.VectorReductionsAndMasks := by
  intro s o u
  refine ⟨fun h => ⟨fun ht => ⟨vredadd_int h ht, vredmin_vredmax_int h ht, fun he =>
      ⟨reduce_empty h (picks_min ht) he, reduce_empty h (picks_max ht) he⟩⟩,
    fun ht => ⟨vredadd_float h ht, vredmin_vredmax_float h ht⟩, execVpopm_lands h, maskOp_lands h (fun a b => a &&& b),
    maskOp_lands h (fun a b => a ||| b), maskOp_lands h (fun a b => a ^^^ b), maskOp_lands h (fun a _ => ~~~ a),
    fun _ => mfirst_found h, mfirst_none h⟩,
    fun h => ⟨slot_sources_ok h.on h rfl, ?btest⟩⟩
  case btest =>
    have hbit : BitVec.ofNat 256 (s.bitA u).toNat = if s.bitA u then 1 else 0 := by cases s.bitA u <;> rfl
    rw [← hbit]
    exact slot_sources_ok h.on h rfl

end Sys2Proof.Machine
end

section
/-!
PROOF. The MATRIX family at issue (12 R174, R176, R182, R186-R189, 13 R192): what each check comes to, an operation that enters the
dispatch queue, and a group that goes on or traps as the unit judged it.
-/
namespace Sys2Proof.Machine
open Sys2Proof.Claims

/-! ## Checks one after the other -/

/-- A check that passes, and one that stops what follows it. -/
theorem check_bind {α : Type} {c : Except Stop Unit} (h : c = .ok ()) (f : Unit → Except Stop α) : (c >>= f) = f () := by
  rw [h]
  rfl
theorem stop_bind {α β : Type} {x : Except Stop α} {e : Stop} (h : x = .error e) (f : α → Except Stop β) :
    (x >>= f) = .error e := by
  rw [h]
  rfl

theorem failIf_ok {c : Bool} (h : c = false) (cause : Nat) (v : Word) : failIf c cause v = .ok () := by rw [h]; rfl
theorem failIf_trap {c : Bool} (h : c = true) (cause : Nat) (v : Word) : failIf c cause v = .error (.trap cause v) := by rw [h]; rfl

/-! ## The checks that the operations share (R176, R177, R179) -/

theorem slotCheck_ok {s : State} {m : MatMod} (h : s.slotBeyond m = false) : s.slotCheck m = .ok () := failIf_ok h _ _

theorem tileRange_ok {s : State} {w : Word} {u v : Nat} (h : s.tileOutside w u v = none) (write : Bool) :
    s.tileRange write w u v = .ok () := by rw [State.tileRange, h]

/-- R99: a range that ends inside the data rows passes. -/
theorem dataRange_ok {s : State} {l : List (Nat × Nat)} (h : ∀ p ∈ l, p.1 + p.2 ≤ rowsEnd s) (cause : Nat) :
    s.dataRange cause l = .ok () := by
  have hnone : l.findSome? (fun r => firstIn [(s.dataEnd, 2 ^ 64)] r.1 r.2) = none :=
    List.findSome?_eq_none_iff.mpr fun p hp => firstIn_eq_none (List.forall_mem_singleton.mpr (h p hp))
  rw [State.dataRange, hnone]

theorem tileShapeOk_iff (imm : BitVec 32) : tileShapeOk imm = true ↔ TileShape imm := decide_eq_true_iff
theorem mmaShapeOk_iff (imm : BitVec 32) : mmaShapeOk imm = true ↔ MmaShape imm := by
  rw [mmaShapeOk, Bool.and_eq_true, tileShapeOk_iff, decide_eq_true_iff, MmaShape]

/-! ## Entering the dispatch queue (R174) -/

/-- The operation that the current thread hands over. -/
def State.matrixCmd (s : State) (i : Instr) (a b c : Word) (op : Option Nat) (status : Word) : MatrixCmd :=
  ⟨s.cur.core, s.cur.ctx, s.cur.thr, i, s.iss.pc, a, b, c, op, status, none⟩

/-- The state in which a synchronous operation stands in its queue and its thread waits. -/
def State.handedOver (s : State) (i : Instr) (a b : Word) : State :=
  (s.setCc { s.cc with dispatch := s.cc.dispatch ++ [s.matrixCmd i a b 0 none 0] }).setTh
    { s.th with wait := .service, verdict := some .waiting }

section
variable {s : State} {i : Instr} {a b c : Word} {op : Option Nat} {status : Word}

theorem enqueue_room (h : s.cc.dispatch.length < 2) : s.enqueue i a b c op status
    = .ok (s.setCc { s.cc with dispatch := s.cc.dispatch ++ [s.matrixCmd i a b c op status] }) := if_neg (Nat.not_le.mpr h)
theorem enqueue_full (h : 2 ≤ s.cc.dispatch.length) : s.enqueue i a b c op status = .error (.park .none) := if_pos h

variable {checks : Except Stop Unit}

theorem matrixSync_pass {v : Word} (h : s.th.verdict = some (.pass v)) : s.matrixSync checks i a b = .ok v := by
  rw [State.matrixSync, h]
theorem matrixSync_trap {cause : Nat} {v : Word} (h : s.th.verdict = some (.trap cause v)) :
    s.matrixSync checks i a b = .error (.trap cause v) := by
  rw [State.matrixSync, h]

/-- A group that no unit has judged is checked first, and then enters the queue or waits for room in it. -/
theorem matrixSync_fails {e : Stop} (h : s.th.verdict = none) (hc : checks = .error e) : s.matrixSync checks i a b = .error e := by
  rw [State.matrixSync, h, hc]
  rfl
theorem matrixSync_full (h : s.th.verdict = none) (hc : checks = .ok ()) (hfull : 2 ≤ s.cc.dispatch.length) :
    s.matrixSync checks i a b = .error (.park .none) := by
  rw [State.matrixSync, h, hc]
  exact stop_bind (enqueue_full hfull) _
theorem matrixSync_enters (h : s.th.verdict = none) (hc : checks = .ok ()) (hroom : s.cc.dispatch.length < 2) :
    s.matrixSync checks i a b = .error (.hand (s.handedOver i a b)) := by
  rw [State.matrixSync, h, hc]
  change (s.enqueue i a b 0 none 0 >>= _) = _
  rw [enqueue_room hroom]
  rfl

theorem enqueued_handedOver {p : Pred} (hp : s.predOn p = true) : Enqueued s i a b (s.slot p (.error (.hand (s.handedOver i a b)))) :=
  ⟨_, slot_hand hp _, rfl, cc_setCc s _, th_setTh _ _, rfl⟩

end

/-! ## Synchronous operations -/

/-- An instruction of the MATRIX family whose group waits for the unit: what it checks, what it hands over, and what its group does
with the word that the unit answers. -/
def State.syncSlot {M : Type} (s : State) (o : Fmt M) (checks : Except Stop Unit) (i : Instr) (a b : Word) (f : Word → State) :
    Host.Outcome State Fault Refusal :=
  s.slot o.pred (s.matrixSync checks i a b >>= fun v => .ok (f v))

section
variable {M : Type} {s : State} {o : Fmt M} (h : s.Issues o) {checks : Except Stop Unit} {i : Instr} {a b : Word} {f : Word → State}
include h

theorem syncSlot_pass {v : Word} (hv : s.th.verdict = some (.pass v)) : s.syncSlot o checks i a b f = .next (f v) := by
  rw [State.syncSlot, matrixSync_pass hv]
  exact slot_ok h.on _
theorem syncSlot_trap {cause : Nat} {v : Word} (hv : s.th.verdict = some (.trap cause v)) :
    s.syncSlot o checks i a b f = .next (s.takeTrap cause v) := by
  rw [State.syncSlot, stop_bind (matrixSync_trap hv), slot_trap h.on]

variable (hn : s.th.verdict = none)
include hn

theorem syncSlot_fails {cause : Nat} {v : Word} (hc : checks = .error (.trap cause v)) :
    s.syncSlot o checks i a b f = .next (s.takeTrap cause v) := by
  rw [State.syncSlot, stop_bind (matrixSync_fails hn hc), slot_trap h.on]
theorem syncSlot_full (hc : checks = .ok ()) (hfull : 2 ≤ s.cc.dispatch.length) :
    s.syncSlot o checks i a b f = .next (s.park .none) := by
  rw [State.syncSlot, stop_bind (matrixSync_full hn hc hfull), slot_park h.on]
theorem syncSlot_enters (hroom : s.cc.dispatch.length < 2) (hc : checks = .ok ()) :
    Enqueued s i a b (s.syncSlot o checks i a b f) := by
  rw [State.syncSlot, stop_bind (matrixSync_enters hn hc hroom)]
  exact enqueued_handedOver h.on

end

/-! ## Each synchronous instruction, and its checks -/

/-- R186: what MMA checks. -/
def State.mmaChecks (s : State) (o : Fmt MatMod) : Except Stop Unit := do
  s.noBounded [s.read o.imm o.a, s.read o.imm o.b, s.read o.imm o.c]
  failIf (!mmaShapeOk o.imm) 2 s.iss.pc
  failIf (mwReserved (s.opA o)) 30 (s.opA o)
  failIf (mwReserved (s.opB o)) 30 (s.opB o)
  failIf (!decide (1 ≤ mwFmt (s.opA o) ∧ mwFmt (s.opA o) ≤ 4)) 30 (s.opA o)
  failIf (mwFmt (s.opB o) != mwFmt (s.opA o)) 30 (s.opB o)
  failIf (mxK o.imm % chunkOf (mwFmt (s.opA o)) != 0
    || (decide (3 ≤ mwFmt (s.opA o)) && decide (64 < mxN o.imm ∨ 256 < mxK o.imm))) 30 (s.opA o)
  s.slotCheck o.mod
  failIf (mwMisplaced (s.opA o) (tileRows (s.opA o) (mxM o.imm) (mxK o.imm)) (tileLen (s.opA o) (mxM o.imm) (mxK o.imm))) 30 (s.opA o)
  failIf (mwMisplaced (s.opB o) (tileRows (s.opB o) (mxN o.imm) (mxK o.imm)) (tileLen (s.opB o) (mxN o.imm) (mxK o.imm))) 30 (s.opB o)
  s.tileRange false (s.opA o) (mxM o.imm) (mxK o.imm)
  s.tileRange false (s.opB o) (mxN o.imm) (mxK o.imm)

section
variable {s : State} {o : Fmt MatMod}

theorem mmaChecks_ok (ha : s.bitA o = false) (hb : s.bitB o = false) (hc : s.bitC o = false)
    (hfit : MmaFits (s.opA o) (s.opB o) o.imm) (hslot : s.slotBeyond o.mod = false)
    (hA : TileFits s (s.opA o) (mxM o.imm) (mxK o.imm)) (hB : TileFits s (s.opB o) (mxN o.imm) (mxK o.imm)) :
    s.mmaChecks o = .ok () := by
  obtain ⟨hshape, hlo, hhi, hsame, hchunk, hwide⟩ := hfit
  obtain ⟨hAres, hAplace, hArange⟩ := hA
  obtain ⟨hBres, hBplace, hBrange⟩ := hB
  have hlimits : (mxK o.imm % chunkOf (mwFmt (s.opA o)) != 0
      || (decide (3 ≤ mwFmt (s.opA o)) && decide (64 < mxN o.imm ∨ 256 < mxK o.imm))) = false := by
    simp only [hchunk, bne_self_eq_false, Bool.false_or, Bool.and_eq_false_imp, decide_eq_true_eq, decide_eq_false_iff_not]
    omega
  rw [State.mmaChecks, check_bind (noBounded_ok (sources_unbounded ha hb hc)),
    check_bind (failIf_ok (by rw [(mmaShapeOk_iff _).mpr hshape]; rfl) _ _), check_bind (failIf_ok hAres _ _),
    check_bind (failIf_ok hBres _ _), check_bind (failIf_ok (by simp [hlo, hhi]) _ _), check_bind (failIf_ok (by simp [hsame]) _ _),
    check_bind (failIf_ok hlimits _ _), check_bind (slotCheck_ok hslot), check_bind (failIf_ok hAplace _ _),
    check_bind (failIf_ok hBplace _ _), check_bind (tileRange_ok hArange _), tileRange_ok hBrange]

theorem mmaChecks_bounded (ha : s.bitA o = true) : s.mmaChecks o = .error (.trap 26 s.iss.pc) :=
  stop_bind (noBounded_trap ⟨_, List.mem_cons_self, ha⟩) _

theorem mmaChecks_shape (ha : s.bitA o = false) (hb : s.bitB o = false) (hc : s.bitC o = false) (hshape : ¬ MmaShape o.imm) :
    s.mmaChecks o = .error (.trap 2 s.iss.pc) := by
  rw [State.mmaChecks, check_bind (noBounded_ok (sources_unbounded ha hb hc))]
  refine stop_bind (failIf_trap ?_ _ _) _
  rw [Bool.eq_false_iff.mpr (mt (mmaShapeOk_iff _).mp hshape)]
  rfl

theorem tileChecks_ok {write : Bool} (ha : s.bitA o = false) (hfit : AccFits o.mod (s.opA o) o.imm)
    (hslot : s.slotBeyond o.mod = false) (hA : TileFits s (s.opA o) (mxM o.imm) (mxN o.imm)) :
    s.tileChecks write o (s.read o.imm o.a) = .ok () := by
  obtain ⟨hshape, hfmt, hlen⟩ := hfit
  obtain ⟨hres, hplace, hrange⟩ := hA
  have hformat : accFormat o.mod.accf (mwFmt (s.opA o)) = true := by
    obtain hfmt | ⟨hfmt, hview⟩ := hfmt
    · simp [accFormat, hfmt]
    · simp [accFormat, hfmt, hview]
  unfold State.opA at *
  rw [State.tileChecks, check_bind (noBounded_ok (List.forall_mem_singleton.mpr ha)),
    check_bind (failIf_ok (by rw [(tileShapeOk_iff _).mpr hshape]; rfl) _ _), check_bind (failIf_ok hres _ _),
    check_bind (failIf_ok (by rw [hformat]; rfl) _ _), check_bind (failIf_ok (by simp [hlen]) _ _), check_bind (slotCheck_ok hslot),
    check_bind (failIf_ok hplace _ _), tileRange_ok hrange]

theorem tileChecks_bounded (write : Bool) (ha : s.bitA o = true) :
    s.tileChecks write o (s.read o.imm o.a) = .error (.trap 26 s.iss.pc) :=
  stop_bind (noBounded_trap ⟨_, List.mem_singleton_self _, ha⟩) _

theorem tileChecks_shape (write : Bool) (ha : s.bitA o = false) (hshape : ¬ TileShape o.imm) :
    s.tileChecks write o (s.read o.imm o.a) = .error (.trap 2 s.iss.pc) := by
  rw [State.tileChecks, check_bind (noBounded_ok (List.forall_mem_singleton.mpr ha))]
  refine stop_bind (failIf_trap ?_ _ _) _
  rw [Bool.eq_false_iff.mpr (mt (tileShapeOk_iff _).mp hshape)]
  rfl

variable (h : s.Issues o)
include h

theorem exec_mma : exec (.mma o) s = s.syncSlot o (s.mmaChecks o) (.mma o) (s.opA o) (s.opB o) fun _ => s :=
  congrArg (s.slot o.pred) (sources_bind h _)
theorem exec_acz : exec (.acz o) s = s.syncSlot o (s.slotCheck o.mod) (.acz o) 0 0 fun _ => s :=
  congrArg (s.slot o.pred) (sources_bind h _)
theorem exec_acld : exec (.acld o) s
    = s.syncSlot o (s.tileChecks false o (s.read o.imm o.a)) (.acld o) (s.opA o) 0 fun _ => s :=
  congrArg (s.slot o.pred) (sources_bind h _)
theorem exec_acst : exec (.acst o) s
    = s.syncSlot o (s.tileChecks true o (s.read o.imm o.a)) (.acst o) (s.opA o) 0 fun _ => s :=
  congrArg (s.slot o.pred) (sources_bind h _)

end

theorem exec_mxseed {s : State} {u : Fmt Unit} (h : s.Issues u) :
    exec (.mxseed u) s = s.syncSlot u (s.noBounded [s.read u.imm u.a]) (.mxseed u) (s.opA u) 0 fun _ => s :=
  congrArg (s.slot u.pred) (sources_bind h _)
theorem exec_mxthr {s : State} {u : Fmt Unit} (h : s.Issues u) :
    exec (.mxthr u) s = s.syncSlot u (s.noBounded [s.read u.imm u.a]) (.mxthr u) (s.opA u) 0 fun _ => s :=
  congrArg (s.slot u.pred) (sources_bind h _)
theorem exec_mxstat {s : State} {k : Fmt ClrMod} (h : s.Issues k) : exec (.mxstat k) s = s.syncSlot k
    (failIf (s.split2 s.cur.core && decide (2 ≤ k.imm.toNat % 4)) 30 (BitVec.ofNat 64 (k.imm.toNat % 4))) (.mxstat k) 0 0
    fun v => s.land k.d (v.setWidth 256) false 1 :=
  congrArg (s.slot k.pred) (sources_bind h _)

/-! ## Operations with a future: MMV and TOPKC (R187, R192) -/

/-- An operation that enters the queue with its future. -/
theorem queued_start {s : State} {mmv : Bool} {i : Instr} {d : Reg} {a b c status : Word} : Queued s mmv i d a b c status
    (.next ((s.setCc { s.cc with dispatch := s.cc.dispatch ++ [s.matrixCmd i a b c (some s.nextOp) status] }).start d (.matrix mmv))) :=
  ⟨_, rfl, cc_setCc s _, rfl, rfl, rfl⟩

section
variable {s : State} {o : Fmt MatMod} {e : BitVec 128}

/-- What an MMV comes to that passes its checks: it enters the queue, with BOUNDS where its weights leave the handle. -/
theorem exec_mmv_enters (h : s.Issues o) (ha : s.bitA o = false) (hb : s.bitB o = false) (hc : s.bitC o = false)
    (he : EntryReads s (s.opA o)) (hr : s.resolveHandle (s.partOf s.cur.core) s.cur.ctx (s.opA o) = some e) (hrd : heRd e = true)
    (hfit : MmvFits (s.opA o) (s.opB o) (s.opC o) o.imm) (hslot : s.slotBeyond o.mod = false)
    (hB : TileFits s (s.opB o) (swBatch (s.opC o)) (swK (s.opC o))) : exec (.mmv o) s = s.slot o.pred (keepIn s
      (s.enqueue (.mmv o) (s.opA o) (s.opB o) (s.opC o) (some s.nextOp)
        (if streamInside (s.opA o) (s.opC o) (mwFmt (s.opB o)) e then 0 else 2) >>= fun t => .ok (t.start o.d (.matrix true)))) := by
  obtain ⟨hlo, hhi, hoff, hword, hchunk, hlong⟩ := hfit
  obtain ⟨hres, hplace, hrange⟩ := hB
  refine congrArg (s.slot o.pred) ((sources_bind h _).trans ((check_bind (noBounded_ok (sources_unbounded ha hb hc)) _).trans ?_))
  have hlimits : (swK (s.opC o) % chunkOf (mwFmt (s.opB o)) != 0
      || decide ((if mwFmt (s.opB o) ≤ 2 then 1024 else 512) < swK (s.opC o))) = false := by
    rw [hchunk, decide_eq_false (Nat.not_lt.mpr hlong)]
    rfl
  have hbounds : statusWord stBounds 0 = 2 := rfl
  unfold State.opA State.opB State.opC at *
  dsimp only
  rw [touchHandle_of_entryReads he, handleCheck_ok he (write := false) hr hrd]
  refine congrArg (keepIn s) ?_
  change (failIf _ _ _ >>= _) = _
  rw [check_bind (failIf_ok hres _ _), check_bind (failIf_ok (by simp [hlo, hhi]) _ _), check_bind (failIf_ok (by simp [hoff]) _ _),
    check_bind (failIf_ok (by rw [hword]; rfl) _ _), check_bind (failIf_ok hlimits _ _), check_bind (slotCheck_ok hslot),
    check_bind (failIf_ok hplace _ _), check_bind (tileRange_ok hrange _), hbounds]

end

section
variable {s : State} {q : Fmt TopkMod} (h : s.Issues q) (ha : s.bitA q = false) (hb : s.bitB q = false) (hc : s.bitC q = false)
include h ha hb hc

theorem exec_topkc_shape (hshape : ¬ TopkShape q.imm) : exec (.topkc q) s = .next (s.takeTrap 2 s.iss.pc) := by
  unfold TopkShape at hshape
  exact slot_sources_trap h ((check_bind (noBounded_ok (sources_unbounded ha hb hc)) _).trans
    (stop_bind (failIf_trap ((Bool.not_eq_true' _).mpr (decide_eq_false hshape)) _ _) _))

/-- A TOPKC without marks that passes its checks enters the queue. -/
theorem exec_topkc_enters (hmark : q.mod.mark = false) (hfit : TopkFits s (s.opA q) (s.opB q) q.imm) (hroom : s.cc.dispatch.length < 2) :
    exec (.topkc q) s = .next ((s.setCc { s.cc with dispatch := s.cc.dispatch
      ++ [s.matrixCmd (.topkc q) (s.opA q) (s.opB q) (s.opC q) (some s.nextOp) 0] }).start q.d (.matrix false)) := by
  obtain ⟨hshape, hpicks, hcells, houts, hlo, hhi, ⟨hres, hplace, hrange⟩, hword, hidx, hval, hmeet, htileIdx, htileVal, hidxEnd,
    hvalEnd⟩ := hfit
  unfold TopkShape at hshape
  refine slot_sources_ok h.on h ((check_bind (noBounded_ok (sources_unbounded ha hb hc)) _).trans ?_)
  have hwide : (s.opB q).toNat / 2 ^ 36 = 0 := Nat.div_eq_of_lt hword
  have hrows : ∀ p ∈ [(tkIdx (s.opB q), 4 * (tkCols q.imm * tkPicks q.imm)), (tkVal (s.opB q), 4 * (tkCols q.imm * tkPicks q.imm))],
      p.1 + p.2 ≤ rowsEnd s := by
    simpa using ⟨hidxEnd, hvalEnd⟩
  unfold State.opA State.opB State.opC at *
  dsimp only
  rw [hmark]
  simp only [Bool.false_and, Bool.or_false, List.append_nil, Bool.false_eq_true, if_false]
  rw [check_bind (failIf_ok ((Bool.not_eq_false' _).mpr (decide_eq_true hshape)) _ _),
    check_bind (failIf_ok (decide_eq_false (by omega)) _ _), check_bind (failIf_ok (by simp [hlo, hhi]) _ _),
    check_bind (failIf_ok (by rw [hres, hplace]; rfl) _ _), check_bind (failIf_ok (decide_eq_false (by omega)) _ _),
    check_bind (failIf_ok rfl _ _), check_bind (failIf_ok (by rw [hmeet, htileIdx, htileVal]; rfl) _ _),
    check_bind (failIf_ok rfl _ _), check_bind (tileRange_ok hrange _), check_bind (dataRange_ok hrows _), enqueue_room hroom]
  rfl

end

/-! ## The statement -/

/-- Settles O46: an instruction that passes its checks enters the dispatch queue or waits for room in it, one that a check stops takes
that check's trap, and one that the unit has judged goes on or traps as judged. -/
theorem matrixInstructions : Obligations.MatrixInstructions := by
  intro s o u k q
  refine ⟨fun h => ⟨fun v hv => ?passes, fun c v hv => ?traps, fun hn hroom hslot => ⟨?acz, fun ha => ⟨?mma, ?accTile⟩⟩,
      fun hn ha => ⟨?mmaShape, ?tileShape⟩, fun hn ha => ?bounded, ?full, ?beyond, ?mmv⟩,
    fun h => ⟨fun v hv => ?seedPasses, fun hn hroom ha => ?seedEnters⟩, fun h => ⟨fun v hv => ?statPasses, fun hn hroom hset => ?statEnters⟩,
    fun h ha hb hc => ⟨fun hmark hfit hroom => ?topkc, exec_topkc_shape h ha hb hc⟩⟩
  case passes =>
    exact ⟨(exec_mma h).trans (syncSlot_pass h hv), (exec_acz h).trans (syncSlot_pass h hv),
      (exec_acld h).trans (syncSlot_pass h hv), (exec_acst h).trans (syncSlot_pass h hv)⟩
  case traps =>
    exact ⟨(exec_mma h).trans (syncSlot_trap h hv), (exec_acz h).trans (syncSlot_trap h hv),
      (exec_acld h).trans (syncSlot_trap h hv), (exec_acst h).trans (syncSlot_trap h hv)⟩
  case acz => exact (exec_acz h).symm ▸ syncSlot_enters h hn hroom (slotCheck_ok hslot)
  case mma =>
    exact fun hb hc hfit hA hB => (exec_mma h).symm ▸ syncSlot_enters h hn hroom (mmaChecks_ok ha hb hc hfit hslot hA hB)
  case accTile =>
    exact fun hfit hA => ⟨(exec_acld h).symm ▸ syncSlot_enters h hn hroom (tileChecks_ok ha hfit hslot hA),
      (exec_acst h).symm ▸ syncSlot_enters h hn hroom (tileChecks_ok ha hfit hslot hA)⟩
  case mmaShape => exact fun hb hc hshape => (exec_mma h).trans (syncSlot_fails h hn (mmaChecks_shape ha hb hc hshape))
  case tileShape =>
    exact fun hshape => ⟨(exec_acld h).trans (syncSlot_fails h hn (tileChecks_shape _ ha hshape)),
      (exec_acst h).trans (syncSlot_fails h hn (tileChecks_shape _ ha hshape))⟩
  case bounded =>
    exact ⟨(exec_mma h).trans (syncSlot_fails h hn (mmaChecks_bounded ha)),
      (exec_acld h).trans (syncSlot_fails h hn (tileChecks_bounded _ ha)),
      (exec_acst h).trans (syncSlot_fails h hn (tileChecks_bounded _ ha))⟩
  case full => exact fun hn hfull hslot => (exec_acz h).trans (syncSlot_full h hn (slotCheck_ok hslot) hfull)
  case beyond => exact fun hslot hn => (exec_acz h).trans (syncSlot_fails h hn (failIf_trap hslot _ _))
  case mmv =>
    intro e ha hb hc he hr hrd hfit hslot hB
    have henters := exec_mmv_enters h ha hb hc he hr hrd hfit hslot hB
    refine ⟨fun hroom => ?_, fun hfull => henters.trans ?_⟩
    · rw [henters, enqueue_room hroom]
      exact (slot_ok h.on _).symm ▸ queued_start
    · rw [stop_bind (enqueue_full hfull)]
      exact slot_park h.on _
  case seedPasses => exact ⟨(exec_mxseed h).trans (syncSlot_pass h hv), (exec_mxthr h).trans (syncSlot_pass h hv)⟩
  case seedEnters =>
    have hc := noBounded_ok (s := s) (List.forall_mem_singleton.mpr ha)
    exact ⟨(exec_mxseed h).symm ▸ syncSlot_enters h hn hroom hc, (exec_mxthr h).symm ▸ syncSlot_enters h hn hroom hc⟩
  case statPasses => exact (exec_mxstat h).trans (syncSlot_pass h hv)
  case statEnters =>
    refine (exec_mxstat h).symm ▸ syncSlot_enters h hn hroom (failIf_ok ?_ _ _)
    obtain hsplit | hlow := hset
    · rw [hsplit, Bool.false_and]
    · rw [decide_eq_false (Nat.not_le.mpr hlow), Bool.and_false]
  case topkc =>
    exact (exec_topkc_enters h ha hb hc hmark hfit hroom).symm ▸ queued_start

end Sys2Proof.Machine
end

section
/-!
SUPPORT. The rules that the services of the matrix unit share (12 R174-R183): folds over the words, blocks and elements of a tile, the
unit's own record, the core contexts it works on, and futures that resolve.
-/
namespace Sys2Proof.Machine
open Sys2Proof.Claims

/-! ## Folds -/

section
variable {α β : Type} {f : β → α → β} {l : List α} {x : α} {P Q : β → Prop}

/-- What one step of a fold brings about, and every step keeps, holds at the end. -/
theorem foldl_establishes (hx : x ∈ l) (hQ : ∀ b, Q (f b x)) (hkeep : ∀ b, ∀ y ∈ l, Q b → Q (f b y)) (b : β) : Q (l.foldl f b) := by
  obtain ⟨u, v, rfl⟩ := List.append_of_mem hx
  rw [List.foldl_append, List.foldl_cons]
  exact List.foldlRecOn v f (hQ _) fun b hb y hy => hkeep b y (List.mem_append_right u (List.mem_cons_of_mem x hy)) hb

/-- A fold that comes once to x: P holds until then, and Q from then on. -/
theorem foldl_once (hd : l.Nodup) (hx : x ∈ l) (hP : ∀ b, ∀ y ∈ l, y ≠ x → P b → P (f b y)) (hPQ : ∀ b, P b → Q (f b x))
    (hQ : ∀ b, ∀ y ∈ l, y ≠ x → Q b → Q (f b y)) {b : β} (hb : P b) : Q (l.foldl f b) := by
  obtain ⟨u, v, rfl⟩ := List.append_of_mem hx
  have hu : ∀ y ∈ u, y ≠ x := fun y hy hyx => (List.nodup_append.mp hd).2.2 y hy x List.mem_cons_self hyx
  have hv : ∀ y ∈ v, y ≠ x := fun y hy hyx => (List.nodup_cons.mp (List.nodup_append.mp hd).2.1).1 (hyx ▸ hy)
  rw [List.foldl_append, List.foldl_cons]
  have hbefore : P (u.foldl f b) := List.foldlRecOn u f hb fun b hb y hy => hP b y (List.mem_append_left _ hy) (hu y hy) hb
  exact List.foldlRecOn v f (hPQ _ hbefore) fun b hb y hy =>
    hQ b y (List.mem_append_right u (List.mem_cons_of_mem x hy)) (hv y hy) hb

end

/-- A fold that goes through the m by n elements of a tile row by row: P holds until it comes to one of them, and Q from then on. -/
theorem foldl_grid {β : Type} {f : β → Nat → Nat → β} {m n i j : Nat} (hi : i < m) (hj : j < n) {P Q : β → Prop}
    (hP : ∀ b i' j', i' < m → j' < n → (i' ≠ i ∨ j' ≠ j) → P b → P (f b i' j')) (hPQ : ∀ b, P b → Q (f b i j))
    (hQ : ∀ b i' j', i' < m → j' < n → (i' ≠ i ∨ j' ≠ j) → Q b → Q (f b i' j')) {b : β} (hb : P b) :
    Q ((List.range m).foldl (fun b i => (List.range n).foldl (fun b j => f b i j) b) b) := by
  have hrow : ∀ {R : β → Prop} (_ : ∀ b i' j', i' < m → j' < n → (i' ≠ i ∨ j' ≠ j) → R b → R (f b i' j')) (b : β), ∀ i' ∈ List.range m,
      i' ≠ i → R b → R ((List.range n).foldl (fun b j => f b i' j) b) := fun hR _ i' hi' hne hb =>
    List.foldlRecOn _ _ hb fun b hb j' hj' => hR b i' j' (List.mem_range.mp hi') (List.mem_range.mp hj') (.inl hne) hb
  refine foldl_once List.nodup_range (List.mem_range.mpr hi) (hrow hP) (fun b hb => ?_) (hrow hQ) hb
  exact foldl_once List.nodup_range (List.mem_range.mpr hj) (fun b j' hj' hne => hP b i j' hi (List.mem_range.mp hj') (.inr hne)) hPQ
    (fun b j' hj' hne => hQ b i j' hi (List.mem_range.mp hj') (.inr hne)) hb

/-- What every element keeps, the tile keeps. -/
theorem foldl_grid_keeps {β : Type} {f : β → Nat → Nat → β} {m n : Nat} {P : β → Prop}
    (hP : ∀ b i j, i < m → j < n → P b → P (f b i j)) {b : β} (hb : P b) :
    P ((List.range m).foldl (fun b i => (List.range n).foldl (fun b j => f b i j) b) b) :=
  List.foldlRecOn _ _ hb fun _ hb i hi => List.foldlRecOn _ _ hb fun b hb j hj =>
    hP b i j (List.mem_range.mp hi) (List.mem_range.mp hj) hb

/-! ## The unit and the core contexts -/

@[simp] theorem quad_setQuad_same (s : State) (n : Nat) (u : Quad) : (s.setQuad n u).quad n = u := SMap.get_set_same _ _ _ _
@[simp] theorem coreCtx_setQuad (s : State) (n : Nat) (u : Quad) (core : Nat) (ctx : Bool) :
    (s.setQuad n u).coreCtx core ctx = s.coreCtx core ctx := rfl

theorem coreCtx_of_ctxKey (s : State) {c d : Nat} {x y : Bool} (h : ctxKey c x = ctxKey d y) : s.coreCtx c x = s.coreCtx d y := by
  rw [State.coreCtx, h, State.coreCtx]

/-- What the stream buffer gives up changes nothing else of the unit. -/
theorem emptied_eq (u : Quad) (q : MatrixCmd) :
    u.emptied q = { u with filled := (u.emptied q).filled, fill := (u.emptied q).fill } := by
  unfold Quad.emptied
  split <;> rfl

/-! ## Futures -/

/-- A register that is written changes threads or core contexts alone. -/
theorem writeReg_device (s : State) (t : ThreadId) (d : Reg) (v : VWord) (b : Bool) (st : RState) : s.writeReg t d v b st
    = { s with threads := (s.writeReg t d v b st).threads, ctxs := (s.writeReg t d v b st).ctxs } := by
  cases d <;> rfl

section
variable (s : State) (o : Op) (v : VWord) (b : Bool) (st : RState)

theorem resolve_changes : ∃ threads ctxs,
    s.resolve o v b st = { s with ops := s.ops.filter fun p => p.id != o.id, threads := threads, ctxs := ctxs } := by
  unfold State.resolve
  dsimp only
  split
  · exact ⟨_, _, writeReg_device _ _ _ _ _ _⟩
  · exact ⟨s.threads, s.ctxs, rfl⟩

/-- Whatever its register, an operation that resolves is gone. -/
theorem op_resolve_none : (s.resolve o v b st).op o.id = none := by
  obtain ⟨threads, ctxs, h⟩ := resolve_changes s o v b st
  rw [h]
  exact List.find?_eq_none.mpr fun p hp => by simpa using (List.mem_filter.mp hp).2

theorem quad_resolve (n : Nat) : (s.resolve o v b st).quad n = s.quad n := by
  obtain ⟨threads, ctxs, h⟩ := resolve_changes s o v b st
  rw [h]
  rfl

/-- An operation with an x register resolves with a word. -/
theorem resolves_resolve (w : Word) : Resolves o w (.next (s.resolve o (w.setWidth 256) false .present)) := by
  refine ⟨_, rfl, op_resolve_none _ _ _ _ _, fun d h0 hd => ?_⟩
  have hword : (w.setWidth 256).setWidth 64 = w := by rw [BitVec.setWidth_setWidth_of_le _ (by decide), BitVec.setWidth_eq]
  rw [readX_resolve hd h0, hword]

end

theorem id_of_op {s : State} {n : Nat} {o : Op} (h : s.op n = some o) : o.id = n := by simpa using List.find?_some h

end Sys2Proof.Machine
end

section
/-!
PROOF. How the matrix unit turns to an operation (12 R174, R175, R180, R181, R186, R187): the operation leaves its queue, and then begins,
is only judged, fails or resolves.
-/
namespace Sys2Proof.Machine
open Sys2Proof.Claims

/-! ## The operation leaves its queue (R174) -/

theorem onlyDispatch_setDispatch (s : State) (core : Nat) (ctx : Bool) (l : List MatrixCmd) :
    OnlyDispatch s (s.setDispatch core ctx l) := by
  intro c x
  rw [State.setDispatch, coreCtx_setCoreCtx]
  split
  next hkey => rw [coreCtx_of_ctxKey s hkey]
  next => rfl

/-- The state without the head of its queue, and with the unit turned to it. -/
def State.dequeued (s : State) (q : MatrixCmd) : State :=
  s.setDispatch q.core q.ctx ((s.coreCtx q.core q.ctx).dispatch.drop 1)
def State.turnedTo (s : State) (quad : Nat) (q : MatrixCmd) : Quad := { s.quad quad with last := coreInQuad q.core }
/-- The same with nothing in service. -/
def State.idleAfter (s : State) (quad : Nat) (q : MatrixCmd) : State := (s.dequeued q).setQuad quad ((s.turnedTo quad q).emptied q)

/-- The same with the operation in service, its words still to read. -/
def State.startingAt (s : State) (quad : Nat) (q : MatrixCmd) : State :=
  (s.dequeued q).setQuad quad { (s.dequeued q).beginReading (s.turnedTo quad q) q with service := some q }

theorem dispatch_dequeued (s : State) (q : MatrixCmd) : (ctxOf (s.dequeued q) q).dispatch = (ctxOf s q).dispatch.drop 1 := by
  rw [ctxOf, State.dequeued, State.setDispatch, coreCtx_setCoreCtx_same]
  rfl

theorem service_idleAfter {s : State} {quad : Nat} (h : (s.quad quad).service = none) (q : MatrixCmd) :
    ((s.idleAfter quad q).quad quad).service = none := by
  rw [State.idleAfter, quad_setQuad_same, emptied_eq]
  exact h

/-! ## What the blocks and counters say of it does not depend on the queues -/

section
variable {s t : State} (h : OnlyDispatch s t)
include h

theorem tileFault_of_onlyDispatch (core : Nat) (ctx b : Bool) (w : Word) (u v : Nat) :
    t.tileFault core ctx b w u v = s.tileFault core ctx b w u v := by
  unfold State.tileFault
  rw [h]
  rfl

theorem serviceFault_of_onlyDispatch (q : MatrixCmd) : t.serviceFault q = s.serviceFault q := by
  have hscaled : ∀ m n, t.scaledBlock q m n = s.scaledBlock q m n := fun m n => by
    unfold State.scaledBlock
    rw [h]
    rfl
  unfold State.serviceFault
  simp only [tileFault_of_onlyDispatch h, hscaled]

theorem startWord_of_onlyDispatch (q : MatrixCmd) : t.startWord q = s.startWord q := by
  unfold State.startWord
  split
  · rw [h]
    rfl
  · rfl

end

/-! ## The outcomes of the turn (R175, R180, R186, R187) -/

section
variable {s : State} {quad n : Nat} {q : MatrixCmd} {op : Op} (h : Heads s quad q)
include h

theorem matrixDispatch_cancelled (hq : q.op = some n) (hop : s.op n = some op) (hc : op.cancelled = true) :
    exec (.matrixDispatch quad) s = .next ((s.idleAfter quad q).resolveStatus op stCancelled 0) := by
  obtain ⟨hfree, hnext⟩ := h
  have hbind : q.op.bind (s.dequeued q).op = some op := by
    rw [hq]
    exact hop
  have hcancelled : (s.dequeued q).matrixCancelled q = true := by
    rw [State.matrixCancelled, hbind]
    exact hc
  change execMatrixDispatch quad s = _
  unfold execMatrixDispatch
  refine (if_neg (by simp [hfree])).trans ?_
  rw [hnext]
  dsimp only
  unfold State.dequeued at hcancelled hbind
  rw [hcancelled, if_pos rfl, hbind]
  rfl

variable (hc : s.matrixCancelled q = false)
include hc

/-- One that was not cancelled has a status already, or is judged by its blocks. -/
theorem matrixDispatch_live : exec (.matrixDispatch quad) s
    = if q.status ≠ 0 then .next (match q.op.bind s.op with
        | some o => (s.idleAfter quad q).resolve o (q.status.setWidth 256) false .present
        | none => s.idleAfter quad q)
      else match s.serviceFault q with
      | some (k, a, w) => .next ((if k = 28 then (s.idleAfter quad q).tileScrub q w a else s.idleAfter quad q).matrixFail q k
          (BitVec.ofNat 64 a))
      | none => .next (if q.op.isNone && (s.thread (MatrixCmd.owner q)).doomed
          then (s.idleAfter quad q).judge (MatrixCmd.owner q) (.pass (s.startWord q))
          else (s.startingAt quad q).matrixPass q (s.startWord q)) := by
  obtain ⟨hfree, hnext⟩ := h
  have hcancelled : (s.dequeued q).matrixCancelled q = false := hc
  have hfault := serviceFault_of_onlyDispatch (onlyDispatch_setDispatch s q.core q.ctx ((s.coreCtx q.core q.ctx).dispatch.drop 1)) q
  have hword := startWord_of_onlyDispatch (onlyDispatch_setDispatch s q.core q.ctx ((s.coreCtx q.core q.ctx).dispatch.drop 1)) q
  change execMatrixDispatch quad s = _
  unfold execMatrixDispatch
  refine (if_neg (by simp [hfree])).trans ?_
  rw [hnext]
  dsimp only
  unfold State.dequeued at hcancelled
  rw [hcancelled, hfault, hword, if_neg Bool.false_ne_true]
  rfl

theorem matrixDispatch_status (hs : q.status ≠ 0) (hq : q.op = some n) (hop : s.op n = some op) :
    exec (.matrixDispatch quad) s = .next ((s.idleAfter quad q).resolve op (q.status.setWidth 256) false .present) := by
  have hbind : q.op.bind s.op = some op := by
    rw [hq]
    exact hop
  rw [matrixDispatch_live h hc, if_pos hs, hbind]

variable (hs : q.status = 0)
include hs

theorem matrixDispatch_fails {k a : Nat} {w : Word} (hf : s.serviceFault q = some (k, a, w)) (hk : k ≠ 28) :
    exec (.matrixDispatch quad) s = .next ((s.idleAfter quad q).matrixFail q k (BitVec.ofNat 64 a)) := by
  rw [matrixDispatch_live h hc, if_neg (not_not_intro hs), hf]
  dsimp only
  rw [if_neg hk]

variable (hf : s.serviceFault q = none)
include hf

theorem matrixDispatch_judged (hq : q.op = none) (hd : (s.thread (MatrixCmd.owner q)).doomed = true) :
    exec (.matrixDispatch quad) s = .next ((s.idleAfter quad q).judge (MatrixCmd.owner q) (.pass (s.startWord q))) := by
  rw [matrixDispatch_live h hc, if_neg (not_not_intro hs), hf]
  dsimp only
  rw [hq, hd]
  rfl

theorem matrixDispatch_starts (hd : q.op = none → (s.thread (MatrixCmd.owner q)).doomed = false) : exec (.matrixDispatch quad) s
    = .next ((s.startingAt quad q).matrixPass q (s.startWord q)) := by
  have hgoes : (q.op.isNone && (s.thread (MatrixCmd.owner q)).doomed) = false := by
    cases hq : q.op with
    | none => exact hd hq
    | some n => rfl
  rw [matrixDispatch_live h hc, if_neg (not_not_intro hs), hf]
  dsimp only
  rw [hgoes]
  rfl

end

/-! ## The judgement on a group (R22, R186) -/

section
variable (s : State) (q : MatrixCmd) (v : Word)

theorem matrixPass_device : s.matrixPass q v = { s with threads := (s.matrixPass q v).threads } := by
  unfold State.matrixPass
  dsimp only
  split <;> rfl

theorem quad_matrixPass (n : Nat) : (s.matrixPass q v).quad n = s.quad n := by
  rw [matrixPass_device]
  rfl
theorem coreCtx_matrixPass (core : Nat) (ctx : Bool) : (s.matrixPass q v).coreCtx core ctx = s.coreCtx core ctx := by
  rw [matrixPass_device]
  rfl
theorem sameMemory_matrixPass : SameMemory s (s.matrixPass q v) := by
  rw [matrixPass_device]
  exact ⟨fun _ => rfl, fun _ => rfl⟩

end

theorem verdict_matrixPass {s : State} {q : MatrixCmd} (h : q.op = none) (v : Word) :
    ((s.matrixPass q v).thread (MatrixCmd.owner q)).verdict = some (.pass v) := by
  have hpass : s.matrixPass q v
      = s.setThread (MatrixCmd.owner q) { s.thread (MatrixCmd.owner q) with verdict := some (.pass v) } := by
    unfold State.matrixPass
    dsimp only
    rw [h]
    rfl
  rw [hpass, thread_setThread_same]

theorem verdict_judge (s : State) (t : ThreadId) (v : Verdict) : ((s.judge t v).thread t).verdict = some v := by
  rw [State.judge, thread_setThread_same]

/-- A failure at the start of a service judges the waiting thread, or faults the future. -/
theorem matrixFail_sync {s : State} {q : MatrixCmd} (h : q.op = none) (k : Nat) (v : Word) :
    s.matrixFail q k v = s.judge (MatrixCmd.owner q) (.trap k v) := by
  unfold State.matrixFail
  rw [h]
  rfl
theorem matrixFail_future {s : State} {q : MatrixCmd} {n : Nat} {op : Op} (h : q.op = some n) (hop : s.op n = some op) (k : Nat)
    (v : Word) : s.matrixFail q k v = s.resolveFault op k v := by
  have hbind : q.op.bind s.op = some op := by
    rw [h]
    exact hop
  unfold State.matrixFail
  rw [hbind]

/-! ## The words and tags that the unit reads (R180, R181) -/

theorem mem_insertNat {n x : Nat} {l : List Nat} : x ∈ insertNat n l ↔ x = n ∨ x ∈ l := by
  induction l with
  | nil => exact List.mem_singleton.trans (or_iff_left List.not_mem_nil).symm
  | cons m r ih =>
    unfold insertNat
    split
    · exact List.mem_cons
    · split
      · next h => rw [h]; simp
      · rw [List.mem_cons, ih, List.mem_cons]
        exact or_left_comm

theorem mem_tileBlocks {w : Word} {u v a : Nat} : a ∈ tileBlocks w u v ↔ ∃ b ∈ tileWords w u v, a = b / 64 * 64 := by
  have hsorted : ∀ l : List Nat, a ∈ l.foldr insertNat [] ↔ a ∈ l := fun l => by
    induction l with
    | nil => rfl
    | cons b r ih => rw [List.foldr_cons, mem_insertNat, ih, List.mem_cons]
  rw [tileBlocks, hsorted, List.mem_eraseDups, List.mem_map]
  exact ⟨fun ⟨b, hb, he⟩ => ⟨b, hb, he.symm⟩, fun ⟨b, hb, he⟩ => ⟨b, hb, he.symm⟩⟩

/-- Among the tags that the unit has read, that of block a of a tile is the one of the scratchpad. -/
def Sees (s : State) (q : MatrixCmd) (x : Word × Nat × Nat) (a : Nat) (m : SMap (BitVec 16)) : Prop :=
  SMap.get 0 m (tileCore q.core x.1 * 4096 + a / 64) = (s.coreCtx (tileCore q.core x.1) q.ctx).tag a

section
variable (s : State) (u : Quad) {q : MatrixCmd} {x : Word × Nat × Nat} {a : Nat} (hx : x ∈ q.tiles)
include hx

theorem todo_beginReading (ha : a ∈ tileWords x.1 x.2.1 x.2.2) : (tileCore q.core x.1, a) ∈ (s.beginReading u q).todo := by
  refine List.mem_eraseDups.mpr (List.mem_flatten.mpr ⟨_, List.mem_map_of_mem hx, List.mem_map_of_mem ?_⟩)
  exact List.mem_append_left _ ha

/-- The tag of a block is taken as it stands: within the scratchpad, blocks of different cores have different places. -/
theorem tag_beginReading (hlow : ∀ x ∈ q.tiles, ∀ a ∈ tileWords x.1 x.2.1 x.2.2, a < 0x30000) (ha : a ∈ tileBlocks x.1 x.2.1 x.2.2) :
    (s.beginReading u q).tag (tileCore q.core x.1) a = (s.coreCtx (tileCore q.core x.1) q.ctx).tag a := by
  have hblock : ∀ y ∈ q.tiles, ∀ b ∈ tileBlocks y.1 y.2.1 y.2.2, b < 0x30000 := fun y hy b hb => by
    obtain ⟨c, hc, rfl⟩ := mem_tileBlocks.mp hb
    exact Nat.lt_of_le_of_lt (Nat.div_mul_le_self c 64) (hlow y hy c hc)
  have hkeep : ∀ y ∈ q.tiles, ∀ m, Sees s q x a m → ∀ b ∈ tileBlocks y.1 y.2.1 y.2.2,
      Sees s q x a (SMap.set 0 m (tileCore q.core y.1 * 4096 + b / 64) ((s.coreCtx (tileCore q.core y.1) q.ctx).tag b)) := by
    intro y hy m hm b hb
    have hlb := hblock y hy b hb
    have hla := hblock x hx a ha
    rw [Sees, SMap.get_set]
    split
    next hkey =>
      have hcore : tileCore q.core y.1 = tileCore q.core x.1 := by omega
      rw [hcore]
      exact tag_congr _ (by omega)
    next => exact hm
  refine foldl_establishes (Q := Sees s q x a) hx (fun m => ?_) (fun m y hy hm => ?_) _
  · refine foldl_establishes (Q := Sees s q x a) ha (fun m => ?_) (fun m b hb hm => hkeep x hx m hm b hb) m
    exact SMap.get_set_same _ _ _ _
  · exact List.foldlRecOn (motive := Sees s q x a) _ _ hm (hkeep y hy)

end

/-! ## The statement of the beginning -/

theorem matrixServiceBegins : MatrixServiceBegins := by
  intro s quad n q op h
  obtain ⟨hfree, -⟩ := id h
  have honly := onlyDispatch_setDispatch s q.core q.ctx ((s.coreCtx q.core q.ctx).dispatch.drop 1)
  refine ⟨fun hc hs hf hd => ⟨_, matrixDispatch_starts h hc hs hf hd, ?begins⟩,
    fun hc hs hf hq hd => ⟨_, matrixDispatch_judged h hc hs hf hq hd, service_idleAfter hfree q, honly, verdict_judge _ _ _⟩,
    fun c a w hc hs hf hk => ⟨fun hq => ⟨_, matrixDispatch_fails h hc hs hf hk, ?trap⟩,
      fun hq hop => ⟨_, matrixDispatch_fails h hc hs hf hk, ?faulted⟩⟩,
    fun hq hop => ⟨fun hc => ?cancelled, fun hc hs => ?status⟩⟩
  case begins =>
    have hctx := coreCtx_matrixPass (s.startingAt quad q) q (s.startWord q)
    rw [quad_matrixPass, State.startingAt, quad_setQuad_same]
    refine ⟨rfl, rfl, rfl, ?_, fun core ctx => ?_, sameMemory_matrixPass _ _ _,
      fun x hx a ha => todo_beginReading (s.dequeued q) (s.turnedTo quad q) hx ha, fun hlow x hx a ha => ?_,
      fun hq => verdict_matrixPass hq _⟩
    · exact (congrArg CoreCtx.dispatch (hctx _ _)).trans (dispatch_dequeued s q)
    · exact (hctx core ctx).symm ▸ honly core ctx
    · refine (tag_beginReading (s.dequeued q) (s.turnedTo quad q) hx hlow ha).trans ?_
      rw [State.dequeued, honly]
      rfl
  case trap =>
    rw [matrixFail_sync hq]
    exact ⟨service_idleAfter hfree q, verdict_judge _ _ _⟩
  case faulted =>
    rw [matrixFail_future hq (s := s.idleAfter quad q) hop]
    refine ⟨(congrArg Quad.service (quad_resolve _ _ _ _ _ _)).trans (service_idleAfter hfree q), ?_, fun d h0 hd => ?_⟩
    · rw [← id_of_op hop]
      exact op_resolve_none _ _ _ _ _
    · exact readX_resolve hd h0
  case cancelled =>
    rw [matrixDispatch_cancelled h hq hop hc]
    exact resolves_resolve _ _ 1
  case status =>
    have hlive : s.matrixCancelled q = false := by
      rw [State.matrixCancelled, hq]
      change (match s.op n with | some o => o.cancelled | none => false) = false
      rw [hop]
      exact hc
    rw [matrixDispatch_status h hlive hs hq hop]
    exact resolves_resolve _ _ _

end Sys2Proof.Machine
end

section
/-!
PROOF. The words of a service of the matrix unit (12 R181, R188, R197): which of them come next, what the unit reads of them, and what it
stores.
-/
namespace Sys2Proof.Machine
open Sys2Proof.Claims

/-! ## Some neighbours of a list (log 1) -/

section
variable {α : Type} (s : State) {l : List α} (h : l ≠ [])
include h

theorem someOf_eq : ∃ n k, n < l.length ∧ 0 < k ∧ s.someOf l = ((l.drop n).take k, l.take n ++ l.drop (n + k)) :=
  ⟨_, _, Nat.mod_lt _ (List.length_pos_iff.mpr h), Nat.add_pos_left Nat.one_pos _, rfl⟩

theorem length_someOf_rest : (s.someOf l).2.length < l.length := by
  obtain ⟨n, k, hn, hk, he⟩ := someOf_eq s h
  rw [he, List.length_append, List.length_take, List.length_drop]
  omega

theorem mem_someOf {x : α} : x ∈ l ↔ x ∈ (s.someOf l).1 ∨ x ∈ (s.someOf l).2 := by
  obtain ⟨n, k, -, -, he⟩ := someOf_eq s h
  have hsplit : l = l.take n ++ ((l.drop n).take k ++ l.drop (n + k)) := by
    rw [← List.drop_drop, List.take_append_drop, List.take_append_drop]
  rw [he, List.mem_append]
  nth_rewrite 1 [hsplit]
  rw [List.mem_append, List.mem_append]
  exact or_left_comm

omit h in
theorem someOf_singleton (x : α) : s.someOf [x] = ([x], []) := by
  obtain ⟨n, k, hn, hk, he⟩ := someOf_eq s (List.cons_ne_nil x [])
  obtain rfl : n = 0 := Nat.lt_one_iff.mp hn
  obtain ⟨k, rfl⟩ := Nat.exists_eq_succ_of_ne_zero hk.ne'
  rw [he]
  simp

end

/-! ## Bytes side by side -/

theorem zipIdx_bytes (c : CoreCtx) (a n : Nat) : (c.bytes a n).zipIdx = (List.range n).map fun i => (c.byte (a + i), i) := by
  refine List.ext_getElem (by simp [CoreCtx.bytes]) fun i h₁ h₂ => ?_
  simp [CoreCtx.bytes]

theorem drop_take_bytes (c : CoreCtx) (a : Nat) {n k m : Nat} (h : k + m ≤ n) :
    ((c.bytes a n).drop k).take m = c.bytes (a + k) m := by
  refine List.ext_getElem (by simp [CoreCtx.bytes]; omega) fun i h₁ h₂ => ?_
  simp [CoreCtx.bytes, Nat.add_assoc]

/-- Bytes set one after the other from an address. -/
def CoreCtx.setBytes (c : CoreCtx) (a : Nat) (l : List Byte) : CoreCtx :=
  (l.zipIdx).foldl (fun (c : CoreCtx) p => c.setByte (a + p.2) p.1) c

theorem setBytes_eq (c : CoreCtx) (a : Nat) (l : List Byte) : c.setBytes a l = { c with spad := (c.setBytes a l).spad } :=
  List.foldlRecOn (motive := fun d : CoreCtx => d = { c with spad := d.spad }) _ _ rfl fun _ hd p _ =>
    (congrArg (CoreCtx.setByte · (a + p.2) p.1) hd).trans rfl

theorem byte_setBytes (c : CoreCtx) (a x : Nat) (l : List Byte) :
    (c.setBytes a l).byte x = if a ≤ x ∧ x < a + l.length then l.getD (x - a) 0 else c.byte x := by
  induction l using List.reverseRecOn with
  | nil => simp [CoreCtx.setBytes]
  | append_singleton l b ih =>
    have hlast : c.setBytes a (l ++ [b]) = (c.setBytes a l).setByte (a + l.length) b := by
      simp [CoreCtx.setBytes, List.zipIdx_append]
    rw [hlast, byte_setByte, ih, List.length_append, List.length_singleton]
    by_cases hx : x = a + l.length
    · rw [if_pos hx, if_pos (by omega), hx, Nat.add_sub_cancel_left]
      simp
    · rw [if_neg hx]
      refine if_ctx_congr (by omega) (fun h => ?_) fun _ => rfl
      rw [List.getD_append _ _ _ _ (by omega)]

theorem bytes_setBytes (c : CoreCtx) (a : Nat) (l : List Byte) : (c.setBytes a l).bytes a l.length = l := by
  refine List.ext_getElem (by simp [CoreCtx.bytes]) fun i h₁ h₂ => ?_
  simp [CoreCtx.bytes, byte_setBytes, h₂]

theorem bytes_setBytes_apart (c : CoreCtx) {a b n : Nat} {l : List Byte} (h : b + n ≤ a ∨ a + l.length ≤ b) :
    (c.setBytes a l).bytes b n = c.bytes b n := by
  refine List.map_congr_left fun i hi => ?_
  rw [byte_setBytes, if_neg (by have := List.mem_range.mp hi; omega)]

/-! ## Words that the unit reads (R181) -/

/-- Among the bytes that the unit has read, byte i of a word is the one of the scratchpad. -/
def HasByte (s : State) (ctx : Bool) (p : Nat × Nat) (i : Nat) (m : SMap Byte) : Prop :=
  SMap.get 0 m (p.1 * 2 ^ 18 + p.2 + i) = (s.coreCtx p.1 ctx).byte (p.2 + i)

section
variable {s : State} {ctx : Bool} {p : Nat × Nat}

/-- A sound word is read as it stands. -/
theorem readWord_sound (h : (s.coreCtx p.1 ctx).badIn [p.2] 8 = []) (m : SMap Byte) : s.readWord ctx m p
    = (List.range 8).foldl (fun m i => SMap.set 0 m (p.1 * 2 ^ 18 + p.2 + i) ((s.coreCtx p.1 ctx).byte (p.2 + i))) m := by
  unfold State.readWord
  dsimp only
  rw [h, zipIdx_bytes, List.foldl_map]
  rfl

/-- Within the scratchpad, bytes of different cores have different places. -/
theorem hasByte_set {m : SMap Byte} {q : Nat × Nat} {i j : Nat} (hp : p.2 + 8 ≤ 0x30000) (hq : q.2 + 8 ≤ 0x30000) (hi : i < 8)
    (hj : j < 8) (hm : HasByte s ctx p i m) :
    HasByte s ctx p i (SMap.set 0 m (q.1 * 2 ^ 18 + q.2 + j) ((s.coreCtx q.1 ctx).byte (q.2 + j))) := by
  rw [HasByte, SMap.get_set]
  split
  next hkey =>
    have hcore : q.1 = p.1 := by omega
    have haddr : q.2 + j = p.2 + i := by omega
    rw [hcore, haddr]
  next => exact hm

variable {l : List (Nat × Nat)} (hl : ∀ p ∈ l, p.2 + 8 ≤ 0x30000 ∧ (s.coreCtx p.1 ctx).badIn [p.2] 8 = [])
include hl

theorem hasByte_readWords (hp : p ∈ l) {i : Nat} (hi : i < 8) (m : SMap Byte) : HasByte s ctx p i (l.foldl (s.readWord ctx) m) := by
  obtain ⟨hlow, hsound⟩ := hl p hp
  refine foldl_establishes (Q := HasByte s ctx p i) hp (fun m => ?_) (fun m q hq hm => ?_) m
  · rw [readWord_sound hsound]
    refine foldl_establishes (Q := HasByte s ctx p i) (List.mem_range.mpr hi) (fun m => ?_) (fun m j hj hm => ?_) m
    · exact SMap.get_set_same _ _ _ _
    · exact hasByte_set hlow hlow hi (List.mem_range.mp hj) hm
  · obtain ⟨hqlow, hqsound⟩ := hl q hq
    rw [readWord_sound hqsound]
    exact List.foldlRecOn (motive := HasByte s ctx p i) _ _ hm fun m hm j hj => hasByte_set hlow hqlow hi (List.mem_range.mp hj) hm

/-- Sound words leave no record. -/
theorem readWords_sound {q : MatrixCmd} (hq : q.ctx = ctx) (m : SMap Byte) :
    s.readWords q m l = (s, l.foldl (s.readWord q.ctx) m) := by
  subst hq
  have hscrub : l.foldl (fun (s : State) p => s.spadScrubFor ⟨q.pc.toNat, 0, q.thr⟩ p.1 q.ctx p.2 8) s = s :=
    List.foldlRecOn (motive := fun t => t = s) l _ rfl fun t ht p hp => by
      rw [ht, State.spadScrubFor, (hl p hp).2]
      rfl
  rw [State.readWords, hscrub]

end

/-- What a word that went bad changes of the core contexts: its block is POISON, and it is marked no more (R103). -/
theorem badWord_ctxs (s : State) (core : Nat) (ctx : Bool) (unit pc cause thr w : Nat) :
    (s.badWord core ctx unit pc cause thr w).ctxs = (s.setCoreCtx core ctx { (s.coreCtx core ctx).setTag (w * 8) poisonTag with
      badWords := (s.coreCtx core ctx).badWords.filter fun v => v != w }).ctxs := by
  have hown : ∀ (d : Nat) (s : State) (n : Nat) (b : Bool), OnlyReports s
      (if unit = 0 then s else s.hwError (s.partOf core) ctx unit 1 core (w * 8) d pc cause thr n b) := fun d s n b => by
    split <;> rfl
  have hreports := fun t d => OnlyReports.errorWith t (hown d) (.bank core (bankOfWord w)) 1 (w * 8) d
  unfold State.badWord
  dsimp only
  rw [hreports]

/-! ## Words that the unit stores (R103, R188, R197) -/

section
variable (c : CoreCtx) (keep : Bool) (w : UnitStore)

theorem byte_unitStore (x : Nat) : (c.unitStore keep w).byte x
    = if w.addr ≤ x ∧ x < w.addr + w.bytes.length then w.bytes.getD (x - w.addr) 0 else c.byte x := by
  cases ht : w.tag with
  | none =>
    rw [← byte_store c w.addr x w.bytes false]
    unfold CoreCtx.unitStore
    rw [ht]
    rfl
  | some t =>
    rw [← byte_setBytes]
    unfold CoreCtx.unitStore
    rw [ht]
    dsimp only
    split <;> rfl

/-- A POISON block keeps its tag. -/
theorem tag_unitStore {t : BitVec 16} (ht : w.tag = some t) :
    (c.unitStore true w).tag w.addr = if tagPoison (c.tag w.addr) then c.tag w.addr else t := by
  have hold : (c.setBytes w.addr w.bytes).tag w.addr = c.tag w.addr := by
    rw [setBytes_eq]
    rfl
  unfold CoreCtx.setBytes at hold
  unfold CoreCtx.unitStore
  rw [ht]
  dsimp only
  rw [hold, Bool.true_and]
  split
  · exact hold
  · exact (tag_setTag _ _ _ _).trans (if_pos rfl)

end

/-- Some stores one after the other, of the context of an operation. -/
def State.unitStores (s : State) (ctx : Bool) (l : List UnitStore) : State :=
  l.foldl (fun (s : State) w => s.setCoreCtx w.core ctx ((s.coreCtx w.core ctx).unitStore true w)) s

theorem unitStores_device (s : State) (ctx : Bool) (l : List UnitStore) :
    s.unitStores ctx l = { s with ctxs := (s.unitStores ctx l).ctxs } :=
  List.foldlRecOn (motive := fun t : State => t = { s with ctxs := t.ctxs }) l _ rfl fun _ ht w _ =>
    (congrArg (fun t : State => t.setCoreCtx w.core ctx ((t.coreCtx w.core ctx).unitStore true w)) ht).trans rfl

/-- A byte that none of them covers stays. -/
theorem byte_unitStores_apart {s : State} {ctx : Bool} {l : List UnitStore} {core : Nat} {x : Bool} {a : Nat}
    (h : ∀ w ∈ l, core ≠ w.core ∨ x ≠ ctx ∨ a < w.addr ∨ w.addr + w.bytes.length ≤ a) :
    ((s.unitStores ctx l).coreCtx core x).byte a = (s.coreCtx core x).byte a := by
  refine List.foldlRecOn (motive := fun t : State => (t.coreCtx core x).byte a = (s.coreCtx core x).byte a) l _ rfl fun t ht w hw => ?_
  rw [coreCtx_setCoreCtx]
  split
  next hkey =>
    have hsame : core = w.core ∧ x = ctx := by
      unfold ctxKey at hkey
      revert hkey
      cases x <;> cases ctx <;> simp <;> omega
    rw [byte_unitStore, if_neg (by have := h w hw; simp only [hsame.1, hsame.2, ne_eq, not_true_eq_false, false_or] at this; omega),
      ← ht, coreCtx_of_ctxKey t hkey]
  next => exact ht

/-! ## The service goes on (R174) -/

section
variable {s : State} {quad : Nat} {q : MatrixCmd} (hq : (s.quad quad).service = some q)
include hq

theorem matrixOpDone_reads (hr : (s.quad quad).stage = .reading) (ht : (s.quad quad).todo ≠ []) : exec (.matrixOpDone quad) s
    = .next ((s.readWords q (s.quad quad).got (s.someOf (s.quad quad).todo).1).1.setQuad quad { s.quad quad with
        todo := (s.someOf (s.quad quad).todo).2
        got := (s.readWords q (s.quad quad).got (s.someOf (s.quad quad).todo).1).2 }) := by
  change execMatrixOpDone quad s = _
  unfold execMatrixOpDone
  extract_lets u
  have hservice : u.service = some q := hq
  have hstage : u.stage = .reading := hr
  rw [hservice]
  dsimp only
  rw [hstage]
  exact if_neg (by simpa using ht)

theorem matrixOpDone_stores (hw : (s.quad quad).stage = .writing) (ho : (s.quad quad).outs ≠ []) : exec (.matrixOpDone quad) s
    = .next ((s.setQuad quad { s.quad quad with outs := (s.someOf (s.quad quad).outs).2 }).unitStores q.ctx
        (s.someOf (s.quad quad).outs).1) := by
  change execMatrixOpDone quad s = _
  unfold execMatrixOpDone
  extract_lets u
  have hservice : u.service = some q := hq
  have hstage : u.stage = .writing := hw
  rw [hservice]
  dsimp only
  rw [hstage]
  exact if_neg (by simpa using ho)

/-- Sound words: each word to be read is read as it stands, or is still to be read. -/
theorem reads_sound (hr : (s.quad quad).stage = .reading) (ht : (s.quad quad).todo ≠ [])
    (hs : ∀ p ∈ (s.quad quad).todo, p.2 + 8 ≤ 0x30000 ∧ (s.coreCtx p.1 q.ctx).badIn [p.2] 8 = []) :
    ∃ t, exec (.matrixOpDone quad) s = .next t ∧ t = { s with quads := t.quads }
      ∧ (t.quad quad).service = some q ∧ (t.quad quad).todo.length < (s.quad quad).todo.length
      ∧ ∀ p ∈ (s.quad quad).todo, p ∈ (t.quad quad).todo ∨ (t.quad quad).bytes p.1 p.2 8 = (s.coreCtx p.1 q.ctx).bytes p.2 8 := by
  have hsome : ∀ p ∈ (s.someOf (s.quad quad).todo).1, p.2 + 8 ≤ 0x30000 ∧ (s.coreCtx p.1 q.ctx).badIn [p.2] 8 = [] :=
    fun p hp => hs p ((mem_someOf s ht).mpr (.inl hp))
  have hreads := matrixOpDone_reads hq hr ht
  rw [readWords_sound hsome rfl] at hreads
  refine ⟨_, hreads, rfl, ?_, ?_, fun p hp => ?_⟩
  all_goals rw [quad_setQuad_same]
  · exact hq
  · exact length_someOf_rest s ht
  · obtain hp | hp := (mem_someOf s ht).mp hp
    · exact .inr (List.map_congr_left fun i hi => hasByte_readWords hsome hp (List.mem_range.mp hi) _)
    · exact .inl hp

/-- One word that has gone bad. -/
theorem reads_bad {p : Nat × Nat} {w : Nat} (hr : (s.quad quad).stage = .reading) (ht : (s.quad quad).todo = [p])
    (hbad : (s.coreCtx p.1 q.ctx).badIn [p.2] 8 = [w]) :
    ∃ t, exec (.matrixOpDone quad) s = .next t ∧ tagPoison ((t.coreCtx p.1 q.ctx).tag (w * 8)) = true
      ∧ w ∉ (t.coreCtx p.1 q.ctx).badWords ∧ (t.quad quad).todo = [] ∧ t.threads = s.threads := by
  have hreads := matrixOpDone_reads hq hr (by rw [ht]; exact List.cons_ne_nil _ _)
  rw [ht, someOf_singleton] at hreads
  have hscrub : ∀ m, (s.readWords q m [p]).1 = s.badWord p.1 q.ctx 3 q.pc.toNat 0 q.thr w := fun m => by
    change s.spadScrubFor _ _ _ _ _ = _
    rw [State.spadScrubFor, hbad]
    rfl
  have hctx : (s.badWord p.1 q.ctx 3 q.pc.toNat 0 q.thr w).coreCtx p.1 q.ctx = { (s.coreCtx p.1 q.ctx).setTag (w * 8) poisonTag with
      badWords := (s.coreCtx p.1 q.ctx).badWords.filter fun v => v != w } := by
    rw [State.coreCtx, badWord_ctxs]
    exact coreCtx_setCoreCtx_same _ _ _ _
  refine ⟨_, hreads, ?_, ?_, congrArg Quad.todo (quad_setQuad_same _ _ _), ?_⟩
  · rw [coreCtx_setQuad, hscrub, hctx]
    exact (congrArg tagPoison ((tag_setTag (s.coreCtx p.1 q.ctx) (w * 8) (w * 8) poisonTag).trans (if_pos rfl))).trans (by decide)
  · rw [coreCtx_setQuad, hscrub, hctx]
    simp
  · rw [State.setQuad_threads, hscrub]
    exact (badWord_threads _ _ _ _ _ _ _ _).1

theorem stores_some (hw : (s.quad quad).stage = .writing) (ho : (s.quad quad).outs ≠ []) :
    ∃ t, exec (.matrixOpDone quad) s = .next t ∧ t = { s with quads := t.quads, ctxs := t.ctxs }
      ∧ (t.quad quad).service = some q ∧ (t.quad quad).outs.length < (s.quad quad).outs.length
      ∧ (∀ core ctx a, (∀ w ∈ (s.quad quad).outs, core ≠ w.core ∨ ctx ≠ q.ctx ∨ a < w.addr ∨ w.addr + w.bytes.length ≤ a) →
        (t.coreCtx core ctx).byte a = (s.coreCtx core ctx).byte a)
      ∧ ∀ w, (s.quad quad).outs = [w] → (t.quad quad).outs = [] ∧ (t.coreCtx w.core q.ctx).bytes w.addr w.bytes.length = w.bytes
        ∧ ∀ tag, w.tag = some tag → (t.coreCtx w.core q.ctx).tag w.addr
          = if tagPoison ((s.coreCtx w.core q.ctx).tag w.addr) then (s.coreCtx w.core q.ctx).tag w.addr else tag := by
  have hdevice := unitStores_device (s.setQuad quad { s.quad quad with outs := (s.someOf (s.quad quad).outs).2 }) q.ctx
    (s.someOf (s.quad quad).outs).1
  have hunit : ((s.setQuad quad { s.quad quad with outs := (s.someOf (s.quad quad).outs).2 }).unitStores q.ctx
      (s.someOf (s.quad quad).outs).1).quad quad = { s.quad quad with outs := (s.someOf (s.quad quad).outs).2 } := by
    rw [hdevice]
    exact quad_setQuad_same _ _ _
  refine ⟨_, matrixOpDone_stores hq hw ho, ?_, ?_, ?_, fun core ctx a ha => ?_, fun w hone => ?_⟩
  · rw [hdevice]
    rfl
  · rw [hunit]
    exact hq
  · rw [hunit]
    exact length_someOf_rest s ho
  · exact byte_unitStores_apart fun w hw => ha w ((mem_someOf s ho).mpr (.inl hw))
  · have hsome := someOf_singleton s w
    have hctx : (((s.setQuad quad { s.quad quad with outs := (s.someOf (s.quad quad).outs).2 }).unitStores q.ctx
        (s.someOf (s.quad quad).outs).1).coreCtx w.core q.ctx) = (s.coreCtx w.core q.ctx).unitStore true w := by
      rw [hone, hsome]
      exact coreCtx_setCoreCtx_same _ _ _ _
    rw [hctx, hunit]
    refine ⟨by rw [hone, hsome], ?_, fun tag ht => tag_unitStore _ _ ht⟩
    refine List.ext_getElem (by simp [CoreCtx.bytes]) fun i h₁ h₂ => ?_
    simp [CoreCtx.bytes, byte_unitStore, h₂]

end

theorem matrixWordsGoByTurns : MatrixWordsGoByTurns :=
  fun _ _ _ hq => ⟨reads_sound hq, fun _ _ => reads_bad hq, stores_some hq⟩

end Sys2Proof.Machine
end

section
/-!
PROOF. What an operation of the matrix unit computes (12 R176, R183, R188, R189): the accumulators, the counters and generators beside
them, and what each operation leaves there and still has to store.
-/
namespace Sys2Proof.Machine
open Sys2Proof.Claims

/-! ## What a performance changes -/

/-- Accumulators, counters, generators and thresholds differ, and nothing else of a core context. -/
def OnlyUnit (c d : CoreCtx) : Prop := d = { c with acc := d.acc, counters := d.counters, gens := d.gens, mxthr := d.mxthr }

namespace OnlyUnit

theorem refl (c : CoreCtx) : OnlyUnit c c := rfl
theorem trans {c d e : CoreCtx} (h : OnlyUnit c d) (k : OnlyUnit d e) : OnlyUnit c e := by
  unfold OnlyUnit at *
  rw [k, h]
theorem fold {α : Type} {f : CoreCtx → α → CoreCtx} (hf : ∀ c a, OnlyUnit c (f c a)) (l : List α) (c : CoreCtx) :
    OnlyUnit c (l.foldl f c) :=
  List.foldlRecOn (motive := OnlyUnit c) l f (refl c) fun d hd a _ => hd.trans (hf d a)

variable {c d : CoreCtx} (h : OnlyUnit c d)
include h

theorem byte (a : Nat) : d.byte a = c.byte a := by
  rw [h]
  rfl
theorem tag (a : Nat) : d.tag a = c.tag a := by
  rw [h]
  rfl

end OnlyUnit

/-- The same for a state: only core contexts differ, and of them only what belongs to the unit. -/
def OnlyUnits (s t : State) : Prop := t = { s with ctxs := t.ctxs } ∧ ∀ core ctx, OnlyUnit (s.coreCtx core ctx) (t.coreCtx core ctx)

theorem onlyUnits_refl (s : State) : OnlyUnits s s := ⟨rfl, fun _ _ => rfl⟩
theorem onlyUnits_setCoreCtx {s : State} {core : Nat} {ctx : Bool} {c : CoreCtx} (h : OnlyUnit (s.coreCtx core ctx) c) :
    OnlyUnits s (s.setCoreCtx core ctx c) := by
  refine ⟨rfl, fun d x => ?_⟩
  rw [coreCtx_setCoreCtx]
  split
  next hkey => rwa [coreCtx_of_ctxKey s hkey]
  next => rfl

/-- R174, R181: an operation that has read its operands is performed whole. -/
theorem matrixOpDone_performs {s s' : State} {quad : Nat} {q : MatrixCmd} {v : Word} {x : Option (Nat × Nat)} {outs : List UnitStore}
    (h : HasRead s quad q) (hp : s.perform (s.quad quad) q = (s', v, x, outs)) (hs : OnlyUnits s s') :
    ∃ t, exec (.matrixOpDone quad) s = .next t ∧ Performed s t quad q v outs ∧ ctxOf t q = ctxOf s' q := by
  obtain ⟨hq, hr, ht⟩ := h
  obtain ⟨hdevice, hctx⟩ := hs
  have hexec : exec (.matrixOpDone quad) s = .next (s'.setQuad quad { (s.quad quad).emptied q with
      service := some { q with status := v, cross := x }, stage := .writing, outs := outs }) := by
    change execMatrixOpDone quad s = _
    unfold execMatrixOpDone
    extract_lets u
    have hservice : u.service = some q := hq
    have hstage : u.stage = .reading := hr
    have hperform : s.perform u q = (s', v, x, outs) := hp
    have htodo : u.todo = [] := ht
    rw [hservice]
    dsimp only
    rw [hstage]
    refine (if_pos (by rw [htodo]; rfl)).trans ?_
    rw [hperform]
  refine ⟨_, hexec, ⟨?_, ?_, ?_, ?_, ⟨fun core ctx a => (hctx core ctx).byte a, fun core ctx a => (hctx core ctx).tag a⟩, ?_⟩, rfl⟩
  · exact ⟨x, congrArg Quad.service (quad_setQuad_same _ _ _)⟩
  · exact congrArg Quad.stage (quad_setQuad_same _ _ _)
  · exact congrArg Quad.outs (quad_setQuad_same _ _ _)
  · rw [hdevice]
    exact ⟨fun _ => rfl, fun _ => rfl⟩
  · rw [hdevice]
    rfl

/-- The same where one core context is written. -/
theorem matrixOpDone_sets {s : State} {quad : Nat} {q : MatrixCmd} {c : CoreCtx} {v : Word} {x : Option (Nat × Nat)}
    {outs : List UnitStore} (h : HasRead s quad q)
    (hp : s.perform (s.quad quad) q = (s.setCoreCtx q.core q.ctx c, v, x, outs)) (hc : OnlyUnit (ctxOf s q) c) :
    ∃ t, exec (.matrixOpDone quad) s = .next t ∧ Performed s t quad q v outs ∧ ctxOf t q = c := by
  obtain ⟨t, ht, hperf, hctx⟩ := matrixOpDone_performs h hp (onlyUnits_setCoreCtx hc)
  exact ⟨t, ht, hperf, hctx.trans (coreCtx_setCoreCtx_same _ _ _ _)⟩

/-! ## Accumulators (R176) -/

theorem readAcc_of_acc {c d : CoreCtx} (h : d.acc = c.acc) (accf : Bool) (slot i j : Nat) :
    d.readAcc accf slot i j = c.readAcc accf slot i j := by
  unfold CoreCtx.readAcc CoreCtx.half
  rw [h]

/-- An FP32 accumulator reads as written, in 32 bits. -/
theorem readAcc_writeAcc_same (c : CoreCtx) (slot i j n : Nat) :
    (c.writeAcc false slot i j n).readAcc false slot i j = n % 2 ^ 32 := by
  have hnext : ∀ a : Nat, (a + 2) / 2 = a / 2 + 1 := fun a => by omega
  simp only [CoreCtx.readAcc, CoreCtx.writeAcc, CoreCtx.half, hnext, SMap.get_set, Bool.false_eq_true, if_false, if_true,
    Nat.succ_ne_self, (Nat.succ_ne_self _).symm, BitVec.toNat_ofNat]
  omega

/-- Elements of one slot have places of their own. -/
theorem readAcc_writeAcc_other (c : CoreCtx) {slot i j k l : Nat} (n : Nat) (hj : j < 128) (hl : l < 128) (h : k ≠ i ∨ l ≠ j) :
    (c.writeAcc false slot k l n).readAcc false slot i j = c.readAcc false slot i j := by
  have hlow : accAt false slot i j / 2 ≠ accAt false slot k l / 2 ∧ accAt false slot i j / 2 ≠ accAt false slot k l / 2 + 1
      ∧ (accAt false slot i j + 2) / 2 ≠ accAt false slot k l / 2
      ∧ (accAt false slot i j + 2) / 2 ≠ accAt false slot k l / 2 + 1 := by
    simp only [accAt, Bool.false_eq_true, if_false]
    omega
  obtain ⟨h1, h2, h3, h4⟩ := hlow
  simp only [CoreCtx.readAcc, CoreCtx.writeAcc, CoreCtx.half, SMap.get_set, Bool.false_eq_true, if_false, h1, h2, h3, h4]

theorem onlyUnit_setCounter (c : CoreCtx) (k : Nat) (n : Counters) : OnlyUnit c (c.setCounter k n) := rfl
theorem onlyUnit_writeAcc (c : CoreCtx) (accf : Bool) (slot i j n : Nat) : OnlyUnit c (c.writeAcc accf slot i j n) := rfl

/-! ## ACZ (R188) -/

theorem get_filter_key {α : Type} (d : α) (m : SMap α) (f : Nat → Bool) (n : Nat) :
    SMap.get d (m.filter fun p => f p.1) n = if f n then SMap.get d m n else d := by
  induction m with
  | nil => simp
  | cons p m ih =>
    obtain ⟨k, v⟩ := p
    rw [List.filter_cons, SMap.get_cons]
    dsimp only
    by_cases hk : n = k
    · subst hk
      by_cases hf : f n = true
      · rw [if_pos hf, SMap.get_cons, if_pos rfl, if_pos hf, if_pos rfl]
      · rw [if_neg hf, ih, if_neg hf, if_neg hf]
    · rw [if_neg hk, ← ih]
      split
      · rw [SMap.get_cons, if_neg hk]
      · rfl

section
variable (c : CoreCtx) (m : MatMod)

theorem acc_foldl_setCounter {f : CoreCtx → Nat → Counters} (l : List Nat) :
    (l.foldl (fun c k => c.setCounter k (f c k)) c).acc = c.acc :=
  List.foldlRecOn (motive := fun d : CoreCtx => d.acc = c.acc) l _ rfl fun _ hd _ _ => hd

theorem onlyUnit_zeroSlot : OnlyUnit c (c.zeroSlot m) :=
  OnlyUnit.trans (d := { c with acc := _ }) rfl (OnlyUnit.fold (fun c k => onlyUnit_setCounter c k _) _ _)

/-- The elements of a slot, in halves of a word. -/
theorem half_zeroSlot (a : Nat) : (c.zeroSlot m).half a
    = if accAt m.accf m.slot.val 0 0 / 2 ≤ a / 2 ∧ a / 2 < accAt m.accf m.slot.val 0 0 / 2 + (if m.accf then 8192 else 16384) then 0
      else c.half a := by
  unfold CoreCtx.zeroSlot CoreCtx.half
  dsimp only
  rw [acc_foldl_setCounter, get_filter_key 0 c.acc fun k => !decide (accAt m.accf m.slot.val 0 0 / 2 ≤ k
    ∧ k < accAt m.accf m.slot.val 0 0 / 2 + if m.accf then 8192 else 16384)]
  simp only [Bool.not_eq_true', decide_eq_false_iff_not, ite_not]

theorem readAcc_zeroSlot {i j : Nat} (hi : i < 64) (hj : j < 128) : (c.zeroSlot m).readAcc m.accf m.slot.val i j = 0 := by
  simp only [CoreCtx.readAcc, half_zeroSlot, accAt]
  cases m.accf
  · simp only [Bool.false_eq_true, if_false]
    rw [if_pos (by omega), if_pos (by omega)]
    rfl
  · simp only [if_true]
    rw [if_pos (by omega)]
    rfl

theorem readAcc_zeroSlot_other {k i j : Nat} (hk : k ≠ m.slot.val) (hi : i < 64) (hj : j < 128) :
    (c.zeroSlot m).readAcc m.accf k i j = c.readAcc m.accf k i j := by
  simp only [CoreCtx.readAcc, half_zeroSlot, accAt]
  cases m.accf
  · simp only [Bool.false_eq_true, if_false]
    rw [if_neg (by omega), if_neg (by omega)]
  · simp only [if_true]
    rw [if_neg (by omega)]

end

/-! ## MMA (R183) -/

section
variable (c : CoreCtx) (slot : Nat)

/-- An FP32 accumulator takes a sum as `accumulated` says, whatever else is counted. -/
theorem accumulate_eq (i col : Nat) (sum : FVal) : ∃ d : CoreCtx, d.acc = c.acc ∧ OnlyUnit c d
    ∧ c.accumulate false slot i col sum = d.writeAcc false slot i col (accumulated (c.readAcc false slot i col) sum) := by
  unfold CoreCtx.accumulate accumulated
  simp only [Bool.false_eq_true, if_false]
  split
  next hnan => exact ⟨c.setCounter (accSet false slot) _, rfl, rfl, congrArg _ (if_neg (by simp [hnan])).symm⟩
  next hnan =>
    rw [Bool.not_eq_true] at hnan
    split
    next hinf => exact ⟨c.setCounter (accSet false slot) _, rfl, rfl, congrArg _ (if_pos ⟨hnan, hinf⟩).symm⟩
    next hinf => exact ⟨c, rfl, rfl, congrArg _ (if_neg fun h => hinf h.2).symm⟩

theorem onlyUnit_accumulate (i col : Nat) (sum : FVal) : OnlyUnit c (c.accumulate false slot i col sum) := by
  obtain ⟨d, -, hd, he⟩ := accumulate_eq c slot i col sum
  rw [he]
  exact hd.trans (onlyUnit_writeAcc _ _ _ _ _ _)

theorem readAcc_accumulate_same (i col : Nat) (sum : FVal) : (c.accumulate false slot i col sum).readAcc false slot i col
    = accumulated (c.readAcc false slot i col) sum % 2 ^ 32 := by
  obtain ⟨d, -, -, he⟩ := accumulate_eq c slot i col sum
  rw [he, readAcc_writeAcc_same]

theorem readAcc_accumulate_other {i j k l : Nat} (sum : FVal) (hj : j < 128) (hl : l < 128) (h : k ≠ i ∨ l ≠ j) :
    (c.accumulate false slot k l sum).readAcc false slot i j = c.readAcc false slot i j := by
  obtain ⟨d, hacc, -, he⟩ := accumulate_eq c slot k l sum
  rw [he, readAcc_writeAcc_other _ _ hj hl h, readAcc_of_acc hacc]

theorem onlyUnit_product (col0 m n kc chunks : Nat) (a b : Nat → Nat → FVal) :
    OnlyUnit c (c.product false slot col0 m n kc chunks a b) :=
  OnlyUnit.fold (fun c _ => OnlyUnit.fold (fun c _ => OnlyUnit.fold (fun c _ => onlyUnit_accumulate c slot _ _ _) _ c) _ c) _ c

section
variable {col0 m n : Nat} (hcol : col0 + n ≤ 128) (kc : Nat) (a b : Nat → Nat → FVal)
include hcol

/-- One chunk: each element of the product takes its own dot product, once. -/
theorem readAcc_product {i j : Nat} (hi : i < m) (hj : j < n) :
    (c.product false slot col0 m n kc 1 a b).readAcc false slot i (col0 + j)
      = accumulated (c.readAcc false slot i (col0 + j)) (dotChunk (a i) (b j) 0 kc) % 2 ^ 32 := by
  refine foldl_grid (P := fun d : CoreCtx => d.readAcc false slot i (col0 + j) = c.readAcc false slot i (col0 + j))
    (Q := fun d : CoreCtx => d.readAcc false slot i (col0 + j) = accumulated (c.readAcc false slot i (col0 + j)) (dotChunk (a i) (b j) 0 kc) % 2 ^ 32)
    hi hj (fun d i' j' _ hj' hne hd => ?_) (fun d hd => ?_) (fun d i' j' _ hj' hne hd => ?_) rfl
  · exact (readAcc_accumulate_other d slot _ (by omega) (by omega) (by omega)).trans hd
  · rw [readAcc_accumulate_same, hd, Nat.zero_mul]
  · exact (readAcc_accumulate_other d slot _ (by omega) (by omega) (by omega)).trans hd

theorem readAcc_product_outside {i j : Nat} (hj : j < 128) (ho : m ≤ i ∨ j < col0 ∨ col0 + n ≤ j) :
    (c.product false slot col0 m n kc 1 a b).readAcc false slot i j = c.readAcc false slot i j :=
  foldl_grid_keeps (P := fun d : CoreCtx => d.readAcc false slot i j = c.readAcc false slot i j)
    (fun d _ _ hi' hj' hd => (readAcc_accumulate_other d slot _ hj (by omega) (by omega)).trans hd) rfl

end

theorem onlyUnit_markQuarters (accf : Bool) (b : Bool) : OnlyUnit c (c.markQuarters accf slot b) :=
  OnlyUnit.fold (fun c k => onlyUnit_setCounter c k _) _ _
theorem acc_markQuarters (accf : Bool) (b : Bool) : (c.markQuarters accf slot b).acc = c.acc := acc_foldl_setCounter _ _

theorem onlyUnit_settle (before : CoreCtx) (accf : Bool) (big : Nat) (b : Bool) : OnlyUnit c (before.settle c accf slot big b).1 :=
  OnlyUnit.trans (d := c.setCounter _ _) rfl (onlyUnit_markQuarters _ _ _ _)
theorem acc_settle (before : CoreCtx) (accf : Bool) (big : Nat) (b : Bool) : (before.settle c accf slot big b).1.acc = c.acc :=
  acc_markQuarters _ _ _ _

end

theorem chunkOf_pos (f : Nat) : 0 < chunkOf f := by
  unfold chunkOf
  split <;> decide

/-! ## ACLD (R188) -/

theorem elemBits_lt (t : BitVec 16) (l : List Byte) : elemBits t l < 256 ^ l.length := by
  unfold elemBits
  split
  · exact Nat.pow_pos (by decide)
  · split
    · have h := bytesToNat_lt (l.map fun _ => BitVec.ofNat 8 (tagScale t))
      rwa [List.length_map] at h
    · exact bytesToNat_lt l

/-- A tile loaded into an FP32 slot: element by element. -/
def CoreCtx.loadTile (c : CoreCtx) (slot col0 m n : Nat) (e : Nat → Nat → Nat) : CoreCtx :=
  (List.range m).foldl (fun c i => (List.range n).foldl (fun c j => c.writeAcc false slot i (col0 + j) (e i j)) c) c

theorem onlyUnit_loadTile (c : CoreCtx) (slot col0 m n : Nat) (e : Nat → Nat → Nat) : OnlyUnit c (c.loadTile slot col0 m n e) :=
  OnlyUnit.fold (fun c _ => OnlyUnit.fold (fun c _ => onlyUnit_writeAcc c _ _ _ _ _) _ c) _ c

theorem readAcc_loadTile (c : CoreCtx) (slot : Nat) {col0 m n i j : Nat} (hcol : col0 + n ≤ 128) (e : Nat → Nat → Nat) (hi : i < m)
    (hj : j < n) : (c.loadTile slot col0 m n e).readAcc false slot i (col0 + j) = e i j % 2 ^ 32 := by
  refine foldl_grid (P := fun _ => True) (Q := fun d : CoreCtx => d.readAcc false slot i (col0 + j) = e i j % 2 ^ 32) hi hj
    (fun _ _ _ _ _ _ _ => trivial) (fun d _ => ?_) (fun d i' j' _ _ hne hd => ?_) trivial
  · exact readAcc_writeAcc_same d _ _ _ _
  · exact (readAcc_writeAcc_other d _ (by omega) (by omega) (by omega)).trans hd

/-! ## ACST (R188) -/

/-- Where the elements and the words of an FP32 tile lie that is stored row by row without a swizzle (R178). -/
structure PlainTile (w : Word) : Prop where
  fmt : mwFmt w = 5
  row : mwOrd w = false
  swz : mwSwz w = false

section
variable {w : Word} (hw : PlainTile w)
include hw

theorem tileAt_plain (i j : Nat) : tileAt w i j = mwAddr w + i * mwPitch w + 4 * j := by
  simp [tileAt, hw.fmt, hw.row, hw.swz, fmtBytes, Nat.mul_comm 4]

theorem mem_tileWords_plain {m n a : Nat} :
    a ∈ tileWords w m n ↔ ∃ i < m, ∃ k < (n * 4 + 7) / 8, mwAddr w + i * mwPitch w + 8 * k = a := by
  simp [tileWords, tileRows, tileLen, hw.fmt, hw.row, hw.swz, fmtBytes, Nat.mul_comm 8]

end

/-- The bytes of a tile: each of its elements, one after the other. -/
def tileImage (w : Word) (m n : Nat) (e : Nat → Nat → List Byte) : CoreCtx :=
  (List.range m).foldl (fun t i => (List.range n).foldl (fun t j => t.setBytes (tileAt w i j) (e i j)) t) CoreCtx.initial

/-- Rows that do not reach into each other keep their elements apart. -/
theorem bytes_tileImage {w : Word} (hw : PlainTile w) {m n i j : Nat} (hpitch : 4 * n ≤ mwPitch w) {e : Nat → Nat → List Byte}
    (he : ∀ i j, (e i j).length = 4) (hi : i < m) (hj : j < n) :
    (tileImage w m n e).bytes (mwAddr w + i * mwPitch w + 4 * j) 4 = e i j := by
  refine foldl_grid (P := fun _ => True) (Q := fun t : CoreCtx => t.bytes (mwAddr w + i * mwPitch w + 4 * j) 4 = e i j) hi hj
    (fun _ _ _ _ _ _ _ => trivial) (fun t _ => ?_) (fun t i' j' hi' hj' hne ht => ?_) trivial
  · rw [tileAt_plain hw, ← he i j]
    exact bytes_setBytes _ _ _
  · refine (bytes_setBytes_apart t ?_).trans ht
    rw [tileAt_plain hw, he]
    obtain hlt | heq | hgt := Nat.lt_trichotomy i i'
    · have := Nat.mul_le_mul_right (mwPitch w) (Nat.succ_le_of_lt hlt)
      rw [Nat.succ_mul] at this
      omega
    · subst heq
      omega
    · have := Nat.mul_le_mul_right (mwPitch w) (Nat.succ_le_of_lt hgt)
      rw [Nat.succ_mul] at this
      omega

/-- The words of a tile that a unit stores, each with its tag. -/
def tileStores (core : Nat) (w : Word) (m n : Nat) (t : CoreCtx) (tag : BitVec 16) : List UnitStore :=
  (tileWords w m n).map fun a => ⟨core, a, t.bytes a 8, some tag⟩

section
variable {w : Word} (hw : PlainTile w) {m n : Nat} {core : Nat} {t : CoreCtx} {tag : BitVec 16}
include hw

/-- An element lies in one word of the tile. -/
theorem holds_tileStores {i j : Nat} (hi : i < m) (hj : j < n) :
    Holds (tileStores core w m n t tag) core (mwAddr w + i * mwPitch w + 4 * j) (t.bytes (mwAddr w + i * mwPitch w + 4 * j) 4) := by
  have hword : mwAddr w + i * mwPitch w + 8 * (j / 2) ∈ tileWords w m n :=
    (mem_tileWords_plain hw).mpr ⟨i, hi, j / 2, by omega, rfl⟩
  have hlen : ∀ a k, (t.bytes a k).length = k := fun a k => by simp [CoreCtx.bytes]
  refine ⟨⟨core, mwAddr w + i * mwPitch w + 8 * (j / 2), t.bytes _ 8, some tag⟩, List.mem_map_of_mem hword, rfl, ?_, ?_, ?_⟩
  · change mwAddr w + i * mwPitch w + 8 * (j / 2) ≤ _
    omega
  · rw [hlen, hlen]
    change _ ≤ mwAddr w + i * mwPitch w + 8 * (j / 2) + 8
    omega
  · have hat : mwAddr w + i * mwPitch w + 4 * j = mwAddr w + i * mwPitch w + 8 * (j / 2) + 4 * (j % 2) := by omega
    rw [hlen, hat, Nat.add_sub_cancel_left, drop_take_bytes _ _ (by omega)]

theorem mem_tileStores {x : UnitStore} (hx : x ∈ tileStores core w m n t tag) : x.core = core ∧ x.bytes.length = 8 ∧ x.tag = some tag
    ∧ ∃ i, i < m ∧ mwAddr w + i * mwPitch w ≤ x.addr ∧ x.addr < mwAddr w + i * mwPitch w + 4 * n := by
  obtain ⟨a, ha, rfl⟩ := List.mem_map.mp hx
  obtain ⟨i, hi, k, hk, rfl⟩ := (mem_tileWords_plain hw).mp ha
  refine ⟨rfl, by simp [CoreCtx.bytes], rfl, i, hi, Nat.le_add_right _ _, ?_⟩
  dsimp only
  omega

end

/-! ## MXSEED, MXTHR and MXSTAT (R189) -/

theorem gen_setGen (c : CoreCtx) (j k : Nat) (v : BitVec 32) : (c.setGen j v).gen k = if k = j then v else c.gen k := by
  unfold CoreCtx.gen CoreCtx.setGen
  dsimp only
  rw [SMap.get_set]
  split
  next h => rw [h, BitVec.xor_assoc, BitVec.xor_self, BitVec.xor_zero]
  next => rfl

theorem onlyUnit_setGen (c : CoreCtx) (j : Nat) (v : BitVec 32) : OnlyUnit c (c.setGen j v) := rfl
theorem onlyUnit_seed (c : CoreCtx) (seed : BitVec 32) : OnlyUnit c (c.seed seed) :=
  OnlyUnit.fold (fun c j => onlyUnit_setGen c j _) _ _

theorem gen_seed (c : CoreCtx) (seed : BitVec 32) {j : Nat} (hj : j < 128) :
    (c.seed seed).gen j = lfsrLoad (seed ^^^ BitVec.ofNat 32 j) := by
  refine foldl_once (P := fun _ => True) (Q := fun d : CoreCtx => d.gen j = lfsrLoad (seed ^^^ BitVec.ofNat 32 j)) List.nodup_range
    (List.mem_range.mpr hj) (fun _ _ _ _ _ => trivial) (fun d _ => ?_) (fun d k _ hne hd => ?_) trivial
  · exact (gen_setGen d _ _ _).trans (if_pos rfl)
  · exact (gen_setGen d _ _ _).trans ((if_neg hne.symm).trans hd)

theorem counters_word (n : Counters) :
    n.word = (n.bso.setWidth 64 <<< 32) ||| (n.nan.setWidth 64 <<< 16) ||| n.sat.setWidth 64 := by
  have hbso := n.bso.isLt
  have hnan := n.nan.isLt
  have hsat := n.sat.isLt
  have hsum : 0 + n.bso.toNat * 2 ^ 32 + n.nan.toNat * 2 ^ 16 + n.sat.toNat * 2 ^ 0
      = n.sat.toNat + n.nan.toNat * 2 ^ 16 + n.bso.toNat * 2 ^ 32 := by omega
  rw [Counters.word, packFields, foldl_field, foldl_field, foldl_field, List.foldl_nil, hsum, ofNat_add_field (k := 32) (by omega),
    ofNat_add_field (k := 16) (by omega), BitVec.ofNat_toNat, BitVec.ofNat_toNat, BitVec.ofNat_toNat, BitVec.or_assoc]

/-! ## The statements -/

section
variable {s : State} {quad : Nat} {q : MatrixCmd} (h : HasRead s quad q)
include h

theorem acz_performs {o : Fmt MatMod} (hi : q.instr = .acz o) : ∃ t, exec (.matrixOpDone quad) s = .next t ∧ Performed s t quad q 0 []
    ∧ ctxOf t q = (ctxOf s q).zeroSlot o.mod := by
  refine matrixOpDone_sets h (x := none) ?_ (onlyUnit_zeroSlot _ _)
  rw [State.perform, hi]
  rfl

theorem mma_performs {o : Fmt MatMod} (hi : q.instr = .mma o) (hview : o.mod.accf = false) (hcol : mxCol o.imm + mxN o.imm ≤ 128)
    (hk : mxK o.imm = chunkOf (mwFmt q.a)) : ∃ t, exec (.matrixOpDone quad) s = .next t ∧ Performed s t quad q 0 []
      ∧ (∀ i j, i < mxM o.imm → j < mxN o.imm → (ctxOf t q).readAcc false o.mod.slot.val i (mxCol o.imm + j)
        = accumulated ((ctxOf s q).readAcc false o.mod.slot.val i (mxCol o.imm + j)) (dotChunk ((s.quad quad).tileValue q.core q.a i)
            ((s.quad quad).tileValue q.core q.b j) 0 (mxK o.imm)) % 2 ^ 32)
      ∧ (∀ i j, i < 64 → j < 128 → (mxM o.imm ≤ i ∨ j < mxCol o.imm ∨ mxCol o.imm + mxN o.imm ≤ j) →
        (ctxOf t q).readAcc false o.mod.slot.val i j = (ctxOf s q).readAcc false o.mod.slot.val i j) := by
  have hchunks : mxK o.imm / chunkOf (mwFmt q.a) = 1 := by rw [hk, Nat.div_self (chunkOf_pos _)]
  have hunit := fun big b => (onlyUnit_product (ctxOf s q) o.mod.slot.val (mxCol o.imm) (mxM o.imm) (mxN o.imm) (chunkOf (mwFmt q.a)) 1
    ((s.quad quad).tileValue q.core q.a) ((s.quad quad).tileValue q.core q.b)).trans
    (onlyUnit_settle _ o.mod.slot.val (ctxOf s q) false big b)
  obtain ⟨t, ht, hperf, hctx⟩ := matrixOpDone_sets h (v := 0) (outs := [])
    (by rw [State.perform, hi]; dsimp only; rw [State.performMma, hview, hchunks]; rfl) (hunit _ _)
  refine ⟨t, ht, hperf, fun i j hi hj => ?_, fun i j _ hj ho => ?_⟩
  · rw [hctx, readAcc_of_acc (acc_settle _ _ _ _ _ _), readAcc_product _ _ hcol _ _ _ hi hj, hk]
  · rw [hctx, readAcc_of_acc (acc_settle _ _ _ _ _ _), readAcc_product_outside _ _ hcol _ _ _ hj ho]

theorem acld_performs {o : Fmt MatMod} (hi : q.instr = .acld o) (hview : o.mod.accf = false) (hf : mwFmt q.a = 5)
    (hcol : mxCol o.imm + mxN o.imm ≤ 128) : ∃ t, exec (.matrixOpDone quad) s = .next t ∧ Performed s t quad q 0 []
      ∧ ∀ i j, i < mxM o.imm → j < mxN o.imm → (ctxOf t q).readAcc false o.mod.slot.val i (mxCol o.imm + j)
        = elemBits ((s.quad quad).tag (tileCore q.core q.a) (tileAt q.a i j))
            ((s.quad quad).bytes (tileCore q.core q.a) (tileAt q.a i j) 4) := by
  have hunit := fun b => (onlyUnit_loadTile (ctxOf s q) o.mod.slot.val (mxCol o.imm) (mxM o.imm) (mxN o.imm) fun i j =>
    elemBits ((s.quad quad).tag (tileCore q.core q.a) (tileAt q.a i j))
      ((s.quad quad).bytes (tileCore q.core q.a) (tileAt q.a i j) 4)).trans (onlyUnit_markQuarters _ o.mod.slot.val false b)
  obtain ⟨t, ht, hperf, hctx⟩ := matrixOpDone_sets h (v := 0) (x := none) (outs := [])
    (by rw [State.perform, hi]; dsimp only; rw [State.performLoadTile, hview, hf]; rfl) (hunit _)
  refine ⟨t, ht, hperf, fun i j hi hj => ?_⟩
  rw [hctx, readAcc_of_acc (acc_markQuarters _ _ _ _), readAcc_loadTile _ _ hcol _ hi hj, Nat.mod_eq_of_lt]
  have hlt := elemBits_lt ((s.quad quad).tag (tileCore q.core q.a) (tileAt q.a i j))
    ((s.quad quad).bytes (tileCore q.core q.a) (tileAt q.a i j) 4)
  rwa [Quad.bytes, List.length_map, List.length_range] at hlt

theorem acst_performs {o : Fmt MatMod} (hi : q.instr = .acst o) (hview : o.mod.accf = false) (hw : PlainTile q.a)
    (hpitch : 4 * mxN o.imm ≤ mwPitch q.a) : ∃ t outs, exec (.matrixOpDone quad) s = .next t ∧ Performed s t quad q 0 outs
      ∧ (∀ i j, i < mxM o.imm → j < mxN o.imm → Holds outs (tileCore q.core q.a) (mwAddr q.a + i * mwPitch q.a + 4 * j)
        (natToBytes 4 ((ctxOf s q).readAcc false o.mod.slot.val i (mxCol o.imm + j))))
      ∧ ∀ w ∈ outs, w.core = tileCore q.core q.a ∧ w.bytes.length = 8 ∧ (∃ tag, w.tag = some tag ∧ (tag >>> 8).setWidth 7 = 5)
        ∧ ∃ i, i < mxM o.imm ∧ mwAddr q.a + i * mwPitch q.a ≤ w.addr ∧ w.addr < mwAddr q.a + i * mwPitch q.a + 4 * mxN o.imm := by
  have htag : ∀ b : Bool, (mkTag b 5 0 >>> 8).setWidth 7 = 5 := by decide
  obtain ⟨t, ht, hperf, -⟩ := matrixOpDone_performs h (v := 0) (x := none) (outs := tileStores (tileCore q.core q.a) q.a (mxM o.imm)
    (mxN o.imm) (tileImage q.a (mxM o.imm) (mxN o.imm) fun i j =>
      natToBytes 4 ((ctxOf s q).readAcc false o.mod.slot.val i (mxCol o.imm + j)))
    (mkTag ((accQuarters false o.mod.slot.val).any fun k => ((ctxOf s q).counter k).b) 5 0))
    (by rw [State.perform, hi]; dsimp only; rw [State.storeTileWords, hview, hw.fmt]; rfl) (onlyUnits_refl s)
  refine ⟨t, _, ht, hperf, fun i j hi hj => ?_, fun w hmem => ?_⟩
  · have hbytes := bytes_tileImage hw hpitch (e := fun i j =>
      natToBytes 4 ((ctxOf s q).readAcc false o.mod.slot.val i (mxCol o.imm + j))) (fun _ _ => length_natToBytes _ _) hi hj
    exact hbytes ▸ holds_tileStores hw hi hj
  · obtain ⟨hcore, hlen, htagged, hrow⟩ := mem_tileStores hw hmem
    exact ⟨hcore, hlen, ⟨_, htagged, htag _⟩, hrow⟩

theorem mxseed_performs {o : Fmt Unit} (hi : q.instr = .mxseed o) : ∃ t, exec (.matrixOpDone quad) s = .next t
    ∧ Performed s t quad q 0 [] ∧ ctxOf t q = (ctxOf s q).seed (q.a.setWidth 32) := by
  refine matrixOpDone_sets h (x := none) ?_ (onlyUnit_seed _ _)
  rw [State.perform, hi]
  rfl

theorem mxthr_performs {o : Fmt Unit} (hi : q.instr = .mxthr o) : ∃ t, exec (.matrixOpDone quad) s = .next t
    ∧ Performed s t quad q 0 [] ∧ (ctxOf t q).mxthr = (q.a.setWidth 48).setWidth 64 := by
  have hlow : BitVec.ofNat 64 (bits q.a.toNat 0 48) = (q.a.setWidth 48).setWidth 64 := by
    apply BitVec.eq_of_toNat_eq
    simp [bits]
  obtain ⟨t, ht, hperf, hctx⟩ := matrixOpDone_sets h (v := 0) (x := none) (outs := [])
    (c := { ctxOf s q with mxthr := BitVec.ofNat 64 (bits q.a.toNat 0 48) }) (by rw [State.perform, hi]; rfl) rfl
  exact ⟨t, ht, hperf, by rw [hctx, ← hlow]⟩

theorem mxstat_performs {o : Fmt ClrMod} (hi : q.instr = .mxstat o) : ∃ t, exec (.matrixOpDone quad) s = .next t
    ∧ Performed s t quad q ((ctxOf s q).counter (o.imm.toNat % 4)).word []
    ∧ (ctxOf t q).counter (o.imm.toNat % 4) = if o.mod.clr then ⟨0, 0, 0, ((ctxOf s q).counter (o.imm.toNat % 4)).b⟩
      else (ctxOf s q).counter (o.imm.toNat % 4) := by
  cases hclr : o.mod.clr with
  | true =>
    obtain ⟨t, ht, hperf, hctx⟩ := matrixOpDone_sets h (x := none) (outs := [])
      (by rw [State.perform, hi]; dsimp only; rw [hclr]; rfl) (OnlyUnit.refl _ : OnlyUnit _ (CoreCtx.setCounter _ _ _))
    refine ⟨t, ht, hperf, ?_⟩
    rw [hctx]
    exact SMap.get_set_same _ _ _ _
  | false =>
    obtain ⟨t, ht, hperf, hctx⟩ := matrixOpDone_performs h (x := none) (outs := [])
      (by rw [State.perform, hi]; dsimp only; rw [hclr]; rfl) (onlyUnits_refl s)
    exact ⟨t, ht, hperf, by rw [hctx]; rfl⟩

end

theorem matrixPerforms : MatrixPerforms := by
  intro s quad q h u
  refine ⟨fun o hi => ?acz, fun o hi hview _ hcol hk => mma_performs h hi hview hcol hk,
    fun o hi hview hf _ hcol => acld_performs h hi hview hf hcol,
    fun o hi hview hf hord hswz hpitch => acst_performs h hi hview ⟨hf, hord, hswz⟩ hpitch, fun o hi => ?mxseed,
    fun o hi => mxthr_performs h hi, fun o hi => ?mxstat⟩
  case acz =>
    obtain ⟨t, ht, hperf, hctx⟩ := acz_performs h hi
    refine ⟨t, ht, hperf, fun i j hi hj => ?_, fun k i j hk hi hj => ?_⟩
    · rw [hctx, readAcc_zeroSlot _ _ hi hj]
    · rw [hctx, readAcc_zeroSlot_other _ _ hk hi hj]
  case mxseed =>
    obtain ⟨t, ht, hperf, hctx⟩ := mxseed_performs h hi
    exact ⟨t, ht, hperf, fun j hj => by rw [hctx, gen_seed _ _ hj]⟩
  case mxstat =>
    obtain ⟨t, ht, hperf, hcount⟩ := mxstat_performs h hi
    have hword := counters_word ((ctxOf s q).counter (o.imm.toNat % 4))
    refine ⟨?_, t, ht, hword ▸ hperf, hcount⟩
    rw [State.startWord, hi]
    exact hword

/-- Settles O47: the unit turns to an operation as its blocks allow, its words go by turns that keep all others, and each operation
computes its elements one by one. -/
theorem matrixService : Obligations.MatrixService := ⟨matrixServiceBegins, matrixWordsGoByTurns, matrixPerforms⟩

end Sys2Proof.Machine
end

section
/-!
PROOF. The fill of the stream buffer (12 R187, 05 R295): while the table's entry for the handle of the next MMV lies behind a reserved
pseudo-channel, the fill leaves everything as it was, whatever that entry holds.
-/
namespace Sys2Proof.Machine
open Sys2Proof.Claims

/-- R295: the fill waits while the entry of its handle cannot be read. -/
theorem streamBufferFill_entryHeld {s : State} {n : Nat} {op : Op} {q : MatrixCmd} (hop : s.op n = some op)
    (hnext : s.nextStream (quadOf op.core) = some (n, q)) (hc : op.cancelled = false)
    (hheld : s.entryHeld (s.partOf q.core) q.ctx q.a = true) : exec (.streamBufferFill n) s = .next s := by
  change execStreamBufferFill n s = _
  unfold execStreamBufferFill
  rw [hop]
  dsimp only
  rw [hnext]
  dsimp only
  rw [if_neg (not_not_intro rfl), if_neg (by simp [hc]), if_pos hheld]

/-- An operation in flight has not resolved. -/
theorem not_resolves_next {s : State} {op o : Op} (h : s.op op.id = some o) (w : Word) : ¬ Resolves op w (.next s) := by
  rintro ⟨t, ht, hnone, -⟩
  cases ht
  cases h.symm.trans hnone

/-- An MMV of thread 0 of core 0 through handle 0, with operation 1: one vector of 32 elements of FP16, one row of weights. -/
def heldOp : Op := ⟨1, 0, false, 0, some (.x 1), false, 0, .matrix true⟩
def heldMmv : MatrixCmd where
  core := 0
  ctx := false
  thr := 0
  instr := .mmv ⟨⟨false, 0⟩, .x 1, .x 2, .x 3, .x 4, ⟨0, false⟩, 0⟩
  pc := 0
  a := 0
  b := 0x30_0100_0000
  c := 0x40_0101_0020
  op := some 1
  status := 0
  cross := none
/-- It is the next to fill, and the handle table of its context, at HTBASE 0, lies behind pseudo-channel 0, which is reserved. -/
def heldStream : State :=
  { (State.reset.setCoreCtx 0 false { CoreCtx.initial with dispatch := [heldMmv] }).setPch 0 { PseudoChannel.initial with rsv := true } with
    ops := [heldOp], nextOp := 2 }

theorem heldStream_op : heldStream.op 1 = some heldOp := by decide +kernel
theorem heldStream_next : heldStream.nextStream (quadOf heldOp.core) = some (1, heldMmv) := by decide +kernel
theorem heldStream_held : heldStream.entryHeld (heldStream.partOf heldMmv.core) heldMmv.ctx heldMmv.a = true := by decide +kernel
/-- Its entry has V = 0: the handle is revoked. -/
theorem heldStream_revoked : heV (heldStream.handleEntry (heldStream.partOf heldMmv.core) heldMmv.ctx heldMmv.a) = false := by
  decide +kernel

/-- Refutes O48: the statement asks of the handle's entry only that its codeword has no error (R82), not that its pseudo-channel is not
reserved (R295). In `heldStream` the handle is revoked and its entry cannot be read, so that the fill waits and nothing resolves. -/
theorem not_matrixEvents : ¬ Obligations.MatrixEvents := by
  intro h
  obtain ⟨-, -, hfill⟩ := h heldStream 0 1 heldMmv heldOp
  obtain ⟨-, hlive⟩ := hfill heldStream_op heldStream_next
  obtain ⟨hrevoked, -⟩ := hlive rfl nofun
  obtain ⟨c, hresolves⟩ := hrevoked heldStream_revoked
  rw [streamBufferFill_entryHeld heldStream_op heldStream_next rfl heldStream_held] at hresolves
  exact not_resolves_next heldStream_op _ hresolves

end Sys2Proof.Machine
end
